-- ==== Sys2Proof/Word.lean ====
section
/-!
DEFINITION. The words the model is written in: bytes, unit addresses (bibs), sparse tables.
-/

namespace Sys2Proof

/-- One byte, the unit of the scratchpad and of every message (R7). -/
abbrev Byte := BitVec 8

/-- A 12-bit unit address on the management chain (R13). -/
abbrev Bib := BitVec 12

/-- A table of values numbered by `Nat`. Only the entries that differ from the table's default are
listed, in strictly rising order, so that equal tables are equal lists. -/
abbrev Tab (α : Type) := List (Nat × α)

/-- A number written as a bit vector of width `w`, its high bits dropped. -/
abbrev wordOf (w n : Nat) : BitVec w := BitVec.ofNat w n

/-- Bits `lo` to `lo + w - 1` of a word. -/
abbrev bitsAt {n : Nat} (x : BitVec n) (lo w : Nat) : BitVec w := x.extractLsb' lo w

/-- Bit `i` of a word as a truth value. -/
abbrev bitAt {n : Nat} (x : BitVec n) (i : Nat) : Bool := x.getLsbD i

end Sys2Proof
end

