-- ==== Sys2Proof/Syntax.lean ====
section
/-!
DEFINITION. The commands: one constructor per row of spec/opcode_table.json (95_what_each_step_holds.md).
The table gives the rows no operands; those below are the model's (DESIGN CHOICE, log entry 3).
`bib` names the acting unit, `queue` a hardware queue; a work command runs `steps` progress units
(R325) of the oldest unfinished issued instruction of that queue on that unit.
-/

namespace Sys2Proof

/-- Who makes an aperture access (R400). -/
inductive Agent where
  /-- the system management interface -/
  | host
  /-- context 0, through its reserved stream engine -/
  | coach
  /-- a context, as Lomodan tags it -/
  | ctx (n : BitVec 10)
  deriving DecidableEq, Repr

/-- Where a column command goes (R337): channel, pseudo-channel, and bank, row and column as the address bits that remain, in
the order that the core dies' identification data gives (R455). -/
structure Column where
  channel : BitVec 5
  pseudo : BitVec 1
  rest : BitVec 31
  deriving DecidableEq, Repr

/-- The commands of the complex. -/
inductive Instr where
  /-- POWER_ON_RESET (R393). Release of the Teonuc reset line starts MG, unit self-tests, link detection and the start-up sequence with every table at its reset value. -/
  | powerOnReset
  /-- BIB_ISSUE (R397). MG sends ISSUE to one chain position, and the unit there takes its bib and answers with kind and generation. -/
  | bibIssue (bib : Bib) (kind : BitVec 4) (gen : BitVec 8)
  /-- BIB_ANSWER_TIMEOUT (R397). No answer within 64 MCLK cycles leaves the bib held by no unit and counts the position in ABSENT. -/
  | bibAnswerTimeout (bib : Bib)
  /-- HEAD_SCAN_DONE (R436). Marshal finishes scanning the finish-record slots and takes the head record. -/
  | headScanDone
  /-- BIST_COLLECT (R393). At 300 µs BIST results are collected, failing units are fenced, and every CV and SE seeds its pacers from PACROOT. -/
  | bistCollect (failing : List (Nat × Nat))
  /-- LINKWAIT (R397). At 2,000 µs every slice whose link is not ACTIVE is marked absent. -/
  | linkwait
  /-- VERIFY_DONE (R406). Marshal completes the image checks, hash and ECDSA verification and sets VRES. -/
  | verifyDone
  /-- COACH_START (R405). Marshal commits START, grants context 0, copies the image, binds queue 0 to bib 0x070, sets MODE COACH and makes STEP READY. -/
  | coachStart
  /-- MINIMAL_MODE_ENTRY (R408). On failed verification Teonuc enters MODE MINIMAL, posts MINIMAL and makes STEP READY. -/
  | minimalModeEntry
  /-- PACER_STEP (R267). Every pacer advances its 128-bit state by one step and produces one 64-bit output in every CCLK cycle. -/
  | pacerStep
  /-- PACER_RESEED (R271). Once no pacer-drawing instruction runs on a unit, it reseeds all its lanes from the restored context's CSEED. -/
  | pacerReseed (bib : Bib)
  /-- SPLIT_BOUNDARY (R195). An SB pulse sets SPLIT and PHASE, fires start-list entries, applies a staged PMASK, lifts resynchronised fences and releases satisfied LAPWAITs. -/
  | splitBoundary (split : BitVec 8) (phase : BitVec 2)
  /-- ANNOUNCEMENT (R211). An ANN pulse makes MG stage a due baton or send ANNOUNCE to far units, build re-run width changes, and send DEMAND. -/
  | announcement (rpt : Bool)
  /-- ISSUE_HOLD_BEGIN (R200). 64 CCLK cycles before an announced LB every compute-die baton-set unit stops issuing. -/
  | issueHoldBegin
  /-- ISSUE_HOLD_END (R200). 64 CCLK cycles after the LB, or when the announcement lapses, compute-die units resume issuing. -/
  | issueHoldEnd
  /-- COMMIT_POINT (R211). At the acknowledgement deadline MG sends COMMIT, DEFER or withdraws the baton, counting deferrals and fencing at DEFERMAX. -/
  | commitPoint
  /-- LAP_BOUNDARY (R197). An LB pulse takes the new LAP, toggles run parity, applies an armed baton, activates LAP loads and adoptions, swaps tracker records, resets last-use entries and sends BOUNDARY. -/
  | lapBoundary (lap : BitVec 48) (phase : BitVec 2)
  /-- ANNOUNCEMENT_LAPSE (R198). An ANN whose LB does not come 8,192 CCLK cycles later lapses, deferring an armed baton and sending LAPSE to far units. -/
  | announcementLapse
  /-- CONFIRM_TIMEOUT (R211). 4,096 CCLK cycles after the LB MG declares members without matching DONE false starts and fences them. -/
  | confirmTimeout
  /-- FAR_ISSUE_STOP (R200). A far unit's count from ANNOUNCE expires and it stops issuing; a slice sends window STATS at this report point. -/
  | farIssueStop (bib : Bib)
  /-- STAGE (R212). A member receiving STAGE digests its staged content and sends ACK. -/
  | stage (bib : Bib) (msg : BitVec 128)
  /-- ACK (R211). MG receives a member's ACK and counts it if SEQ and digest are current. -/
  | ack (msg : BitVec 128)
  /-- COMMIT (R212). A member receiving COMMIT with its acknowledged SEQ arms. -/
  | commit (bib : Bib) (msg : BitVec 128)
  /-- DEFER (R212). A member receiving DEFER keeps its staged copies and disarms. -/
  | defer (bib : Bib) (msg : BitVec 128)
  /-- ANNOUNCE (R200). A far unit receiving ANNOUNCE starts its count toward its issue stop. -/
  | announce (bib : Bib) (msg : BitVec 128)
  /-- BOUNDARY (R212). A far unit receiving BOUNDARY takes lap and parity, applies an armed baton, sends DONE, resumes issue and may exchange residual buffers, or becomes a false start. -/
  | boundary (bib : Bib) (msg : BitVec 128)
  /-- LAPSE (R212). A far unit receiving LAPSE disarms and resumes issuing. -/
  | lapse (bib : Bib) (msg : BitVec 128)
  /-- DONE (R211). MG receives DONE and leaves CONFIRMING when every member has reported the new epoch. -/
  | doneReport (msg : BitVec 128)
  /-- RESYNC (R215). A false start receiving RESYNC loads committed tables and layer map, activates codebooks as allowed, takes the epoch and sends SYNCED. -/
  | resync (bib : Bib) (msg : BitVec 128)
  /-- SYNCED (R215). MG compares a unit's SYNCED digest, scheduling fence lift on a match or resending RESYNC and fencing on the third mismatch. -/
  | synced (msg : BitVec 128)
  /-- BATON_REQUEST (R224). A write of BATREQ in LAPCTL requests a baton at the next lap-end boundary. -/
  | batonRequest (agent : Agent)
  /-- FALLBACK_CLEAR (R224). A write of FBCLR in LAPCTL clears every REQ bit of the layer map. -/
  | fallbackClear (agent : Agent)
  /-- PMASK_WRITE (R206). A write to PMASK stages a new converter partition that MG sends to every unfenced converter. -/
  | pmaskWrite (agent : Agent) (value : BitVec 64)
  /-- PMASK_ACK (R206). MG receives a converter's acknowledgement of the staged PMASK copy. -/
  | pmaskAck (bib : Bib)
  /-- FORMAT_TABLE_WRITE (R57). A write to a staged format table entry changes the staged copy and makes MG restage a baton in progress. -/
  | formatTableWrite (agent : Agent) (ctx : BitVec 10) (index : BitVec 6) (value : BitVec 32)
  /-- LAYER_MAP_WRITE (R204). A profile-context write to a staged layer map entry changes the staged copy. -/
  | layerMapWrite (agent : Agent) (layer : BitVec 12) (value : BitVec 32)
  /-- ISSUE (R318). A unit takes the next instruction from its highest-priority ready queue and applies the issue checks. -/
  | issueNext (bib : Bib)
  /-- CONVERT_PLAIN (R63). A converter converts source tiles into destination tiles, with optional rotation, outlier capture, row sums and amax reporting. -/
  | convertPlain (bib : Bib) (queue : BitVec 14) (steps : Nat) (arrived : List (List Byte))
  /-- CONVERT_RESCALE (R127). A converter rescales accumulator-output tiles with multipliers, row sums and zero-point corrections. -/
  | convertRescale (bib : Bib) (queue : BitVec 14) (steps : Nat) (arrived : List (List Byte))
  /-- CONVERT_TRANSPOSE (R160). A converter widens and transposes 128 × 128 squares for the backward arrays. -/
  | convertTranspose (bib : Bib) (queue : BitVec 14) (steps : Nat) (arrived : List (List Byte))
  /-- CONVERT_REEPOCH (R106). A converter reads blocks of an earlier epoch with the descriptor carried in the instruction and rewrites them under the current epoch. -/
  | convertReepoch (bib : Bib) (queue : BitVec 14) (steps : Nat) (arrived : List (List Byte))
  /-- ROTATE (R290). A converter rotates, un-rotates or re-keys a wide tensor without narrowing it. -/
  | rotate (bib : Bib) (queue : BitVec 14) (steps : Nat) (arrived : List (List Byte))
  /-- TABLE_BUILD (R149). A PT builds product tables for every activation element and sends them on the product-table feed. -/
  | tableBuild (bib : Bib) (queue : BitVec 14) (steps : Nat)
  /-- TABLE_CODEBOOK (R46). A PT or CV loads one codebook slot in STAGED or IMMEDIATE mode. -/
  | tableCodebook (bib : Bib) (queue : BitVec 14)
  /-- TABLE_CHANNEL (R120). A converter loads channel-scale-file entries in LAP or IMMEDIATE mode. -/
  | tableChannel (bib : Bib) (queue : BitVec 14)
  /-- TABLE_RESCALE (R120). A converter loads rescale-table entries in LAP or IMMEDIATE mode. -/
  | tableRescale (bib : Bib) (queue : BitVec 14)
  /-- TABLE_PROGRAM (R243). An SE checks and loads one element program record and discards cached copies. -/
  | tableProgram (bib : Bib) (queue : BitVec 14)
  /-- STATS (R174). A CV, SE or SL reads a source stream and reports its amax and NaN count to a tracked entry. -/
  | stats (bib : Bib) (queue : BitVec 14) (steps : Nat)
  /-- SCALE_PROPOSE (R182). A tracker forms PROP from history, current amax or a given value and posts it as a summary. -/
  | scalePropose (bib : Bib) (queue : BitVec 14)
  /-- SCALE_ADOPT (R183). A tracker stages PROP with ABASE and ACOUNT to every converter of CVMASK. -/
  | scaleAdopt (bib : Bib) (queue : BitVec 14)
  /-- SCALE_PIN (R182). A tracker sets PINP of the entry to the instruction's bit. -/
  | scalePin (bib : Bib) (queue : BitVec 14)
  /-- ADOPT_ACK (R183). A tracker receives a converter's acknowledgement of a staged adoption value. -/
  | adoptAck (entry : BitVec 14) (cv : BitVec 6)
  /-- ELEMENT (R244). An SE runs an element program on each active element and writes one result stream. -/
  | element (bib : Bib) (queue : BitVec 14) (steps : Nat)
  /-- REDUCE (R248). An SE folds program results into a whole or per-row sum, product, extreme, index or count and posts a summary. -/
  | reduce (bib : Bib) (queue : BitVec 14) (steps : Nat)
  /-- PERMUTE (R254). An SE gathers source elements by index, writing +0 and raising PERM_RANGE for out-of-range indices. -/
  | permute (bib : Bib) (queue : BitVec 14) (steps : Nat)
  /-- SHUFFLE_INTERLEAVE (R255). An SE interleaves sources A and B along k. -/
  | shuffleInterleave (bib : Bib) (queue : BitVec 14) (steps : Nat)
  /-- SHUFFLE_EVEN (R255). An SE takes the even-indexed elements of A along k. -/
  | shuffleEven (bib : Bib) (queue : BitVec 14) (steps : Nat)
  /-- SHUFFLE_ODD (R255). An SE takes the odd-indexed elements of A along k. -/
  | shuffleOdd (bib : Bib) (queue : BitVec 14) (steps : Nat)
  /-- SHUFFLE_REVERSE (R255). An SE reverses elements within blocks of 2^P along k. -/
  | shuffleReverse (bib : Bib) (queue : BitVec 14) (steps : Nat)
  /-- SHUFFLE_ROTATE (R255). An SE rotates elements by s within blocks of 2^P along k. -/
  | shuffleRotate (bib : Bib) (queue : BitVec 14) (steps : Nat)
  /-- PACK (R256). An SE builds a tile from code containers, scales and zero points without conversion. -/
  | pack (bib : Bib) (queue : BitVec 14) (steps : Nat)
  /-- UNPACK_CODES (R257). An SE writes each code of a tile into an 8-bit container. -/
  | unpackCodes (bib : Bib) (queue : BitVec 14) (steps : Nat)
  /-- UNPACK_SCALES (R257). An SE writes each group scale of a tile unchanged. -/
  | unpackScales (bib : Bib) (queue : BitVec 14) (steps : Nat)
  /-- UNPACK_ZPOINTS (R257). An SE writes each per-group zero point byte of a tile. -/
  | unpackZpoints (bib : Bib) (queue : BitVec 14) (steps : Nat)
  /-- RANDOM_BITS (R278). An SE writes one 32-bit random word per element. -/
  | randomBits (bib : Bib) (queue : BitVec 14) (steps : Nat)
  /-- RANDOM_BERNOULLI (R278). An SE writes a dense Bernoulli bit mask with probability p × 2^−24. -/
  | randomBernoulli (bib : Bib) (queue : BitVec 14) (steps : Nat)
  /-- SAMPLE (R385). A sampler applies temperature, top-k and top-p to each logit row, draws a keyed token and writes token records. -/
  | sample (bib : Bib) (queue : BitVec 14) (steps : Nat)
  /-- RELAY_SEND (R373). A relay narrows its source to the wire profile and sends it on a transaction channel. -/
  | relaySend (bib : Bib) (queue : BitVec 14) (steps : Nat)
  /-- RELAY_RECEIVE (R373). A relay accepts the matching transfer and writes it widened to its destination. -/
  | relayReceive (bib : Bib) (queue : BitVec 14) (steps : Nat)
  /-- RELAY_COLLECTIVE (R376). A relay runs an all-reduce, reduce-scatter or all-gather on a service channel with error-feedback residuals. -/
  | relayCollective (bib : Bib) (queue : BitVec 14) (steps : Nat)
  /-- SLICE_PROGRAM (R351). A slice runs an element program over operands or a plane group in its stack. -/
  | sliceProgram (bib : Bib) (queue : BitVec 14) (steps : Nat)
  /-- SLICE_CONVERT (R354). A slice converts tile streams placed in its stack under CONVERT PLAIN semantics. -/
  | sliceConvert (bib : Bib) (queue : BitVec 14) (steps : Nat)
  /-- SLICE_REEPOCH (R354). A slice converts stack tile streams of an earlier epoch under the re-epoch form. -/
  | sliceReepoch (bib : Bib) (queue : BitVec 14) (steps : Nat)
  /-- WINDOW_OPEN (R341). A slice fixes a window's descriptors and seed and sets it OPEN. -/
  | windowOpen (bib : Bib) (queue : BitVec 14)
  /-- WINDOW_CLOSE (R341). A slice sets a window CLOSING, discards staging slots, sends its final report and sets it CLOSED after the last narrow write. -/
  | windowClose (bib : Bib) (queue : BitVec 14)
  /-- FENCE_QUEUE (R302). A FENCE holds later instructions of its queue until every earlier one has completed. -/
  | fenceQueue (bib : Bib) (queue : BitVec 14)
  /-- FENCE_WAITSEQ (R302). A FENCE holds its queue until queue WQUEUE has written a completion record at or past WSEQ. -/
  | fenceWaitseq (bib : Bib) (queue : BitVec 14)
  /-- LAPWAIT (R303). A LAPWAIT holds later instructions of its queue until the pace bus reaches a target lap, split and phase. -/
  | lapwait (bib : Bib) (queue : BitVec 14)
  /-- SUMMARY (R299). A tracker reads one item of a tracked entry, watch or stream entry and posts it as a summary. -/
  | summary (bib : Bib) (queue : BitVec 14)
  /-- BLOCK_POSITION (R97). A reader whose source blocks are written checks one block position and converts it or writes it poisoned. -/
  | blockPosition (bib : Bib) (queue : BitVec 14) (arrived : List (List Byte))
  /-- STREAM_WAIT_TIMEOUT (R95). A reader waiting beyond its context's stream-wait limit writes its remaining destinations poisoned and completes with TIMEOUT. -/
  | streamWaitTimeout (bib : Bib) (queue : BitVec 14)
  /-- FEED_BEAT (R155). A PT sends a held product-table beat when the forward array drives READY. -/
  | feedBeat (bib : Bib)
  /-- INSTRUCTION_COMPLETE (R311). After all destination writes and summaries are acknowledged a unit writes the completion record, halting the queue if HALTE and the status demand. -/
  | instructionComplete (bib : Bib) (queue : BitVec 14)
  /-- PREEMPT (R319). A unit stops the lowest-priority preemptible instruction at its preemption point and records PRE, PROG, DCRC and BCI. -/
  | preempt (bib : Bib)
  /-- RESUME_PREEMPTED (R326). A unit rereads a preempted instruction's slots, checks DCRC and BCI, and continues from PROG or ends it. -/
  | resumePreempted (bib : Bib)
  /-- REPORT_MERGE (R175). A tracker merges an arriving report into the current or previous record by maximum and saturating addition, or discards it as late. -/
  | reportMerge
  /-- NORM_PARTIAL (R187). A watch adds an arriving 320-bit sum-of-squares partial and its flags to the matching record. -/
  | normPartial
  /-- SETTLE_WINDOW_END (R177). 2,048 CCLK cycles after a boundary the previous record stops taking reports and the close scan begins. -/
  | settleWindowEnd
  /-- CLOSE_SCAN_DONE (R178). The close scan commits or discards each record, updates history, proposals and averages, posts threshold events and stages AUTO proposals. -/
  | closeScanDone
  /-- TRACKED_ENTRY_WRITE (R172). A write to a tracked-entry configuration changes permitted fields and resets its state when EN goes from 0 to 1. -/
  | trackedEntryWrite (agent : Agent) (entry : BitVec 14) (word : BitVec 4) (value : BitVec 32)
  /-- WATCH_WRITE (R188). A write to a norm-watch configuration changes permitted fields and resets its state when EN goes from 0 to 1. -/
  | watchWrite (agent : Agent) (watch : BitVec 12) (word : BitVec 1) (value : BitVec 32)
  /-- INDIRECT_SELECT (R451). A write to IXSEL selects a record behind an indirect port and makes the writer its holder. -/
  | indirectSelect (agent : Agent) (bib : Bib) (port : BitVec 2) (value : BitVec 32)
  /-- STREAM_RELEASE (R454). A write to SREL0 releases a halted data entry and its links with new RTAGs, or completes a recorded close. -/
  | streamRelease (agent : Agent) (tracker : BitVec 2) (value : BitVec 32)
  /-- LASTUSE (R168). MG takes a LASTUSE message, marks the tied region and releases a waiting CONVERT, or discards it. -/
  | lastuse (msg : BitVec 128)
  /-- DOORBELL (R316). A QDB write with STAGE 0 sets TAIL of a queue, or is discarded with DBERR. -/
  | doorbell (agent : Agent) (queue : BitVec 14) (tail : BitVec 16)
  /-- DOORBELL_STAGE (R316). A QDB write with STAGE 1 writes STAIL only. -/
  | doorbellStage (agent : Agent) (queue : BitVec 14) (tail : BitVec 16)
  /-- CTX_SUSPEND (R328). CTXCMD SUSPEND stops issue from the context's queues and lets issued instructions run to a preemption point. -/
  | ctxSuspend (agent : Agent) (ctx : BitVec 10)
  /-- CTX_SUSPEND_FORCE (R328). CTXCMD SUSPEND with FORCE also stops at-rest reductions at once, restoring their RTAGs. -/
  | ctxSuspendForce (agent : Agent) (ctx : BitVec 10)
  /-- CTX_RESUME (R329). CTXCMD RESUME returns suspended queues to RUN and reseeds newly bound units. -/
  | ctxResume (agent : Agent) (ctx : BitVec 10)
  /-- CTX_CLOSE (R330). CTXCMD CLOSE puts every queue of the context into CLOSING. -/
  | ctxClose (agent : Agent) (ctx : BitVec 10)
  /-- QUEUE_OPEN (R321). QCMD OPEN moves an OFF queue to RUN and clears SEQ and DBERR. -/
  | queueOpen (agent : Agent) (queue : BitVec 14)
  /-- QUEUE_RESUME (R320). QCMD RESUME returns a HALTED queue to RUN. -/
  | queueResume (agent : Agent) (queue : BitVec 14)
  /-- QUEUE_CLOSE (R330). QCMD CLOSE puts a queue into CLOSING, completing unissued instructions with CLOSED and starting the drain timer. -/
  | queueClose (agent : Agent) (queue : BitVec 14)
  /-- DRAIN_TIMEOUT (R331). When the drain timer runs out, every instruction still issued or preempted completes with ABORTED. -/
  | drainTimeout (queue : BitVec 14)
  /-- QUEUE_CLOSED (R330). With no issued or preempted instruction left, a CLOSING queue completes what the ring allows, sets HEAD to TAIL and goes OFF. -/
  | queueClosed (queue : BitVec 14)
  /-- UNIT_CLOSE (R450). Setting CLOSE in UCTL makes the unit complete issues with CLOSED and puts every bound queue into CLOSING. -/
  | unitClose (agent : Agent) (bib : Bib)
  /-- UNIT_CLOSE_CLEAR (R450). Writing CLOSE 0 reopens the unit if QUIET is 1 and is otherwise ignored. -/
  | unitCloseClear (agent : Agent) (bib : Bib)
  /-- GRANT (R402). Marshal writes a context's grant record and any table grants, resource CTX fields and stack grants. -/
  | grant (agent : Agent)
  /-- REVOKE (R402). Marshal closes a context's queues so that its grant record can be cleared. -/
  | revoke (agent : Agent)
  /-- REVOKE_CLEAR (R402). Once every queue of a revoked context is OFF, Marshal clears its grant record and the table grants that name it. -/
  | revokeClear (ctx : BitVec 10)
  /-- UPDATE (R410). Marshal verifies a staged Coach image, commits UPDATE_BEGIN, closes context 0 and sets MODE UPDATING. -/
  | update (agent : Agent)
  /-- UPDATE_INSTALL (R410). After the drain, Marshal writes the image store, verifies it, and starts Coach or falls to minimal mode, committing UPDATE_END. -/
  | updateInstall
  /-- UNITRESET (R402). Marshal puts a unit into unit reset. -/
  | unitreset (agent : Agent)
  /-- UNIT_RESET_DONE (R428). A unit leaves unit reset after self-test, enters FALSE_START or stays fault-fenced, and MG sends RESYNC. -/
  | unitResetDone (bib : Bib) (pass : Bool)
  /-- MARSHAL_COMMAND_RESERVED (R402). An MCMD write with a reserved OP sets MRES to FORMAT. -/
  | marshalCommandReserved (agent : Agent) (op : BitVec 8)
  /-- EVENT_ACCEPT (R423). MG accepts one event record per MCLK cycle, assigns SEQ, writes it to the log or backlog and queues ERROR records for the finish record. -/
  | eventAccept
  /-- EVCTL_WRITE (R424). A write to EVCTL sets EVN and EVINT, and a nonzero EVN writes the backlog into the log. -/
  | evctlWrite (agent : Agent) (value : BitVec 32)
  /-- RECORD_COMMIT (R434). Marshal finishes writing a finish-record slot with its CRC, reads it back and rewrites on mismatch. -/
  | recordCommit (readback : Bool)
  /-- PFAIL (R435). On PFAIL Marshal completes the record in progress, commits POWER_LOSS and stops committing. -/
  | pfail
  /-- POWER_OK (R435). PFAIL deasserting without reset makes Marshal commit POWER_OK and resume. -/
  | powerOk
  /-- CAP (R420). MG receives a CAP message from the module power controller. -/
  | cap (msg : BitVec 64)
  /-- GOVERNOR_WINDOW (R419). At each 1,024-cycle window boundary MG estimates draw, sets the duty d, applies a pending CAP and sends CAPACK. -/
  | governorWindow
  /-- SCRUB (R413). A scrub pass of one class checks region CRCs during idle phases and acts on mismatches. -/
  | scrub (cls : BitVec 4) (found : List (Nat × Nat × Nat))
  /-- MARGIN (R415). Named slices and their MG ports measure lane receive margins and retrain lanes below MARGTH. -/
  | margin (found : List (Nat × Nat × Nat))
  /-- WEAR (R437). A WEAR action margin-reads 64 finish-record slots and rewrites weak ones. -/
  | wear (weak : List (Nat × Bool))
  /-- ERROR_SINGLE_BIT (R427). A single-bit array error is corrected in place and CECNT is raised. -/
  | errorSingleBit (bib : Bib) (array : BitVec 8)
  /-- ERROR_UNCORRECTABLE (R427). A double-bit or parity error outside scrubbed regions posts UNCORRECTED and resets the unit, or is treated as a scrub mismatch. -/
  | errorUncorrectable (bib : Bib) (array : BitVec 8) (region : Nat) (copy : BitVec 2)
  /-- MG_FATAL (R427). A double-bit or parity error in MG commits MG_FATAL, drives the fault line and stops the complex. -/
  | mgFatal (array : BitVec 8)
  /-- HANG (R427). An instruction that makes no progress for 10 ms while not waiting posts HANG and resets its unit. -/
  | hang (bib : Bib) (queue : BitVec 14)
  /-- VIEW_WRITE (R342). A slice stages a view write and, on the header unit, checks and narrows the wide tile into its narrow slot. -/
  | viewWrite (stack : BitVec 4) (sideband : BitVec 8) (col : Column) (data : BitVec 256)
  /-- VIEW_READ (R344). A slice serves a view read from its read cache, filling it by reading, checking and widening the narrow slot. -/
  | viewRead (stack : BitVec 4) (sideband : BitVec 8) (col : Column)
  /-- DIRECT_ACCESS (R337). A slice passes a direct column access between the host interface and the core dies unchanged. -/
  | directAccess (stack : BitVec 4) (sideband : BitVec 8) (col : Column) (write : Bool) (data : BitVec 256)
  /-- HOST_REFRESH (R335). A slice accepts a host refresh command and completes it with no effect on the core dies. -/
  | hostRefresh (stack : BitVec 4)
  /-- DETECT_DONE (R358). After 20 µs in DETECT a link end takes LMASK from locked lanes and starts advertising. -/
  | detectDone (stack : BitVec 4) (mgEnd : Bool) (lanes : BitVec 16)
  /-- TRAINING_SET (R358). A link end receives a training set and advances through ADVERTISE, SELECT and CONFIRM. -/
  | trainingSet (stack : BitVec 4) (mgEnd : Bool) (set : BitVec 256)
  /-- ADVERTISE_TIMEOUT (R358). 10 µs without 8 valid sets counts a failure and returns to DETECT, or goes DOWN on the third. -/
  | advertiseTimeout (stack : BitVec 4) (mgEnd : Bool)
  /-- TRAIN_DONE (R358). Equalisation and test flits succeed and CONFIRM is sent, or failure moves to the next usable mode. -/
  | trainDone (stack : BitVec 4) (mgEnd : Bool) (good : Bool)
  /-- LINK_ACTIVE (R358). The partner's CONFIRM brings the link to ACTIVE, and MG issues the slice's bib if not yet issued. -/
  | linkActive (stack : BitVec 4) (mgEnd : Bool) (set : BitVec 256)
  /-- LINK_DOWN (R364). A link entering DOWN posts LINK_DOWN and MG fences the slice. -/
  | linkDown (stack : BitVec 4)
  /-- RETRAIN (R363). A link write of RETRAIN retrains an ACTIVE link at modes no faster than the current one. -/
  | retrain (agent : Agent) (stack : BitVec 4)
  /-- RETRAIN_UP (R363). RETRAIN with UP retrains from DETECT considering every mode. -/
  | retrainUp (agent : Agent) (stack : BitVec 4)
  /-- RESTART (R447). A link write of RESTART returns a DOWN link to RESET. -/
  | restart (agent : Agent) (stack : BitVec 4)
  /-- FLIT (R359). A link end receives a flit, checks CRC and SEQ, takes ACK, NAK and credit, and delivers its chunks. -/
  | flit (stack : BitVec 4) (mgEnd : Bool) (flit : BitVec 512)
  /-- FLIT_RESEND_TIMEOUT (R360). When ACK has not advanced for 2 µs the sender resends, and 16 resends in a row start a retrain. -/
  | flitResendTimeout (stack : BitVec 4) (mgEnd : Bool)
  /-- DESC (R355). A slice or relay receives an instruction in a DESC message and executes it in order for its queue. -/
  | descMessage (bib : Bib) (msg : List Byte)
  /-- COMPL (R355). MG receives a COMPL message and writes the completion record. -/
  | compl (bib : Bib) (msg : List Byte)
  /-- SUMM (R355). MG receives a SUMM message and writes the summary slot. -/
  | summ (bib : Bib) (msg : List Byte)
  /-- STATS_MESSAGE (R362). MG receives a slice STATS message and forwards the report to the tracker. -/
  | statsMessage (bib : Bib) (msg : List Byte)
  /-- NORM (R362). MG receives a slice NORM message and forwards the partial to the watch. -/
  | norm (bib : Bib) (msg : List Byte)
  /-- PROGREQ (R351). MG receives a slice's program request and sends the program record in a PROG message. -/
  | progreq (bib : Bib) (msg : List Byte)
  /-- PROG (R351). A slice receives a program record and holds it for its instruction. -/
  | progMessage (bib : Bib) (msg : List Byte)
  /-- SCALE_MESSAGE (R354). A scale block of a scratchpad scale stream is received over the slice link. -/
  | scaleMessage (bib : Bib) (toUnit : Bool) (msg : List Byte)
  /-- BATON_MESSAGE (R210). A baton message arrives framed over the slice link or fabric and is handled as its TYPE states. -/
  | batonMessage (bib : Bib) (toUnit : Bool) (msg : List Byte)
  /-- EVENT_MESSAGE (R421). MG receives an event record from a slice or relay for acceptance. -/
  | eventMessage (bib : Bib) (msg : List Byte)
  /-- MGMT (R361). A slice or relay performs a management read or write relayed by MG. -/
  | mgmt (bib : Bib) (msg : List Byte)
  /-- MGMTR (R361). MG receives the result of a relayed management access. -/
  | mgmtr (bib : Bib) (msg : List Byte)
  /-- GROUP_OPEN (R372). GCMD OPEN starts negotiation by sending HELLO to every member. -/
  | groupOpen (agent : Agent) (bib : Bib) (group : BitVec 8)
  /-- GROUP_CLOSE (R372). GCMD CLOSE closes a group with no issued instruction. -/
  | groupClose (agent : Agent) (bib : Bib) (group : BitVec 8)
  /-- HELLO (R372). A relay takes a HELLO, computing agreement when all members have sent one, or renegotiating an OPEN group. -/
  | hello (bib : Bib) (peer : BitVec 16) (msg : List Byte)
  /-- HELLO_REPEAT (R372). Every 100 µs in NEGOTIATING a relay sends HELLO again. -/
  | helloRepeat (bib : Bib) (group : BitVec 8)
  /-- AGREE (R372). A relay takes an AGREE and opens the group when all members agree. -/
  | agree (bib : Bib) (peer : BitVec 16) (msg : List Byte)
  /-- REFUSE (R372). A relay receiving REFUSE fails negotiation and posts GROUP_REFUSED. -/
  | refuse (bib : Bib) (peer : BitVec 16) (msg : List Byte)
  /-- NEGOTIATION_TIMEOUT (R372). HTO passing without reaching OPEN fails the group and posts GROUP_TIMEOUT. -/
  | negotiationTimeout (bib : Bib) (group : BitVec 8)
  /-- START (R377). A relay compares a START with its own transfer of that CSEQ and aborts with FORMAT on a mismatch. -/
  | relayStart (bib : Bib) (peer : BitVec 16) (msg : List Byte)
  /-- DATA (R376). A relay acts on a DATA tile as hop, owner or forwarder of the collective. -/
  | relayData (bib : Bib) (peer : BitVec 16) (msg : List Byte)
  /-- DACK (R371). A relay receives acknowledgement of a numbered message. -/
  | dack (bib : Bib) (peer : BitVec 16) (msg : List Byte)
  /-- NAK (R371). A relay resends from the message number that a NAK names. -/
  | relayNak (bib : Bib) (peer : BitVec 16) (msg : List Byte)
  /-- ABORT (R378). A relay receiving ABORT ends its transfer with TIMEOUT, poisons remaining tiles and posts PEER_ABORT. -/
  | relayAbort (bib : Bib) (peer : BitVec 16) (msg : List Byte)
  /-- RESEND_TIMEOUT (R371). No DACK for RTO makes a relay resend its unacknowledged messages. -/
  | resendTimeout (bib : Bib) (group : BitVec 8) (rank : BitVec 6)
  /-- PEER_TIMEOUT (R378). PTO passing without a message from an awaited peer sends ABORT, ends the transfer and fails the group. -/
  | peerTimeout (bib : Bib) (queue : BitVec 14) (rank : BitVec 6)
  /-- LOSS_OF_LINK (R378). The link controller reports loss of link, ending issued transfers and failing the group. -/
  | lossOfLink (bib : Bib)
  /-- RESIDUAL_EXCHANGE (R381). Once no issued RELAY names a pending region, the relay inverts SEL and clears PEND. -/
  | residualExchange (bib : Bib) (region : BitVec 6)
  /-- REGISTER_WRITE (R9). A write to a register with no row of its own stores, clears or drops fields under its access code and class. -/
  | registerWrite (agent : Agent) (offset : Nat) (width : Nat) (value : BitVec 64)
  /-- PACE_BUS_CHANGE (R198). PHASE or SPLIT changes in a cycle with SB 0, or LAP changes in a cycle with LB 0, and MG posts PACE_FAULT for that cycle while every unit keeps its last taken value. -/
  | paceBusChange (lap : BitVec 48) (split : BitVec 8) (phase : BitVec 2)
  /-- WAITSEQ_TIMEOUT (R302). A FENCE WAITSEQ that has waited longer than its context's stream-wait limit completes with TIMEOUT. -/
  | waitseqTimeout (bib : Bib) (queue : BitVec 14)
  /-- START_MISMATCH_TIMEOUT (R377). A START for a CSEQ that the member has not issued within PTO of its arrival counts as a mismatch, and the member sends ABORT with FORMAT. -/
  | startMismatchTimeout (bib : Bib) (group : BitVec 8) (cseq : BitVec 16)
  deriving DecidableEq, Repr

end Sys2Proof
end

