-- ==== Sys2Proof/Decode.lean ====
section
/-!
DEFINITION. spec/opcode_table.json gives its rows no bits, so no word spells a command.
The 32-byte instruction slots of R285 are data in the scratchpad; Machine/Operands.lean reads their fields.
-/

namespace Sys2Proof

/-- The command that a word spells by the table's bits. No row of the table gives bits. -/
def decodeTableWord (_nbits _w : Nat) : Option Instr := none

end Sys2Proof
end

