-- ==== Sys2Proof/Config.lean ====
section
/-!
DEFINITION. What the spec leaves open: constants with no body, so that a claim holds whatever they are.
-/

namespace Sys2Proof.Config

/-- Column of a unit's site on its die, POS COL (R398: "by unit"). DESIGN CHOICE: log entry 8. -/
opaque siteCol : Nat → BitVec 6

/-- Row of a unit's site on its die, POS ROW (R398). DESIGN CHOICE: log entry 8. -/
opaque siteRow : Nat → BitVec 6

/-- SPTOP of R405 in units of 64 bytes: the strap's value is a property of Lomodan. DESIGN CHOICE: log entry 10. -/
opaque spTop64 : Nat

/-- Bytes in Lomodan's scratchpad reserve (R405, R406 check 5). DESIGN CHOICE: log entry 10. -/
opaque spReserve : Nat

/-- SHA-384 (FIPS 180-4) of a byte string: a standard outside the spec. DESIGN CHOICE: log entry 11. -/
opaque sha384 : List Byte → BitVec 384

/-- ECDSA P-384 verification (FIPS 186-5) of (public key, r, s) over a SHA-384 value. DESIGN CHOICE: log entry 11. -/
opaque ecdsaP384 : List Byte → List Byte → List Byte → BitVec 384 → Bool

/-- Governor estimate U of R419, in 0.25 W, from PWRCAL and the free-value counter. DESIGN CHOICE: log entry 12. -/
opaque drawFixed : BitVec 512 → Nat → Nat

/-- Governor estimate of the CV and SE draw in a window (R419), in 0.25 W. DESIGN CHOICE: log entry 12. -/
opaque drawIssue : BitVec 512 → Nat → Nat

/-- The 1 ms average of the estimated draw as a window ends (R416, R419), in 0.25 W. DESIGN CHOICE: log entry 12. -/
opaque drawMean : BitVec 512 → Nat → BitVec 16

/-- Cycles a unit spent executing, a telemetry count the model has no timing for (R416). DESIGN CHOICE: log entry 13. -/
opaque busyCycles : Nat → Nat → BitVec 32

/-- Estimated energy of a unit in µJ (R416). DESIGN CHOICE: log entry 13. -/
opaque energy : Nat → Nat → BitVec 32

/-- CCLK cycles that pass before a draw beyond the one cycle that it follows the last draw of its use by: free-value
counter, use, number of the draw in its command. The cycle of a draw depends on stalls (R458). DESIGN CHOICE: log entry 16. -/
opaque drawGap : Nat → Nat → Nat → Nat

/-- The tracked entries that a 4 KiB scrub region of a tracker holds: tracker position, region, entry within the tracker.
The spec does not lay the regions out (R413). DESIGN CHOICE: log entry 24. -/
opaque regionTracked : Nat → Nat → Nat → Bool

/-- Bytes of a new image that the store had taken when power was lost, from the free-value counter (R411). DESIGN CHOICE:
log entry 48. -/
opaque storedBytes : Nat → Nat

/-- Transaction number that MG gives a relayed access, from the free-value counter (R361). DESIGN CHOICE: log entry 29. -/
opaque mgmtTid : Nat → BitVec 8

/-- The watches that a 4 KiB scrub region of a tracker holds (R413). DESIGN CHOICE: log entry 24. -/
opaque regionWatch : Nat → Nat → Nat → Bool

/-- Where an agent's value is not stated by the spec: a word drawn from the free-value counter.
DESIGN CHOICE: log entry 6. -/
opaque freeWord : Nat → BitVec 64

end Sys2Proof.Config
end

