-- ==== Sys2Proof/Machine/State.lean ====
section
/-!
DEFINITION. The state of the complex as plain data, what can stop a step, and the state after power-on reset.
Tables list only the entries that differ from their default (Sys2Proof.Tab).
-/

namespace Sys2Proof.Machine

/-- Why the machine stops. -/
inductive Fault where
  /-- Raised by VIEW_WRITE, VIEW_READ and DIRECT_ACCESS, without a window, for a stack byte at or above 96 GiB: the spec
  gives no such byte (R335, R337; log entry 31). Safe. -/
  | stackAddress
  deriving DecidableEq, Repr

/-- Why a command has no meaning. -/
inductive Refusal where
  /-- Raised by Dispatch for a command not modelled yet; no arm raises it in a finished model. Safe. -/
  | notModelled (mnemonic : String)
  deriving DecidableEq, Repr

/-- Completion statuses (R308). -/
inductive Status where
  | ok | empty | wrongState | closed | aborted | skew | checksum | poisonIn | format | permRange
  | overflow | epoch | denied | timeout
  deriving DecidableEq, Repr

/-- The eight kinds of unit (R398). -/
inductive Kind where
  | cv | se | pt | tk | sp | mg | rl | sl
  deriving DecidableEq, Repr

/-! ### Events and outputs -/

/-- An event record without its CRC, which MG writes at acceptance (R421). -/
structure Event where
  bib : Bib
  cls : BitVec 4
  code : BitVec 8
  sev : BitVec 2
  loss : Bool
  ctx : BitVec 10
  ctxv : Bool
  lap : BitVec 48
  par : Bool
  rep : BitVec 15
  arg0 : BitVec 32
  arg1 : BitVec 32
  arg2 : BitVec 32
  deriving DecidableEq, Repr

/-- What the complex drives out of itself, at the interfaces of R2. -/
inductive Out where
  /-- a block on an operand feed: 1 forward, 2 backward (R148, R159) -/
  | feed (port : BitVec 2) (stream : BitVec 16) (block : List Byte)
  /-- a product-table beat: control word and lanes (R153, R154) -/
  | beat (bib : Bib) (control : BitVec 96) (lanes : List (BitVec 32))
  /-- a baton message of R210 to a unit, or from a unit to MG -/
  | baton (toUnit : Bool) (unit : Bib) (msg : BitVec 128)
  /-- a message to the accumulator buffer (R167) -/
  | buffer (msg : BitVec 128)
  /-- a message to the module power controller (R417) -/
  | budget (msg : BitVec 64)
  /-- a slice-link or fabric message of R361 -/
  | message (toUnit : Bool) (unit : Bib) (msg : List Byte)
  /-- a training set (R357) -/
  | trainingSet (stack : BitVec 4) (mgEnd : Bool) (set : BitVec 256)
  /-- a flit (R359) -/
  | flit (stack : BitVec 4) (mgEnd : Bool) (bits : BitVec 512)
  /-- a relay message to a peer (R369) -/
  | relay (bib : Bib) (peer : BitVec 16) (msg : List Byte)
  /-- 32 bytes returned on a host interface (R337, R344) -/
  | hostData (stack : BitVec 4) (data : BitVec 256)
  /-- the staged PMASK copy sent to a converter (R206) -/
  | pmask (bib : Bib) (value : BitVec 64)
  deriving DecidableEq, Repr

/-! ### Streams -/

/-- STATE of a stream entry (R90). -/
inductive StreamState where
  | free | opened | halted | closing | hclose
  deriving DecidableEq, Repr

/-- A stream tracker entry with its placement (R90, R453). -/
structure Stream where
  st : StreamState := .free
  kind : BitVec 2 := 0
  rest : Bool := false
  paired : Bool := false
  sided : Bool := false
  ctx : BitVec 10 := 0
  fdi : BitVec 6 := 0
  pair : BitVec 16 := 0
  side : BitVec 16 := 0
  wtag : BitVec 16 := 0
  rtag : BitVec 16 := 0
  tensor : BitVec 24 := 0
  hstat : BitVec 8 := 0
  pbase : BitVec 32 := 0
  pbasehi : BitVec 5 := 0
  pspace : BitVec 5 := 0
  nblk : BitVec 16 := 0
  deriving DecidableEq, Repr

/-! ### Instructions in a unit -/

/-- The six counts of R79 and R143, each saturating at 0xFFFF_FFFF. -/
structure Counts where
  nan : BitVec 32 := 0
  clip : BitVec 32 := 0
  flush : BitVec 32 := 0
  ovfl : BitVec 32 := 0
  flagged : BitVec 32 := 0
  otiles : BitVec 32 := 0
  deriving DecidableEq, Repr

/-- A value in a conversion (R64): NaN with the sign R73 keeps, an infinity, or an exact number with the sign of its zero. -/
inductive XVal where
  | nan (neg : Bool)
  | inf (neg : Bool)
  | fin (q : ℚ) (neg : Bool)
  deriving DecidableEq, Repr

/-- A decoded element: its value, whether DAZ made it zero, its code. -/
structure Decoded where
  v : XVal
  dazzed : Bool
  code : Nat
  deriving DecidableEq, Repr

/-- A summary waiting to be posted (R259). -/
structure Summary where
  value : BitVec 64
  kind : BitVec 8
  status : Option Status
  flags : BitVec 6
  deriving DecidableEq, Repr

/-- What a window fixed at OPEN and has gathered since its last report (R341, R346). -/
structure Window where
  regs : BitVec 256 := 0
  wdesc : BitVec 32 := 0
  ndesc : BitVec 32 := 0
  nfdi : BitVec 6 := 0
  seed : BitVec 64 := 0
  amax : BitVec 16 := 0
  counts : Counts := {}
  deriving DecidableEq, Repr

/-- One transfer of a RELAY instruction (R375, R376). -/
structure Transfer where
  cseq : BitVec 16 := 0
  /-- the wire descriptor that WFDI named at issue -/
  wdesc : BitVec 32 := 0
  /-- it does not wait for the exchange of its residual region (R374) -/
  started : Bool := false
  /-- sums of own tiles that wait for their gather: tile, binary32 words; no words for a poisoned tile; with each, whether DAZ made the share zero -/
  held : List (Nat × List (BitVec 32 × Bool)) := []
  /-- the tile that the reduce phase and the gather phase act on next -/
  nextReduce : Nat := 0
  nextGather : Nat := 0
  /-- tiles whose working residuals have been settled -/
  narrowed : List Nat := []
  deriving DecidableEq, Repr

/-- A parsed block (R82, R88). -/
structure Blk where
  tensor : BitVec 24
  fdi : BitVec 6
  poison : Bool
  ovf : Bool
  tag : BitVec 16
  epoch : BitVec 4
  ctx : BitVec 10
  kind : BitVec 2
  count : Nat
  formOk : Bool
  crcOk : Bool
  body : List Byte
  deriving DecidableEq, Repr

/-- What a reader found at a position (R97). -/
structure PosRead where
  status : Option Status
  /-- KIND of a block whose CRC failed -/
  badKind : Nat
  d : Blk
  s : Option Blk
  o : Option Blk
  /-- a converter's: the elements decoded, with the file entries as they stood when the position was read (R123) -/
  vals : List Decoded := []
  deriving DecidableEq, Repr

/-- What a written tile adds to its instruction: counts, amax, capmax, norm (R139, R143, R174, R187). -/
structure TileSum where
  counts : Counts
  amax : BitVec 16
  capmax : BitVec 16
  norm : Nat
  nonfin : Bool
  deriving DecidableEq, Repr

/-- A good destination position: OVF, data tile, scale block and side tile, and what it adds once written. -/
structure OutTile where
  ovf : Bool := false
  body : List Byte
  sbody : List Byte := []
  obody : List Byte := []
  sum : Option TileSum := none
  deriving DecidableEq, Repr

/-- A destination block position that is formed and waits to be written (R94): its field, COUNT, the blocks (none:
poisoned, R101), and whether its writing completes the position. -/
structure OutPos where
  field : Nat
  count : Nat
  good : Option OutTile := none
  last : Bool := true
  /-- source position whose blocks it may share (R102), where that is not the position it belongs to: none for none -/
  src : Option (Option Nat) := none
  deriving DecidableEq, Repr

/-- An issued instruction: what it fixed at issue (R199) and how far it has come. -/
structure Issued where
  queue : Nat
  slot : BitVec 16
  slots : List (BitVec 256)
  ctx : Nat
  epoch : BitVec 4
  /-- descriptors of F1 to F4 as R459 resolved them; 0 where the field names none -/
  descs : List (BitVec 32)
  /-- format indices of F1 to F4 as resolved -/
  fdis : List (BitVec 6)
  /-- descriptor that WFDI of a TABLE BUILD named at issue (R150, R199) -/
  wdesc : BitVec 32 := 0
  /-- what a SLICE WINDOW OPEN fixed at issue (R199, R341) -/
  win : Window := {}
  seed : BitVec 64
  lap : BitVec 48
  bci : BitVec 32
  /-- the program records held (first and second stage) as they stood at issue (R243) -/
  prog : BitVec 1024 := 0
  prog2 : BitVec 1024 := 0
  /-- program number of a second stage (R349) -/
  second : Option (BitVec 8) := none
  /-- progress, in positions, elements or sequences (R325) -/
  pos : Nat := 0
  counts : Counts := {}
  done : Nat := 0
  amax : BitVec 16 := 0
  capmax : BitVec 16 := 0
  norm : Nat := 0
  nonfin : Bool := false
  satur : Bool := false
  failed : Option (Status × Nat) := none
  perm : Bool := false
  emptySeen : Bool := false
  overflow : Bool := false
  sawNan : Bool := false
  sawInf : Bool := false
  summary : Option Summary := none
  /-- positions of the group at hand that have been read: field, position, what was found (R135, R160, R255) -/
  reads : List ((Nat × Nat) × PosRead) := []
  /-- destination positions formed and not yet written -/
  outs : List OutPos := []
  /-- it stops: every destination block still to come is written poisoned, then it ends so (R95, R98, R104, R331) -/
  stopAs : Option Status := none
  /-- row sums of the row-sum tile being gathered (R125) -/
  rows : List (BitVec 32) := []
  /-- the row sums being read (R127) -/
  rowSrc : List XVal := []
  /-- a position under the row-sum tile failed (R126), or the row-sum tile read did (R127) -/
  rowsBad : Bool := false
  /-- inputs of a reduction taken so far, with their indices (R248) -/
  inputs : List (Nat × XVal) := []
  /-- place in the order of issue, the model's own (R243) -/
  serial : Nat := 0
  /-- RTAG of each source entry at issue: for a forced stop (R328) and for the place of a position's blocks (R102) -/
  rtags : List (Nat × BitVec 16) := []
  /-- entries as they stood before its OPEN forms, for a WRONG_STATE after issue (R307) -/
  undo : List (Nat × Stream) := []
  /-- resolved LAPWAIT target (R303) -/
  target : BitVec 48 := 0
  transfer : Transfer := {}
  finished : Option Status := none
  /-- run parity in which it completed; its record may wait for those of older instructions (R310, R311) -/
  ended : Option Bool := none
  /-- it completed at issue: record only, no side effect (R304, R305) -/
  atIssue : Bool := false
  /-- source bytes of an IMMEDIATE file load that are taken and not yet written (R121, R460) -/
  loaded : List Byte := []
  /-- it posts no summary: the mailbox was not valid at issue (R259) -/
  mute : Bool := false
  /-- a forced SUSPEND stopped it behind an older instruction of its queue, which runs on (R328) -/
  paused : Bool := false
  /-- it performs no close form (R326, R331) -/
  noClose : Bool := false
  /-- where its plain operands lie: 0 the scratchpad, n + 1 stack n (R350) -/
  space : Nat := 0
  deriving DecidableEq, Repr

/-! ### Trackers -/

/-- A lap record of a tracked tensor (R176, R180). -/
structure Record where
  amax : BitVec 16 := 0
  capmax : BitVec 16 := 0
  nan : BitVec 32 := 0
  clip : BitVec 32 := 0
  flush : BitVec 32 := 0
  overflow : BitVec 32 := 0
  flagged : BitVec 32 := 0
  otiles : BitVec 32 := 0
  /-- a fallback request was posted from this record (R191: at most one per layer and record) -/
  requested : Bool := false
  deriving DecidableEq, Repr

/-- Configuration of a tracked tensor (R171). -/
structure TrackedCfg where
  en : Bool := false
  auto : Bool := false
  pinp : Bool := false
  pow2 : Bool := false
  fben : Bool := false
  marg : BitVec 3 := 0
  hlen : BitVec 5 := 0xF
  ctx : BitVec 10 := 0
  tensor : BitVec 24 := 0
  layer : BitVec 12 := 0
  target : BitVec 16 := 0x43E0
  abase : BitVec 13 := 0
  acount : BitVec 14 := 0
  flagth : BitVec 16 := 0
  clipth : BitVec 32 := 0xFFFFFFFF
  flushth : BitVec 32 := 0xFFFFFFFF
  nanth : BitVec 32 := 0xFFFFFFFF
  cvmask : BitVec 64 := 0
  deriving DecidableEq, Repr

/-- A value staged for adoption (R183): what was sent, to whom, who acknowledged, and when the last did. -/
structure Staging where
  value : BitVec 16
  base : BitVec 13
  count : BitVec 14
  need : BitVec 64
  got : BitVec 64
  complete : Option Nat
  /-- complete when the deadline of the announced LB passed (R183) -/
  due : Bool := false
  deriving DecidableEq, Repr

/-- A tracked tensor (R171, R180). -/
structure Tracked where
  cfg : TrackedCfg := {}
  cur : Record := {}
  prev : Record := {}
  last : Record := {}
  prop : BitVec 16 := 0
  pvalid : Bool := false
  psrc : BitVec 2 := 0
  head : BitVec 5 := 0
  fill : BitVec 6 := 0
  adopted : BitVec 16 := 0
  /-- ring of committed amax values (R180); an absent slot reads 0x0000 -/
  ring : Tab (BitVec 16) := []
  staged : Option Staging := none
  deriving DecidableEq, Repr

/-- A lap record of a norm watch (R193). SUM counts units of 2^-160. -/
structure WatchRec where
  sum : Nat := 0
  closed : Bool := false
  nonfin : Bool := false
  satur : Bool := false
  stumbled : Bool := false
  ncur : BitVec 32 := 0
  deriving DecidableEq, Repr

/-- A norm watch (R188, R193). -/
structure Watch where
  en : Bool := false
  stb : Bool := false
  alpha : BitVec 3 := 2
  warm : BitVec 8 := 0x10
  ctx : BitVec 10 := 0
  layer : BitVec 12 := 0
  ratio : BitVec 16 := 0x4000
  cur : WatchRec := {}
  prev : WatchRec := {}
  nlast : BitVec 32 := 0
  avg : BitVec 32 := 0
  laps : BitVec 8 := 0
  avalid : Bool := false
  deriving DecidableEq, Repr

/-- A report on its way to a tracker (R173). -/
structure Report where
  entry : BitVec 14
  data : Record
  lap8 : BitVec 8
  par : Bool
  deriving DecidableEq, Repr

/-- A norm partial on its way to a watch (R187). -/
structure Partial where
  watch : BitVec 12
  sum : Nat
  nonfin : Bool
  satur : Bool
  close : Bool
  lap8 : BitVec 8
  par : Bool
  /-- MG's notice of a close alone, for a slice's instruction whose partial went before (log entry 20) -/
  bare : Bool := false
  deriving DecidableEq, Repr

/-- How far the close of the previous lap record has come (R177). -/
inductive Settle where
  | idle
  | settling (boundary : Nat) (rerun : Bool)
  | scanning (boundary : Nat) (rerun : Bool)
  deriving DecidableEq, Repr

/-- The four trackers' common lap bookkeeping. -/
structure Trackers where
  streams : Tab Stream := []
  tracked : Tab Tracked := []
  watches : Tab Watch := []
  reports : List Report := []
  partials : List Partial := []
  /-- queue, slot and stamp of slices' completed instructions that sent a partial with their close flag set, until MG has
  their COMPL (log entry 20) -/
  closings : List ((Nat × BitVec 16) × (BitVec 8 × Bool)) := []
  settle : Settle := .idle
  /-- tracker, region and cycle of scrubs that cleared EN, of the last MCLK cycle that had one (R413, R451) -/
  scrubs : List (Nat × Nat × Nat) := []
  /-- stamp of the previous record; the current one has the running lap's (R176) -/
  prevLap8 : BitVec 8 := 0
  prevPar : Bool := false
  deriving DecidableEq, Repr

/-! ### Units -/

/-- State of a member of the baton set (R212). -/
inductive Member where
  | steady | staged | armed | falseStart
  deriving DecidableEq, Repr

/-- An indirect port: IXSEL and the agent that wrote it (R451). VALID and DENIED are computed. -/
structure Port where
  sel : BitVec 32 := 0
  holder : Option Agent := none
  deriving DecidableEq, Repr

/-- The files of a converter, and the codebook file of a converter or builder (R43, R117, R118). -/
structure Files where
  cbActive : Tab (BitVec 256) := []
  cbStaged : Tab (BitVec 256) := []
  /-- slots whose active or staged copy a scrub found bad (R48) -/
  cbBadActive : List Nat := []
  cbBadStaged : List Nat := []
  /-- staged slots fixed when the unit acknowledged (R209), with their bad slots -/
  cbFixed : Option (Tab (BitVec 256) × List Nat) := none
  chActive : Tab (BitVec 32) := []
  chNext : Tab (BitVec 32) := []
  chWritten : List Nat := []
  chBadActive : List Nat := []
  chBadNext : List Nat := []
  rtActive : Tab (BitVec 64) := []
  rtNext : Tab (BitVec 64) := []
  rtWritten : List Nat := []
  rtBadActive : List Nat := []
  rtBadNext : List Nat := []
  /-- entries that LAP loads wrote in cycle `freshAt`: a lap boundary in that cycle leaves them for the next (R121) -/
  chFresh : List Nat := []
  rtFresh : List Nat := []
  freshAt : Nat := 0
  deriving DecidableEq, Repr

/-- A staging slot of a slice: which 32-byte units of a view slot have been written (R342, R343). -/
structure Staged where
  win : BitVec 6
  slot : Nat
  units : Tab (BitVec 256)
  /-- units written since the slot's last header unit -/
  fresh : List Nat
  deriving DecidableEq, Repr

/-- A widened slot in the read cache (R344). -/
structure Cached where
  win : BitVec 6
  slot : Nat
  bytes : List Byte
  deriving DecidableEq, Repr

/-- A slice's own registers and buffers (R338 to R349, R455). -/
structure Slice where
  addrmap : BitVec 2 := 0
  windows : Tab Window := []
  groups : Tab (BitVec 2048) := []
  /-- stack grant of a context: SBASE in [14:0], SLEN in [29:15], in 4 MiB (R455) -/
  grants : Tab (BitVec 30) := []
  staging : List Staged := []
  cache : List Cached := []
  /-- scale blocks that crossed the link and wait to be read: stream, tag, block (R354) -/
  scaleIn : List ((BitVec 16 × BitVec 16) × List Byte) := []
  /-- SCALE messages sent and not arrived: toward the slice, and toward MG; stream, tag, bytes of the block (R354) -/
  scaleAsked : List ((BitVec 16 × BitVec 16) × Nat) := []
  scaleOut : List ((BitVec 16 × BitVec 16) × Nat) := []
  deriving DecidableEq, Repr

/-- A numbered relay message not yet acknowledged (R371). -/
structure Unacked where
  mseq : BitVec 32
  bytes : List Byte
  deriving DecidableEq, Repr

/-- What a relay keeps for one peer of one group (R371, R372). -/
structure Peer where
  nextSend : BitVec 32 := 1
  nextRecv : BitVec 32 := 1
  /-- the first 64 have been sent -/
  unacked : List Unacked := []
  /-- VMAX and PMASK of its HELLO -/
  hello : Option (BitVec 4 × BitVec 16) := none
  /-- VER and PCOMMON of its AGREE -/
  agree : Option (BitVec 4 × BitVec 16) := none
  deriving DecidableEq, Repr

/-- A START that arrived before this member issued its transfer (R377). -/
structure EarlyStart where
  cseq : BitVec 16
  wdesc : BitVec 32
  ckind : BitVec 4
  n : BitVec 16
  m : BitVec 16
  /-- CHAN and SVC of its word 12 (R369) -/
  chan : BitVec 4
  deriving DecidableEq, Repr

/-- STATE of a group record (R367). -/
inductive GroupState where
  | closed | negotiating | opened | failed
  deriving DecidableEq, Repr

/-- A group record (R367). -/
structure Group where
  ctx : BitVec 10 := 0
  nmem : BitVec 7 := 0
  rank : BitVec 6 := 0
  st : GroupState := .closed
  gkey : BitVec 32 := 0
  pallow : BitVec 16 := 0xF
  pcommon : BitVec 16 := 0
  ver : BitVec 4 := 0
  cseq : BitVec 16 := 0
  peers : Tab (BitVec 16) := []
  links : Tab Peer := []
  /-- START messages whose CSEQ this member has not issued yet (R377) -/
  starts : List EarlyStart := []
  /-- transfers that ended before this member issued them: CSEQ, and FORMAT for a mismatch or TIMEOUT for an ABORT (R377,
  R378) -/
  doomed : List (BitVec 16 × Status) := []
  deriving DecidableEq, Repr

/-- A relay's own registers (R367, R380, R456). -/
structure Relay where
  groups : Tab Group := []
  resid : Tab (BitVec 128) := []
  rto : BitVec 16 := 0x14
  pto : BitVec 24 := 0x3E8
  hto : BitVec 24 := 0x2710
  deriving DecidableEq, Repr

/-- An instruction that a far unit received and has not issued (R355). -/
structure Arrived where
  queue : Nat
  slot : BitVec 16
  slots : List (BitVec 256)
  deriving DecidableEq, Repr

/-- A held product-table beat (R155). -/
structure Beat where
  control : BitVec 96
  lanes : List (BitVec 32)
  deriving DecidableEq, Repr

/-- Fence and health of a unit: its UNSTAT word (R430) and what MG keeps beside it. -/
structure Health where
  fenced : Bool := false
  /-- FKIND: true for an EPOCH fence -/
  epochFence : Bool := false
  cause : BitVec 8 := 0
  reload : Bool := false
  /-- cycle in which RELOAD was last set (R10) -/
  reloadAt : Nat := 0
  resetting : Bool := false
  cecnt : BitVec 8 := 0
  evlost : BitVec 8 := 0
  /-- SYNCED mismatches in a row (R215) -/
  mismatches : Nat := 0
  /-- cycle in which a matching SYNCED reached MG (R215) -/
  syncedAt : Option Nat := none
  /-- the running unit reset was ordered by UNITRESET (R402, R428) -/
  ordered : Bool := false
  /-- cycle of the last entry into unit reset after an error (R427) -/
  resetAt : Option Nat := none
  /-- a CORRECTED event was posted this lap (R427) -/
  corrected : Bool := false
  deriving DecidableEq, Repr

/-- A unit of the complex. Pacers stand for generator 0 of the unit's bank; at reset they hold seed_lane(0, 0)
of R270 (R271). -/
structure UnitSt where
  held : Bool := false
  health : Health := {}
  member : Member := .steady
  epoch : BitVec 4 := 0
  ackSeq : BitVec 8 := 0
  armSeq : BitVec 8 := 0
  ftab : Tab (BitVec 32) := []
  ftabStaged : Tab (BitVec 32) := []
  lmap : Tab (BitVec 32) := []
  lmapStaged : Tab (BitVec 32) := []
  closing : Bool := false
  issued : List Issued := []
  lastQueue : Option Nat := none
  /-- queue and slot of the instruction chosen for preemption at its next point (R319) -/
  chosen : Option (Nat × BitVec 16) := none
  /-- event records that MG has not accepted, oldest first (R422) -/
  events : List Event := []
  lossNext : Bool := false
  /-- a far unit has sent its oldest record; the records of it that have reached MG and wait for their turn (R421, R423) -/
  evSent : Bool := false
  evArrived : List Event := []
  /-- lap and parity a far unit took from its last BOUNDARY (R197, R303) -/
  farLap : BitVec 48 := 0
  farPar : Bool := false
  /-- lap after the LB that the last ANNOUNCE named (R346) -/
  announced : BitVec 48 := 0
  farStopAt : Option Nat := none
  farStopped : Bool := false
  /-- cycle of the ANN whose ANNOUNCE a far unit took last: the hold is for the LB that it announced (R200) -/
  farAnn : Option Nat := none
  pacer0 : BitVec 64 := 0xE233C153D429DED2
  pacer1 : BitVec 64 := 0x50906E11FCE1C5D1
  /-- cycles from now on that draws of each use have taken, the model's own (R268, log entry 16) -/
  drawnRound : Nat := 0
  drawnReal : Nat := 0
  drawnBits : Nat := 0
  reseed : Option (BitVec 64) := none
  ports : Tab Port := []
  files : Files := {}
  /-- program copies, newest first: context, program, record (R243, R351) -/
  programs : List (Nat × Nat × BitVec 1024) := []
  feed : List Beat := []
  /-- queue and slot of the TABLE BUILD whose beats the feed holds, the model's own (R155) -/
  feedOwner : Option (Nat × BitVec 16) := none
  srel1 : List (Agent × BitVec 32) := []
  /-- instructions received in DESC messages and not yet issued (R355) -/
  inbox : List Arrived := []
  /-- programs a slice asked for and has not received (R351) -/
  asked : List (Nat × Nat) := []
  slice : Slice := {}
  relay : Relay := {}
  instr : BitVec 32 := 0
  errs : BitVec 32 := 0
  deriving DecidableEq, Repr

/-! ### Queues and contexts -/

/-- STATE of a queue (R314). -/
inductive QState where
  | off | run | halted | suspended | closing | suspending
  deriving DecidableEq, Repr

/-- A queue block (R314). -/
structure Queue where
  rbase : BitVec 32 := 0
  rsize : BitVec 4 := 0
  bib : Bib := 0
  prio : BitVec 3 := 0
  halte : Bool := false
  cbase : BitVec 32 := 0
  csize : BitVec 4 := 0
  head : BitVec 16 := 0
  tail : BitVec 16 := 0
  ctail : BitVec 16 := 0
  chead : BitVec 16 := 0
  stail : BitVec 16 := 0
  seq : BitVec 16 := 0
  st : QState := .off
  pre : Bool := false
  dberr : Bool := false
  /-- cycle in which DBERR was last set (R10) -/
  dberrAt : Nat := 0
  hstat : BitVec 8 := 0
  prog : BitVec 32 := 0
  proghi : BitVec 16 := 0
  dcrc : BitVec 32 := 0
  bci : BitVec 32 := 0
  /-- slot counter of the next instruction to issue, MG's own (R317) -/
  next : BitVec 16 := 0
  /-- records owed by issued instructions (R317) -/
  owed : Nat := 0
  /-- the preempted instruction, with what it keeps (R325) -/
  parked : Option Issued := none
  /-- CRC-32C of the slots, seed and lap of the last instruction preempted here, for a restored block's keyed words (R280,
  log entry 47) -/
  kept : Option (BitVec 32 × BitVec 64 × BitVec 48) := none
  /-- closed by step 6 of an UPDATE: OFF until bound to another stream engine (R410) -/
  mustMove : Bool := false
  deriving DecidableEq, Repr

/-- A context: its grant record (R322) and its registers (R323). -/
structure Context where
  grant : BitVec 384 := 0
  cseed : BitVec 64 := 0
  sumbase : BitVec 32 := 0
  lapmb : BitVec 8 := 0
  swait : BitVec 24 := 0x3E8
  permr : Bool := false
  /-- cycle in which PERMR was last set (R10) -/
  permrAt : Nat := 0
  cstate : BitVec 2 := 0
  /-- units that took a queue of the context at SUSPEND (R329) -/
  unitsAtSuspend : List Nat := []
  /-- a SUSPEND with FORCE is in effect (R328) -/
  force : Bool := false
  /-- a REVOKE waits for every queue to be OFF (R402) -/
  revoking : Bool := false
  deriving DecidableEq, Repr

/-- A last-use entry (R166). -/
structure LastUse where
  tied : Bool := false
  st : BitVec 2 := 0
  uses : BitVec 8 := 0
  ctx : BitVec 10 := 0
  laplo : BitVec 32 := 0
  tensor : BitVec 24 := 0
  deriving DecidableEq, Repr

/-- MG's tables. -/
structure Tables where
  queues : Tab Queue := []
  contexts : Tab Context := []
  /-- format tables, entry i of context n at 64 n + i: staged, active, and as fixed for a running baton -/
  ftStaged : Tab (BitVec 32) := []
  ftActive : Tab (BitVec 32) := []
  /-- layer map words of R204; the staged copy holds the RW fields only -/
  lmStaged : Tab (BitVec 32) := []
  lmActive : Tab (BitVec 32) := []
  startList : Tab (BitVec 128) := []
  lastUse : Tab LastUse := []
  /-- instructions issued so far, the model's own count -/
  serial : Nat := 0
  /-- SEQ of mailbox slot k of context n at 256 n + k (R259) -/
  sumSeq : Tab (BitVec 16) := []
  deriving DecidableEq, Repr

/-! ### The pace bus and the baton -/

/-- The pace bus and what the compute die took from it (R195 to R200). -/
structure Pace where
  lap : BitVec 48 := 0
  split : BitVec 8 := 0
  phase : BitVec 2 := 0
  /-- the pins as driven -/
  busLap : BitVec 48 := 0
  busSplit : BitVec 8 := 0
  busPhase : BitVec 2 := 0
  parity : Bool := false
  /-- the outstanding announcement: its cycle and RPT -/
  ann : Option (Nat × Bool) := none
  /-- the commit point of the announced LB has passed (R209) -/
  passed : Bool := false
  lastLb : Option Nat := none
  hold : Bool := false
  deriving DecidableEq, Repr

/-- BSTATE of LAPSTAT (R225). -/
inductive BState where
  | idle | staging | armed | confirming
  deriving DecidableEq, Repr

/-- MG's side of the baton, the fallback and the return steps (R207 to R225). -/
structure Baton where
  fbudget : BitVec 12 := 8
  defermax : BitVec 4 := 4
  clean : BitVec 16 := 0x40
  epoch : BitVec 4 := 0
  committedSeq : BitVec 8 := 0
  attempt : BitVec 8 := 1
  cleanrun : BitVec 16 := 0
  stumble : Bool := false
  pending : Bool := false
  /-- a request made after the commit point of an armed baton (R209) -/
  pendingNext : Bool := false
  st : BState := .idle
  defcnt : BitVec 4 := 0
  /-- SEQ of the last staging -/
  seq : BitVec 8 := 0
  /-- SEQ of the last BOUNDARY sent -/
  boundarySeq : BitVec 8 := 0
  /-- what was staged: format tables, layer map -/
  ftab : Tab (BitVec 32) := []
  lmap : Tab (BitVec 32) := []
  /-- STAGING: the members at the last STAGE to all, whose ACKs the commit needs (R429); CONFIRMING: those that owe DONE -/
  members : List Nat := []
  acks : List Nat := []
  dones : List Nat := []
  /-- DONE received with another epoch (R211) -/
  wrongDone : List (Nat × BitVec 4) := []
  /-- the running baton carries the width changes of a re-run: layer and new WIDTH, and the REQ layers it took up -/
  widths : List (Nat × BitVec 2) := []
  taken : List Nat := []
  /-- layer of a return step due at the next lap-end boundary (R222) -/
  returnStep : Option Nat := none
  /-- the announced LB may commit no baton (R198 row 4) -/
  barred : Bool := false
  /-- committed batons (R314 BCI) -/
  commits : BitVec 32 := 0
  /-- the current and the previous record saw a stumble, or a request was accepted from it (R221) -/
  dirtyCur : Bool := false
  dirtyPrev : Bool := false
  pmask : BitVec 64 := 0
  pmaskStaged : Option (BitVec 64) := none
  pmaskWait : List Nat := []
  pmaskLast : Option Nat := none
  deriving DecidableEq, Repr

/-! ### MG -/

/-- MSTAT.STEP (R395). -/
inductive Step where
  | reset | chain | selftest | verify | ready
  deriving DecidableEq, Repr

/-- MSTAT.MODE (R395). -/
inductive Mode where
  | none | coach | minimal | updating
  deriving DecidableEq, Repr

/-- MG's own registers (R442 to R445). -/
structure Mg where
  step : Step := .reset
  mode : Mode := .none
  vres : BitVec 4 := 0
  updbusy : Bool := false
  updint : Bool := false
  tabgrant : BitVec 64 := 0
  pacroot : BitVec 64 := 0
  drainus : BitVec 16 := 0x64
  mres : BitVec 8 := 0
  mresVres : BitVec 4 := 0
  mbusy : Bool := false
  marg : BitVec 512 := 0
  margth : BitVec 8 := 0x20
  telbase : BitVec 32 := 0
  teln : BitVec 13 := 0
  demovr : BitVec 16 := 0
  meas : BitVec 384 := 0
  /-- aperture offset and value latched by a 32-bit read of a low half (R11) -/
  latch : Option (Nat × BitVec 32) := none
  /-- the module fault line, driven by MG_FATAL (R427) -/
  fatal : Bool := false
  /-- staged image of a running UPDATE: address and length (R410) -/
  update : Option (BitVec 32 × BitVec 32) := none
  linkwait : Bool := false
  verified : Bool := false
  /-- start-list and built-in actions waiting for IDLE: entry (or 0x100 + action), action, ARG (R203) -/
  waiting : List (BitVec 9 × BitVec 8 × BitVec 16) := []
  /-- background actions begun: entry, action, ARG (R412) -/
  background : List (BitVec 9 × BitVec 8 × BitVec 16) := []
  /-- class that the next pass of a SCRUB of class 0 checks (R412, R413) -/
  scrubNext : Nat := 1
  /-- the store of a running UPDATE is written and verified: Coach waits for its stream engine (R410 step 6) -/
  installed : Bool := false
  /-- the UPDATE_BEGIN record of the running UPDATE is committed: step 4 may begin (R410) -/
  begun : Bool := false
  deriving DecidableEq, Repr

/-- One-time programmable storage and the image store (R401, R403): preserved by every reset. -/
structure Storage where
  keyh : Tab (BitVec 384) := []
  krev : BitVec 4 := 0
  svnfuse : BitVec 64 := 0
  pwrcal : BitVec 512 := 0
  image : Tab Byte := []
  deriving DecidableEq, Repr

/-- The event log (R423, R424). -/
structure Log where
  evbase : BitVec 32 := 0
  evn : BitVec 14 := 0
  evint : Bool := false
  next : BitVec 16 := 0
  drop : BitVec 16 := 0
  ack : BitVec 16 := 0
  lastBib : Nat := 0
  backlog : List (BitVec 256) := []
  deriving DecidableEq, Repr

/-- The finish record (R431 to R438): the slots survive every reset. -/
structure Finish where
  slots : Tab (BitVec 512) := []
  head : Option (BitVec 13) := none
  scanned : Bool := false
  rseq : BitVec 32 := 0
  boot : BitVec 20 := 0
  weak : BitVec 10 := 0
  /-- records waiting for commit, oldest first: RTYPE and body (bytes 8 to 55) -/
  waiting : List (BitVec 8 × BitVec 384) := []
  inLap : Nat := 0
  lost : BitVec 32 := 0
  /-- PFAIL is asserted since this cycle -/
  pfailAt : Option Nat := none
  wearPos : BitVec 13 := 0
  deriving DecidableEq, Repr

/-- Power budget and governor (R417 to R420), telemetry (R416). -/
structure Power where
  cap : BitVec 16 := 0xFFFF
  capSeq : BitVec 8 := 0
  duty : BitVec 5 := 16
  /-- CAP received: WATTS, SEQ, window boundaries still to come -/
  pendingCap : Option (BitVec 16 × BitVec 8 × Nat) := none
  floorPosted : Bool := false
  demandSeq : BitVec 8 := 0
  demand : BitVec 16 := 0
  peak : BitVec 16 := 0
  lastPeak : BitVec 16 := 0
  throtw : BitVec 32 := 0
  /-- CCLK cycles withheld from every converter and stream engine in this attempt (R416, R419) -/
  throt : BitVec 32 := 0
  /-- the held telemetry snapshot, CRC included (R416) -/
  snapshot : Option (List Byte) := none
  telIndex : Nat := 0
  lostSnap : BitVec 16 := 0
  deriving DecidableEq, Repr

/-! ### Slice links -/

/-- STATE of a slice-link end (R358, R447). -/
inductive LinkState where
  | reset | detect | advertise | select | train | active | retrain | down
  deriving DecidableEq, Repr

/-- One end of a slice link (R357 to R360). While it retrains, STATE reads RETRAIN and `st` is the step it is in
(R358). -/
structure LinkEnd where
  st : LinkState := .reset
  retraining : Bool := false
  lmask : BitVec 16 := 0
  fails : Nat := 0
  mismatches : Nat := 0
  /-- valid training sets received in a row -/
  sets : Nat := 0
  /-- the partner's LMASK, RATES, VMAX, FEAT and STACK as its last set gave them -/
  partnerMask : BitVec 16 := 0
  partnerRates : BitVec 3 := 0
  partnerVmax : BitVec 4 := 0
  partnerFeat : BitVec 32 := 0
  partnerStack : BitVec 4 := 0
  mode : BitVec 4 := 0
  ver : BitVec 4 := 0
  first : BitVec 4 := 0
  /-- modes numbered below this one are excluded (R363) -/
  least : BitVec 4 := 1
  /-- why it retrains: 1 resends, 2 margin, 3 software (R425) -/
  cause : BitVec 2 := 0
  /-- this end has sent CONFIRM (R358 TRAIN) -/
  confirmed : Bool := false
  /-- SEQ of the last flit sent and of the last good flit received -/
  seqSent : BitVec 8 := 0
  seqGot : BitVec 8 := 0
  replay : List (BitVec 512) := []
  /-- resends in a row without ACK advancing -/
  resends : Nat := 0
  credit : Nat := 0
  freed : Nat := 0
  /-- chunks of the message being assembled, and of a BATON that came ahead of its rest (R362) -/
  partialMsg : List Byte := []
  partialBaton : List Byte := []
  /-- the rest of the message whose first chunk has been sent, that of a BATON sent ahead of it, and the messages behind -/
  sending : List Byte := []
  sendingBaton : List Byte := []
  outq : List (List Byte) := []
  deriving DecidableEq, Repr

/-- A slice link: the MG port's end and the slice's end, and the margins last measured (R447). -/
structure Link where
  mg : LinkEnd := {}
  sl : LinkEnd := {}
  /-- common features -/
  feat : BitVec 32 := 0
  margins : Tab (BitVec 8) := []
  deriving DecidableEq, Repr

/-! ### The state -/

/-- The complex, the memories it meets, and the commands waiting for it. -/
structure State where
  pending : List Instr
  now : Nat
  freeCtr : Nat
  pace : Pace
  mg : Mg
  baton : Baton
  power : Power
  log : Log
  finish : Finish
  storage : Storage
  tables : Tables
  trackers : Trackers
  units : Tab UnitSt
  links : Tab Link
  mem : List Host.Cell
  out : List Out
  deriving DecidableEq, Repr

/-- The complex right after power-on reset (R391, R393): every table at its reset value, no bib held but MG's,
every slice link in RESET. Storage and finish record are those of a part never powered (log entry 7). -/
def State.reset : State :=
  { pending := [], now := 0, freeCtr := 0, pace := {}, mg := {}, baton := {}, power := {}, log := {},
    finish := {}, storage := {}, tables := {}, trackers := {},
    units := [(0, { held := true })], links := [], mem := [], out := [] }

end Sys2Proof.Machine
end

