-- ==== Sys2Proof/Machine/Ops.lean ====
section
/-!
DEFINITION. Named operations over tables, memory, bytes and the parts of State.
-/

namespace Sys2Proof.Machine

/-! ### Tables -/

/-- Entry `k` of a table whose unlisted entries are `d`. -/
def tget {α : Type} (d : α) : Tab α → Nat → α
  | [], _ => d
  | (i, v) :: t, k => if i = k then v else tget d t k

/-- The table with entry `k` set to `v`; an entry equal to the default is not listed. -/
def tset {α : Type} [DecidableEq α] (d : α) (t : Tab α) (k : Nat) (v : α) : Tab α :=
  t.filter (fun c => decide (c.1 < k)) ++ (if v = d then [] else [(k, v)])
    ++ t.filter (fun c => decide (k < c.1))

/-- Canonical form of a table: numbers strictly rise and no entry equals the default. -/
def twf {α : Type} [DecidableEq α] (d : α) : Tab α → Bool
  | [] => true
  | [(_, v)] => decide (v ≠ d)
  | (i, v) :: (j, w) :: t => decide (v ≠ d) && decide (i < j) && twf d ((j, w) :: t)

/-! ### Memory: scratchpad and stacks in one address space -/

/-- Memory: cells in canonical form; an unlisted byte reads 0 (log entry 4). -/
abbrev Memory := List Host.Cell

/-- The canonical form of memory. -/
abbrev Memory.wf (m : Memory) : Bool := twf (0 : Byte) m

/-- Memory number of byte `a` of the scratchpad; addresses wrap at 2^32 (R294). -/
def spadKey (a : Nat) : Nat := a % 2 ^ 32

/-- Memory number of byte `a` of stack `s`. -/
def stackKey (s a : Nat) : Nat := (s + 1) * 2 ^ 40 + a

/-- One byte of memory. -/
def readByte (m : Memory) (k : Nat) : Byte := tget 0 m k

/-- The cells of a run of bytes from number `k`, zero bytes unlisted. -/
def cellsOf (k : Nat) : List Byte → Memory
  | [] => []
  | b :: bs => if b = 0 then cellsOf (k + 1) bs else (k, b) :: cellsOf (k + 1) bs

/-- Memory with a run of bytes written from number `k`. -/
def writeBytes (m : Memory) (k : Nat) (bs : List Byte) : Memory :=
  m.filter (fun c => decide (c.1 < k)) ++ cellsOf k bs
    ++ m.filter (fun c => decide (k + bs.length ≤ c.1))

/-- `n` bytes of memory from number `k`. -/
def readRun (m : Memory) (k n : Nat) : List Byte := (List.range n).map (fun i => readByte m (k + i))

/-- `n` bytes from number `k`, read 64 at a time from the cells that can hold them. -/
def readBytes (m : Memory) (k n : Nat) : List Byte :=
  (List.range (n / 64)).flatMap (fun c =>
      readRun (m.filter (fun x => decide (k + 64 * c ≤ x.1) && decide (x.1 < k + 64 * c + 64))) (k + 64 * c) 64)
    ++ readRun (m.filter (fun x => decide (k + 64 * (n / 64) ≤ x.1))) (k + 64 * (n / 64)) (n % 64)

/-! ### Bytes, words and bits (R6, R7) -/

/-- The number that bytes hold, the first byte lowest (R7). -/
def leNat : List Byte → Nat
  | [] => 0
  | b :: bs => b.toNat + 256 * leNat bs

/-- `n` bytes that hold a number, lowest byte first. -/
def leBytes : Nat → Nat → List Byte
  | 0, _ => []
  | n + 1, x => wordOf 8 x :: leBytes n (x / 256)

/-- A word of `w` bits from bytes. -/
def wordLE (w : Nat) (bs : List Byte) : BitVec w := wordOf w (leNat bs)

/-- The bytes of a word of 8·n bits. -/
def bytesLE (n : Nat) {w : Nat} (x : BitVec w) : List Byte := leBytes n x.toNat

/-- A word with bits `lo` to `lo + w - 1` replaced. -/
def putBits {n w : Nat} (x : BitVec n) (lo : Nat) (v : BitVec w) : BitVec n :=
  (x &&& ~~~((BitVec.setWidth n (BitVec.allOnes w)) <<< lo)) ||| ((BitVec.setWidth n v) <<< lo)

/-- 32-bit word `i` of a record. -/
def word32 {n : Nat} (x : BitVec n) (i : Nat) : BitVec 32 := bitsAt x (32 * i) 32

/-- A truth value as one bit. -/
def bit (b : Bool) : BitVec 1 := if b then 1 else 0

/-- Addition that saturates at all ones (R79). -/
def satAdd {w : Nat} (a b : BitVec w) : BitVec w :=
  if a.toNat + b.toNat < 2 ^ w then a + b else BitVec.allOnes w

/-- A number as a saturating counter value. -/
def satOf (w n : Nat) : BitVec w := if n < 2 ^ w then wordOf w n else BitVec.allOnes w

/-- A signed 32-bit field as an integer (R6). -/
def sInt (x : BitVec 32) : Int := x.toInt

/-- Integer quotient rounded up. -/
def ceilDiv (a b : Nat) : Nat := (a + b - 1) / b

/-- Pad a list with `d` to `n` items, or cut it there. -/
def fitTo {α : Type} (n : Nat) (d : α) (l : List α) : List α := l.take n ++ List.replicate (n - l.length) d

/-- The runs of `n` items of a list. -/
def chunksOf {α : Type} (n : Nat) : Nat → List α → List (List α)
  | 0, _ => []
  | k + 1, l => l.take n :: chunksOf n k (l.drop n)

/-! ### CRC-32C (R87) -/

/-- Eight shifts of the reflected CRC-32C register. -/
def crcShift : Nat → BitVec 32 → BitVec 32
  | 0, c => c
  | k + 1, c => crcShift k (if c.getLsbD 0 then (c >>> 1) ^^^ 0x82F63B78#32 else c >>> 1)

/-- The CRC register after one byte. -/
def crcByte (c : BitVec 32) (b : Byte) : BitVec 32 := crcShift 8 (c ^^^ b.setWidth 32)

/-- CRC-32C of a byte string (R87). -/
def crc32c (bs : List Byte) : BitVec 32 := ~~~(bs.foldl crcByte 0xFFFFFFFF#32)

/-! ### Units by bib (R396) -/

/-- Kind of the unit at a chain position. -/
def kindOf (b : Nat) : Option Kind :=
  if b = 0 then some .mg
  else if b ≤ 0x010 then some .pt
  else if b ≤ 0x050 then some .cv
  else if b ≤ 0x070 then some .se
  else if b ≤ 0x074 then some .tk
  else if b ≤ 0x078 then some .sp
  else if b ≤ 0x088 then some .rl
  else if b ≤ 0x098 then some .sl
  else none

/-- First bib of a kind. -/
def firstBib : Kind → Nat
  | .mg => 0 | .pt => 0x001 | .cv => 0x011 | .se => 0x051 | .tk => 0x071 | .sp => 0x075 | .rl => 0x079 | .sl => 0x089

/-- Units of a kind (R20). -/
def countOf : Kind → Nat
  | .mg => 1 | .pt => 16 | .cv => 64 | .se => 32 | .tk => 4 | .sp => 4 | .rl => 16 | .sl => 16

/-- Every bib that generation 1 assigns. -/
def allBibs : List Nat := List.range 0x099

/-- KIND code of POS (R398). -/
def Kind.code : Kind → BitVec 4
  | .cv => 1 | .se => 2 | .pt => 3 | .tk => 4 | .sp => 5 | .mg => 6 | .rl => 7 | .sl => 8

/-- Chain position within the kind. -/
def indexOf (b : Nat) : Nat := match kindOf b with
  | some k => b - firstBib k
  | none => 0

/-- DIE of POS (R398). -/
def dieOf (b : Nat) : Nat := match kindOf b with
  | some .rl => 1
  | some .sl => 2 + (b - 0x089)
  | _ => 0

/-- The unit is of a kind that can be in the baton set (R207). -/
def batonKind (b : Nat) : Bool := match kindOf b with
  | some .cv | some .se | some .pt | some .sp | some .sl | some .rl => true
  | _ => false

/-- The unit is far from the pace bus (R200). -/
def isFar (b : Nat) : Bool := match kindOf b with
  | some .sl | some .rl => true
  | _ => false

/-! ### Parts of State -/

namespace State

/-- The unit at a bib. -/
def unit (s : State) (b : Nat) : UnitSt := tget {} s.units b

/-- The state with a unit replaced. -/
def setUnit (s : State) (b : Nat) (u : UnitSt) : State := { s with units := tset {} s.units b u }

/-- The state with a unit changed. -/
def onUnit (s : State) (b : Nat) (f : UnitSt → UnitSt) : State := s.setUnit b (f (s.unit b))

/-- A queue block. -/
def queue (s : State) (q : Nat) : Queue := tget {} s.tables.queues q

/-- The state with a queue block replaced. -/
def setQueue (s : State) (q : Nat) (v : Queue) : State :=
  { s with tables := { s.tables with queues := tset {} s.tables.queues q v } }

/-- The state with a queue block changed. -/
def onQueue (s : State) (q : Nat) (f : Queue → Queue) : State := s.setQueue q (f (s.queue q))

/-- A context. -/
def context (s : State) (n : Nat) : Context := tget {} s.tables.contexts n

/-- The state with a context replaced. -/
def setContext (s : State) (n : Nat) (v : Context) : State :=
  { s with tables := { s.tables with contexts := tset {} s.tables.contexts n v } }

/-- A stream entry. -/
def stream (s : State) (n : Nat) : Stream := tget {} s.trackers.streams n

/-- The state with a stream entry replaced. -/
def setStream (s : State) (n : Nat) (v : Stream) : State :=
  { s with trackers := { s.trackers with streams := tset {} s.trackers.streams n v } }

/-- The state with a stream entry changed. -/
def onStream (s : State) (n : Nat) (f : Stream → Stream) : State := s.setStream n (f (s.stream n))

/-- A tracked tensor. -/
def tracked (s : State) (n : Nat) : Tracked := tget {} s.trackers.tracked n

/-- The state with a tracked tensor replaced. -/
def setTracked (s : State) (n : Nat) (v : Tracked) : State :=
  { s with trackers := { s.trackers with tracked := tset {} s.trackers.tracked n v } }

/-- A norm watch. -/
def watch (s : State) (n : Nat) : Watch := tget {} s.trackers.watches n

/-- The state with a norm watch replaced. -/
def setWatch (s : State) (n : Nat) (v : Watch) : State :=
  { s with trackers := { s.trackers with watches := tset {} s.trackers.watches n v } }

/-- A slice link. -/
def link (s : State) (n : Nat) : Link := tget {} s.links n

/-- The state with a slice link replaced. -/
def setLink (s : State) (n : Nat) (v : Link) : State := { s with links := tset {} s.links n v }

/-- A last-use entry. -/
def lastUse (s : State) (n : Nat) : LastUse := tget {} s.tables.lastUse n

/-- The state with a last-use entry replaced. -/
def setLastUse (s : State) (n : Nat) (v : LastUse) : State :=
  { s with tables := { s.tables with lastUse := tset {} s.tables.lastUse n v } }

/-- The state with bytes written to the scratchpad. -/
def writeSpad (s : State) (a : Nat) (bs : List Byte) : State := { s with mem := writeBytes s.mem (spadKey a) bs }

/-- Bytes of the scratchpad. -/
def readSpad (s : State) (a n : Nat) : List Byte := readBytes s.mem (spadKey a) n

/-- The state with something driven out. -/
def emit (s : State) (o : Out) : State := { s with out := s.out ++ [o] }

/-- A value the spec leaves open, and the state with the counter read (log entry 6). -/
def draw (s : State) : BitVec 64 × State := (Config.freeWord s.freeCtr, { s with freeCtr := s.freeCtr + 1 })

/-- Fold a change over a list. -/
def each {α : Type} (s : State) (l : List α) (f : State → α → State) : State := l.foldl f s

end State

/-- The unit at a bib answers and does its work: it holds its bib and is not fenced (R30, R397). -/
def State.serving (s : State) (b : Nat) : Bool := (s.unit b).held && !(s.unit b).health.fenced

/-- Bibs of a kind. -/
def bibsOf (k : Kind) : List Nat := (List.range (countOf k)).map (· + firstBib k)

/-- Members of the baton set (R207). -/
def State.members (s : State) : List Nat := allBibs.filter (fun b => batonKind b && s.serving b)

/-- MG has stopped on MG_FATAL (R427): every command but POWER_ON_RESET then has no effect. -/
def live (s t : State) : Host.Outcome State Fault Refusal := .next (if s.mg.fatal then s else t)

/-- An aperture access: it discards a latched high half (R11). -/
def access (s t : State) : Host.Outcome State Fault Refusal := live s { t with mg := { t.mg with latch := none } }

/-- Microseconds in CCLK cycles, rounded up (R8). -/
def usCclk (n : Nat) : Nat := 1800 * n

end Sys2Proof.Machine
end

