-- ==== Sys2Proof/Machine/Numeric.lean ====
section
/-!
DEFINITION. Exact values and the one rounding of a conversion (R64 to R79), and the exact functions of R246.
-/

namespace Sys2Proof.Machine

/-- A number; `neg` is the sign of a zero. -/
def xval (q : ℚ) (neg : Bool) : XVal := .fin q (if q = 0 then neg else decide (q < 0))

/-- The integer zero is +0 (R64). -/
def xint (i : Int) : XVal := .fin i (decide (i < 0))

/-- The value is a number other than zero. -/
def XVal.nonzero : XVal → Bool
  | .fin q _ => decide (q ≠ 0)
  | _ => false

/-- The value is a number. -/
def XVal.isFin : XVal → Bool
  | .fin _ _ => true
  | _ => false

/-- The value is NaN. -/
def XVal.isNan : XVal → Bool
  | .nan _ => true
  | _ => false

/-- Product under R64. A NaN keeps the sign of the first NaN operand. -/
def XVal.mul : XVal → XVal → XVal
  | .nan s, _ => .nan s
  | _, .nan s => .nan s
  | .inf a, .inf b => .inf (a ^^ b)
  | .inf a, .fin q b => if q = 0 then .nan false else .inf (a ^^ b)
  | .fin q a, .inf b => if q = 0 then .nan false else .inf (a ^^ b)
  | .fin p a, .fin q b => xval (p * q) (a ^^ b)

/-- Sum of two terms under R64. -/
def XVal.add : XVal → XVal → XVal
  | .nan s, _ => .nan s
  | _, .nan s => .nan s
  | .inf a, .inf b => if a = b then .inf a else .nan false
  | .inf a, .fin _ _ => .inf a
  | .fin _ _, .inf b => .inf b
  | .fin p a, .fin q b => xval (p + q) (a && b)

/-- The sign flipped. -/
def XVal.negate : XVal → XVal
  | .nan s => .nan s
  | .inf s => .inf (!s)
  | .fin q s => .fin (-q) (!s)

/-- Quotient under R64 and R247. -/
def XVal.div : XVal → XVal → XVal
  | .nan s, _ => .nan s
  | _, .nan s => .nan s
  | .inf _, .inf _ => .nan false
  | .inf a, .fin _ b => .inf (a ^^ b)
  | .fin _ a, .inf b => .fin 0 (a ^^ b)
  | .fin p a, .fin q b =>
    if q = 0 then (if p = 0 then .nan false else .inf (a ^^ b)) else xval (p / q) (a ^^ b)

/-! ### Powers of two, logarithms and roots of exact numbers -/

/-- 2 to an integer power. -/
def pow2 (e : Int) : ℚ := if 0 ≤ e then (2 ^ e.toNat : Nat) else mkRat 1 (2 ^ (-e).toNat)

/-- `a / (d * 2^k)` as a fraction of naturals. -/
def fracAt (q : ℚ) (k : Int) : Nat × Nat :=
  if 0 ≤ k then (q.num.natAbs, q.den * 2 ^ k.toNat) else (q.num.natAbs * 2 ^ (-k).toNat, q.den)

/-- floor(log2 |q|) for q nonzero (R65). -/
def ilog2 (q : ℚ) : Int :=
  let e := (q.num.natAbs.log2 : Int) - (q.den.log2 : Int)
  let f := fracAt q e
  if f.1 < f.2 then e - 1 else e

/-- Smallest e with |q| ≤ 2^e, for q nonzero (R113). -/
def clog2 (q : ℚ) : Int :=
  let e := ilog2 q
  let f := fracAt q e
  if f.1 = f.2 then e else e + 1

/-- One step of the bit-by-bit square root: trial bit `b` of root `r`. -/
def sqrtBit (n : Nat) (r b : Nat) : Nat := if (r + 2 ^ b) * (r + 2 ^ b) ≤ n then r + 2 ^ b else r

/-- Integer square root of a number below 4^k. -/
def isqrt (n : Nat) : Nat → Nat → Nat
  | 0, r => r
  | k + 1, r => isqrt n k (sqrtBit n r k)

/-- A rational with the sign and magnitude order of the root of q that rounds as the root does: the root to
`2^-80` of its size, with a sticky half unit where it is not exact. -/
def sqrtNear (q : ℚ) : ℚ :=
  let k : Int := 160 - 2 * (ilog2 q / 2)
  let f := fracAt q (-k)
  let n := f.1 / f.2
  let r := isqrt n 84 0
  (if r * r * f.2 = f.1 then (r : ℚ) else (r : ℚ) + mkRat 1 2) * pow2 (-(k / 2))

/-! ### Rounding (R65 to R69) -/

/-- A rounding mode, with the word w of R68. -/
inductive Round where
  | rne
  | sr (w : BitVec 16)
  | rtz
  deriving DecidableEq, Repr

/-- The magnitude n / d rounded to an integer (R66 to R68); n / d is not negative. -/
def roundMag (m : Round) (n d : Nat) : Nat :=
  let a := n / d
  let r := n % d
  match m with
  | .rtz => a
  | .rne => if 2 * r > d || (2 * r = d && a % 2 = 1) then a + 1 else a
  | .sr w => if r * 65536 / d + w.toNat ≥ 65536 then a + 1 else a

/-- q rounded to an integer, the sign kept apart. -/
def roundInt (m : Round) (q : ℚ) : Int :=
  let n : Int := roundMag m q.num.natAbs q.den
  if q < 0 then -n else n

/-! ### Floating formats (R34, R35) -/

/-- Parameters of a floating format: exponent and mantissa bits, bias, the code of the largest finite magnitude, the
magnitude code of infinity where there is one, and the NaN that Teonuc writes. -/
structure FloatFmt where
  eBits : Nat
  mBits : Nat
  bias : Int
  maxCode : Nat
  infCode : Option Nat
  nanCode : Option Nat
  deriving DecidableEq, Repr

/-- Width of a format. -/
def FloatFmt.width (f : FloatFmt) : Nat := 1 + f.eBits + f.mBits

/-- binary32 -/
def f32 : FloatFmt := ⟨8, 23, 127, 0x7F7FFFFF, some 0x7F800000, some 0x7FC00000⟩
/-- binary16 -/
def f16 : FloatFmt := ⟨5, 10, 15, 0x7BFF, some 0x7C00, some 0x7E00⟩
/-- bfloat16 -/
def bf16 : FloatFmt := ⟨8, 7, 127, 0x7F7F, some 0x7F80, some 0x7FC0⟩
/-- FP8 E4M3 -/
def e4m3 : FloatFmt := ⟨4, 3, 7, 0x7E, none, some 0x7F⟩
/-- FP8 E5M2 -/
def e5m2 : FloatFmt := ⟨5, 2, 15, 0x7B, some 0x7C, some 0x7E⟩
/-- FP6 E3M2 -/
def e3m2 : FloatFmt := ⟨3, 2, 3, 0x1F, none, none⟩
/-- FP6 E2M3 -/
def e2m3 : FloatFmt := ⟨2, 3, 1, 0x1F, none, none⟩
/-- FP4 E2M1 -/
def e2m1 : FloatFmt := ⟨2, 1, 1, 0x7, none, none⟩

/-- Value of a magnitude code at or below the largest finite one (R34). -/
def FloatFmt.magnitude (f : FloatFmt) (c : Nat) : ℚ :=
  let e := c / 2 ^ f.mBits
  let m := c % 2 ^ f.mBits
  if e = 0 then (m : ℚ) * pow2 (1 - f.bias - f.mBits)
  else ((2 ^ f.mBits + m : Nat) : ℚ) * pow2 ((e : Int) - f.bias - f.mBits)

/-- Value of an encoding, every NaN alike but for its sign (R34 to R37). -/
def FloatFmt.decode (f : FloatFmt) (code : Nat) : XVal :=
  let neg := decide (code / 2 ^ (f.eBits + f.mBits) % 2 = 1)
  let c := code % 2 ^ (f.eBits + f.mBits)
  if c ≤ f.maxCode then
    let v := f.magnitude c
    .fin (if neg then -v else v) neg
  else if f.infCode = some c then .inf neg
  else .nan neg

/-- The code is a nonzero subnormal (R34). -/
def FloatFmt.subnormal (f : FloatFmt) (code : Nat) : Bool :=
  let c := code % 2 ^ (f.eBits + f.mBits)
  decide (0 < c) && decide (c < 2 ^ f.mBits)

/-- Encoding of a magnitude code with a sign. -/
def FloatFmt.signed (f : FloatFmt) (neg : Bool) (c : Nat) : Nat :=
  if neg then c + 2 ^ (f.eBits + f.mBits) else c

/-- Which counter of R78 an element takes. -/
inductive Counted where
  | none | nan | clip | flush
  deriving DecidableEq, Repr

/-- Magnitude code of a nonzero number on the unbounded grid of R65. -/
def FloatFmt.roundCode (f : FloatFmt) (m : Round) (q : ℚ) : Nat :=
  let e := max (ilog2 q) (1 - f.bias)
  let fr := fracAt q (e - f.mBits)
  roundMag m fr.1 fr.2 + (e - (1 - f.bias)).toNat * 2 ^ f.mBits

/-- What a floating destination writes for t, and what it counts (R66 to R78). `dazzed` says that t is zero because DAZ
read a nonzero element as zero. -/
def FloatFmt.encode (f : FloatFmt) (m : Round) (sat ftz : Bool) (t : XVal) (dazzed : Bool) : Nat × Counted :=
  match t with
  | .nan s => ((match f.nanCode with | some c => c | Option.none => f.signed s f.maxCode), .nan)
  | .inf s =>
    if sat then (f.signed s f.maxCode, .clip)
    else match f.infCode with
      | some c => (f.signed s c, .none)
      | Option.none => (match f.nanCode with | some c => c | Option.none => f.signed s f.maxCode, .clip)
  | .fin q s =>
    if q = 0 then (f.signed s 0, if dazzed then .flush else .none)
    else
      let c := f.roundCode m q
      let beyond := decide (f.magnitude f.maxCode < |q|)
      if f.maxCode < c then
        if m = .rtz || sat then (f.signed s f.maxCode, .clip)
        else match f.infCode with
          | some i => (f.signed s i, .clip)
          | Option.none => (match f.nanCode with | some n => n | Option.none => f.signed s f.maxCode, .clip)
      else if m = .rtz && beyond then (f.signed s f.maxCode, .clip)
      else if c = 0 || (ftz && f.subnormal c) then (f.signed s 0, .flush)
      else (f.signed s c, .none)

/-- Integer destination of w bits (R71, R73, R78): least and greatest code, zero point, code written. On a side whose limit
is 0 (R116) a value that rounds to code z counts as R71 and R78 count it: a flush, and a clip only where R71 changed the
code or under RTZ (DEDUCED: log entry 51; a grouped UINT destination is R116's, `zeroSide`). -/
def encodeInt (m : Round) (lo hi z : Int) (t : XVal) (dazzed : Bool) : Int × Counted :=
  match t with
  | .nan s => (if s then lo else hi, .nan)
  | .inf s => (if s then lo else hi, .clip)
  | .fin q _ =>
    let q' := roundInt m q + z
    let beyond := decide (q < ((lo - z : Int) : ℚ)) || decide (((hi - z : Int) : ℚ) < q)
    if q' < lo then (lo, .clip)
    else if hi < q' then (hi, .clip)
    else if m = .rtz && beyond then (q', .clip)
    else if q' = z && (decide (q ≠ 0) || dazzed) then (q', .flush)
    else (q', .none)

/-- Index of the first entry that `better` prefers to all before it. -/
def firstBest (better : ℚ → ℚ → Bool) : List ℚ → Nat → Nat → ℚ → Nat
  | [], _, best, _ => best
  | v :: vs, i, best, b => if better v b then firstBest better vs (i + 1) i v else firstBest better vs (i + 1) best b

/-- The code of the entry that `key` puts lowest, lowest code on a tie. -/
def argBest (key : ℚ → ℚ) (entries : List ℚ) : Nat :=
  match entries with
  | [] => 0
  | e :: es => firstBest (fun a b => decide (key a < key b)) es 1 0 e

/-- Codebook destination (R72, R73, R78). -/
def encodeCodebook (entries : List ℚ) (t : XVal) (dazzed : Bool) : Nat × Counted :=
  match t with
  | .nan s => (argBest (fun v => if s then v else -v) entries, .nan)
  | .inf s => (argBest (fun v => if s then v else -v) entries, .clip)
  | .fin q _ =>
    let c := argBest (fun v => |q - v|) entries
    if entries.all (fun v => decide (v < q)) || entries.all (fun v => decide (q < v)) then (c, .clip)
    else if entries.getD c 0 = 0 && (decide (q ≠ 0) || dazzed) then (c, .flush)
    else (c, .none)

/-! ### binary32 results (R246) -/

/-- A value rounded once to binary32 under RNE, SAT 0, FTZ 0. -/
def toF32 (t : XVal) : BitVec 32 := wordOf 32 (f32.encode .rne false false t false).1

/-- The value of a binary32 word. -/
def ofF32 (w : BitVec 32) : XVal := f32.decode w.toNat

/-- The value of a bfloat16 word. -/
def ofBf16 (w : BitVec 16) : XVal := bf16.decode w.toNat

/-- A value rounded to bfloat16 under RNE with saturation as given. -/
def toBf16 (sat : Bool) (t : XVal) : BitVec 16 := wordOf 16 (bf16.encode .rne sat false t false).1

/-- The exact number a finite word holds; 0 for another. -/
def XVal.rat : XVal → ℚ
  | .fin q _ => q
  | _ => 0

/-! ### 2^x and log2 x to more bits than binary32 rounding needs (log entry 17) -/

/-- Fraction bits of the fixed-point series. -/
abbrev seriesBits : Nat := 320

/-- ln 2 in units of 2^-seriesBits: the sum of 1 / (k 2^k), k from n down to 1. -/
def ln2Series : Nat → Nat
  | 0 => 0
  | k + 1 => 2 ^ seriesBits / ((k + 1) * 2 ^ (k + 1)) + ln2Series k

/-- exp of a fixed-point number below 1: terms x^k / k!, k from `i`, the last term being `t`. -/
def expSeries (x : Nat) : Nat → Nat → Nat → Nat
  | 0, _, _ => 0
  | n + 1, i, t => t + expSeries x n (i + 1) (t * x / (2 ^ seriesBits * (i + 1)))

/-- 2^f for a fraction f in [0, 1), to about 300 bits below 1. -/
def exp2Frac (f : ℚ) : ℚ :=
  let x := (f.num.natAbs * 2 ^ seriesBits / f.den) * ln2Series 340 / 2 ^ seriesBits
  mkRat (expSeries x 90 0 (2 ^ seriesBits)) (2 ^ seriesBits)

/-- Bits of log2 y for y in [1, 2) in fixed point, by repeated squaring: `n` bits, the sum so far `acc`. -/
def log2Bits : Nat → Nat → Nat → Nat
  | 0, _, acc => acc
  | n + 1, y, acc =>
    let y2 := y * y / 2 ^ seriesBits
    if 2 ^ (seriesBits + 1) ≤ y2 then log2Bits n (y2 / 2) (2 * acc + 1) else log2Bits n y2 (2 * acc)

/-- log2 of a positive number that is no power of two, to 128 bits below 1, with a sticky half unit. -/
def log2Near (q : ℚ) : ℚ :=
  let e := ilog2 q
  let f := fracAt q (e - seriesBits)
  (e : ℚ) + mkRat (2 * log2Bits 128 (f.1 / f.2) 0 + 1) (2 ^ 129)

/-- EXP2 (R246, R247). -/
def exp2Op (x : BitVec 32) : BitVec 32 :=
  match ofF32 x with
  | .nan _ => 0x7FC00000
  | .inf s => if s then 0 else 0x7F800000
  | .fin q _ =>
    if q < -200 then 0
    else if 200 < q then 0x7F800000
    else
      let n := q.floor
      if q = n then toF32 (.fin (pow2 n) false)
      else toF32 (.fin ((exp2Frac (q - n) + mkRat 1 (2 ^ 280)) * pow2 n) false)

/-- LOG2 (R246, R247). -/
def log2Op (x : BitVec 32) : BitVec 32 :=
  match ofF32 x with
  | .nan _ => 0x7FC00000
  | .inf s => if s then 0x7FC00000 else 0x7F800000
  | .fin q _ =>
    if q = 0 then 0xFF800000
    else if q < 0 then 0x7FC00000
    else if q = pow2 (ilog2 q) then toF32 (xint (ilog2 q))
    else toF32 (xval (log2Near q) false)

/-- SQRT (R246, R247). -/
def sqrtOp (x : BitVec 32) : BitVec 32 :=
  match ofF32 x with
  | .nan _ => 0x7FC00000
  | .inf s => if s then 0x7FC00000 else 0x7F800000
  | .fin q _ => if q = 0 then x else if q < 0 then 0x7FC00000 else toF32 (.fin (sqrtNear q) false)

/-- RSQ (R246, R247): the root of 1 / x, exact where that root is. -/
def rsqOp (x : BitVec 32) : BitVec 32 :=
  match ofF32 x with
  | .nan _ => 0x7FC00000
  | .inf s => if s then 0x7FC00000 else 0
  | .fin q s =>
    if q = 0 then (if s then 0xFF800000 else 0x7F800000)
    else if q < 0 then 0x7FC00000
    else toF32 (.fin (sqrtNear (1 / q)) false)

/-- FLOOR and RINT (R246): zero results keep the sign. -/
def intOp (f : ℚ → Int) (x : BitVec 32) : BitVec 32 :=
  match ofF32 x with
  | .nan _ => 0x7FC00000
  | .inf _ => x
  | .fin q s => toF32 (xval (f q) s)

/-- −0 below +0 (R246): a < b. -/
def ordLt (a b : XVal) : Bool :=
  match a, b with
  | .inf s, .inf t => s && !t
  | .inf s, .fin _ _ => s
  | .fin _ _, .inf t => !t
  | .fin p s, .fin q t => decide (p < q) || (decide (p = q) && s && !t)
  | _, _ => false

/-- Plain order, −0 = +0. -/
def valLt (a b : XVal) : Bool :=
  match a, b with
  | .fin p _, .fin q _ => decide (p < q)
  | _, _ => ordLt a b

/-- Equality of values, −0 = +0; false with a NaN. -/
def valEq (a b : XVal) : Bool :=
  match a, b with
  | .inf s, .inf t => s == t
  | .fin p _, .fin q _ => decide (p = q)
  | _, _ => false

end Sys2Proof.Machine
end

