-- ==== Sys2Proof/Machine/Formats.lean ====
section
/-!
DEFINITION. Format codes and descriptors (R31, R54, R55), scales (R49), packing (R52, R53), and the decoding and
encoding of one tile (R63, R111 to R116, R138).
-/

namespace Sys2Proof.Machine

/-! ### Descriptor fields (R54) -/

/-- A format descriptor. -/
abbrev Desc := BitVec 32

/-- ELEM -/
def dElem (d : Desc) : Nat := (bitsAt d 0 8).toNat
/-- SFMT -/
def dSfmt (d : Desc) : Nat := (bitsAt d 8 2).toNat
/-- Group size; 0 for none. -/
def dGroup (d : Desc) : Nat := match (bitsAt d 10 3).toNat with | 1 => 32 | 2 => 64 | 3 => 128 | _ => 0
/-- ZPM -/
def dZpm (d : Desc) : Nat := (bitsAt d 13 2).toNat
/-- Outlier slots; 0 for none. -/
def dOcap (d : Desc) : Nat := match (bitsAt d 15 2).toNat with | 1 => 16 | 2 => 32 | 3 => 64 | _ => 0
/-- Rotation size; 0 for none. -/
def dRot (d : Desc) : Nat := match (bitsAt d 17 3).toNat with | 1 => 32 | 2 => 64 | 3 => 128 | 4 => 256 | _ => 0
/-- SAT -/
def dSat (d : Desc) : Bool := bitAt d 20
/-- FTZ -/
def dFtz (d : Desc) : Bool := bitAt d 21
/-- DAZ -/
def dDaz (d : Desc) : Bool := bitAt d 22
/-- SYM -/
def dSym (d : Desc) : Bool := bitAt d 23
/-- CBK -/
def dCbk (d : Desc) : Nat := (bitsAt d 24 6).toNat

/-! ### Element formats (R31) -/

/-- An element format. -/
inductive Elem where
  | flt (f : FloatFmt)
  | int (w : Nat)
  | uint (w : Nat)
  | code (k : Nat)
  deriving DecidableEq, Repr

/-- The element format of a code of R31. -/
def elemOf (c : Nat) : Option Elem :=
  match c with
  | 0x01 => some (.flt f32) | 0x02 => some (.flt f16) | 0x03 => some (.flt bf16) | 0x04 => some (.flt e4m3)
  | 0x05 => some (.flt e5m2) | 0x06 => some (.flt e3m2) | 0x07 => some (.flt e2m3) | 0x08 => some (.flt e2m1)
  | 0x10 => some (.int 8) | 0x11 => some (.uint 8) | 0x12 => some (.int 4) | 0x13 => some (.uint 4)
  | 0x14 => some (.int 2)
  | 0x20 => some (.code 4) | 0x21 => some (.code 3) | 0x22 => some (.code 2) | 0x23 => some (.code 1)
  | _ => none

/-- Width of an element in bits. -/
def Elem.width : Elem → Nat
  | .flt f => f.width
  | .int w => w
  | .uint w => w
  | .code k => k

/-- Element width of a descriptor. -/
def dWidth (d : Desc) : Nat := (elemOf (dElem d)).elim 0 Elem.width

/-- ELEM is binary32, binary16 or bfloat16. -/
def dWide (d : Desc) : Bool := decide (dElem d = 1) || decide (dElem d = 2) || decide (dElem d = 3)

/-- ELEM is a codebook code. -/
def dIsCode (d : Desc) : Bool := decide (0x20 ≤ dElem d) && decide (dElem d ≤ 0x23)

/-- ELEM is UINT8 or UINT4. -/
def dIsUint (d : Desc) : Bool := decide (dElem d = 0x11) || decide (dElem d = 0x13)

/-- ELEM is an integer format. -/
def dIsInt (d : Desc) : Bool := decide (0x10 ≤ dElem d) && decide (dElem d ≤ 0x14)

/-- R55. -/
def dValid (d : Desc) : Bool :=
  (elemOf (dElem d)).isSome
    && decide ((bitsAt d 10 3).toNat ≤ 3) && decide (dZpm d ≠ 3) && decide ((bitsAt d 17 3).toNat ≤ 4)
    && decide (bitsAt d 30 2 = 0)
    && (decide (dSfmt d = 0) == decide (dGroup d = 0))
    && (!dWide d || (decide (dSfmt d = 0) && decide (dZpm d = 0) && decide (dOcap d = 0)))
    && (decide (dZpm d ≠ 0) == dIsUint d)
    && (!decide (dZpm d = 2) || decide (dGroup d ≠ 0))
    && (!(decide (dElem d = 6) || decide (dElem d = 7) || decide (dElem d = 8) || dIsInt d || dIsCode d) || dSat d)
    && (!dIsInt d || (!dFtz d && !dDaz d)) && (!dIsCode d || !dFtz d)
    && (!dSym d || decide (dElem d = 0x10) || decide (dElem d = 0x12) || decide (dElem d = 0x14))
    && (decide (dCbk d = 0) || dIsCode d)

/-! ### Scales (R49, R50) -/

/-- Bytes of one scale. -/
def scaleBytes (sfmt : Nat) : Nat := if sfmt = 2 then 2 else 1

/-- Value of a scale encoding; none where it is invalid. -/
def scaleVal (sfmt code : Nat) : Option ℚ :=
  match sfmt with
  | 1 => if code = 0xFF then none else some (pow2 ((code : Int) - 127))
  | 2 => if 0x0080 ≤ code ∧ code ≤ 0x7F7F then some (bf16.magnitude code) else none
  | 3 => if 1 ≤ code ∧ code ≤ 0x7E then some (e4m3.magnitude code) else none
  | _ => some 1

/-- The encoding of 1 (R83). -/
def scaleOne (sfmt : Nat) : Nat := match sfmt with | 1 => 0x7F | 2 => 0x3F80 | 3 => 0x38 | _ => 0

/-- Least code of a format whose magnitude is at least r > 0, within [lo, hi]. -/
def scaleUp (f : FloatFmt) (lo hi : Nat) (r : ℚ) : Nat :=
  let c := f.roundCode .rtz r
  if hi ≤ c then hi else max lo (if f.magnitude c < r then c + 1 else c)

/-- R113: the least valid scale that is at least r > 0, clamped. -/
def scaleFit (sfmt : Nat) (r : ℚ) : Nat :=
  match sfmt with
  | 1 => (min 127 (max (-127) (clog2 r)) + 127).toNat
  | 2 => scaleUp bf16 0x0080 0x7F7F r
  | 3 => scaleUp e4m3 1 0x7E r
  | _ => 0

/-- Scales of a tile (R53). -/
def groupCount (d : Desc) : Nat := if dGroup d = 0 then 0 else 4096 / dGroup d

/-! ### Block sizes (R53, R85, R140, R453) -/

/-- Body bytes of a block of a kind under a descriptor. -/
def bodyBytes (d : Desc) (kind : Nat) : Nat :=
  match kind with
  | 0 => 512 * dWidth d
  | 1 => groupCount d * scaleBytes (dSfmt d) + (if dZpm d = 2 then groupCount d else 0)
  | 2 => 4 + 4 * dOcap d
  | _ => 0

/-- Bytes a block takes in its stream (R453). -/
def blockStride (d : Desc) (kind : Nat) : Nat := 64 * ceilDiv (16 + bodyBytes d kind) 64

/-! ### Packing (R52) -/

/-- `n` codes of `w` bits packed in a number. -/
def unpackCodes (w : Nat) : Nat → Nat → List Nat
  | 0, _ => []
  | n + 1, x => x % 2 ^ w :: unpackCodes w n (x / 2 ^ w)

/-- Codes of `w` bits as one number. -/
def packNat (w : Nat) : List Nat → Nat
  | [] => 0
  | c :: cs => c % 2 ^ w + 2 ^ w * packNat w cs

/-- The codes of a payload, 8 elements at a time. -/
def payloadCodes (w : Nat) (body : List Byte) : List Nat :=
  (chunksOf w (body.length / w) body).flatMap (fun c => unpackCodes w 8 (leNat c))

/-- A payload from its codes. -/
def packCodes (w : Nat) (codes : List Nat) : List Byte :=
  (chunksOf 8 (codes.length / 8) codes).flatMap (fun c => leBytes w (packNat w c))

/-! ### Decoding a tile (R63 step 1) -/

/-- The +0 of a padding element (R83). -/
def padElem : Decoded := ⟨.fin 0 false, false, 0⟩

/-- A codebook entry as R42 reads it: bfloat16 with the descriptor's DAZ. -/
def entryVal (daz : Bool) (e : Nat) : XVal × Bool :=
  if daz && bf16.subnormal e then (.fin 0 (decide (0x8000 ≤ e)), true) else (bf16.decode e, false)

/-- value(q) of R34, R39 or R42 with zero point z, DAZ applied. -/
def codeVal (d : Desc) (z : Nat) (book : List Nat) (q : Nat) : XVal × Bool :=
  match elemOf (dElem d) with
  | some (.flt f) =>
    if dDaz d && f.subnormal q then (.fin 0 (decide (2 ^ (f.eBits + f.mBits) ≤ q)), true) else (f.decode q, false)
  | some (.int w) => (xint (if q < 2 ^ (w - 1) then q else (q : Int) - 2 ^ w), false)
  | some (.uint _) => (xint ((q : Int) - z), false)
  | some (.code _) => entryVal (dDaz d) (book.getD q 0)
  | none => (.fin 0 false, false)

/-- The implied factor of R51 for a scale format. -/
def impliedFactor (d : Desc) : ℚ := if dElem d = 0x10 ∧ dSfmt d = 1 then mkRat 1 64 else 1

/-- Scale codes of a scale-block body. -/
def scaleCodes (d : Desc) (body : List Byte) : List Nat :=
  (chunksOf (scaleBytes (dSfmt d)) (groupCount d) body).map leNat

/-- Zero point bytes of a scale-block body. -/
def zeroCodes (d : Desc) (body : List Byte) : List Nat :=
  ((body.drop (groupCount d * scaleBytes (dSfmt d))).take (if dZpm d = 2 then groupCount d else 0)).map BitVec.toNat

/-- Elements of one group: all under one scale and one zero point. -/
def decodeGroup (d : Desc) (s : Option ℚ) (z : Nat) (book : List Nat) (codes : List Nat) : List Decoded :=
  codes.map (fun q =>
    let p := codeVal d z book q
    match s with
    | none => ⟨.nan false, false, q⟩
    | some v => ⟨p.1.mul (.fin (v * impliedFactor d) false), p.2, q⟩)

/-- The 4,096 elements of a tile; `zc r` is the per-channel zero point of row r, used when ZPM is 0b01. -/
def decodeTile (d : Desc) (zc : Nat → Nat) (book : List Nat) (count : Nat) (body sbody : List Byte) : List Decoded :=
  let codes := payloadCodes (dWidth d) body
  let g := if dGroup d = 0 then 128 else dGroup d
  let scales := if dGroup d = 0 then List.replicate 32 (some 1) else (scaleCodes d sbody).map (scaleVal (dSfmt d))
  let zs := if dZpm d = 2 then zeroCodes d sbody else (List.range (4096 / g)).map (fun j => zc (j * g / 128))
  let els := ((chunksOf g (4096 / g) codes).zip (scales.zip zs)).flatMap
    (fun p => decodeGroup d p.2.1 p.2.2 book p.1)
  els.take count ++ List.replicate (4096 - count) padElem

/-- A UINT4 zero point above 15 that an element of the instruction would use (R40): a valid one (R83) in one of the
first w columns (R229). -/
def badZero (d : Desc) (zc : Nat → Nat) (count w : Nat) (sbody : List Byte) : Bool :=
  decide (dElem d = 0x13) &&
    (if dZpm d = 2 then (((zeroCodes d sbody).zip (List.range 128)).take (ceilDiv count (dGroup d))).any
        (fun z => decide (15 < z.1) && decide (z.2 * dGroup d % 128 < w))
     else (List.range (ceilDiv count 128)).any (fun r => decide (15 < zc r)))

/-! ### Side tiles (R140, R142) -/

/-- Slots of a side-tile body: position and VALUE. -/
def sideSlots (body : List Byte) : List (Nat × Nat) :=
  let n := leNat (body.take 4) % 128
  (chunksOf 4 n (body.drop 4)).map (fun c => let w := leNat c; (w % 4096, w / 65536))

/-- Strictly increasing. -/
def risingNats : List Nat → Bool
  | a :: b :: l => decide (a < b) && risingNats (b :: l)
  | _ => true

/-- The side-tile body passes R142. -/
def sideOk (d : Desc) (count : Nat) (body : List Byte) : Bool :=
  let n := leNat (body.take 4)
  let used := sideSlots body
  decide (n ≤ dOcap d) && ((chunksOf 4 n (body.drop 4)).all (fun c => decide (leNat c / 4096 % 16 = 0)))
    && risingNats (used.map Prod.fst) && used.all (fun p => decide (p.1 < count) && (bf16.decode p.2).isFin)
    && (body.drop (4 + 4 * n)).all (fun b => decide (b = 0))

/-- Decoded elements with the side values merged (R144), before the channel factor. -/
def mergeSide (slots : List (Nat × Nat)) : Nat → List Decoded → List Decoded
  | _, [] => []
  | i, e :: es =>
    (match slots.find? (fun p => decide (p.1 = i)) with
     | some p => { e with v := bf16.decode p.2, dazzed := false }
     | none => e) :: mergeSide slots (i + 1) es

/-! ### Encoding a tile -/

/-- What stands at an element of a destination tile. -/
inductive Slot where
  /-- an element to convert: u of R111 and whether DAZ made it zero -/
  | num (u : XVal) (dazzed : Bool)
  /-- the code of value +0 (R138): outside the instruction, or masked -/
  | zero
  /-- beyond COUNT: zero bits -/
  | pad
  /-- taken into the side tile with this u -/
  | captured (u : XVal)
  /-- an excess candidate with this u -/
  | excess (u : XVal)
  /-- source bits kept -/
  | raw (code : Nat)
  deriving DecidableEq, Repr

/-- The number a slot gives to the choice of a group scale. -/
def Slot.finite : Slot → Option ℚ
  | .num (.fin q _) _ => some q
  | _ => none

/-- Largest magnitude of a list of numbers. -/
def maxMag (l : List ℚ) : ℚ := l.foldl (fun m q => if m < |q| then |q| else m) 0

/-- Largest of 0 and the numbers. -/
def maxPos (l : List ℚ) : ℚ := l.foldl (fun m q => if m < q then q else m) 0

/-- Smallest of 0 and the numbers. -/
def minNeg (l : List ℚ) : ℚ := l.foldl (fun m q => if q < m then q else m) 0

/-- Entries in use of a codebook, with DAZ (R42). -/
def bookVals (d : Desc) (book : List Nat) : List ℚ :=
  (List.range (2 ^ dWidth d)).map (fun c => (entryVal (dDaz d) (book.getD c 0)).1.rat)

/-- Q of R112. -/
def targetMag (d : Desc) (book : List Nat) : ℚ :=
  match elemOf (dElem d) with
  | some (.flt f) => f.magnitude f.maxCode
  | some (.int 8) => if dSfmt d = 1 then mkRat 127 64 else 127
  | some (.int 4) => 7
  | some (.int _) => 1
  | some (.code _) => maxMag (bookVals d book)
  | _ => 1

/-- Scale code and zero point of a group (R111 to R116). -/
def chooseScale (d : Desc) (ocp : Bool) (zc : Nat) (book : List Nat) (us : List ℚ) : Nat × Nat :=
  let one := scaleOne (dSfmt d)
  let a := maxMag us
  if a = 0 then (one, 0)
  else if dIsUint d then
    let top : ℚ := ((2 ^ dWidth d - 1 : Nat) : ℚ)
    let mx := maxPos us
    let mn := minNeg us
    if dZpm d = 2 then
      let s := scaleFit (dSfmt d) ((mx - mn) / top)
      let z := roundInt .rne (-mn / (scaleVal (dSfmt d) s).getD 1)
      (s, (min (max z 0) (2 ^ dWidth d - 1 : Nat)).toNat)
    else
      let lo : ℚ := (zc : ℚ)
      let hi : ℚ := top - zc
      let r1 := if hi = 0 then 0 else mx / hi
      let r2 := if lo = 0 then 0 else -mn / lo
      let r := if r1 < r2 then r2 else r1
      (if r ≤ 0 then one else scaleFit (dSfmt d) r, 0)
  else
    let q := targetMag d book
    if q = 0 then (one, 0)
    else if ocp && decide (dSfmt d = 1) then ((min 127 (max (-127) (ilog2 a - ilog2 q)) + 127).toNat, 0)
    else (scaleFit (dSfmt d) (a / q), 0)

/-- A value on a side of a grouped UINT destination with a channel zero point whose limit is 0: it clips to code z (R116). -/
def zeroSide (d : Desc) (w z : Nat) (t : XVal) : Bool :=
  decide (dZpm d = 1) && decide (dSfmt d ≠ 0) && (match t with
    | .fin q _ => (decide (q < 0) && decide (z = 0)) || (decide (0 < q) && decide (z = 2 ^ w - 1))
    | _ => false)

/-- The code a value takes in a descriptor's element format, after scaling (R63 steps 4 to 8). -/
def encodeElem (d : Desc) (z : Nat) (book : List Nat) (m : Round) (t : XVal) (dazzed : Bool) : Nat × Counted :=
  match elemOf (dElem d) with
  | some (.flt f) => f.encode m (dSat d) (dFtz d) t dazzed
  | some (.int w) =>
    let lo : Int := -(2 ^ (w - 1) : Nat) + (if dSym d then 1 else 0)
    let r := encodeInt m lo ((2 ^ (w - 1) : Nat) - 1) 0 t dazzed
    ((r.1 % (2 ^ w : Nat)).toNat, r.2)
  | some (.uint w) =>
    let r := encodeInt m 0 ((2 ^ w : Nat) - 1) z t dazzed
    (r.1.toNat, if zeroSide d w z t then .clip else r.2)
  | some (.code _) => encodeCodebook (bookVals d book) t dazzed
  | none => (0, .none)

/-- The code a slot takes, and what it counts. -/
def encodeSlot (d : Desc) (s : ℚ) (z : Nat) (book : List Nat) (m : Round) : Slot → Nat × Counted
  | .num u dz => encodeElem d z book m (u.div (.fin (s * impliedFactor d) false)) dz
  | .zero => ((encodeElem d z book .rne (.fin 0 false) false).1, .none)
  | .pad => (0, .none)
  | .captured _ => ((encodeElem d z book .rne (.fin 0 false) false).1, .none)
  | .excess u => ((encodeElem (d ||| 0x100000#32) z book .rne (.inf (match u with | .fin q _ => decide (q < 0) | _ => false))
      false).1, .none)
  | .raw c => (c, .none)

/-- Rounding modes of elements `i`, `i + 1`, … of a list of slots. -/
def encodeSlots (d : Desc) (s : ℚ) (z : Nat) (book : List Nat) (m : Nat → Round) : Nat → List Slot → List (Nat × Counted)
  | _, [] => []
  | i, x :: xs => encodeSlot d s z book (m i) x :: encodeSlots d s z book m (i + 1) xs

/-- A tile as written: codes with counts, scale codes, zero points. -/
structure Encoded where
  codes : List (Nat × Counted)
  scales : List Nat
  zeros : List Nat
  deriving DecidableEq, Repr

/-- A tile from its 4,096 slots. `zc r` is the channel zero point of row r, `m i` the rounding of element i. -/
def encodeTile (d : Desc) (ocp : Bool) (zc : Nat → Nat) (book : List Nat) (m : Nat → Round) (slots : List Slot) : Encoded :=
  if dGroup d = 0 then
    let rows := chunksOf 128 32 slots
    ⟨(rows.zip (List.range 32)).flatMap (fun p => encodeSlots d 1 (zc p.2) book m (128 * p.2) p.1), [], []⟩
  else
    let g := dGroup d
    let groups := (chunksOf g (4096 / g) slots).zip (List.range (4096 / g))
    let done := groups.map (fun p =>
      let zch := zc (p.2 * g / 128)
      let c := chooseScale d ocp zch book (p.1.filterMap Slot.finite)
      let z := if dZpm d = 2 then c.2 else zch
      (encodeSlots d ((scaleVal (dSfmt d) c.1).getD 1) z book m (p.2 * g) p.1, c))
    ⟨done.flatMap Prod.fst, done.map (fun x => x.2.1), done.map (fun x => x.2.2)⟩

/-- Body of the data tile. -/
def Encoded.payload (e : Encoded) (d : Desc) : List Byte := packCodes (dWidth d) (e.codes.map Prod.fst)

/-- Body of the scale block (R85). -/
def Encoded.scaleBody (e : Encoded) (d : Desc) : List Byte :=
  e.scales.flatMap (fun c => leBytes (scaleBytes (dSfmt d)) c)
    ++ (if dZpm d = 2 then e.zeros.map (wordOf 8) else [])

/-- Elements counted under one counter. -/
def Encoded.counted (e : Encoded) (c : Counted) : Nat := (e.codes.filter (fun p => decide (p.2 = c))).length

/-- Candidates ranked by magnitude, lower index first on a tie (R137). -/
def rankIn (x : Nat × ℚ) : List (Nat × ℚ) → List (Nat × ℚ)
  | [] => [x]
  | y :: ys => if |y.2| < |x.2| then x :: y :: ys else y :: rankIn x ys

/-- Outlier capture (R136 to R138): element i is captured when it is among the first N of the ranking. -/
def capture (n : Nat) (t : ℚ) (slots : List Slot) : List Slot :=
  let idx := slots.zip (List.range slots.length)
  let cands := idx.filterMap (fun p => match p.1 with
    | .num (.fin q _) _ => if t < |q| then some (p.2, q) else none
    | _ => none)
  let ranked := cands.foldl (fun l x => rankIn x l) []
  let taken := (ranked.take n).map Prod.fst
  idx.map (fun p => match p.1 with
    | .num (.fin q s) _ =>
      if t < |q| then (if taken.contains p.2 then .captured (.fin q s) else .excess (.fin q s)) else p.1
    | _ => p.1)

/-- Side-tile body of captured slots (R140, R141). -/
def sideBody (n : Nat) (slots : List Slot) : List Byte :=
  let used := (slots.zip (List.range slots.length)).filterMap (fun p => match p.1 with
    | .captured u => some (p.2, (toBf16 true u).toNat)
    | _ => none)
  leBytes 4 used.length ++ used.flatMap (fun p => leBytes 4 (p.1 + 65536 * p.2))
    ++ List.replicate (4 * (n - used.length)) 0

end Sys2Proof.Machine
end

