-- ==== Sys2Proof/Machine/Random.lean ====
section
/-!
DEFINITION. The pacers and the coordinate-keyed generator (R266 to R282).
-/

namespace Sys2Proof.Machine

/-- Rotation to the left within 64 bits (R17). -/
def rotl64 (x : BitVec 64) (k : Nat) : BitVec 64 := (x <<< k) ||| (x >>> (64 - k))

/-- A pacer's state: s0 and s1 (R267). -/
abbrev Pacer := BitVec 64 × BitVec 64

/-- One pacer step (R267). -/
def pacerNext (p : Pacer) : Pacer :=
  let s1 := p.2 ^^^ p.1
  (rotl64 p.1 24 ^^^ s1 ^^^ (s1 <<< 16), rotl64 s1 37)

/-- The output of a pacer's step (R267). -/
def pacerOut (p : Pacer) : BitVec 64 := rotl64 (p.1 * 5) 7 * 9

/-- `n` pacer steps. -/
def pacerSteps : Nat → Pacer → Pacer
  | 0, p => p
  | n + 1, p => pacerSteps n (pacerNext p)

/-- fold of R270. -/
def pacerFold (z : BitVec 64) : BitVec 64 :=
  let a := (z ^^^ (z >>> 30)) * 0xB7E151639A4D2C35
  let b := (a ^^^ (a >>> 27)) * 0x8F3D6E21C05BA7E9
  b ^^^ (b >>> 31)

/-- J96 of R270: the coefficients of x^(2^96) mod p(x). DEDUCED: log entry 9. -/
def pacerJ96 : BitVec 128 := 0xdddf9b1090aa7ac1d2a98b26625eee7b

/-- The loop of jump96: bits from `b` on, the sum so far `t`. -/
def pacerJumpFrom : Nat → Nat → Pacer → Pacer → Pacer
  | 0, _, _, t => t
  | n + 1, b, p, t =>
    pacerJumpFrom n (b + 1) (pacerNext p) (if bitAt pacerJ96 b then (t.1 ^^^ p.1, t.2 ^^^ p.2) else t)

/-- jump96 of R270: 2^96 steps. -/
def pacerJump (p : Pacer) : Pacer := pacerJumpFrom 128 0 p (0, 0)

/-- The state of lane g beside lane 0's state: g jumps (R270). -/
def pacerLane : Nat → Pacer → Pacer
  | 0, p => p
  | g + 1, p => pacerLane g (pacerJump p)

/-- seed_lane(S, 0) of R270. -/
def pacerSeed (s : BitVec 64) : Pacer :=
  (pacerFold (s ^^^ 0x51D30A8B27E4C6F1), pacerFold (s ^^^ 0xE92C47B10D853A6F))

/-- Global lane number of lane l of a unit (R269). -/
def laneOf (b l : Nat) : Nat :=
  if kindOf b = some .se then 16384 + 128 * indexOf b + l else 256 * indexOf b + l

/-- Lanes of a unit. -/
def lanesOf (b : Nat) : Nat := if kindOf b = some .se then 128 else 256

/-- What a word is drawn for (R268). -/
inductive DrawUse where
  | round | real | bits
  deriving DecidableEq, Repr

/-- Number of a use. -/
def DrawUse.num : DrawUse → Nat
  | .round => 0
  | .real => 1
  | .bits => 2

/-- Cycles from now on that draws of a use have already taken on a unit: the next takes a later one (R268). -/
def UnitSt.drawn (u : UnitSt) : DrawUse → Nat
  | .round => u.drawnRound
  | .real => u.drawnReal
  | .bits => u.drawnBits

/-- CCLK cycle, counted from now, of draw `n` of a use in a command: a later draw falls in a later cycle (R268); the
gaps are free (log entry 16). -/
def drawCycle (free : Nat) (k : DrawUse) (first : Nat) : Nat → Nat
  | 0 => first + Config.drawGap free k.num 0
  | n + 1 => drawCycle free k first n + 1 + Config.drawGap free k.num (n + 1)

/-- The pacer output that lane l of unit b takes in draw n of a use: every lane of a beat draws in the beat's cycle
(R268, R458). -/
def pacerDraw (u : UnitSt) (b free : Nat) (k : DrawUse) (n l : Nat) : BitVec 64 :=
  pacerOut (pacerSteps (drawCycle free k (u.drawn k) n) (pacerLane (laneOf b l) (u.pacer0, u.pacer1)))

/-- The unit after the first n + 1 draws of a use. -/
def UnitSt.drew (u : UnitSt) (free : Nat) (k : DrawUse) (n : Nat) : UnitSt :=
  let c := drawCycle free k (u.drawn k) n + 1
  match k with
  | .round => { u with drawnRound := c }
  | .real => { u with drawnReal := c }
  | .bits => { u with drawnBits := c }

/-- One round of R275. -/
def keyedRound (s : BitVec 64 × BitVec 64 × BitVec 64 × BitVec 64) : BitVec 64 × BitVec 64 × BitVec 64 × BitVec 64 :=
  let a := (s.1 ^^^ s.2.2.1) * 0xB7E151639A4D2C35
  let b := (s.2.1 + s.2.2.2) * 0x8F3D6E21C05BA7E9
  let a := a ^^^ (a >>> 32) ^^^ b
  let b := b ^^^ (b >>> 29) ^^^ rotl64 a 21
  let k0 := s.2.2.1 + 0x6C8E9CF570932BD5
  (a, b, k0, s.2.2.2 ^^^ rotl64 k0 13)

/-- The terms of a key but its coordinates (R272). -/
structure Key where
  seed : BitVec 64
  tensor : BitVec 24
  lap : BitVec 48
  purpose : BitVec 8
  draw : BitVec 8
  deriving DecidableEq, Repr

/-- The word for a key (R275). -/
def keyed (k : Key) (row col : BitVec 32) : BitVec 64 :=
  let k1 : BitVec 64 := k.lap.setWidth 64 ||| (k.purpose.setWidth 64 <<< 48) ||| (k.draw.setWidth 64 <<< 56)
  let a : BitVec 64 := (row.setWidth 64 <<< 32) ||| col.setWidth 64
  let b : BitVec 64 := k.tensor.setWidth 64 ||| (0x5A#64 <<< 40)
  let r := keyedRound (keyedRound (keyedRound (keyedRound (keyedRound (keyedRound (a, b, k.seed, k1))))))
  r.1 ^^^ rotl64 r.2.1 32

/-- The rotation sign of coordinate k: true for −1 (R132). -/
def rotSign (seed : BitVec 64) (key : BitVec 24) (k : Nat) : Bool :=
  bitAt (keyed ⟨seed, key, 0, 0x01, 0⟩ 0 (wordOf 32 k)) 0

end Sys2Proof.Machine
end

