-- ==== Sys2Proof/Machine/Operands.lean ====
section
/-!
DEFINITION. The 32-byte slots of an instruction: classes and forms (R289), the head (R287), the operand fields
(R291 to R296), the class bodies (R297 to R303), and what the layout alone makes FORMAT (R16, R286, R290).
-/

namespace Sys2Proof.Machine

/-! ### Classes and forms (R289) -/

/-- A class with its form. -/
inductive Op where
  | convPlain | convRescale | convTranspose | convReepoch | rotate
  | tableBuild | tableCodebook | tableChannel | tableRescale | tableProgram
  | stats | scalePropose | scaleAdopt | scalePin
  | element | reduce | permute
  | shufInterleave | shufEven | shufOdd | shufReverse | shufRotate
  | pack | unpackCodes | unpackScales | unpackZpoints | randomBits | randomBernoulli
  | sample | relaySend | relayReceive | relayCollective
  | sliceProgram | sliceConvert | sliceReepoch | sliceWindow
  | fenceQueue | fenceWaitseq | lapwait | summary
  deriving DecidableEq, Repr

/-- The class and form of an opcode (R289). -/
def opOf (opcode form : Nat) : Option Op :=
  match opcode, form with
  | 0x01, 0 => some .convPlain | 0x01, 1 => some .convRescale | 0x01, 2 => some .convTranspose
  | 0x01, 3 => some .convReepoch | 0x02, 0 => some .rotate
  | 0x03, 0 => some .tableBuild | 0x03, 1 => some .tableCodebook | 0x03, 2 => some .tableChannel
  | 0x03, 3 => some .tableRescale | 0x03, 4 => some .tableProgram
  | 0x04, 0 => some .stats | 0x05, 0 => some .scalePropose | 0x05, 1 => some .scaleAdopt | 0x05, 2 => some .scalePin
  | 0x06, 0 => some .element | 0x07, 0 => some .reduce | 0x08, 0 => some .permute
  | 0x09, 0 => some .shufInterleave | 0x09, 1 => some .shufEven | 0x09, 2 => some .shufOdd
  | 0x09, 3 => some .shufReverse | 0x09, 4 => some .shufRotate
  | 0x0A, 0 => some .pack | 0x0B, 0 => some .unpackCodes | 0x0B, 1 => some .unpackScales
  | 0x0B, 2 => some .unpackZpoints | 0x0C, 0 => some .randomBits | 0x0C, 1 => some .randomBernoulli
  | 0x0D, 0 => some .sample | 0x0E, 0 => some .relaySend | 0x0E, 1 => some .relayReceive
  | 0x0E, 2 => some .relayCollective
  | 0x0F, 0 => some .sliceProgram | 0x0F, 1 => some .sliceConvert | 0x0F, 2 => some .sliceReepoch
  | 0x0F, 3 => some .sliceWindow | 0x10, 0 => some .fenceQueue | 0x10, 1 => some .fenceWaitseq
  | 0x11, 0 => some .lapwait | 0x12, 0 => some .summary
  | _, _ => none

/-- A unit of the kind executes the class and form (R289, R313). -/
def runsOn (o : Op) (k : Kind) : Bool :=
  match o with
  | .convPlain | .convRescale | .convTranspose | .convReepoch | .rotate | .tableChannel | .tableRescale => k == .cv
  | .tableBuild => k == .pt
  | .tableCodebook => k == .pt || k == .cv
  | .stats => k == .cv || k == .se || k == .sl
  | .scalePropose | .scaleAdopt | .scalePin | .summary => k == .tk
  | .tableProgram | .element | .reduce | .permute | .shufInterleave | .shufEven | .shufOdd | .shufReverse
  | .shufRotate | .pack | .unpackCodes | .unpackScales | .unpackZpoints | .randomBits | .randomBernoulli => k == .se
  | .sample => k == .sp
  | .relaySend | .relayReceive | .relayCollective => k == .rl
  | .sliceProgram | .sliceConvert | .sliceReepoch | .sliceWindow => k == .sl
  | .fenceQueue | .fenceWaitseq | .lapwait => k != .mg

/-- A converter class. -/
def Op.isConv : Op → Bool
  | .convPlain | .convRescale | .convTranspose | .convReepoch | .rotate => true
  | _ => false

/-- A class of the stream engine's element work. -/
def Op.isSe : Op → Bool
  | .element | .reduce | .permute | .shufInterleave | .shufEven | .shufOdd | .shufReverse | .shufRotate
  | .pack | .unpackCodes | .unpackScales | .unpackZpoints | .randomBits | .randomBernoulli => true
  | _ => false

/-- A SLICE form but WINDOW. -/
def Op.isSlice : Op → Bool
  | .sliceProgram | .sliceConvert | .sliceReepoch => true
  | _ => false

/-- A form of SHUFFLE. -/
def Op.isShuffle : Op → Bool
  | .shufInterleave | .shufEven | .shufOdd | .shufReverse | .shufRotate => true
  | _ => false

/-- SCALE. -/
def Op.isScale : Op → Bool
  | .scalePropose | .scaleAdopt | .scalePin => true
  | _ => false

/-- RELAY. -/
def Op.isRelay : Op → Bool
  | .relaySend | .relayReceive | .relayCollective => true
  | _ => false

/-! ### The head (R287) -/

/-- A slot of an instruction. -/
abbrev SlotWord := BitVec 256

/-- OPCODE -/
def hOpcode (h : SlotWord) : BitVec 8 := bitsAt h 0 8
/-- FORM -/
def hForm (h : SlotWord) : BitVec 4 := bitsAt h 8 4
/-- NSLOT -/
def hNslot (h : SlotWord) : Nat := (bitsAt h 12 2).toNat
/-- RMODE -/
def hRmode (h : SlotWord) : Nat := (bitsAt h 14 2).toNat
/-- DRAW -/
def hDraw (h : SlotWord) : BitVec 8 := bitsAt h 16 8
/-- SUMSLOT -/
def hSumslot (h : SlotWord) : Nat := (bitsAt h 24 8).toNat
/-- TRK -/
def hTrk (h : SlotWord) : Nat := (bitsAt h 32 14).toNat
/-- TEN -/
def hTen (h : SlotWord) : Bool := bitAt h 46
/-- SUMV -/
def hSumv (h : SlotWord) : Bool := bitAt h 47
/-- WATCH -/
def hWatch (h : SlotWord) : Nat := (bitsAt h 48 12).toNat
/-- WEN -/
def hWen (h : SlotWord) : Bool := bitAt h 60
/-- WCLOSE -/
def hWclose (h : SlotWord) : Bool := bitAt h 61
/-- LAPK -/
def hLapk (h : SlotWord) : Bool := bitAt h 62
/-- SRULE: true for OCP -/
def hSrule (h : SlotWord) : Bool := bitAt h 63
/-- ID -/
def hId (h : SlotWord) : BitVec 16 := bitsAt h 64 16
/-- GEN -/
def hGen (h : SlotWord) : Nat := (bitsAt h 80 2).toNat
/-- N -/
def hN (h : SlotWord) : Nat := (bitsAt h 96 16).toNat
/-- M -/
def hM (h : SlotWord) : Nat := (bitsAt h 112 16).toNat
/-- The class body: offsets 16 to 31. -/
def hBody (h : SlotWord) : BitVec 128 := bitsAt h 128 128

/-- Slot `i` of an instruction; a slot it does not have reads zero (R286). -/
def slotAt (sl : List SlotWord) (i : Nat) : SlotWord := sl.getD i 0

/-- Head slot. -/
def headOf (sl : List SlotWord) : SlotWord := slotAt sl 0

/-- Operand field Fn, n from 1 to 6 (R285). -/
def fieldOf (sl : List SlotWord) (n : Nat) : BitVec 128 := bitsAt (slotAt sl ((n + 1) / 2)) (128 * ((n + 1) % 2)) 128

/-- Class and form of an instruction. -/
def opIn (sl : List SlotWord) : Option Op := opOf (hOpcode (headOf sl)).toNat (hForm (headOf sl)).toNat

/-! ### Operand fields (R291 to R295) -/

/-- STREAM -/
def fStream (f : BitVec 128) : Nat := (bitsAt f 0 16).toNat
/-- TAG -/
def fTag (f : BitVec 128) : BitVec 16 := bitsAt f 16 16
/-- PAIR -/
def fPair (f : BitVec 128) : BitVec 16 := bitsAt f 32 16
/-- SIDE -/
def fSide (f : BitVec 128) : BitVec 16 := bitsAt f 48 16
/-- TENSOR, and KTENSOR of a key field -/
def fTensor (f : BitVec 128) : BitVec 24 := bitsAt f 64 24
/-- FDI -/
def fFdi (f : BitVec 128) : BitVec 6 := bitsAt f 88 6
/-- SOP: 0 USE, 1 OPEN, 2 OPEN_CLOSE, 3 CLOSE -/
def fSop (f : BitVec 128) : Nat := (bitsAt f 96 2).toNat
/-- REST -/
def fRest (f : BitVec 128) : Bool := bitAt f 98
/-- CHS -/
def fChs (f : BitVec 128) : Bool := bitAt f 99
/-- GRAD -/
def fGrad (f : BitVec 128) : Bool := bitAt f 100
/-- FSEL -/
def fFsel (f : BitVec 128) : Bool := bitAt f 101
/-- LAYER -/
def fLayer (f : BitVec 128) : Nat := (bitsAt f 102 12).toNat
/-- PROF: true for BACKWARD -/
def fProf (f : BitVec 128) : Bool := bitAt f 114
/-- KIND of a field -/
def fKind (f : BitVec 128) : Nat := (bitsAt f 126 2).toNat
/-- BASE, MBASE or KROW -/
def fBase (f : BitVec 128) : BitVec 32 := bitsAt f 0 32
/-- SK, MSK or KCOL -/
def fSk (f : BitVec 128) : BitVec 32 := bitsAt f 32 32
/-- SR or MSR -/
def fSr (f : BitVec 128) : BitVec 32 := bitsAt f 64 32
/-- FMT -/
def fFmt (f : BitVec 128) : Nat := (bitsAt f 96 8).toNat
/-- RBS of a key field, in elements -/
def fRbs (f : BitVec 128) : Nat := 32 * (bitsAt f 96 16).toNat
/-- RBD of a key field, in elements -/
def fRbd (f : BitVec 128) : Nat := 32 * (bitsAt f 112 16).toNat
/-- The field names a tile stream. -/
def isStream (f : BitVec 128) : Bool := decide (fKind f = 1)
/-- The field names a plain operand. -/
def isPlain (f : BitVec 128) : Bool := decide (fKind f = 2)
/-- The field opens its entry (R292). -/
def opens (f : BitVec 128) : Bool := decide (fSop f = 1) || decide (fSop f = 2)
/-- The field closes its entry (R292). -/
def closes (f : BitVec 128) : Bool := decide (fSop f = 2) || decide (fSop f = 3)

/-- Reserved bits of a stream field are 0, and FDI, LAYER and PROF are used as FSEL says (R291). -/
def streamFieldOk (f : BitVec 128) : Bool :=
  decide (bitsAt f 94 2 = 0) && decide (bitsAt f 115 11 = 0)
    && (if fFsel f then decide (fFdi f = 0) else (decide (fLayer f = 0) && !fProf f))
    && (opens f || decide (fTag f = 0))

/-- Reserved bits of a plain field are 0 (R294). -/
def plainFieldOk (f : BitVec 128) : Bool := decide (bitsAt f 104 22 = 0)

/-! ### Which fields a class uses (R286, R287, R296) -/

/-- What a field position holds. -/
inductive FUse where
  | none
  | stream (must : Bool)
  | plain (must : Bool)
  | operand (must : Bool)
  | mask
  | key
  | desc
  deriving DecidableEq, Repr

/-- A field fits its position. -/
def fieldFits (u : FUse) (f : BitVec 128) : Bool :=
  match u with
  | .none => decide (f = 0)
  | .stream must => (decide (f = 0) && !must) || (isStream f && streamFieldOk f)
  | .plain must => (decide (f = 0) && !must) || (isPlain f && plainFieldOk f)
  | .operand must => (decide (f = 0) && !must) || (isStream f && streamFieldOk f) || (isPlain f && plainFieldOk f)
  | .mask => decide (f = 0) || (decide (fKind f = 3) && decide (bitsAt f 96 30 = 0))
  | .key => decide (bitsAt f 88 8 = 0)
  | .desc => decide (f ≠ 0) && decide (bitsAt f 32 96 = 0)

/-- F1 to F6 of a class and form (R296). `flag` is RSUM of a PLAIN or TRANSPOSE, ENS of a RESCALE, SHAPE of a REDUCE. -/
def fieldUse (o : Op) (flag : Bool) : List FUse :=
  match o with
  | .convPlain | .convTranspose | .convRescale =>
    [.stream true, .stream true, if flag then .stream true else .none, .key, .none, .none]
  | .convReepoch => [.stream true, .stream true, .none, .key, .desc, .none]
  | .rotate => [.stream true, .stream true, .none, .key, .none, .none]
  | .tableBuild => [.stream true, .none, .none, .none, .none, .none]
  | .stats => [.operand true, .none, .none, .none, .none, .none]
  | .element => [.operand false, .operand false, .operand false, .operand true, .mask, .key]
  | .reduce => [.operand false, .operand false, .operand false, .operand flag, .mask, .key]
  | .permute => [.plain true, .plain true, .none, .operand true, .mask, .key]
  | .shufInterleave => [.operand true, .operand true, .none, .operand true, .mask, .key]
  | .shufEven | .shufOdd | .shufReverse | .shufRotate => [.operand true, .none, .none, .operand true, .mask, .key]
  | .pack => [.plain true, .plain false, .plain false, .stream true, .mask, .key]
  | .unpackCodes | .unpackScales | .unpackZpoints => [.stream true, .none, .none, .plain true, .mask, .key]
  | .randomBits | .randomBernoulli => [.none, .none, .none, .plain true, .none, .key]
  | .sample => [.plain true, .none, .none, .plain true, .none, .key]
  | .relaySend => [.stream true, .none, .none, .none, .none, .key]
  | .relayReceive => [.none, .none, .none, .stream true, .none, .key]
  | .relayCollective => [.stream true, .none, .none, .stream true, .none, .key]
  | .sliceProgram => [.operand false, .operand false, .operand false, .operand false, .none, .key]
  | .sliceConvert => [.stream true, .none, .none, .stream true, .none, .key]
  | .sliceReepoch => [.stream true, .none, .none, .stream true, .desc, .key]
  | .tableCodebook | .tableChannel | .tableRescale | .tableProgram | .scalePropose | .scaleAdopt | .scalePin
  | .sliceWindow | .fenceQueue | .fenceWaitseq | .lapwait | .summary => [.none, .none, .none, .none, .none, .none]

/-- The head fields a class uses (R287, R288, R290, R300, R384). -/
structure HeadUse where
  rmode : Bool := false
  draw : Bool := false
  lapk : Bool := false
  srule : Bool := false
  ten : Bool := false
  wen : Bool := false
  sumv : Bool := false
  nm : Bool := false
  deriving DecidableEq, Repr

/-- The head fields of each class. RANDOM tracks nothing: its TEN and WEN are fields it does not use (log entry 53(f)). -/
def headUse (o : Op) : HeadUse :=
  match o with
  | .convPlain | .convRescale | .convTranspose | .convReepoch | .element | .permute | .shufInterleave | .shufEven
  | .shufOdd | .shufReverse | .shufRotate | .sliceProgram | .sliceConvert | .sliceReepoch =>
    { rmode := true, draw := true, lapk := true, srule := true, ten := true, wen := true, nm := true }
  | .rotate => { rmode := true, draw := true, lapk := true, wen := true, nm := true }
  | .tableBuild => { nm := true }
  | .stats => { ten := true, wen := true, sumv := true, nm := true }
  | .scalePropose | .scaleAdopt | .scalePin => { ten := true, sumv := true }
  | .reduce => { rmode := true, draw := true, lapk := true, srule := true, wen := true, sumv := true, nm := true }
  | .pack | .unpackCodes | .unpackScales | .unpackZpoints => { ten := true, wen := true, nm := true }
  | .randomBits | .randomBernoulli => { draw := true, lapk := true, nm := true }
  | .sample => { draw := true, lapk := true, sumv := true, nm := true }
  | .relaySend | .relayReceive | .relayCollective => { rmode := true, draw := true, lapk := true, nm := true }
  | .summary => { sumv := true }
  | .tableCodebook | .tableChannel | .tableRescale | .tableProgram | .sliceWindow | .fenceQueue | .fenceWaitseq
  | .lapwait => {}

/-- RANDOM. -/
def Op.isRandom (o : Op) : Bool := o == .randomBits || o == .randomBernoulli

/-- The head holds no reserved value and no nonzero field its class does not use (R286, R287). -/
def headOk (o : Op) (h : SlotWord) : Bool :=
  let u := headUse o
  decide (bitsAt h 82 14 = 0) && decide (hRmode h ≠ 3)
    && (u.rmode || decide (hRmode h = 0)) && (u.draw || decide (hDraw h = 0)) && (u.lapk || !hLapk h)
    && (u.srule || !hSrule h) && (u.ten || !hTen h) && (u.wen || !hWen h) && (u.sumv || !hSumv h)
    && (hTen h || decide (hTrk h = 0)) && (hWen h || (decide (hWatch h = 0) && !hWclose h))
    && (hSumv h || decide (hSumslot h = 0)) && (u.nm || (decide (hN h = 0) && decide (hM h = 0)))
    && (if (decide (hRmode h = 1) && u.rmode) || o.isRandom then decide (hGen h ≤ 1) else decide (hGen h = 0))

/-! ### Class bodies (R297 to R303): bit 0 is bit 0 of offset 16 -/

/-- Bits that a class body may have set; the rest are reserved or unused (R286). -/
def bodyMask (o : Op) : BitVec 128 :=
  match o with
  | .convPlain | .convTranspose => 0x1ffffffffffffffffff00003fffffff
  | .convRescale => 0x1ffffffff001fffffffffff1fffffff
  | .convReepoch | .rotate => 0x1ffffffffffffffffff00001fffffff
  | .tableBuild => 0x3F
  | .tableCodebook => 0xFFFFFFFF0000007F
  | .tableChannel | .tableRescale => 0xFFFFFFFF0FFFFFFF
  | .tableProgram => 0xFFFFFFFF000000FF
  | .stats => 0x1FFF
  | .scalePropose => 0xFFFF0003
  | .scaleAdopt => 0
  | .scalePin => 0x4
  | .element => 0x7FF
  | .reduce => 0x7FFF
  | .permute => 0xFFFF0600
  | .shufInterleave | .shufEven | .shufOdd => 0x600
  | .shufReverse => 0xF00000600
  | .shufRotate => 0xFFF00000600
  | .pack | .unpackCodes | .unpackScales | .unpackZpoints => 0x600
  | .randomBits => 0
  | .randomBernoulli => 0x1FFFFFF0000000000000000
  | .sample => 0xFFFFFFFF000007FFFFFFFFFF
  | .relaySend | .relayReceive => 0xFFFFFF003F0FFF
  | .relayCollective => 0xF00FFFFFF003F0FFF
  | .sliceProgram => 0x1FF
  | .sliceConvert | .sliceReepoch => 0
  | .sliceWindow => 0x7F00000000
  | .fenceQueue => 0
  | .fenceWaitseq => 0x0000FFFF00003FFF
  | .lapwait => 0x1FFFFFFFFFFFFFFF
  | .summary => 0xFFFFF

/-- CB0 -/
def bCb0 (b : BitVec 128) : Nat := (bitsAt b 0 13).toNat
/-- CB1 -/
def bCb1 (b : BitVec 128) : Nat := (bitsAt b 13 13).toNat
/-- DFEED -/
def bDfeed (b : BitVec 128) : Nat := (bitsAt b 26 2).toNat
/-- WALK -/
def bWalk (b : BitVec 128) : Bool := bitAt b 28
/-- RSUM -/
def bRsum (b : BitVec 128) : Bool := bitAt b 29
/-- RSB -/
def bRsb (b : BitVec 128) : Nat := (bitsAt b 32 13).toNat
/-- ENR -/
def bEnr (b : BitVec 128) : Bool := bitAt b 45
/-- ENS -/
def bEns (b : BitVec 128) : Bool := bitAt b 46
/-- ENZ -/
def bEnz (b : BitVec 128) : Bool := bitAt b 47
/-- T -/
def bT (b : BitVec 128) : BitVec 16 := bitsAt b 48 16
/-- RKS -/
def bRks (b : BitVec 128) : BitVec 24 := bitsAt b 64 24
/-- DCB of RESCALE -/
def bDcb (b : BitVec 128) : Nat := (bitsAt b 64 13).toNat
/-- REGION -/
def bRegion (b : BitVec 128) : Nat := (bitsAt b 88 8).toNat
/-- RKD -/
def bRkd (b : BitVec 128) : BitVec 24 := bitsAt b 96 24
/-- RGV -/
def bRgv (b : BitVec 128) : Bool := bitAt b 120
/-- SRC of a TABLE load -/
def bSrc (b : BitVec 128) : Nat := (bitsAt b 32 32).toNat
/-- FIRST -/
def bFirst (b : BitVec 128) : Nat := (bitsAt b 0 13).toNat
/-- COUNT of a load -/
def bCount (b : BitVec 128) : Nat := (bitsAt b 13 14).toNat
/-- PROG -/
def bProg (b : BitVec 128) : Nat := (bitsAt b 0 8).toNat
/-- PV -/
def bPv (b : BitVec 128) : Bool := bitAt b 8
/-- MFILL -/
def bMfill (b : BitVec 128) : Nat := (bitsAt b 9 2).toNat
/-- ROP -/
def bRop (b : BitVec 128) : Nat := (bitsAt b 11 3).toNat
/-- SHAPE: true for ROW -/
def bShape (b : BitVec 128) : Bool := bitAt b 14
/-- SN -/
def bSn (b : BitVec 128) : Nat := (bitsAt b 16 16).toNat
/-- P of SHUFFLE -/
def bP (b : BitVec 128) : Nat := (bitsAt b 32 4).toNat
/-- SH of SHUFFLE -/
def bSh (b : BitVec 128) : Nat := (bitsAt b 36 8).toNat
/-- PROB -/
def bProb (b : BitVec 128) : Nat := (bitsAt b 64 25).toNat
/-- MODE of a TABLE load: true for IMMEDIATE -/
def loadImmediate (o : Op) (b : BitVec 128) : Bool := if o = .tableCodebook then bitAt b 6 else bitAt b 27

/-- Source bytes of a TABLE load. -/
def loadBytes (o : Op) (b : BitVec 128) : Nat :=
  match o with
  | .tableCodebook => 32
  | .tableChannel => 4 * bCount b
  | .tableRescale => 8 * bCount b
  | .tableProgram => 128
  | _ => 0

/-- Alignment of SRC (R298). -/
def loadAlign (o : Op) : Nat :=
  match o with
  | .tableCodebook => 32 | .tableChannel => 4 | .tableRescale => 8 | .tableProgram => 16 | _ => 1

/-- A TABLE load. -/
def Op.isLoad (o : Op) : Bool :=
  o == .tableCodebook || o == .tableChannel || o == .tableRescale || o == .tableProgram

/-- The flag that `fieldUse` reads. -/
def fieldFlag (o : Op) (b : BitVec 128) : Bool :=
  match o with
  | .convPlain | .convTranspose => bRsum b
  | .convRescale => bEns b
  | .reduce => bShape b
  | _ => false

/-- F1 of a SLICE PROGRAM names a plane group (R350). -/
def isPlaneGroup (o : Op) (sl : List SlotWord) : Bool :=
  decide (o = .sliceProgram) && isPlain (fieldOf sl 1) && decide (fFmt (fieldOf sl 1) = 0)

/-- What the layout of an instruction alone decides: opcode, form, executor, reserved and unused bits, field kinds,
counts and alignments that no table entry enters (R285 to R303). -/
def layoutOk (k : Kind) (sl : List SlotWord) : Bool :=
  let h := headOf sl
  let b := hBody h
  match opIn sl with
  | none => false
  | some o =>
    runsOn o k && headOk o h && decide (b &&& ~~~(bodyMask o) = 0)
      && ((fieldUse o (fieldFlag o b)).zip [1, 2, 3, 4, 5, 6]).all (fun p => fieldFits p.1 (fieldOf sl p.2))
      && (!o.isConv || (decide (bDfeed b ≠ 3) && (bRgv b || decide (bRegion b = 0))))
      && (!o.isLoad || (decide (bSrc b % loadAlign o = 0)
            && (!(o == .tableChannel || o == .tableRescale) ||
                (decide (1 ≤ bCount b) && decide (bFirst b + bCount b ≤ 8192)))))
      && (!o.isScale || (hTen h && hSumv h && (o != .scalePropose ||
            (decide (bitsAt b 0 2 ≠ 3) && (decide (bitsAt b 0 2 = 2) || decide (bitsAt b 16 16 = 0))))))
      && (o != .summary || (hSumv h && decide ((bitsAt b 16 4).toNat ≤ 6)
            && (if (bitsAt b 16 4).toNat ≤ 3 then decide ((bitsAt b 0 16).toNat < 16384)
                else if (bitsAt b 16 4).toNat ≤ 5 then decide ((bitsAt b 0 16).toNat < 4096) else true)))
      && (!(o == .element || o == .reduce || o == .sliceProgram) || bPv b || decide (bProg b = 0))
      && (!o.isSe || (decide (hM h ≤ 31) && (if fieldOf sl 5 = 0 then decide (bMfill b = 0) else decide (bMfill b ≠ 3))))
      && (o != .reduce || decide (hRmode h ≠ 1))
      && (o != .stats || k == .cv || decide (b = 0))
      && (o != .stats || k == .se || isStream (fieldOf sl 1))
      && (o != .sliceProgram || isPlaneGroup o sl || decide (fieldOf sl 4 ≠ 0))
      && (!(k == .sl || k == .rl) || decide (hRmode h ≠ 1) || decide (hGen h = 1))
      && (!(k == .sl || k == .rl) || o != .lapwait || (!bitAt b 58 && !bitAt b 59))

/-- The instruction fixes a queue's later instructions behind it. -/
def Op.holdsQueue (o : Op) : Bool := o == .fenceQueue || o == .fenceWaitseq || o == .lapwait

end Sys2Proof.Machine
end

