-- ==== Sys2Proof/Machine/Flags.lean ====
section
/-!
DEFINITION. Statuses (R308), counts (R78, R79, R143), events and how a unit holds them (R421, R422, R425).
-/

namespace Sys2Proof.Machine

/-! ### Statuses (R308) -/

/-- 8-bit encoding of a status. -/
def Status.byte : Status → BitVec 8
  | .ok => 0x00 | .empty => 0x01 | .wrongState => 0x02 | .closed => 0x03 | .aborted => 0x04 | .skew => 0x05
  | .checksum => 0x06 | .poisonIn => 0x07 | .format => 0x08 | .permRange => 0x09 | .overflow => 0x0A
  | .epoch => 0x0B | .denied => 0x0C | .timeout => 0x0D

/-- The status stops a queue whose HALTE is 1. -/
def Status.halting : Status → Bool
  | .ok | .empty | .overflow => false
  | _ => true

/-! ### Counts -/

/-- Counts of a written tile added to an instruction's (R79). -/
def Counts.add (a b : Counts) : Counts :=
  { nan := satAdd a.nan b.nan, clip := satAdd a.clip b.clip, flush := satAdd a.flush b.flush,
    ovfl := satAdd a.ovfl b.ovfl, flagged := satAdd a.flagged b.flagged, otiles := satAdd a.otiles b.otiles }

/-- The three conversion counts of an encoded tile (R78). -/
def Encoded.counts (e : Encoded) : Counts :=
  { nan := satOf 32 (e.counted .nan), clip := satOf 32 (e.counted .clip), flush := satOf 32 (e.counted .flush) }

/-- Record counts and amaxes merged (R175). -/
def Record.merge (r d : Record) : Record :=
  { r with
    amax := if r.amax.toNat < d.amax.toNat then d.amax else r.amax
    capmax := if r.capmax.toNat < d.capmax.toNat then d.capmax else r.capmax
    nan := satAdd r.nan d.nan, clip := satAdd r.clip d.clip, flush := satAdd r.flush d.flush
    overflow := satAdd r.overflow d.overflow, flagged := satAdd r.flagged d.flagged
    otiles := satAdd r.otiles d.otiles }

/-- The larger of two bfloat16 magnitudes. -/
def maxBf (a b : BitVec 16) : BitVec 16 := if a.toNat < b.toNat then b else a

/-- A magnitude rounded toward +infinity onto the bfloat16 grid, at most 0x7F7F (R174). -/
def amaxCode (q : ℚ) : BitVec 16 := if q = 0 then 0 else wordOf 16 (scaleUp bf16 0 0x7F7F |q|)

/-! ### The event catalogue (R425) -/

/-- The events of the catalogue. -/
inductive Ev where
  | checksum | skew
  | statsLate | statsShort | clipHigh | flushHigh | nanHigh | stumble
  | fallback
  | paceFault | mark | startLapse | batonDefer | falseStart | resyncFail | widest
  | doorbell
  | sideband | viewRange | sliceTorn | scrub | corrected | uncorrected
  | linkDown | linkMismatch | linkFeature | linkDegraded | retrain
  | groupRefused | groupTimeout | peerTimeout | peerAbort | residCrc
  | malformed | lastuseDiscard
  | access
  | minimal | update
  | powerFloor | cap
  | chain | bist | fence | unfence | hang | mgFatal
  deriving DecidableEq, Repr

/-- CLASS, CODE and SEV of an event. -/
def Ev.row : Ev → BitVec 4 × BitVec 8 × BitVec 2
  | .checksum => (1, 1, 2) | .skew => (1, 2, 2)
  | .statsLate => (2, 1, 0) | .statsShort => (2, 2, 1) | .clipHigh => (2, 3, 1) | .flushHigh => (2, 4, 1)
  | .nanHigh => (2, 5, 1) | .stumble => (2, 6, 1)
  | .fallback => (3, 1, 0)
  | .paceFault => (4, 1, 2) | .mark => (4, 2, 0) | .startLapse => (4, 3, 1) | .batonDefer => (4, 4, 1)
  | .falseStart => (4, 5, 2) | .resyncFail => (4, 6, 2) | .widest => (4, 7, 0)
  | .doorbell => (5, 1, 1)
  | .sideband => (6, 1, 2) | .viewRange => (6, 2, 1) | .sliceTorn => (6, 3, 2) | .scrub => (6, 4, 2)
  | .corrected => (6, 5, 0) | .uncorrected => (6, 6, 2)
  | .linkDown => (7, 1, 2) | .linkMismatch => (7, 2, 1) | .linkFeature => (7, 3, 2) | .linkDegraded => (7, 4, 1)
  | .retrain => (7, 5, 0)
  | .groupRefused => (8, 1, 2) | .groupTimeout => (8, 2, 2) | .peerTimeout => (8, 3, 2) | .peerAbort => (8, 4, 1)
  | .residCrc => (8, 5, 2)
  | .malformed => (9, 1, 1) | .lastuseDiscard => (9, 2, 1)
  | .access => (10, 1, 1)
  | .minimal => (11, 1, 2) | .update => (11, 2, 0)
  | .powerFloor => (12, 1, 1) | .cap => (12, 2, 0)
  | .chain => (13, 1, 2) | .bist => (13, 2, 2) | .fence => (13, 3, 2) | .unfence => (13, 4, 0) | .hang => (13, 5, 2)
  | .mgFatal => (13, 6, 3)

/-- CLASS and CODE stand in the catalogue; every other value is reserved (R425). -/
def catalogued (cls : BitVec 4) (code : BitVec 8) : Bool :=
  decide (code ≠ 0) && decide (code.toNat ≤ [0, 2, 6, 1, 7, 1, 6, 5, 5, 2, 1, 2, 2, 6].getD cls.toNat 0)

/-- Two records are one event to R422. -/
def Event.same (a b : Event) : Bool :=
  decide (a.cls = b.cls) && decide (a.code = b.code) && decide (a.bib = b.bib) && decide (a.ctxv = b.ctxv)
    && decide (a.ctx = b.ctx)

/-- A held record's REPEAT raised (R422). -/
def raiseRepeat (e : Event) : List Event → List Event
  | [] => []
  | x :: xs => if x.same e then { x with rep := satAdd x.rep 1 } :: xs else x :: raiseRepeat e xs

/-- LAP and run parity that a unit holds (R197, R421). -/
def State.lapOf (s : State) (b : Nat) : BitVec 48 × Bool :=
  if isFar b then ((s.unit b).farLap, (s.unit b).farPar) else (s.pace.lap, s.pace.parity)

/-- A unit holds one more event, or merges or drops it (R422), and counts it (R416). -/
def UnitSt.hold (u0 : UnitSt) (e : Event) : UnitSt :=
  let u := { u0 with errs := satAdd u0.errs 1 }
  if u.events.any (fun x => x.same e) then { u with events := raiseRepeat e u.events }
  else if u.events.length < 8 then { u with events := u.events ++ [e] }
  else { u with lossNext := true, health := { u.health with evlost := satAdd u.health.evlost 1 } }

/-- An event posted by unit `p` about unit `b` (R421, R422). A fence bars a unit's reports and writes, not its events (R425,
R427, R429). -/
def State.post (s : State) (p b : Nat) (v : Ev) (ctx : Option Nat) (a0 a1 a2 : BitVec 32) : State :=
  let l := s.lapOf p
  s.onUnit p (fun u => u.hold
    { bib := wordOf 12 b, cls := v.row.1, code := v.row.2.1, sev := v.row.2.2, loss := false,
      ctx := wordOf 10 (ctx.getD 0), ctxv := ctx.isSome, lap := l.1, par := l.2, rep := 0,
      arg0 := a0, arg1 := a1, arg2 := a2 })

/-- An event that MG posts about itself. -/
def State.postMg (s : State) (v : Ev) (a0 a1 a2 : BitVec 32) : State := s.post 0 0 v none a0 a1 a2

/-- A discarded malformed message (R425). -/
def State.malformed (s : State) (p : Nat) (iface : Nat) (first : BitVec 32) (sender : Nat) : State :=
  s.post p p .malformed none (wordOf 32 iface) first (wordOf 32 sender)

end Sys2Proof.Machine
end

