-- ==== Sys2Proof/Machine/Wire.lean ====
section
/-!
DEFINITION. The flit layer of a slice link: what one end sends (R359, R360).
-/

namespace Sys2Proof.Machine

/-- One end of a slice link. -/
def State.linkEnd (s : State) (k : Nat) (mg : Bool) : LinkEnd := if mg then (s.link k).mg else (s.link k).sl

/-- The state with one end of a slice link replaced. -/
def State.setLinkEnd (s : State) (k : Nat) (mg : Bool) (e : LinkEnd) : State :=
  s.setLink k (if mg then { s.link k with mg := e } else { s.link k with sl := e })

/-- The 64 bytes of a flit (R359). -/
def flitBits (seq ack : BitVec 8) (nak : Bool) (credit : Nat) (chunks : List (List Byte)) : BitVec 512 :=
  let w0 : BitVec 32 := seq.setWidth 32 ||| (ack.setWidth 32 <<< 8) ||| ((bit nak).setWidth 32 <<< 16)
    ||| (wordOf 32 chunks.length <<< 17)
  let bs := bytesLE 4 w0 ++ leBytes 4 (credit % 2 ^ 16) ++ fitTo 48 0 chunks.flatten ++ leBytes 4 0
  wordLE 512 (bs ++ bytesLE 4 (crc32c bs))

/-- A message is a BATON message. -/
def isBatonMsg (m : List Byte) : Bool := decide (m.headD 0 = 0x18)

/-- The next chunk that an end sends: a BATON goes ahead of every other chunk, the rest of a message already begun among
them (R362). -/
def LinkEnd.chunk (e : LinkEnd) : Option (List Byte × LinkEnd) :=
  match e.sendingBaton, e.sending, e.outq with
  | [], [], [] => none
  | [], [], m :: q => some (m.take 16, { e with sending := m.drop 16, outq := q })
  | [], r, [] => some (r.take 16, { e with sending := r.drop 16 })
  | [], r, m :: q =>
    if isBatonMsg m then some (m.take 16, { e with sendingBaton := m.drop 16, outq := q })
    else some (r.take 16, { e with sending := r.drop 16 })
  | r, _, _ => some (r.take 16, { e with sendingBaton := r.drop 16 })

/-- Up to n chunks, one for each credit. -/
def LinkEnd.chunks : Nat → LinkEnd → List (List Byte) × LinkEnd
  | 0, e => ([], e)
  | n + 1, e =>
    if e.credit = 0 then ([], e)
    else match e.chunk with
      | none => ([], e)
      | some (c, e1) =>
        let r := LinkEnd.chunks n { e1 with credit := e1.credit - 1 }
        (c :: r.1, r.2)

/-- A flit with its ACK and NAK as they are now. -/
def flitWithNak (f : BitVec 512) (ack : BitVec 8) : BitVec 512 :=
  let bs := bytesLE 60 (putBits (putBits (bitsAt f 0 480) 8 ack) 16 (1 : BitVec 1))
  wordLE 512 (bs ++ bytesLE 4 (crc32c bs))

/-- An end in ACTIVE sends one flit; it holds up to 128 unacknowledged ones. A NAK that meets 128 goes out with the newest of
them, sent again (R360; DEDUCED: log entry 22). -/
def sendFlit (s : State) (k : Nat) (mg nak : Bool) : State :=
  let e := s.linkEnd k mg
  if e.st = .active ∧ e.replay.length < 128 then
    let r := e.chunks 3
    let f := flitBits (e.seqSent + 1) e.seqGot nak e.freed r.1
    (s.setLinkEnd k mg { r.2 with seqSent := e.seqSent + 1, freed := 0, replay := e.replay ++ [f] }).emit
      (.flit (wordOf 4 k) mg f)
  else if e.st = .active ∧ nak then s.emit (.flit (wordOf 4 k) mg (flitWithNak (e.replay.getLastD 0) e.seqGot))
  else s

/-- Chunks wait, and there is credit and room to send one. -/
def LinkEnd.canSend (e : LinkEnd) : Bool :=
  e.st == .active && e.chunk.isSome && decide (0 < e.credit) && decide (e.replay.length < 128)

/-- Waiting chunks sent, up to `n` flits. -/
def pumpFlits (k : Nat) (mg : Bool) : Nat → State → State
  | 0, s => s
  | n + 1, s => if (s.linkEnd k mg).canSend then pumpFlits k mg n (sendFlit s k mg false) else s

/-- An end accepts a message to send, a BATON ahead of every other message; in DOWN it is lost. -/
def queueMessage (s : State) (k : Nat) (mg : Bool) (m : List Byte) : State :=
  let e := s.linkEnd k mg
  if e.st = .down then s
  else
    let q := if isBatonMsg m then e.outq.takeWhile isBatonMsg ++ [m] ++ e.outq.dropWhile isBatonMsg else e.outq ++ [m]
    pumpFlits k mg 128 (s.setLinkEnd k mg { e with outq := q })

/-! ### Messages (R361) -/

/-- A message: MTYPE, chunk count, the three words of its first chunk, its further chunks. -/
def linkMsg (mtype : Nat) (w1 w2 w3 : BitVec 32) (rest : List Byte) : List Byte :=
  leBytes 4 (mtype + 256 * (rest.length / 16)) ++ bytesLE 4 w1 ++ bytesLE 4 w2 ++ bytesLE 4 w3 ++ rest

/-- A message sent to or by a far unit: a slice's goes over its link in flits (log entry 22). -/
def sendMsg (s : State) (toUnit : Bool) (b : Nat) (m : List Byte) : State :=
  let s1 := s.emit (.message toUnit (wordOf 12 b) m)
  if kindOf b = some .sl then queueMessage s1 (indexOf b) toUnit m else s1

end Sys2Proof.Machine
end

