-- ==== Sys2Proof/Machine/Offers.lean ====
section
/-!
DEFINITION. The fields and entries an instruction names (R91, R288, R291, R296), what a context is granted (R322, R323, R259), which descriptor a stream field names (R205, R459),
who owns a queue, what an instruction fixes at issue (R199), and the preempted instruction of a queue (R325, R329).
-/

namespace Sys2Proof.Machine

/-! ### Geometry (R288) -/

/-- Reduction tiles of a row block. -/
def tilesOf (n : Nat) : Nat := ceilDiv n 128

/-- Row blocks. -/
def rowBlocks (rows : Nat) : Nat := ceilDiv rows 32

/-! ### Fields of an issued instruction -/

/-- Class and form of an issued instruction; an issued instruction has one. -/
def Issued.op (i : Issued) : Op := (opIn i.slots).getD .fenceQueue

/-- Head slot. -/
def Issued.head (i : Issued) : SlotWord := headOf i.slots

/-- Class body. -/
def Issued.body (i : Issued) : BitVec 128 := hBody i.head

/-- Field Fn. -/
def Issued.field (i : Issued) (n : Nat) : BitVec 128 := fieldOf i.slots n

/-- Descriptor of Fn as resolved at issue (R459). -/
def Issued.desc (i : Issued) (n : Nat) : Desc := i.descs.getD (n - 1) 0

/-- The instruction reads its F1 blocks under the carried descriptor (R106). -/
def Issued.reepoch (i : Issued) : Bool := i.op == .convReepoch || i.op == .sliceReepoch

/-- Rows of the instruction. -/
def Issued.height (i : Issued) : Nat := hM i.head + 1

/-- N of the instruction. -/
def Issued.len (i : Issued) : Nat := hN i.head

/-- Positions of an instruction: source positions, and as many destination positions. -/
def Issued.total (i : Issued) : Nat := tilesOf i.len * rowBlocks i.height

/-- Field n is a destination of the class (R296). -/
def isDest (o : Op) (n : Nat) : Bool :=
  if o.isConv then decide (n = 2) || (decide (n = 3) && decide (o ≠ .convRescale)) else decide (n = 4)

/-- Positions among F1 to F4 that name a tile stream. -/
def streamFields (sl : List SlotWord) : List Nat :=
  match opIn sl with
  | none => []
  | some o => [1, 2, 3, 4].filter (fun n => isStream (fieldOf sl n) &&
      !(decide (n = 4) && o.isConv) && !(o == .tableBuild && decide (n ≠ 1)))

/-- The stream entries that a field names with a descriptor: data, scale, side (R291), with their KIND. -/
def entriesOf (f : BitVec 128) (d : Desc) : List (Nat × Nat) :=
  [(fStream f, 0)] ++ (if dSfmt d = 0 then [] else [((fPair f).toNat, 1)])
    ++ (if dOcap d = 0 then [] else [((fSide f).toNat, 2)])

/-- The instruction was not refused at issue and has not completed: it holds what it names (R92, R305). -/
def Issued.active (i : Issued) : Bool := i.ended.isNone && !i.atIssue

/-- Entries that an issued instruction names as source or as destination. -/
def Issued.entries (i : Issued) (dest : Bool) : List Nat :=
  (streamFields i.slots).flatMap (fun n =>
    if isDest i.op n = dest then (entriesOf (i.field n) (i.desc n)).map Prod.fst else [])

/-- Every entry that an issued instruction names. -/
def Issued.allEntries (i : Issued) : List Nat := i.entries false ++ i.entries true

/-! ### Ranges (R322, R455) -/

/-- `n` items from `x` on lie in a granted range. -/
def spanIn (r : Nat × Nat) (x n : Nat) : Bool := decide (r.1 ≤ x) && decide (x + n ≤ r.1 + r.2)

/-- Stack grant of a context on a slice, in bytes (R348, R455). -/
def stackGrant (u : UnitSt) (c : Nat) : Nat × Nat :=
  let g := tget 0 u.slice.grants c
  ((bitsAt g 0 15).toNat * 2 ^ 22, (bitsAt g 15 15).toNat * 2 ^ 22)

/-! ### The grant record (R322) -/

/-- EN -/
def gEn (g : BitVec 384) : Bool := bitAt g 0
/-- PRIV -/
def gPriv (g : BitVec 384) : Bool := bitAt g 1
/-- Granted queues: first and count. -/
def gQueues (g : BitVec 384) : Nat × Nat := ((bitsAt g 32 14).toNat, (bitsAt g 46 15).toNat)
/-- Granted stream entries. -/
def gStreams (g : BitVec 384) : Nat × Nat := ((bitsAt g 64 16).toNat, (bitsAt g 96 17).toNat)
/-- Granted tracked entries. -/
def gTracked (g : BitVec 384) : Nat × Nat := ((bitsAt g 128 14).toNat, (bitsAt g 142 15).toNat)
/-- Granted norm watches. -/
def gWatches (g : BitVec 384) : Nat × Nat := ((bitsAt g 160 12).toNat, (bitsAt g 172 13).toNat)
/-- Granted codebook slots. -/
def gBooks (g : BitVec 384) : Nat × Nat := ((bitsAt g 192 6).toNat, (bitsAt g 198 7).toNat)
/-- Granted channel-scale-file entries. -/
def gChannels (g : BitVec 384) : Nat × Nat := ((bitsAt g 224 13).toNat, (bitsAt g 237 14).toNat)
/-- Granted rescale-table entries. -/
def gRescales (g : BitVec 384) : Nat × Nat := ((bitsAt g 256 13).toNat, (bitsAt g 269 14).toNat)
/-- The scratchpad grant: first byte and bytes. -/
def gSpad (g : BitVec 384) : Nat × Nat := ((bitsAt g 288 32).toNat, (bitsAt g 320 32).toNat)
/-- PSBASE -/
def gPsbase (g : BitVec 384) : Nat := (bitsAt g 352 32).toNat

/-- `x` lies in a granted range. -/
def inRange (r : Nat × Nat) (x : Nat) : Bool := decide (r.1 ≤ x) && decide (x < r.1 + r.2)

/-- Two ranges share an item. -/
def rangesMeet (a b : Nat × Nat) : Bool :=
  decide (0 < a.2) && decide (0 < b.2) && decide (a.1 < b.1 + b.2) && decide (b.1 < a.1 + a.2)

/-- Grant record of a context. -/
def State.grant (s : State) (c : Nat) : BitVec 384 := (s.context c).grant

/-- The context that a queue belongs to (R312). -/
def State.ownerOf (s : State) (q : Nat) : Option Nat :=
  (s.tables.contexts.find? (fun p => gEn p.2.grant && inRange (gQueues p.2.grant) q)).map Prod.fst

/-- The mailbox of a context is valid (R259). -/
def State.mailboxOk (s : State) (c : Nat) : Bool :=
  spanIn (gSpad (s.grant c)) (s.context c).sumbase.toNat 4096

/-- The profile context (R204, R445). -/
def State.profileCtx (s : State) : Option Nat :=
  if bitAt s.mg.tabgrant 10 then some (bitsAt s.mg.tabgrant 0 10).toNat else none

/-- Stream-wait limit of a context in CCLK cycles (R95, R323). -/
def State.swaitCycles (s : State) (c : Nat) : Nat := usCclk (s.context c).swait.toNat

/-! ### The format a stream field names (R205) -/

/-- Format index of a layer in a profile: narrow or wide by WIDTH (R204, R205). -/
def layerIndex (w : BitVec 32) (backward : Bool) : BitVec 6 :=
  let wide := decide (bitsAt w 28 2 ≠ 0)
  if backward then (if wide then bitsAt w 18 6 else bitsAt w 12 6) else (if wide then bitsAt w 6 6 else bitsAt w 0 6)

/-- Format index that a field names on unit b. -/
def resolveFdi (s : State) (b : Nat) (f : BitVec 128) : BitVec 6 :=
  if fFsel f then layerIndex (tget 0 (s.unit b).lmap (fLayer f)) (fProf f) else fFdi f

/-- The layer a field names exists (R205). -/
def layerUsed (s : State) (b : Nat) (f : BitVec 128) : Bool :=
  !fFsel f || bitAt (tget 0 (s.unit b).lmap (fLayer f)) 24

/-- Format table entry of a context as unit b holds it (R57). -/
def unitFormat (s : State) (b c : Nat) (i : BitVec 6) : Desc := tget 0 (s.unit b).ftab (64 * c + i.toNat)

/-- Descriptor of field n of an instruction that unit b issues (R459): 0 where the field names no stream. -/
def resolveDesc (s : State) (b c : Nat) (sl : List SlotWord) (n : Nat) : Desc :=
  let f := fieldOf sl n
  if decide (n = 1) && (opIn sl == some .convReepoch || opIn sl == some .sliceReepoch) then bitsAt (fieldOf sl 5) 0 32
  else if (streamFields sl).contains n then unitFormat s b c (resolveFdi s b f) else 0

/-- What an issuing unit knows about an instruction: its unit, context, slots, and resolved formats. -/
structure Offer where
  b : Nat
  queue : Nat
  ctx : Nat
  slots : List SlotWord
  descs : List Desc
  fdis : List (BitVec 6)
  deriving DecidableEq, Repr

/-- The offer of an instruction at its unit. -/
def mkOffer (s : State) (b q c : Nat) (sl : List SlotWord) : Offer :=
  { b := b, queue := q, ctx := c, slots := sl, descs := [1, 2, 3, 4].map (resolveDesc s b c sl)
    fdis := [1, 2, 3, 4].map (fun n => if (streamFields sl).contains n then resolveFdi s b (fieldOf sl n) else 0) }

/-- Descriptor of Fn. -/
def Offer.desc (o : Offer) (n : Nat) : Desc := o.descs.getD (n - 1) 0
/-- Head. -/
def Offer.head (o : Offer) : SlotWord := headOf o.slots
/-- Body. -/
def Offer.body (o : Offer) : BitVec 128 := hBody o.head
/-- Field Fn. -/
def Offer.field (o : Offer) (n : Nat) : BitVec 128 := fieldOf o.slots n
/-- Class and form. -/
def Offer.op (o : Offer) : Op := (opIn o.slots).getD .fenceQueue
/-- Kind of the unit. -/
def Offer.kind (o : Offer) : Option Kind := kindOf o.b
/-- Stream fields. -/
def Offer.streams (o : Offer) : List Nat := streamFields o.slots
/-- Format index resolved for Fn. -/
def Offer.fdi (o : Offer) (n : Nat) : BitVec 6 := o.fdis.getD (n - 1) 0
/-- Row count. -/
def Offer.height (o : Offer) : Nat := hM o.head + 1
/-- Element count. -/
def Offer.len (o : Offer) : Nat := hN o.head

/-- The instruction posts a summary (R259, R305). -/
def Offer.posts (o : Offer) : Bool := hSumv o.head || o.op.isScale

/-- An instruction with what its unit fixes for it, but for the programs it runs and a LAPWAIT's target (R199). -/
def bareIssued (s : State) (o : Offer) (slot : BitVec 16) : Issued :=
  { queue := o.queue, slot := slot, slots := o.slots, ctx := o.ctx, epoch := (s.unit o.b).epoch, descs := o.descs, fdis := o.fdis
    seed := (s.context o.ctx).cseed, lap := (s.lapOf o.b).1, bci := s.baton.commits, serial := s.tables.serial
    wdesc := if o.op == .tableBuild then unitFormat s o.b o.ctx (bitsAt o.body 0 6) else 0
    mute := o.posts && !s.mailboxOk o.ctx
    space := if o.kind == some .sl then indexOf o.b + 1 else 0 }

/-! ### Rings (R315, R285) -/

/-- Slot c of a queue's descriptor ring. -/
def ringSlot (s : State) (q : Queue) (c : BitVec 16) : SlotWord :=
  wordLE 256 (s.readSpad (q.rbase.toNat + 32 * (c.toNat % 2 ^ (q.rsize.toNat + 4))) 32)

/-- The slots of the instruction at slot counter c. -/
def ringInstr (s : State) (q : Queue) (c : BitVec 16) : List SlotWord :=
  (List.range (1 + hNslot (ringSlot s q c))).map (fun k => ringSlot s q (c + wordOf 16 k))

/-- Bytes of the slots of an instruction. -/
def slotBytes (sl : List SlotWord) : List Byte := sl.flatMap (bytesLE 32)

/-- The instruction at HEAD of a queue, as a unit that takes it finds it (R326). -/
def atHead (s : State) (q : Nat) : Issued :=
  let x := s.queue q
  bareIssued s (mkOffer s x.bib.toNat q ((s.ownerOf q).getD 0) (ringInstr s x x.head)) x.head

/-- What a unit left of a preempted instruction, where the queue block still names it. -/
def State.leftParked (s : State) (q : Nat) : Option Issued :=
  let x := s.queue q
  x.parked.filter (fun i => decide (i.slot = x.head) && decide (crc32c (slotBytes i.slots) = x.dcrc))

/-- The preempted instruction of a queue with PRE 1: as its unit left it, or, where software restored the block, the one
at HEAD (R325, R329). -/
def State.preempted (s : State) (q : Nat) : Option Issued :=
  if (s.queue q).pre then some ((s.leftParked q).getD (atHead s q)) else none

/-- The instructions that claim stream entries: issued ones that act, and the preempted one of each queue (R92, R325). -/
def State.claimants (s : State) : List Issued :=
  s.units.flatMap (fun u => u.2.issued.filter Issued.active) ++ s.tables.queues.filterMap (fun q => s.preempted q.1)

end Sys2Proof.Machine
end

