-- ==== Sys2Proof/Machine/Streams.lean ====
section
/-!
DEFINITION. Blocks and streams: the block header (R82), placement (R453), the checks of a position (R97), poison
(R101, R102), opening, closing and releasing entries (R90 to R100, R292).
-/

namespace Sys2Proof.Machine

/-! ### Blocks (R82, R88) -/

/-- Parse a header and body (R82); `kind` is the KIND the entry holds (R97 check 2). -/
def parseBlock (kind : Nat) (bs : List Byte) : Blk :=
  let h : BitVec 128 := wordLE 128 (bs.take 16)
  let body := bs.drop 16
  let count := (bitsAt h 64 13).toNat
  { tensor := bitsAt h 0 24, fdi := bitsAt h 24 6, poison := bitAt h 30, ovf := bitAt h 31
    tag := bitsAt h 32 16, epoch := bitsAt h 48 4, ctx := bitsAt h 52 10, kind := bitsAt h 62 2, count := count
    formOk := decide (bitsAt h 80 4 = 1) && decide (bitsAt h 77 3 = 0) && decide (bitsAt h 84 12 = 0)
      && decide (1 ≤ count) && decide (count ≤ 4096) && decide ((bitsAt h 62 2).toNat = kind)
      && (decide (kind = 0) || !bitAt h 31)
    crcOk := decide (crc32c (bs.take 12 ++ body) = bitsAt h 96 32), body := body }

/-- Header and body of a block as written (R82, R88). -/
def blockBytes (tensor : BitVec 24) (fdi : BitVec 6) (poison ovf : Bool) (tag : BitVec 16) (epoch : BitVec 4)
    (ctx : BitVec 10) (kind count : Nat) (body : List Byte) : List Byte :=
  let h : BitVec 96 := tensor.setWidth 96 ||| (fdi.setWidth 96 <<< 24) ||| ((bit poison).setWidth 96 <<< 30)
    ||| ((bit ovf).setWidth 96 <<< 31) ||| (tag.setWidth 96 <<< 32) ||| (epoch.setWidth 96 <<< 48)
    ||| (ctx.setWidth 96 <<< 52) ||| (wordOf 96 kind <<< 62) ||| (wordOf 96 count <<< 64) ||| (1#96 <<< 80)
  let hb := bytesLE 12 h
  hb ++ bytesLE 4 (crc32c (hb ++ body)) ++ body

/-! ### Placement (R453) -/

/-- Memory number of the block with a tag; none where the entry has no placement. -/
def blockKey (e : Stream) (d : Desc) (kind : Nat) (tag : BitVec 16) : Option Nat :=
  if e.pspace = 0 then none
  else
    let n := if e.nblk = 0 then 65536 else e.nblk.toNat
    let a := e.pbase.toNat + e.pbasehi.toNat * 2 ^ 32 + blockStride d kind * (tag.toNat % n)
    some (if e.pspace = 1 then spadKey a else stackKey (e.pspace.toNat - 2) a)

/-- Bytes of a source block: from its placement, or as the return port delivered them. -/
def fetchBlock (s : State) (e : Stream) (d : Desc) (kind : Nat) (tag : BitVec 16) (arrived : List Byte) : List Byte :=
  match blockKey e d kind tag with
  | some k => readBytes s.mem k (16 + bodyBytes d kind)
  | none => fitTo (16 + bodyBytes d kind) 0 arrived

/-- Blocks in flight between writer and reader. -/
def Stream.inFlight (e : Stream) : Nat := (e.wtag - e.rtag).toNat

/-- A reader of the entry waits (R94). -/
def Stream.readerWaits (e : Stream) : Bool := !e.rest && decide (e.wtag = e.rtag)

/-- A writer of the entry waits (R94, R453). -/
def Stream.writerWaits (e : Stream) : Bool :=
  !e.rest && (decide (e.inFlight = 32768) || (decide (e.nblk ≠ 0) && decide (e.inFlight = e.nblk.toNat)))

/-- A reader that takes n blocks together waits: one of them is not written (R94, R135). -/
def Stream.lacks (e : Stream) (n : Nat) : Bool :=
  (List.range n).any (fun j => { e with rtag := e.rtag + wordOf 16 j }.readerWaits)

/-- A writer that writes n blocks together waits: one of them has no room (R94, R135). -/
def Stream.crowded (e : Stream) (n : Nat) : Bool :=
  (List.range n).any (fun j => { e with wtag := e.wtag + wordOf 16 j }.writerWaits)

/-! ### Scale blocks that cross a slice link (R354) -/

/-- The slice that runs the instruction. -/
def Issued.slice (i : Issued) : Nat := firstBib .sl + (i.space - 1)

/-- Blocks of an entry cross the slice link for the instruction: its scale stream lies in the scratchpad. -/
def crosses (i : Issued) (e : Stream) (kind : Nat) : Bool := decide (i.space ≠ 0) && decide (kind = 1) && decide (e.pspace = 1)

/-- Blocks of an entry that the slice has sent and MG has not written. -/
def crossing (s : State) (i : Issued) (num : Nat) : Nat :=
  if i.space = 0 then 0
  else ((s.unit i.slice).slice.scaleOut.filter (fun x => decide (x.1.1 = wordOf 16 num))).length

/-- Tag of the next block that the instruction writes into an entry. -/
def nextTag (s : State) (i : Issued) (num : Nat) : BitVec 16 := (s.stream num).wtag + wordOf 16 (crossing s i num)

/-- A scale block that has crossed to the slice. -/
def crossedBlock (s : State) (i : Issued) (num : Nat) (tag : BitVec 16) : Option (List Byte) :=
  ((s.unit i.slice).slice.scaleIn.find? (fun x => decide (x.1 = (wordOf 16 num, tag)))).map Prod.snd

/-- The slice sends a scale block to MG, which writes it when it arrives. -/
def sendScale (s : State) (i : Issued) (num : Nat) (tag : BitVec 16) (bs : List Byte) : State :=
  let m := linkMsg 0x17 (wordOf 32 num ||| (tag.setWidth 32 <<< 16)) 0 0 (fitTo (16 * ceilDiv bs.length 16) 0 bs)
  (sendMsg s false i.slice m).onUnit i.slice (fun u =>
    { u with slice := { u.slice with scaleOut := u.slice.scaleOut ++ [((wordOf 16 num, tag), bs.length)] } })

/-! ### The checks of a position (R97, R98) -/

/-- The first check of R97 that fails, with the expected tags. -/
def checkPosition (reepoch : Bool) (epoch : BitVec 4) (de : Stream) (rs ro : BitVec 16) (d : Blk) (sb ob : Option Blk) :
    Option Status :=
  let all := d :: (sb.toList ++ ob.toList)
  let links := sb.toList ++ ob.toList
  if all.any (fun x => !x.crcOk) then some .checksum
  else if all.any (fun x => !x.formOk) then some .format
  else if all.any (fun x => decide (x.ctx ≠ de.ctx)) then some .denied
  else if decide (d.tag ≠ de.rtag) || links.any (fun x => decide (x.tag ≠ d.tag))
      || sb.any (fun x => decide (x.tag ≠ rs)) || ob.any (fun x => decide (x.tag ≠ ro)) then some .skew
  else if links.any (fun x => decide (x.tensor ≠ d.tensor) || decide (x.fdi ≠ d.fdi) || decide (x.count ≠ d.count))
      || decide (d.tensor ≠ de.tensor) || (!reepoch && decide (d.fdi ≠ de.fdi)) then some .skew
  else if !reepoch && all.any (fun x => decide (x.epoch ≠ epoch)) then some .epoch
  else if all.any (fun x => x.poison) then some .poisonIn
  else none

/-- Read and check one position of source field n (R97). `arrived` holds blocks delivered on a port. -/
def readPosition (s : State) (i : Issued) (n : Nat) (arrived : List Byte) : PosRead :=
  let f := i.field n
  let desc := i.desc n
  let re := i.reepoch && decide (n = 1)
  let de := s.stream (fStream f)
  let d := parseBlock de.kind.toNat (fetchBlock s de desc 0 de.rtag arrived)
  let se := s.stream (fPair f).toNat
  let oe := s.stream (fSide f).toNat
  let sb := if dSfmt desc = 0 then none
    else some (parseBlock se.kind.toNat (if crosses i se 1 then
        fitTo (16 + bodyBytes desc 1) 0 ((crossedBlock s i (fPair f).toNat se.rtag).getD [])
      else fetchBlock s se desc 1 se.rtag (arrived.drop (16 + bodyBytes desc 0))))
  let ob := if dOcap desc = 0 then none
    else some (parseBlock oe.kind.toNat (fetchBlock s oe desc 2 oe.rtag
      (arrived.drop (16 + bodyBytes desc 0 + (if dSfmt desc = 0 then 0 else 16 + bodyBytes desc 1)))))
  let st := checkPosition re i.epoch de se.rtag oe.rtag d sb ob
  { status := st, d := d, s := sb, o := ob
    badKind := if !d.crcOk then 0 else if sb.any (fun x => !x.crcOk) then 1 else 2 }

/-- RTAG of the entries of field n advanced past one position (R93); a port's blocks count as written when read. -/
def advanceRead (s : State) (i : Issued) (n : Nat) : State :=
  s.each (entriesOf (i.field n) (i.desc n)) (fun t p =>
    let e := t.stream p.1
    let t1 := if crosses i e p.2 then t.onUnit i.slice (fun u => { u with slice := { u.slice with
      scaleIn := u.slice.scaleIn.filter (fun x => decide (x.1 ≠ (wordOf 16 p.1, e.rtag))) } }) else t
    t1.setStream p.1 { e with rtag := e.rtag + 1, wtag := if e.pspace = 0 && !e.rest then e.rtag + 1 else e.wtag })

/-- The entry becomes HALTED with a status (R98, R326, R331); a FREE entry stays free. One whose close is pending keeps it:
it becomes HCLOSE (DEDUCED: log entry 52). -/
def haltEntry (s : State) (n : Nat) (st : Status) : State :=
  s.onStream n (fun e => match e.st with
    | .free => e
    | .opened | .halted => { e with st := .halted, hstat := st.byte }
    | .closing | .hclose => { e with st := .hclose, hstat := st.byte })

/-- The entries of field n halted. -/
def haltField (s : State) (i : Issued) (n : Nat) (st : Status) : State :=
  s.each (entriesOf (i.field n) (i.desc n)) (fun t p => haltEntry t p.1 st)

/-- Every entry of an instruction halted. -/
def haltAll (s : State) (i : Issued) (st : Status) : State := s.each i.allEntries (fun t n => haltEntry t n st)

/-- Events of a failed position (R98). -/
def positionEvents (s : State) (b : Nat) (i : Issued) (n : Nat) (p : PosRead) (pos : Nat) : State :=
  let f := i.field n
  let e := s.stream (fStream f)
  match p.status with
  | some .checksum =>
    let num := if p.badKind = 0 then fStream f else if p.badKind = 1 then (fPair f).toNat else (fSide f).toNat
    let blk := if p.badKind = 0 then p.d else if p.badKind = 1 then p.s.getD p.d else p.o.getD p.d
    s.post b b .checksum (some i.ctx) (wordOf 32 (num + 65536 * p.badKind))
      (wordOf 32 (blk.tag.toNat + 65536 * (s.stream num).rtag.toNat)) (wordOf 32 pos)
  | some .skew =>
    let useSide := decide (dSfmt (i.desc n) = 0) ||
      (p.o.any (fun x => decide (x.tag ≠ p.d.tag)) && p.s.all (fun x => decide (x.tag = p.d.tag)))
    let link := if useSide then (fSide f).toNat else (fPair f).toNat
    let blk := if useSide then p.o else p.s
    s.post b b .skew (some i.ctx) (wordOf 32 (fStream f + 65536 * link))
      (wordOf 32 (e.rtag.toNat + 65536 * (s.stream link).rtag.toNat))
      (wordOf 32 (p.d.tag.toNat + 65536 * (blk.elim 0 (fun x => x.tag.toNat))))
  | _ => s

/-! ### Writing (R89, R93, R101) -/

/-- A fixed feed carries the blocks of destination field n (R293). -/
def onFeed (i : Issued) (n : Nat) : Bool := i.op.isConv && decide (n = 2) && decide (bDfeed i.body ≠ 0)

/-- One block of destination field n written: to its placement, driven on the feed, or sent over the slice's link (R89,
R93, R354). -/
def writeBlock (s : State) (i : Issued) (n kind count : Nat) (poison ovf : Bool) (body : List Byte) : State :=
  let f := i.field n
  let num := if kind = 0 then fStream f else if kind = 1 then (fPair f).toNat else (fSide f).toNat
  let e := s.stream num
  let tag := nextTag s i num
  let bs := blockBytes (fTensor f) (i.fdis.getD (n - 1) 0) poison ovf tag i.epoch (wordOf 10 i.ctx) kind count body
  if crosses i e kind then sendScale s i num tag bs
  else match (if onFeed i n then none
         else blockKey e (i.desc n) kind tag) with
  | some k => ({ s with mem := writeBytes s.mem k bs }).setStream num { e with wtag := e.wtag + 1 }
  | none => (s.emit (.feed (wordOf 2 (bDfeed i.body)) (wordOf 16 num) bs)).setStream num
      { e with wtag := e.wtag + 1, rtag := e.wtag + 1 }

/-- A whole position written good: data tile, scale block, side tile. -/
def writeGood (s : State) (i : Issued) (n count : Nat) (ovf : Bool) (body sbody obody : List Byte) : State :=
  let d := i.desc n
  let s1 := writeBlock s i n 0 count false ovf body
  let s2 := if dSfmt d = 0 then s1 else writeBlock s1 i n 1 count false false sbody
  if dOcap d = 0 then s2 else writeBlock s2 i n 2 count false false obody

/-- Tag of the block that an instruction reads from a source entry at position p. -/
def Issued.sourceTag (i : Issued) (s : State) (n p : Nat) : BitVec 16 :=
  match i.rtags.find? (fun x => decide (x.1 = n)) with
  | some x => x.2 + wordOf 16 p
  | none => (s.stream n).rtag + wordOf 16 p - wordOf 16 i.pos

/-- The block with a tag that destination field n writes next into entry `num` of KIND `kind` is also a source of the
instruction at position p (R102). -/
def inPlace (s : State) (i : Issued) (n num kind p : Nat) : Bool :=
  let e := s.stream num
  let k := blockKey e (i.desc n) kind (nextTag s i num)
  !onFeed i n && k.isSome && (streamFields i.slots).any (fun m => !isDest i.op m && (!i.op.isConv || decide (m = 1)) &&
    (entriesOf (i.field m) (i.desc m)).any (fun x => decide (x.2 = kind) &&
      decide (blockKey (s.stream x.1) (i.desc m) kind (i.sourceTag s x.1 p) = k)))

/-- One block of a position left as it was: its tag is taken. -/
def skipBlock (s : State) (num : Nat) : State := s.onStream num (fun e => { e with wtag := e.wtag + 1 })

/-- Tags of destination field n advanced past a position left as it was. -/
def skipWrite (s : State) (i : Issued) (n : Nat) : State :=
  s.each (entriesOf (i.field n) (i.desc n)) (fun t x => skipBlock t x.1)

/-- The next block of destination field n lies in the slice's stack and outside the instruction's grant (R348). -/
def outsideStack (s : State) (i : Issued) (n num kind : Nat) : Bool :=
  let e := s.stream num
  decide (i.space ≠ 0) && decide (e.pspace.toNat = i.space + 1) &&
    (match blockKey e (i.desc n) kind (nextTag s i num) with
     | some k => !spanIn (stackGrant (s.unit i.slice) i.ctx) (k - stackKey (i.space - 1) 0) (blockStride (i.desc n) kind)
     | none => false)

/-- A whole position written poisoned (R101), but for blocks that `keep` (entry, KIND) leaves as they were. -/
def writePoisonBut (keep : State → Nat → Nat → Bool) (s : State) (i : Issued) (n count : Nat) : State :=
  s.each (entriesOf (i.field n) (i.desc n)) (fun t x =>
    if keep t x.1 x.2 then skipBlock t x.1
    else writeBlock t i n x.2 count true false (List.replicate (bodyBytes (i.desc n) x.2) 0))

/-- Position p of destination field n written poisoned, but for the blocks that are in place (R102) and those that lie
outside a slice instruction's grant (R348). -/
def writePoison (s : State) (i : Issued) (n count p : Nat) : State :=
  writePoisonBut (fun t num kind => inPlace t i n num kind p || outsideStack t i n num kind) s i n count

/-! ### Destination positions that wait for room (R94, R95, R104) -/

/-- A tile's sums added to its instruction. -/
def Issued.absorb (i : Issued) (t : TileSum) : Issued :=
  { i with counts := i.counts.add t.counts, amax := maxBf i.amax t.amax, capmax := maxBf i.capmax t.capmax
           norm := min (i.norm + t.norm) (2 ^ 320 - 1), nonfin := i.nonfin || t.nonfin
           satur := i.satur || decide (2 ^ 320 ≤ i.norm + t.norm), done := i.done + 1 }

/-- A writer of field n waits (R94). -/
def fieldFull (s : State) (i : Issued) (n : Nat) : Bool :=
  (entriesOf (i.field n) (i.desc n)).any (fun x => { s.stream x.1 with wtag := nextTag s i x.1 }.writerWaits)

/-- A writer that writes k positions of field n together waits. -/
def fieldCrowded (s : State) (i : Issued) (n k : Nat) : Bool :=
  (entriesOf (i.field n) (i.desc n)).any (fun x => { s.stream x.1 with wtag := nextTag s i x.1 }.crowded k)

/-- The next position of source field n is not written yet (R94). -/
def fieldEmpty (s : State) (i : Issued) (n : Nat) : Bool :=
  (entriesOf (i.field n) (i.desc n)).any (fun x => (s.stream x.1).readerWaits)

/-- One of the next k positions of source field n is not written yet. -/
def fieldLacks (s : State) (i : Issued) (n k : Nat) : Bool :=
  (entriesOf (i.field n) (i.desc n)).any (fun x => (s.stream x.1).lacks k)

/-- A formed destination position written: its sums count once it is written, and its group is over with its last. -/
def writeOut (s : State) (i : Issued) (o : OutPos) : State × Issued :=
  let i1 := { i with pos := if o.last then i.pos + 1 else i.pos, reads := if i.outs.isEmpty then [] else i.reads }
  match o.good with
  | some g =>
    (writeGood s i o.field o.count g.ovf g.body g.sbody g.obody, match g.sum with | some t => i1.absorb t | none => i1)
  | none => (match o.src with
      | none => writePoison s i o.field o.count i.pos
      | some (some p) => writePoison s i o.field o.count p
      | some none => writePoisonBut (fun _ _ _ => false) s i o.field o.count, i1)

/-- Formed positions written while there is room; `more` gives those of the next position, none past the end. -/
def flushOuts (more : Issued → List OutPos) : Nat → State → Issued → State × Issued
  | 0, s, i => (s, i)
  | k + 1, s, i =>
    match i.outs with
    | o :: rest =>
      if fieldFull s i o.field then (s, i)
      else let w := writeOut s { i with outs := rest } o; flushOuts more k w.1 w.2
    | [] => match more i with
      | [] => (s, i)
      | l => flushOuts more k s { i with outs := l }

/-- Formed positions written while there is room, and no further ones. -/
def drainOuts (s : State) (i : Issued) : State × Issued := flushOuts (fun _ => []) (i.outs.length + 1) s i

/-! ### Opening, closing, releasing (R91, R292, R100) -/

/-- Some other instruction holds entry `n` as reader or writer. -/
def heldElsewhere (s : State) (n : Nat) : Bool := s.claimants.any (fun j => j.allEntries.contains n)

/-- Instructions that hold entry `n` on one side. -/
def holders (s : State) (n : Nat) (dest : Bool) : Bool := s.claimants.any (fun j => (j.entries dest).contains n)

/-- The open form of a field (R91, R292). -/
def openField (s : State) (ctx : Nat) (f : BitVec 128) (d : Desc) (fdi : BitVec 6) : State :=
  if opens f then
    s.each (entriesOf f d) (fun t p => t.onStream p.1 (fun e =>
      { e with st := .opened, kind := wordOf 2 p.2, rest := fRest f, ctx := wordOf 10 ctx, fdi := fdi,
               paired := decide (p.2 = 0) && decide (dSfmt d ≠ 0), sided := decide (p.2 = 0) && decide (dOcap d ≠ 0),
               pair := if p.2 = 0 then fPair f else 0, side := if p.2 = 0 then fSide f else 0,
               wtag := fTag f, rtag := fTag f, tensor := fTensor f }))
  else s

/-- The close of one entry (R292): FREE, CLOSING while another instruction holds it, HCLOSE where it is halted. -/
def closeEntry (s : State) (n : Nat) : State :=
  s.onStream n (fun e => match e.st with
    | .free => e
    | .halted | .hclose => { e with st := .hclose }
    | .opened | .closing => { e with st := if heldElsewhere s n then .closing else .free })

/-- An entry whose close waits becomes FREE when nothing holds it any more. -/
def settleEntry (s : State) (n : Nat) : State :=
  if (s.stream n).st = .closing && !heldElsewhere s n then s.onStream n (fun e => { e with st := .free }) else s

/-- The close forms of an instruction that has left its unit, and the closes that waited for it. -/
def closeFields (s : State) (i : Issued) : State :=
  let s1 := s.each (streamFields i.slots) (fun t n =>
    if closes (i.field n) then t.each (entriesOf (i.field n) (i.desc n)) (fun v p => closeEntry v p.1) else t)
  s1.each i.allEntries settleEntry

/-- The release of one entry (R100). -/
def releaseEntry (s : State) (n : Nat) (rtag : BitVec 16) : State :=
  s.onStream n (fun e => match e.st with
    | .halted => { e with st := .opened, rtag := rtag }
    | .hclose => { e with st := if heldElsewhere s n then .closing else .free }
    | _ => e)

/-- The release of a data entry with its links (R100, R454). -/
def releaseStream (s : State) (n : Nat) (dr sr or : BitVec 16) : State :=
  let e := s.stream n
  let s1 := releaseEntry s n dr
  let s2 := if e.paired then releaseEntry s1 e.pair.toNat sr else s1
  if e.sided then releaseEntry s2 e.side.toNat or else s2

/-! ### Keeping an issued instruction -/

/-- The list with the instruction of a queue and slot replaced. -/
def putIssued (i : Issued) : List Issued → List Issued
  | [] => []
  | x :: xs => if x.queue = i.queue && x.slot = i.slot then i :: xs else x :: putIssued i xs

/-- The state with an issued instruction of unit b replaced. -/
def setIssued (s : State) (b : Nat) (i : Issued) : State := s.onUnit b (fun u => { u with issued := putIssued i u.issued })

/-- The first failure in stream order kept (R99). -/
def Issued.fail (i : Issued) (st : Status) (pos : Nat) : Issued :=
  if i.failed.isSome then i else { i with failed := some (st, pos) }

/-- Status an instruction ends with after its work (R309, items 3 to 6). -/
def Issued.endStatus (i : Issued) : Status :=
  match i.failed with
  | some p => p.1
  | none => if i.perm then .permRange else if i.emptySeen then .empty
    else if i.overflow then .overflow else .ok

/-! ### Stopping with destination blocks still to write (R95, R98, R104, R331) -/

/-- The instruction stops: what it formed and has not written becomes poisoned. -/
def Issued.stopping (i : Issued) (st : Status) : Issued :=
  if i.stopAs.isSome then i
  else { i with stopAs := some st, reads := [], outs := i.outs.map (fun o => { o with good := none }) }

/-- A stop, begun or carried on: poisoned blocks while there is room, and the end once all are written. `more` gives the
poisoned positions owed at i.pos, none past the end. -/
def stopOn (more : Issued → List OutPos) (s : State) (i : Issued) (st : Status) : State × Issued :=
  let r := flushOuts more (4 * (i.total + 1)) s (i.stopping st)
  if r.2.outs.isEmpty && (more r.2).isEmpty then (r.1, { r.2 with finished := r.2.stopAs }) else r

end Sys2Proof.Machine
end

