-- ==== Sys2Proof/Machine/Contexts.lean ====
section
/-!
DEFINITION. What an offered instruction's stream fields, tracked entries and watches are checked for (R91, R170, R205,
R304, R459).
-/

namespace Sys2Proof.Machine

/-! ### Stream fields -/

/-- Field n is carried by a feed or a return port (R293): a destination with DFEED, or F1 of a CONVERT that reads the
accumulator-output return. -/
def portCarried (o : Offer) (n : Nat) : Bool :=
  o.op.isConv && ((decide (n = 2) && decide (bDfeed o.body ≠ 0))
    || (decide (n = 1) && (bRgv o.body || o.op == .convRescale)))

/-- What R459, R291, R453 and R164 make FORMAT for the stream fields. -/
def streamsFormat (s : State) (o : Offer) : Bool :=
  o.streams.all (fun n =>
    let f := o.field n
    let d := o.desc n
    dValid d && layerUsed s o.b f
      && (decide (dSfmt d ≠ 0) || decide (fPair f = 0)) && (decide (dOcap d ≠ 0) || decide (fSide f = 0))
      && (!opens f || portCarried o n || (entriesOf f d).all (fun p => decide ((s.stream p.1).pspace ≠ 0)))
      && (!isDest o.op n || !fGrad f || fRest f || decide (dElem d = 3))
      && (o.kind == some .cv || !fChs f))

/-- Grants and owners of the stream fields (R91, R205, R304 check 4). -/
def streamsGranted (s : State) (o : Offer) : Bool :=
  o.streams.all (fun n =>
    let f := o.field n
    (entriesOf f (o.desc n)).all (fun p =>
        inRange (gStreams (s.grant o.ctx)) p.1
          && (decide ((s.stream p.1).st = .free) || decide ((s.stream p.1).ctx = wordOf 10 o.ctx)))
      && (!fFsel f || decide (s.profileCtx = some o.ctx)))

/-- Entries that the fields of an instruction open. One that two fields open is not FREE for the second (R91; DEDUCED:
log entry 27). -/
def openedBy (o : Offer) : List Nat :=
  o.streams.flatMap (fun n => if opens (o.field n) then (entriesOf (o.field n) (o.desc n)).map Prod.fst else [])

/-- States of the stream fields (R90 to R92, R100, R292, R304 check 5). -/
def streamsReady (s : State) (o : Offer) : Bool :=
  decide (openedBy o).Nodup && o.streams.all (fun n =>
    let f := o.field n
    let d := o.desc n
    let dest := isDest o.op n
    let e := s.stream (fStream f)
    (entriesOf f d).all (fun p =>
        !(s.unit (firstBib .tk + p.1 / 16384)).health.fenced
          && (if opens f then decide ((s.stream p.1).st = .free)
              else decide ((s.stream p.1).st ≠ .free) && decide ((s.stream p.1).st ≠ .closing))
          && !holders s p.1 dest
          && (dest || (decide ((s.stream p.1).st ≠ .halted) && decide ((s.stream p.1).st ≠ .hclose))))
      && (opens f || (decide (e.tensor = fTensor f)
            && decide (e.fdi = o.fdi n) && (e.rest == fRest f) && decide (e.pair = fPair f) && decide (e.side = fSide f))))

/-! ### Tracked entries and watches (R170, R186) -/

/-- The stream field whose TENSOR a tracked entry is checked against: the destination's, or the source's of a STATS. -/
def trackedField (o : Offer) : BitVec 128 :=
  if o.op == .stats then o.field 1 else if o.op.isConv then o.field 2 else o.field 4

/-- Grants of the named tracked entry and watch. -/
def trackersGranted (s : State) (o : Offer) : Bool :=
  (!hTen o.head || inRange (gTracked (s.grant o.ctx)) (hTrk o.head))
    && (!hWen o.head || inRange (gWatches (s.grant o.ctx)) (hWatch o.head))

/-- EN, tracker and tensor of the named entry, EN and tracker of the named watch. A plain operand or plane group has no TENSOR, and
none is compared (log entry 53(e)). -/
def trackersReady (s : State) (o : Offer) : Bool :=
  (!hTen o.head || ((s.tracked (hTrk o.head)).cfg.en && !(s.unit (firstBib .tk + hTrk o.head / 4096)).health.fenced
      && (o.op.isScale || !isStream (trackedField o)
          || decide ((s.tracked (hTrk o.head)).cfg.tensor = fTensor (trackedField o)))))
    && (!hWen o.head || ((s.watch (hWatch o.head)).en && !(s.unit (firstBib .tk + hWatch o.head / 1024)).health.fenced))

end Sys2Proof.Machine
end

