-- ==== Sys2Proof/Machine/Convert.lean ====
section
/-!
DEFINITION. The converter: factors of an element (R108 to R127), rotation (R128 to R135), one block position of every
form of CONVERT and of ROTATE (R63, R106, R127, R160, R290), and what these classes check at issue.
-/

namespace Sys2Proof.Machine

/-! ### The channel scale file and the rescale table (R117, R118) -/

/-- Channel entry c as active. -/
def channelEntry (u : UnitSt) (c : Nat) : BitVec 32 := tget 0x3F80 u.files.chActive c

/-- C[c] -/
def channelScale (u : UnitSt) (c : Nat) : ℚ := bf16.magnitude (bitsAt (channelEntry u c) 0 16).toNat

/-- z[c] -/
def channelZero (u : UnitSt) (c : Nat) : Nat := (bitsAt (channelEntry u c) 16 8).toNat

/-- Rescale entry n as active: MUL and OFS. -/
def rescaleEntry (u : UnitSt) (n : Nat) : BitVec 32 × BitVec 32 :=
  let e := tget 0x3F800000 u.files.rtActive n
  (bitsAt e 0 32, bitsAt e 32 32)

/-- Codebook slot as active, 16 entries. -/
def bookEntries (u : UnitSt) (slot : Nat) : List Nat :=
  let w := tget 0 u.files.cbActive slot
  (List.range 16).map (fun e => (bitsAt w (16 * e) 16).toNat)

/-- Channel scaling applies to a side (R108). -/
def channelScaled (d : Desc) (f : BitVec 128) : Bool :=
  (decide (dSfmt d = 0) && !dWide d) || decide (dZpm d = 1) || fChs f

/-! ### Geometry (R288) -/

/-- Rows of row block rb. -/
def rowsIn (rows rb : Nat) : Nat := min 32 (rows - 32 * rb)

/-- Row block and reduction tile of position p (R297 WALK). -/
def walkPos (walk : Bool) (n rows p : Nat) : Nat × Nat :=
  if walk then (p % rowBlocks rows, p / rowBlocks rows) else (p / tilesOf n, p % tilesOf n)

/-- Row block and reduction tile of source position p. -/
def Issued.place (i : Issued) (p : Nat) : Nat × Nat :=
  if i.op == .convTranspose then
    let q := p % (4 * (rowBlocks i.height / 4))
    (q, p / rowBlocks i.height)
  else walkPos (bWalk i.body) i.len i.height p

/-- COUNT of destination position p (R288). -/
def Issued.destCount (i : Issued) (p : Nat) : Nat :=
  if i.op == .convTranspose then 4096 else 128 * rowsIn i.height (i.place p).1

/-- Positions that are read and written together: squares (R160), pairs under a rotation of 256 (R135), single ones. -/
def Issued.groupSize (i : Issued) : Nat :=
  if i.op == .convTranspose then 4
  else if i.op.isConv && i.op != .convRescale && (decide (dRot (i.desc 1) = 256) || decide (dRot (i.desc 2) = 256)) then 2 else 1

/-! ### Rotation (R130 to R133) -/

/-- One butterfly stage of the Hadamard sum over halves of a block. -/
def hadamard : Nat → List XVal → List XVal
  | 0, l => l
  | k + 1, l =>
    let h := l.length / 2
    let a := hadamard k (l.take h)
    let b := hadamard k (l.drop h)
    (a.zip b).map (fun p => p.1.add p.2) ++ (a.zip b).map (fun p => p.1.add p.2.negate)

/-- A rotation sum: a NaN that arises in it has sign 0, and so has an exact zero (R73, R133). -/
def rotSum (f : ℚ) (x : XVal) : XVal :=
  match x with
  | .nan _ => .nan false
  | .inf s => .inf s
  | .fin q _ => xval (q * f) false

/-- L of R130. -/
def rotLog (n : Nat) : Nat := n.log2

/-- The sums of a block. A NaN that was read makes every sum NaN and keeps its sign (R73), the first of several theirs
(DESIGN CHOICE: log entry 36). -/
def rotSums (n : Nat) (f : ℚ) (l : List XVal) : List XVal :=
  match l.find? XVal.isNan with
  | some x => List.replicate n x
  | none => (hadamard (rotLog n) l).map (rotSum f)

/-- Forward rotation of a block whose first coordinate is k0 (R133). -/
def rotateBlock (n : Nat) (seed : BitVec 64) (key : BitVec 24) (k0 : Nat) (l : List XVal) : List XVal :=
  let h := rotLog n / 2
  let signed := (l.zip (List.range n)).map (fun p => if rotSign seed key (k0 + p.2) then p.1.negate else p.1)
  rotSums n (pow2 (-(h : Int))) signed

/-- Inverse rotation of a block (R133). -/
def unrotateBlock (n : Nat) (seed : BitVec 64) (key : BitVec 24) (k0 : Nat) (l : List XVal) : List XVal :=
  let h := rotLog n / 2
  let sums := rotSums n (pow2 ((h : Int) - rotLog n)) l
  (sums.zip (List.range n)).map (fun p =>
    if rotSign seed key (k0 + p.2) && !p.1.isNan then rotSum 1 p.1.negate else p.1)

/-- Rotate a row of values that starts at coordinate k0, block by block. -/
def rotateRow (forward : Bool) (n : Nat) (seed : BitVec 64) (key : BitVec 24) (k0 : Nat) (row : List Decoded) : List Decoded :=
  ((chunksOf n (row.length / n) row).zip (List.range (row.length / n))).flatMap (fun p =>
    let vs := p.1.map Decoded.v
    let daz := p.1.any Decoded.dazzed
    let out := if forward then rotateBlock n seed key (k0 + n * p.2) vs else unrotateBlock n seed key (k0 + n * p.2) vs
    out.map (fun v => ⟨v, daz, 0⟩))

/-- Inverse rotation of a source row that starts at coordinate k0 (R129). -/
def unrotateStep (i : Issued) (k0 : Nat) (row : List Decoded) : List Decoded :=
  let src := dRot (i.desc 1)
  if src = 0 then row else rotateRow false src i.seed (bRks i.body) (fRbs (i.field 4) + k0) row

/-- Forward rotation of a destination row that starts at coordinate k0 (R129). -/
def forwardStep (i : Issued) (k0 : Nat) (row : List Decoded) : List Decoded :=
  let dst := dRot (i.desc 2)
  if dst = 0 then row else rotateRow true dst i.seed (bRkd i.body) (fRbd (i.field 4) + k0) row

/-- Step 2 of R63 on a row: inverse rotation of the source, forward rotation of the destination; two of the same size and
key cancel (R129). -/
def rotateStep (i : Issued) (k0 : Nat) (row : List Decoded) : List Decoded :=
  if dRot (i.desc 1) = dRot (i.desc 2) && decide (bRks i.body = bRkd i.body) then row
  else forwardStep i k0 (unrotateStep i k0 row)

/-! ### One source position decoded -/

/-- A decoded source position, channel factor applied (R108, R144). -/
def decodeSource (u : UnitSt) (i : Issued) (rb : Nat) (p : PosRead) : List Decoded :=
  let d := i.desc 1
  let f := i.field 1
  let cb := if i.op == .convRescale then 0 else bCb0 i.body + 32 * rb
  let els := decodeTile d (fun r => channelZero u (cb + r)) (bookEntries u (dCbk d)) p.d.count p.d.body
    (p.s.elim [] Blk.body)
  let merged := match p.o with
    | some o => mergeSide (sideSlots o.body) 0 els
    | none => els
  if channelScaled d f && i.op != .convRescale then
    (merged.zip (List.range 4096)).map (fun x =>
      { x.1 with v := x.1.v.mul (.fin (channelScale u (cb + x.2 / 128)) false) })
  else merged

/-- Failures of a position beyond R97 on the source side: COUNT (R229, R161), the side tile (R142), zero points (R40). -/
def sourceFormat (u : UnitSt) (i : Issued) (rb t count : Nat) (p : PosRead) : Bool :=
  let d := i.desc 1
  decide (p.d.count = count) && (p.o.all (fun o => sideOk d p.d.count o.body))
    && !badZero d (fun r => channelZero u (bCb0 i.body + 32 * rb + r)) p.d.count
      (if i.op == .convTranspose then 128 else i.len - 128 * t) (p.s.elim [] Blk.body)

/-- Channel entries a position takes on the destination side: their base. -/
def destBase (i : Issued) : Nat := if i.op == .convRescale then bDcb i.body else bCb1 i.body

/-- Channel entries that the destination rows written from source position (rb, t) take: first and count. A TRANSPOSE
turns column k of its square into destination row k (R160). -/
def destRows (i : Issued) (rb t : Nat) : Nat × Nat :=
  if i.op == .convTranspose then (destBase i + 128 * t, 128) else (destBase i + 32 * rb, rowsIn i.height rb)

/-- An entry of a file region that a scrub made invalid is read at a position (R48, R122). A fetch takes the entries of
the valid rows, and those of all 128 columns of the tile whatever N is (DESIGN CHOICE: log entry 42). -/
def readsInvalid (u : UnitSt) (i : Issued) (rb t : Nat) : Bool :=
  let d1 := i.desc 1
  let d2 := i.desc 2
  let rows := rowsIn i.height rb
  let bad (l : List Nat) (a n : Nat) : Bool := l.any (fun e => decide (a ≤ e) && decide (e < a + n))
  (dIsCode d1 && u.files.cbBadActive.contains (dCbk d1)) || (dIsCode d2 && u.files.cbBadActive.contains (dCbk d2))
    || (channelScaled d1 (i.field 1) && i.op != .convRescale && bad u.files.chBadActive (bCb0 i.body + 32 * rb) rows)
    || (channelScaled d2 (i.field 2) && bad u.files.chBadActive (destRows i rb t).1 (destRows i rb t).2)
    || (i.op == .convRescale && (bad u.files.rtBadActive (bRsb i.body + 128 * t) 128
        || ((bEnr i.body || bEnz i.body) && bad u.files.chBadActive (bCb0 i.body + 32 * rb) rows)
        || (bEnz i.body && bad u.files.chBadActive (bCb1 i.body + 128 * t) 128)))

/-! ### Rounding words (R68, R268, R274) -/

/-- Rounding of an element: mode of the instruction, with the keyed word for its coordinates or the pacer word of its
lane in its beat. -/
def roundOf (u : UnitSt) (b free : Nat) (i : Issued) (rowc colc beat lane : Nat) : Round :=
  match hRmode i.head with
  | 1 =>
    if hGen i.head = 1 then
      let key := i.field 4
      let k : Key := ⟨i.seed, fTensor (i.field 2), if hLapk i.head then i.lap else 0, 0x02, hDraw i.head⟩
      .sr (bitsAt (keyed k (fBase key + wordOf 32 rowc) (fSk key + wordOf 32 colc)) 0 16)
    else .sr (bitsAt (pacerDraw u b free .round beat lane) 0 16)
  | 2 => .rtz
  | _ => .rne

/-! ### One destination position written -/

/-- Square of a number on the grid of 2^-160 (R187). -/
def squareUnits (q : ℚ) : Nat := (q * q * pow2 160).floor.toNat

/-- amax, norm and NONFIN of a list of values (R174, R187). -/
def sumUp (vals : List XVal) : BitVec 16 × Nat × Bool :=
  let nums := vals.filterMap (fun v => match v with | .fin q _ => some q | _ => none)
  (amaxCode (maxMag nums), (nums.map squareUnits).foldl (· + ·) 0, vals.any (fun v => !v.isFin))

/-- Values of the elements as R174 takes them. `xs` are the values before division, `slots` what stands in the tile. -/
def amaxValues (d : Desc) (before : Bool) (book : List Nat) (xs : List XVal) (slots : List Slot)
    (codes : List (Nat × Counted)) : List XVal :=
  (slots.zip (xs.zip codes)).filterMap (fun p => match p.1 with
    | .num _ _ => some (if before then p.2.1 else (codeVal d 0 book p.2.2.1).1)
    | _ => none)

/-- A destination tile from its slots; `xs` as in amaxValues, `zc` the channel zero points of its rows. -/
def buildTile (d : Desc) (ocp before : Bool) (t : ℚ) (zc : Nat → Nat) (book : List Nat) (m : Nat → Round)
    (xs : List XVal) (slots : List Slot) : Encoded × List Byte × Bool × TileSum :=
  let sl := if dOcap d = 0 then slots else capture (dOcap d) t slots
  let e := encodeTile d ocp zc book m sl
  let excess := (sl.filter (fun x => match x with | .excess _ => true | _ => false)).length
  let caps := sl.filterMap (fun x => match x with | .captured u => some u.rat | _ => none)
  let a := sumUp (amaxValues d before book xs sl e.codes)
  let c := e.counts
  (e, sideBody (dOcap d) sl, decide (0 < excess),
   { counts := { c with ovfl := satOf 32 excess, flagged := if 0 < excess then 1 else 0
                        otiles := if dOcap d = 0 then 0 else 1 }
     amax := a.1, capmax := amaxCode (maxMag caps), norm := a.2.1, nonfin := a.2.2 })

/-- Slots of a destination tile of `rows` rows; `outside` tells the elements that lie outside the instruction (R229, R288);
`us` are u and DAZ flags. -/
def destSlots (rows : Nat) (outside : Nat → Bool) (us : List (XVal × Bool)) : List Slot :=
  (us.zip (List.range 4096)).map (fun p =>
    if rows ≤ p.2 / 128 then .pad
    else if outside p.2 then .zero
    else .num p.1.1 p.1.2)

/-- The row sums of a tile's codes over the instruction's columns (R125): codes at k at or above N are left out (log entry 53(c)). -/
def rowSums (n rows t : Nat) (codes : List (Nat × Counted)) : List Nat :=
  ((chunksOf 128 rows codes)).map (fun r => ((r.take (n - 128 * t)).map Prod.fst).foldl (· + ·) 0)

/-- Sums added from position 32·j on of the gathered list. -/
def addRows (old : List (BitVec 32)) (at_ : Nat) (sums : List Nat) : List (BitVec 32) :=
  let padded := fitTo (max old.length (at_ + sums.length)) 0 old
  padded.take at_ ++ ((padded.drop at_).take sums.length |>.zip sums).map (fun p => p.1 + wordOf 32 p.2)
    ++ padded.drop (at_ + sums.length)

/-- Element e of destination tile (rb, t) lies outside the instruction: its coordinate along the source reduction axis is
not below N (R229, R288). -/
def outsideDest (i : Issued) (rb t e : Nat) : Bool :=
  if i.op == .convTranspose then decide (i.len ≤ 32 * rb + e / 128) else decide (i.len ≤ 128 * t + e % 128)

/-- Beat and lane in which element e of tile j of a group rounds (R458): pairs share a beat (R135). -/
def beatOf (i : Issued) (j e : Nat) : Nat × Nat :=
  if i.groupSize = 2 then (e / 128, 128 * j + e % 128) else (16 * j + e / 256, e % 256)

/-- Destination position p of a converter, tile j of its group, from the values x after step 2 (R63 steps 3 to 8); with
it the sums of its codes for the row-sum tile (R125). -/
def formConverted (s : State) (b : Nat) (i : Issued) (p j rb t : Nat) (xs : List Decoded) : OutPos × List Nat :=
  let u := s.unit b
  let d := i.desc 2
  let f := i.field 2
  let rows := if i.op == .convTranspose then 32 else rowsIn i.height rb
  let scaled := channelScaled d f
  let base := destBase i + 32 * rb
  let vals := xs.map Decoded.v
  let us := (xs.zip (List.range 4096)).map (fun x =>
    (if scaled then x.1.v.div (.fin (channelScale u (base + x.2 / 128)) false) else x.1.v, x.1.dazzed))
  let r := buildTile d (hSrule i.head) (decide (dSfmt d ≠ 0) || scaled) (ofBf16 (bT i.body)).rat
    (fun r => channelZero u (base + r)) (bookEntries u (dCbk d))
    (fun e => roundOf u b s.freeCtr i (32 * rb + e / 128) (128 * t + e % 128) (beatOf i j e).1 (beatOf i j e).2) vals
    (destSlots rows (outsideDest i rb t) us)
  ({ field := 2, count := i.destCount p
     good := some { ovf := r.2.2.1, body := r.1.payload d, sbody := r.1.scaleBody d, obody := r.2.1, sum := some r.2.2.2 } },
   rowSums i.len rows t r.1.codes)

/-! ### Row-sum tiles (R125, R127) -/

/-- COUNT of the row-sum tile that covers row block rb. -/
def rowSumCount (rows rb : Nat) : Nat := 32 * min 128 (rowBlocks rows - 128 * (rb / 128))

/-- The row-sum flag is set. -/
def Issued.hasRowSums (i : Issued) : Bool := (i.op == .convPlain || i.op == .convTranspose) && bRsum i.body

/-- Position p is the last of a row-sum tile: the last reduction tile of the last row block it covers. -/
def closesRowSums (i : Issued) (p : Nat) : Bool :=
  i.hasRowSums && decide ((p + 1) % tilesOf i.len = 0)
    && (decide ((p / tilesOf i.len + 1) % 128 = 0) || decide (p + 1 = i.total))

/-- The gathered row-sum tile of row block rb, poisoned when a position it covers failed (R125, R126). -/
def rowSumOut (i : Issued) (rb : Nat) : OutPos :=
  let body := (fitTo 4096 0 (i.rows.map (fun w => toF32 (xint w.toNat)))).flatMap (bytesLE 4)
  { field := 3, count := rowSumCount i.height rb, good := if i.rowsBad then none else some { body := body } }

/-- A destination position, followed by the row-sum tile that it closes. -/
def withRowSums (i : Issued) (p : Nat) (o : OutPos) : List OutPos :=
  if closesRowSums i p then [{ o with last := false }, rowSumOut i (p / tilesOf i.len)] else [o]

/-! ### The rescale form (R127) -/

/-- t of R127 for row m and column n. -/
def rescaleValue (u : UnitSt) (i : Issued) (m n : Nat) (a rs : XVal) : XVal :=
  let b := i.body
  let e := rescaleEntry u (bRsb b + n)
  let zr := xint (channelZero u (bCb0 b + m))
  let zc := xint (channelZero u (bCb1 b + n))
  let s1 := if bEnz b && bEns b then a.add (zc.mul rs).negate else a
  let s2 := if bEnz b then s1.add (zr.mul (ofF32 e.2)) else s1
  let t := (ofF32 e.1).mul s2
  if bEnr b then (XVal.fin (channelScale u (bCb0 b + m)) false).mul t else t

/-- The values of a rescaled position. A zero t is due to DAZ where the element as it stands would not give one (R78). -/
def rescaleTile (u : UnitSt) (i : Issued) (rb t : Nat) (els : List Decoded) : List Decoded :=
  (els.zip (List.range 4096)).map (fun x =>
    let r := x.2 / 128
    let at_ (a : XVal) : XVal := rescaleValue u i (32 * rb + r) (128 * t + x.2 % 128) a
      (i.rowSrc.getD (32 * (rb % 128) + r) (.fin 0 false))
    { x.1 with v := at_ x.1.v, dazzed := x.1.dazzed && decide ((at_ (f32.decode x.1.code)).rat ≠ 0) })

/-! ### One group of positions -/

/-- No position of the instruction has been read, and it does not stop. -/
def Issued.fresh (i : Issued) : Bool := decide (i.pos = 0) && i.reads.isEmpty && i.stopAs.isNone

/-- The row-sum tile of a rescale form is read where the row blocks it covers begin (R127). -/
def takesRowSums (i : Issued) : Bool :=
  i.op == .convRescale && bEns i.body && i.reads.isEmpty && decide (i.pos % (128 * tilesOf i.len) = 0)

/-- Source positions that one step reads, and destination positions that it writes: the two of a pair together (R135), those
of a square one by one (R160). -/
def Issued.stride (i : Issued) : Nat := if i.groupSize = 2 then 2 else 1

/-- A source position of F1 that the next step reads has not arrived: on its return port, or in its live stream (R94, R135,
R168). -/
def awaitsF1 (s : State) (i : Issued) (arrived : List (List Byte)) : Bool :=
  if (s.stream (fStream (i.field 1))).pspace = 0 then decide (arrived.length < i.stride) else fieldLacks s i 1 i.stride

/-- The CONVERT waits: its region is not marked, a source is not written, a destination is full (R94, R168). Positions of
a square are read one by one and its tiles are written one by one; a single position or a pair is read when what it gives
has room. -/
def convWaits (s : State) (i : Issued) (arrived : List (List Byte)) : Bool :=
  let lu := s.lastUse (bRegion i.body)
  match i.outs with
  | o :: _ => fieldFull s i o.field
  | [] =>
    (i.fresh && bRgv i.body && lu.tied && decide (lu.st = 0))
      || (takesRowSums i && fieldEmpty s i 3) || awaitsF1 s i arrived
      || (decide (i.groupSize ≠ 4) && (fieldCrowded s i 2 i.stride
            || (closesRowSums i (i.pos + i.stride - 1) && fieldFull s i 3)))

/-- The destination rows that a position gives take an entry that is invalid (R122). -/
def destInvalid (u : UnitSt) (i : Issued) (rb t : Nat) : Bool :=
  channelScaled (i.desc 2) (i.field 2) && u.files.chBadActive.any (fun e =>
    decide ((destRows i rb t).1 ≤ e) && decide (e < (destRows i rb t).1 + (destRows i rb t).2))

/-- Status of a read position with the converter's own checks. -/
def convStatus (u : UnitSt) (i : Issued) (rb t : Nat) (p : PosRead) : Option Status :=
  match p.status with
  | some st => some st
  | none =>
    if readsInvalid u i rb t then some .checksum
    else if !sourceFormat u i rb t (if i.op == .convTranspose then 4096 else 128 * rowsIn i.height rb) p then some .format
    else if decide (dZpm (i.desc 2) = 1)
        && badZero (i.desc 2) (fun r => channelZero u ((destRows i rb t).1 + r)) (128 * rowsIn i.height rb) 128 [] then some .format
    else none

/-- The 128 × 128 square transposed: destination tile d of the four source tiles (R160). -/
def transposeTile (tiles : List (List Decoded)) (d : Nat) : List Decoded :=
  let rows := tiles.flatMap (fun t => chunksOf 128 32 t)
  (List.range 32).flatMap (fun r => rows.map (fun row => row.getD (32 * d + r) padElem))

/-- Rows of one or two tiles side by side, transformed by step 2, and split again (R129, R135). -/
def rotateTiles (i : Issued) (t : Nat) (tiles : List (List Decoded)) : List (List Decoded) :=
  match tiles with
  | [a, c] =>
    let rows := ((chunksOf 128 32 a).zip (chunksOf 128 32 c)).map (fun p => rotateStep i (128 * t) (p.1 ++ p.2))
    [rows.flatMap (fun r => r.take 128), rows.flatMap (fun r => r.drop 128)]
  | l => (l.zip (List.range l.length)).map (fun p => (chunksOf 128 32 p.1).flatMap (rotateStep i (128 * (t + p.2))))

/-- The destination positions that a stopping CONVERT or ROTATE still owes at i.pos, poisoned; none past the end (R104). -/
def convPoison (i : Issued) : List OutPos :=
  if i.total ≤ i.pos then []
  else if closesRowSums i i.pos then
    [{ field := 2, count := i.destCount i.pos, last := false }, { field := 3, count := rowSumCount i.height (i.pos / tilesOf i.len) }]
  else [{ field := 2, count := i.destCount i.pos }]

/-- An integer operand of R64: a zero of sign 0. -/
def asInteger : XVal → XVal
  | .fin q n => if q = 0 then .fin 0 false else .fin q n
  | x => x

/-- The row-sum tile of a rescale form read; true where it finds SKEW (R127). It is read before F1's tile of the position, so a
SKEW of F3 leaves F1's RTAG where it is (log entry 43). -/
def takeRowSums (s : State) (b : Nat) (i : Issued) : State × Issued × Bool :=
  if takesRowSums i then
    let rb := i.pos / tilesOf i.len
    let p := readPosition s i 3 []
    let st := match p.status with
      | some x => some x
      | none => if p.d.count = rowSumCount i.height rb then none else some .format
    let s1 := advanceRead (positionEvents s b i 3 p i.pos) i 3
    match st with
    | none =>
      (s1, { i with rowSrc := (decodeTile (i.desc 3) (fun _ => 0) [] p.d.count p.d.body []).map (fun e => asInteger e.v)
                    rowsBad := false }, false)
    | some x => (if x = .skew then haltField s1 i 3 .skew else s1, { i.fail x i.pos with rowSrc := [], rowsBad := true },
        decide (x = .skew))
  else (s, i, false)

/-- Places and statuses of the positions read so far, in order. What a square's tiles take from the files on the destination
side is looked at as they are formed (R123). -/
def groupReads (u : UnitSt) (i : Issued) : List (PosRead × (Nat × Nat) × Option Status) :=
  (i.reads.zip (List.range i.reads.length)).map (fun x =>
    let pl := i.place (i.pos + x.2)
    (x.1.2, pl, if x.1.2.status.isNone && destInvalid u i pl.1 pl.2 then some .checksum else x.1.2.status))

/-- The first failures of the positions read kept (R99). -/
def failGroup (u : UnitSt) (i : Issued) : Issued :=
  ((groupReads u i).zip (List.range i.reads.length)).foldl (fun k p => match p.1.2.2 with
    | some x => k.fail x (i.pos + p.2)
    | none => k) i

/-- The values of the destination tiles of a good group, with their places. A TRANSPOSE inverts the source's rotation along
the source's reduction axis before it transposes (R162), and rotates for its destination along the destination's (R129;
DEDUCED: log entry 36). A RESCALE converts from step 4 of R63 on (R127):
its t is not rotated where the destination has ROT, and outlier capture acts on it (R136; DEDUCED: log entry 49). -/
def groupValues (u : UnitSt) (i : Issued) (rs : List (PosRead × (Nat × Nat) × Option Status)) : List (List Decoded × (Nat × Nat)) :=
  let places := rs.map (fun r => r.2.1)
  let tiles := rs.map (fun r => r.1.vals)
  let pl := places.getD 0 (0, 0)
  if i.op == .convRescale then (tiles.zip places).map (fun p => (rescaleTile u i p.2.1 p.2.2 p.1, p.2))
  else if i.op == .convTranspose then
    let rows := tiles.map (fun l => (chunksOf 128 32 l).flatMap (unrotateStep i (128 * pl.2)))
    (List.range 4).map (fun d =>
      ((chunksOf 128 32 (transposeTile rows d)).flatMap (forwardStep i (128 * (pl.1 / 4))), (4 * pl.2 + d, pl.1 / 4)))
  else (rotateTiles i pl.2 tiles).zip places

/-- The destination positions of a group that has been read, from tile j on: their codes enter the row sums as they are
formed. -/
def formGood (s : State) (b : Nat) : List (List Decoded × (Nat × Nat)) → Nat → Issued → Issued
  | [], _, i => i
  | x :: rest, j, i =>
    let w := formConverted s b i (i.pos + j) j x.2.1 x.2.2 x.1
    let i1 := if i.hasRowSums then { i with rows := addRows i.rows (32 * (x.2.1 % 128)) w.2 } else i
    let o := withRowSums i1 (i.pos + j) w.1
    formGood s b rest (j + 1)
      { i1 with outs := i1.outs ++ o, rows := if o.length = 1 then i1.rows else [], rowsBad := i1.rowsBad && decide (o.length = 1) }

/-- The same for a group with a failed position: every tile poisoned (R98, R126, R135, R163). -/
def formBad : Nat → Nat → Issued → Issued
  | 0, _, i => i
  | g + 1, j, i =>
    let i1 := if i.hasRowSums then { i with rowsBad := true } else i
    let o := withRowSums i1 (i.pos + j) { field := 2, count := i.destCount (i.pos + j) }
    formBad g (j + 1)
      { i1 with outs := i1.outs ++ o, rows := if o.length = 1 then i1.rows else [], rowsBad := i1.rowsBad && decide (o.length = 1) }

/-- The group at hand formed. -/
def formGroup (s : State) (b : Nat) (i : Issued) : State × Issued :=
  let u := s.unit b
  let rs := groupReads u i
  if rs.all (fun r => r.2.2.isNone) && !(i.op == .convRescale && i.rowsBad) then
    let i1 := formGood s b (groupValues u i rs) 0 i
    let s1 := if hRmode i.head = 1 && hGen i.head ≠ 1 then
      s.onUnit b (fun v => v.drew s.freeCtr .round (if i.groupSize = 2 then 31 else 16 * i.groupSize - 1)) else s
    ({ s1 with freeCtr := s1.freeCtr + 1 }, i1)
  else (s, formBad i.groupSize 0 (failGroup u i))

/-- What a converter keeps of a position it reads: its status with the converter's own checks, its elements decoded (R123). -/
def takePosition (u : UnitSt) (i : Issued) (n : Nat) (p : PosRead) : PosRead :=
  let st := convStatus u i (i.place n).1 (i.place n).2 p
  { p with status := st, vals := if st.isNone then decodeSource u i (i.place n).1 p else [] }

/-- One source position of a CONVERT or ROTATE read; the group formed when it was its last (R97, R98). -/
def readNext (s : State) (b : Nat) (i : Issued) (arrived : List Byte) : State × Issued :=
  let n := i.pos + i.reads.length
  let p := readPosition s i 1 arrived
  let s1 := advanceRead (positionEvents s b i 1 p n) i 1
  let i1 := { i with reads := i.reads ++ [((1, n), takePosition (s.unit b) i n p)] }
  if p.status = some .skew then
    let i2 := failGroup (s.unit b) i1
    stopOn convPoison (haltField s1 i 1 .skew) i2 i2.endStatus
  else if i1.reads.length < i.groupSize then (s1, i1)
  else formGroup s1 b i1

/-- The source positions of one step read: the two of a pair together (R135), but a SKEW at the first stops. -/
def readStep (s : State) (b : Nat) (i : Issued) (arrived : List (List Byte)) : State × Issued :=
  let r := readNext s b i (arrived.headD [])
  if i.groupSize = 2 && r.2.stopAs.isNone then readNext r.1 b r.2 (arrived.tail.headD []) else r

/-- One step of a CONVERT or ROTATE: formed tiles written while there is room, else source positions read; the tiles of
a group are written as soon as they are formed. The result is the state and the instruction after it. -/
def convUnit (s : State) (b : Nat) (i : Issued) (arrived : List (List Byte)) : State × Issued :=
  if i.stopAs.isSome then stopOn convPoison s i .ok
  else if i.outs ≠ [] then drainOuts s i
  else
    let tk := takeRowSums s b i
    if tk.2.2 then stopOn convPoison tk.1 tk.2.1 tk.2.1.endStatus
    else
      let r := readStep tk.1 b tk.2.1 arrived
      if r.2.stopAs.isSome then r else drainOuts r.1 r.2

/-- Every position of the instruction has been written. -/
def Issued.convDone (i : Issued) : Bool := i.outs.isEmpty && decide (i.total ≤ i.pos)

/-- Up to `steps` steps of a CONVERT or ROTATE: positions read, or tiles written that waited for room (R325). -/
def convRun (b : Nat) : Nat → State → Issued → List (List Byte) → State × Issued
  | 0, s, i, _ => (s, i)
  | k + 1, s, i, arrived =>
    if i.convDone then (s, { i with finished := some i.endStatus })
    else if i.fresh && bRgv i.body && (s.lastUse (bRegion i.body)).tied
        && decide ((s.lastUse (bRegion i.body)).st = 2) then
      (s, { i with finished := some .wrongState })
    else if convWaits s i arrived then (s, i)
    else
      let r := convUnit s b i arrived
      if r.2.finished.isSome then r
      else if r.2.convDone then (r.1, { r.2 with finished := some r.2.endStatus })
      else convRun b k r.1 r.2 (if i.outs.isEmpty then arrived.drop i.stride else arrived)

/-- Issued, unfinished instructions of a queue on a unit, oldest first. -/
def openOf (u : UnitSt) (q : Nat) : List Issued := u.issued.filter (fun i => decide (i.queue = q) && i.finished.isNone && !i.paused)

/-- What the work on an instruction of unit b leaves: the instruction put back where it changed. -/
def putBack (b : Nat) (i : Issued) (r : State × Issued) : State := if r.2 = i then r.1 else setIssued r.1 b r.2

/-- A work command: the oldest unfinished instruction of a queue gets on, where it is of the class `o`. A unit works on the
instructions of a queue in issue order (R262, R313, R355; log entry 3). -/
def workOn (s : State) (b q : Nat) (o : Op) (run : State → Issued → State × Issued) : State :=
  if (s.unit b).held && !(s.unit b).health.resetting then
    match (openOf (s.unit b) q).head? with
    | some i => if i.op == o then putBack b i (run s i) else s
    | none => s
  else s

/-! ### What the classes check at issue -/

/-- Channel entries stay within the file (R109). -/
def channelFormat (o : Offer) : Bool :=
  let b := o.body
  let rows := o.height
  let n := o.len
  let d1 := o.desc 1
  let d2 := o.desc 2
  let c1 := channelScaled d1 (o.field 1)
  let c2 := channelScaled d2 (o.field 2)
  let drows := if o.op == .convTranspose then n else rows
  decide (n = 0) ||
    (if o.op == .convRescale then
      (!(bEnr b || bEnz b) || decide (bCb0 b + rows ≤ 8192)) && (!bEnz b || decide (bCb1 b + n ≤ 8192))
        && decide (bRsb b + n ≤ 8192) && (!c2 || decide (bDcb b + rows ≤ 8192))
     else (!c1 || decide (bCb0 b + rows ≤ 8192)) && (!c2 || decide (bCb1 b + drows ≤ 8192)))

/-- Fields that only channel scaling, rotation or capture uses are 0 where it does not apply (R297, R295). -/
def convUnused (o : Offer) : Bool :=
  let b := o.body
  let k := o.field 4
  let d1 := o.desc 1
  let d2 := o.desc 2
  let c1 := channelScaled d1 (o.field 1)
  let c2 := channelScaled d2 (o.field 2)
  decide (fTensor k = 0)
    && (decide (dOcap d2 ≠ 0) || decide (bT b = 0))
    && (decide (dRot d2 ≠ 0) || (decide (bRkd b = 0) && decide (fRbd k = 0)))
    && (if o.op == .convRescale then
          (bEnr b || bEnz b || decide (bCb0 b = 0)) && (bEnz b || decide (bCb1 b = 0)) && (c2 || decide (bDcb b = 0))
            && decide (fRbs k = 0)
        else (c1 || decide (bCb0 b = 0)) && (c2 || decide (bCb1 b = 0))
            && (decide (dRot d1 ≠ 0) || (decide (bRks b = 0) && decide (fRbs k = 0))))

/-- A side of valid reduction length `len` that rotates by n keeps whole blocks (R131). -/
def rotFormat (o : Offer) (n base len : Nat) : Bool :=
  decide (n = 0) || (decide (base % n = 0) && decide (len % n = 0) && (decide (n ≠ 256) || !bWalk o.body))

/-- Formats that a feed takes (R148, R159). -/
def feedFormat (port : Nat) (d : Desc) : Bool :=
  match port with
  | 1 => decide (dElem d ≥ 4 ∧ dElem d ≤ 8) || decide (dElem d = 0x10) || decide (dElem d = 0x12)
      || (dIsUint d && decide (dZpm d = 1) && decide (dSfmt d = 0))
  | 2 => decide (dElem d = 3)
  | _ => true

/-- FORMAT rules of CONVERT and ROTATE beyond layout and descriptors. The accumulator-return stream that must name ELEM 0x01 is
the source of a RESCALE (R127, R158, R459); F1 of a PLAIN with RGV set is taken with any format (DEDUCED: log entry 50). CHS on F1 of a RESCALE, which has no factor, and on
a row-sum field is a field not used (DEDUCED: log entry 36(c)). -/
def convFormat (o : Offer) : Bool :=
  let b := o.body
  let d1 := o.desc 1
  let d2 := o.desc 2
  let k := o.field 4
  channelFormat o && convUnused o && !(isStream (o.field 3) && fChs (o.field 3)) && feedFormat (bDfeed b) d2
    && (!dIsCode d2 || decide (hRmode o.head = 0))
    && (decide (dOcap d2 = 0) || decide ((bT b).toNat ≤ 0x7F7F))
    && rotFormat o (dRot d1) (fRbs k) o.len
    && (o.op == .convRescale || rotFormat o (dRot d2) (fRbd k) (if o.op == .convTranspose then o.height else o.len))
    && (match o.op with
        | .convRescale => decide (dElem d1 = 1) && decide (dRot d1 = 0) && !fChs (o.field 1) && (!bEns b || (!bWalk b && decide (dElem (o.desc 3) = 1)))
        | .convTranspose => !bRsum b && !bWalk b && decide (dRot d1 ≠ 256) && decide (dRot d2 ≠ 256)
            && decide (rowBlocks o.height % 4 = 0) && decide (dElem d2 = 3)
        | .rotate => dWide d1 && decide (dElem d1 = dElem d2)
            && decide (d1 &&& ~~~0xE0000#32 = d2 &&& ~~~0xE0000#32)
            && (decide (dRot d1 ≠ dRot d2) || decide (bRks b ≠ bRkd b))
        | _ => !(o.op == .convPlain && bRsum b) || (dIsUint d2 && decide (dZpm d2 = 1) && !bWalk b
            && decide (dElem (o.desc 3) = 1)))

/-- Grants of CONVERT and ROTATE: codebook slots, channel and rescale entries (R45, R109). -/
def convGranted (s : State) (o : Offer) : Bool :=
  let g := s.grant o.ctx
  let b := o.body
  let rows := o.height
  let n := o.len
  let d1 := o.desc 1
  let d2 := o.desc 2
  let c1 := channelScaled d1 (o.field 1)
  let c2 := channelScaled d2 (o.field 2)
  (!dIsCode d1 || inRange (gBooks g) (dCbk d1)) && (!dIsCode d2 || inRange (gBooks g) (dCbk d2))
    && (decide (n = 0) ||
      (if o.op == .convRescale then
        (!(bEnr b || bEnz b) || spanIn (gChannels g) (bCb0 b) rows) && (!bEnz b || spanIn (gChannels g) (bCb1 b) n)
          && spanIn (gRescales g) (bRsb b) n && (!c2 || spanIn (gChannels g) (bDcb b) rows)
       else (!c1 || spanIn (gChannels g) (bCb0 b) rows)
          && (!c2 || spanIn (gChannels g) (bCb1 b) (if o.op == .convTranspose then n else rows))))

/-- The profile that a converter serves (R206): true for BACKWARD. -/
def serves (s : State) (b : Nat) : Bool := bitAt s.baton.pmask (indexOf b)

/-- State rules of CONVERT and ROTATE: the partition (R206) and the region (R168, R306). -/
def convReady (s : State) (o : Offer) : Bool :=
  let lu := s.lastUse (bRegion o.body)
  o.streams.all (fun n => !fFsel (o.field n) || (fProf (o.field n) == serves s o.b))
    && (!(bRgv o.body && lu.tied) || (decide (lu.st ≠ 2) && decide (lu.tensor = fTensor (o.field 1))))

end Sys2Proof.Machine
end

