-- ==== Sys2Proof/Machine/Programs.lean ====
section
/-!
DEFINITION. Element programs: the record (R241), the micro-op word (R242), what a program load checks (R243), and the
evaluation of a program on one element (R244, R246, R247).
-/

namespace Sys2Proof.Machine

/-- LEN of a program record. -/
def pLen (p : BitVec 1024) : Nat := (bitsAt p 0 5).toNat

/-- Constant K q. -/
def pConst (p : BitVec 1024) (q : Nat) : BitVec 32 := bitsAt p (128 + 32 * q) 32

/-- Micro-op word j. -/
def pOp (p : BitVec 1024) (j : Nat) : BitVec 32 := bitsAt p (256 + 32 * j) 32

/-- OP of a micro-op. -/
def uOp (w : BitVec 32) : Nat := (bitsAt w 0 6).toNat
/-- D of a micro-op. -/
def uDst (w : BitVec 32) : Nat := (bitsAt w 6 3).toNat
/-- Operand selector i of a micro-op, i from 0 to 2. -/
def uSel (w : BitVec 32) (i : Nat) : Nat := (bitsAt w (9 + 4 * i) 4).toNat
/-- MOD of a micro-op. -/
def uMod (w : BitVec 32) : Nat := (bitsAt w 21 2).toNat

/-- Operands that an operation uses; none for a reserved operation. -/
def uArity (op : Nat) : Option Nat :=
  match op with
  | 0x01 | 0x09 | 0x0A | 0x0B | 0x0C | 0x0D | 0x0E | 0x0F | 0x10 | 0x11 => some 1
  | 0x02 | 0x03 | 0x04 | 0x06 | 0x07 | 0x08 | 0x12 => some 2
  | 0x05 | 0x13 | 0x14 => some 3
  | 0x15 => some 0
  | _ => none

/-- A micro-op word passes R243, given the temporaries written before it. -/
def uOk (w : BitVec 32) (written : List Nat) : Bool :=
  match uArity (uOp w) with
  | none => false
  | some n =>
    decide (bitsAt w 23 9 = 0)
      && (decide (uOp w = 0x12) || (decide (uOp w = 0x15) && decide (uMod w ≤ 1)) || decide (uMod w = 0))
      && (List.range 3).all (fun i =>
        if i < n then decide (uSel w i ≠ 0xF) && (decide (8 ≤ uSel w i) || written.contains (uSel w i))
        else decide (uSel w i = 0))

/-- Micro-ops j, j + 1, … of a program pass R243. -/
def uopsOk (p : BitVec 1024) : Nat → Nat → List Nat → Bool
  | 0, _, _ => true
  | n + 1, j, written => uOk (pOp p j) written && uopsOk p n (j + 1) (uDst (pOp p j) :: written)

/-- A program record passes R243. -/
def programOk (p : BitVec 1024) : Bool :=
  decide (1 ≤ pLen p) && decide (pLen p ≤ 16) && decide (bitsAt p 5 123 = 0) && decide (bitsAt p 768 256 = 0)
    && (List.range 4).all (fun q => !(ofF32 (pConst p q)).isNan)
    && uopsOk p (pLen p) 0 []
    && (List.range 16).all (fun j => decide (j < pLen p) || decide (pOp p j = 0))

/-- The program reads source n (1 A, 2 B, 3 C). -/
def programReads (p : BitVec 1024) (n : Nat) : Bool :=
  (List.range (pLen p)).any (fun j =>
    (List.range 3).any (fun i => decide (i < (uArity (uOp (pOp p j))).getD 0) && decide (uSel (pOp p j) i = 7 + n)))

/-- A NaN result is 0x7FC0_0000. -/
abbrev nan32 : BitVec 32 := 0x7FC00000

/-- The lesser operand, −0 below +0. -/
def minOp (a b : BitVec 32) : BitVec 32 :=
  if (ofF32 a).isNan || (ofF32 b).isNan then nan32 else if ordLt (ofF32 b) (ofF32 a) then b else a

/-- The greater operand, −0 below +0. -/
def maxOp (a b : BitVec 32) : BitVec 32 :=
  if (ofF32 a).isNan || (ofF32 b).isNan then nan32 else if ordLt (ofF32 a) (ofF32 b) then b else a

/-- CMP under a relation. -/
def cmpOp (rel : Nat) (a b : BitVec 32) : BitVec 32 :=
  let x := ofF32 a
  let y := ofF32 b
  let nan := x.isNan || y.isNan
  let holds := match rel with
    | 0 => !nan && valEq x y
    | 1 => !nan && valLt x y
    | 2 => !nan && (valLt x y || valEq x y)
    | _ => nan || !valEq x y
  if holds then 0x3F800000 else 0

/-- The word kept, or the NaN for a NaN. -/
def keepNan (a r : BitVec 32) : BitVec 32 := if (ofF32 a).isNan then nan32 else r

/-- One micro-op on its operands; `v` is the 24-bit word of RND (R246, R247). -/
def evalOp (op rel : Nat) (a b c : BitVec 32) (v : BitVec 24) : BitVec 32 :=
  match op with
  | 0x01 => keepNan a a
  | 0x02 => toF32 ((ofF32 a).add (ofF32 b))
  | 0x03 => toF32 ((ofF32 a).add (ofF32 b).negate)
  | 0x04 => toF32 ((ofF32 a).mul (ofF32 b))
  | 0x05 => toF32 (((ofF32 a).mul (ofF32 b)).add (ofF32 c))
  | 0x06 => toF32 ((ofF32 a).div (ofF32 b))
  | 0x07 => minOp a b
  | 0x08 => maxOp a b
  | 0x09 => keepNan a (a &&& 0x7FFFFFFF)
  | 0x0A => keepNan a (a ^^^ 0x80000000)
  | 0x0B => toF32 ((XVal.fin 1 false).div (ofF32 a))
  | 0x0C => sqrtOp a
  | 0x0D => rsqOp a
  | 0x0E => exp2Op a
  | 0x0F => log2Op a
  | 0x10 => intOp Rat.floor a
  | 0x11 => intOp (roundInt .rne) a
  | 0x12 => cmpOp rel a b
  | 0x13 => if (ofF32 a).isNan || (ofF32 a).nonzero || !(ofF32 a).isFin then b else c
  | 0x14 => minOp (maxOp a b) c
  | _ => toF32 (xint v.toNat |>.mul (.fin (pow2 (-24)) false))

/-- The word a selector names. -/
def selWord (p : BitVec 1024) (temps srcs : List (BitVec 32)) (n : Nat) : BitVec 32 :=
  if n < 8 then temps.getD n 0 else if n < 11 then srcs.getD (n - 8) 0 else pConst p (n - 11)

/-- Micro-ops j, j + 1, … applied in order; the result is the value the last one writes. -/
def runOps (p : BitVec 1024) (srcs : List (BitVec 32)) (rnd : Nat → Nat → BitVec 24) :
    Nat → Nat → List (BitVec 32) → BitVec 32 → BitVec 32
  | 0, _, _, last => last
  | n + 1, j, temps, _ =>
    let w := pOp p j
    let x (i : Nat) : BitVec 32 := selWord p temps srcs (uSel w i)
    let r := evalOp (uOp w) (uMod w) (x 0) (x 1) (x 2) (rnd j (uMod w))
    runOps p srcs rnd n (j + 1) (temps.set (uDst w) r) r

/-- A program's result on one element whose source words are `srcs`; `rnd j mod` is the word of RND micro-op j. -/
def runProgram (p : BitVec 1024) (srcs : List (BitVec 32)) (rnd : Nat → Nat → BitVec 24) : BitVec 32 :=
  runOps p srcs rnd (pLen p) 0 (List.replicate 8 0) 0

/-- Scratchpad address of program k of a context (R241, R322). -/
def State.programAt (s : State) (c k : Nat) : Nat := gPsbase (s.grant c) + 128 * k

/-- Program k of a context as its store holds it (R241). -/
def State.program (s : State) (c k : Nat) : BitVec 1024 := wordLE 1024 (s.readSpad (s.programAt c k) 128)

/-- The copy of a program that a unit holds (R243, R351). -/
def heldProgram (u : UnitSt) (c k : Nat) : Option (BitVec 1024) :=
  (u.programs.find? (fun p => decide (p.1 = c) && decide (p.2.1 = k))).map (fun p => p.2.2)

/-- Program k of a context as unit b takes it: its copy, or what it fetches (R243). -/
def State.programOn (s : State) (b c k : Nat) : BitVec 1024 := (heldProgram (s.unit b) c k).getD (s.program c k)

/-- The unit holds a program, newest first, 32 at most. -/
def holdProgram (u : UnitSt) (c k : Nat) (p : BitVec 1024) : UnitSt :=
  { u with programs := ((c, k, p) :: u.programs.filter (fun x => decide (x.1 ≠ c) || decide (x.2.1 ≠ k))).take 32 }

/-- Every copy of the programs of `p` discarded, where what their store holds has changed (R243, R351). -/
def discardCopies (s : State) (p : Nat → Nat → Bool) : State :=
  s.each allBibs (fun t b => if (t.unit b).programs.any (fun x => p x.1 x.2.1) then
      t.onUnit b (fun u => { u with programs := u.programs.filter (fun x => !p x.1 x.2.1) })
    else t)

/-- Every copy of a program discarded (R243, R351). -/
def discardProgram (s : State) (c k : Nat) : State := discardCopies s (fun x y => x == c && y == k)

/-- A program draws from a pacer: it holds an RND with MOD 0b00 (R246, R266). -/
def programDraws (p : BitVec 1024) : Bool :=
  (List.range (pLen p)).any (fun j => decide (uOp (pOp p j) = 0x15) && decide (uMod (pOp p j) = 0))

/-- An instruction draws from its unit's pacers (R266, R271); a BERNOULLI of probability 0 or 1 draws no word (R279). -/
def drawsPacer (o : Op) (h : SlotWord) (p : BitVec 1024) : Bool :=
  (decide (hRmode h = 1) && (headUse o).rmode && decide (hGen h = 0)) || (o == .randomBits && decide (hGen h = 0))
    || (o == .randomBernoulli && decide (hGen h = 0) && decide (bProb (hBody h) ≠ 0) && decide (bProb (hBody h) ≠ 2 ^ 24))
    || ((o == .element || o == .reduce) && bPv (hBody h) && programDraws p)

end Sys2Proof.Machine
end

