-- ==== Sys2Proof/Machine/Engine.lean ====
section
/-!
DEFINITION. The stream engine's element classes (R228 to R247, R254 to R257, R278): operands, masks, processing order,
one progress unit of ELEMENT, PERMUTE, SHUFFLE, PACK, UNPACK and RANDOM, and what these classes check at issue.
-/

namespace Sys2Proof.Machine

/-! ### Plain operands (R228, R231, R236) -/

/-- Bits of an element of a plain operand: words, halves, accumulator records (R253), and 8-bit containers. -/
def plainBits (fmt : Nat) : Nat :=
  match fmt with
  | 0x00 => 384 | 0x01 => 32 | 0x02 => 16 | 0x03 => 16 | _ => 8

/-- Descriptor of a plain operand: its format code with every flag 0 (DEDUCED: log entry 18). -/
def plainDesc (fmt : Nat) : Desc := wordOf 32 fmt

/-- Byte address of element (r, k) before it is placed in the 32-bit space. -/
def plainAddr (f : BitVec 128) (bits r k : Nat) : Int :=
  (fBase f).toNat + (sInt (fSk f) * k + sInt (fSr f) * r) * bits / 8

/-- `n` bytes at an address lie in a scratchpad range. -/
def addrIn (g : Nat × Nat) (a : Int) (n : Nat) : Bool := decide (0 ≤ a) && spanIn g a.toNat n

/-- Memory number of a computed address. -/
def addrKey (a : Int) : Nat := (a % 2 ^ 32).toNat

/-- Memory number of a computed address in the scratchpad (0) or in stack `sp - 1` (R350). -/
def plainKey (sp : Nat) (a : Int) : Nat := if sp = 0 then addrKey a else stackKey (sp - 1) a.toNat

/-- Code of a plain element at an address. -/
def plainCode (s : State) (sp : Nat) (a : Int) (bits : Nat) : Nat := leNat (readBytes s.mem (plainKey sp a) (bits / 8))

/-- The range that an instruction's plain operands may lie in (R239, R348). -/
def plainGrant (s : State) (i : Issued) : Nat × Nat :=
  if i.space = 0 then gSpad (s.grant i.ctx) else stackGrant (s.unit (firstBib .sl + (i.space - 1))) i.ctx

/-- Elements of a lane group (R235, R350). -/
def Issued.lanes (i : Issued) : Nat := if i.space = 0 then 128 else 2048

/-- Least and greatest of the products of a stride with the indices 0 to n - 1. -/
def spread (stride : Int) (n : Nat) : Int × Int :=
  let x := stride * ((n : Int) - 1)
  (min 0 x, max 0 x)

/-- Byte interval of a plain operand over rows and columns (R233); empty for no element. -/
def plainSpan (f : BitVec 128) (bits rows cols : Nat) : Option (Int × Int) :=
  if rows = 0 ∨ cols = 0 ∨ bits = 0 then none
  else
    let a := spread (sInt (fSk f)) cols
    let b := spread (sInt (fSr f)) rows
    let base : Int := (fBase f).toNat
    some (base + (a.1 + b.1) * bits / 8, base + (a.2 + b.2) * bits / 8 + bits / 8)

/-- Two byte intervals meet. -/
def spansMeet : Option (Int × Int) → Option (Int × Int) → Bool
  | some a, some b => decide (a.1 < b.2) && decide (b.1 < a.2)
  | _, _ => false

/-- Element (r, k) is active under the mask field (R236). -/
def activeAt (s : State) (f : BitVec 128) (r k : Nat) : Bool :=
  if f = 0 then true
  else
    let j : Int := sInt (fSk f) * k + sInt (fSr f) * r
    bitAt (readByte s.mem (addrKey ((fBase f).toNat + j / 8))) (j % 8).toNat

/-! ### Geometry of an element class (R228, R235) -/

/-- Some operand of F1 to F4 is a tile operand. -/
def Issued.tiled (i : Issued) : Bool := [1, 2, 3, 4].any (fun n => isStream (i.field n))

/-- Elements of the instruction. -/
def Issued.elements (i : Issued) : Nat := i.height * i.len

/-- Row block and reduction tile of position p, row block by row block; the SE classes have one row block (R288). -/
def Issued.tileAt (i : Issued) (p : Nat) : Nat × Nat := (p / tilesOf i.len, p % tilesOf i.len)

/-- Rows of position p. -/
def Issued.rowsAt (i : Issued) (p : Nat) : Nat := rowsIn i.height (i.tileAt p).1

/-- Columns of position p that lie within the instruction. -/
def Issued.colsAt (i : Issued) (p : Nat) : Nat := min 128 (i.len - 128 * (i.tileAt p).2)

/-- Processing index of the first element of position p. -/
def Issued.firstOf (i : Issued) (p : Nat) : Nat := 32 * i.len * (i.tileAt p).1 + 128 * i.rowsAt p * (i.tileAt p).2

/-- Element with processing index p. -/
def Issued.elementAt (i : Issued) (p : Nat) : Nat × Nat :=
  if i.tiled then
    let rb := p / (32 * i.len)
    let rows := rowsIn i.height rb
    let t := p % (32 * i.len) / (128 * rows)
    let q := p % (32 * i.len) % (128 * rows)
    let w := min 128 (i.len - 128 * t)
    (32 * rb + q / w, 128 * t + q % w)
  else (p / i.len, p % i.len)

/-- Positions read and written together: 2 where a SHUFFLE takes elements across two tiles (DEDUCED: log entry 19). -/
def Issued.span (i : Issued) : Nat :=
  match i.op with
  | .shufInterleave => 2
  | .shufReverse | .shufRotate => if bP i.body = 8 then 2 else 1
  | _ => 1

/-- Length along k of the source of field n (R254, R255). -/
def Issued.sourceLen (i : Issued) (n : Nat) : Nat :=
  match i.op with
  | .shufInterleave => if n = 1 then ceilDiv i.len 2 else i.len / 2
  | .shufEven | .shufOdd => 2 * i.len
  | _ => i.len

/-- Source tiles that field n gives to the destination positions from t on: first tile and count. -/
def Issued.sourceTiles (i : Issued) (n t : Nat) : Nat × Nat :=
  let clip (first count : Nat) : Nat × Nat := (first, min count (tilesOf (i.sourceLen n) * rowBlocks i.height - first))
  match i.op with
  | .shufInterleave => clip (t / 2) 1
  | .shufEven | .shufOdd => clip (2 * t) 2
  | _ => clip t i.span

/-- f(k) of R255 and the source it names. -/
def shuffleSource (i : Issued) (k : Nat) : Nat × Nat :=
  match i.op with
  | .shufInterleave => (if k % 2 = 0 then 1 else 2, k / 2)
  | .shufEven => (1, 2 * k)
  | .shufOdd => (1, 2 * k + 1)
  | .shufReverse => let b := 2 ^ bP i.body; (1, k / b * b + (b - 1 - k % b))
  | .shufRotate => let b := 2 ^ bP i.body; (1, k / b * b + (k + bSh i.body) % b)
  | _ => (1, k)

/-! ### Words drawn (R268, R272 to R276) -/

/-- Key of an SE, SL, RL or SP draw: the destination's TENSOR for a tile, KTENSOR for a plain destination. -/
def Issued.key (i : Issued) (purpose draw : BitVec 8) : Key :=
  ⟨i.seed, if isStream (i.field 4) then fTensor (i.field 4) else fTensor (i.field 6),
   if hLapk i.head then i.lap else 0, purpose, draw⟩

/-- Keyed word of element (r, k). -/
def Issued.keyedWord (i : Issued) (purpose draw : BitVec 8) (r k : Nat) : BitVec 64 :=
  keyed (i.key purpose draw) (fBase (i.field 6) + wordOf 32 r) (fSk (i.field 6) + wordOf 32 k)

/-- Lane group of the element with processing index p, counted from the one at which the progress unit begins. -/
def Issued.groupAt (i : Issued) (p : Nat) : Nat := (p - (if i.tiled then i.firstOf i.pos else i.pos)) / 128

/-- Rounding of element (r, k) with processing index p into the destination; lane p mod 128 holds it (R458). -/
def seRound (u : UnitSt) (b free : Nat) (i : Issued) (p r k : Nat) : Round :=
  match hRmode i.head with
  | 1 =>
    if hGen i.head = 1 then .sr (bitsAt (i.keyedWord 0x02 (hDraw i.head) r k) 0 16)
    else .sr (bitsAt (pacerDraw u b free .round (i.groupAt p) (p % 128)) 0 16)
  | 2 => .rtz
  | _ => .rne

/-- The unit after the draws of `groups` lane groups of an instruction that draws from its pacers. -/
def passDraws (s : State) (b : Nat) (i : Issued) (groups : Nat) : State :=
  if drawsPacer i.op i.head i.prog then
    s.onUnit b (fun u => ((u.drew s.freeCtr .round (groups - 1)).drew s.freeCtr .real (16 * groups - 1)).drew s.freeCtr .bits
      (groups - 1))
  else s

/-- Word of the RND micro-op j of an element. -/
def rndWord (u : UnitSt) (b free : Nat) (i : Issued) (p r k j md : Nat) : BitVec 24 :=
  if md = 1 then
    bitsAt (i.keyedWord 0x03 ((hDraw i.head &&& 0xF0) ||| wordOf 8 j) r k) 40 24
  else bitsAt (pacerDraw u b free .real (16 * i.groupAt p + j) (p % 128)) 40 24

/-! ### Source elements -/

/-- Decoded source tiles at hand: field, position, elements. -/
abbrev Tiles := List ((Nat × Nat) × List Decoded)

/-- Element (r, k) of field n; `width` tiles make a row block. -/
def tileElem (width : Nat) (ts : Tiles) (n r k : Nat) : Decoded :=
  match ts.find? (fun x => decide (x.1 = (n, width * (r / 32) + k / 128))) with
  | some x => x.2.getD (128 * (r % 32) + k % 128) padElem
  | none => padElem

/-- Element (r, k) of source n. -/
def sourceElem (s : State) (i : Issued) (ts : Tiles) (n r k : Nat) : Decoded :=
  let f := i.field n
  if isStream f then tileElem (tilesOf i.len) ts n r k
  else
    let c := plainCode s i.space (plainAddr f (plainBits (fFmt f)) r k) (plainBits (fFmt f))
    let v := codeVal (plainDesc (fFmt f)) 0 [] c
    ⟨v.1, v.2, c⟩

/-- The counter an element takes when it is converted to binary32 (R245). -/
def preCount (e : Decoded) : Counted := (f32.encode .rne false false e.v e.dazzed).2

/-- The earlier of two counters in the order NaN, clip, flush. -/
def firstCount (a b : Counted) : Counted :=
  if a = .nan || b = .nan then .nan else if a = .clip || b = .clip then .clip
  else if a = .flush || b = .flush then .flush else .none

/-- The result of an element: what is to be converted, what step 2 of R244 counts, and the bits of source A. -/
structure ElemOut where
  v : XVal
  dazzed : Bool
  pre : Counted
  code : Nat
  deriving DecidableEq, Repr

/-- Bits that a bit-copying SHUFFLE writes: a NaN becomes the NaN of R35. -/
def copyCode (elem code : Nat) : Nat :=
  match elemOf elem with
  | some (.flt f) => if (f.decode code).isNan then f.nanCode.getD code else code
  | _ => code

/-- Index that PERMUTE reads for an element. -/
def permIndex (s : State) (i : Issued) (r k : Nat) : Nat := plainCode s i.space (plainAddr (i.field 2) 32 r k) 32

/-- The field of PERMUTE's source A with its row stride ignored. -/
def permField (f : BitVec 128) : BitVec 128 := putBits f 64 (0 : BitVec 32)

/-- The result of element (r, k) with processing index p (R244, R254, R255). -/
def elemOut (s : State) (b : Nat) (i : Issued) (ts : Tiles) (p r k : Nat) : ElemOut :=
  if i.op == .permute then
    let j := permIndex s i r k
    if j < bSn i.body then
      let f := permField (i.field 1)
      let c := plainCode s i.space (plainAddr f (plainBits (fFmt f)) 0 j) (plainBits (fFmt f))
      let v := codeVal (plainDesc (fFmt f)) 0 [] c
      ⟨v.1, v.2, .none, c⟩
    else ⟨.fin 0 false, false, .none, 0⟩
  else if i.op.isShuffle then
    let q := shuffleSource i k
    let e := sourceElem s i ts q.1 r q.2
    ⟨e.v, e.dazzed, .none, e.code⟩
  else if bPv i.body then
    let es := [1, 2, 3].map (fun n => if programReads i.prog n then some (sourceElem s i ts n r k) else none)
    let words := es.map (fun e => e.elim 0 (fun d => toF32 d.v))
    let pre := (es.filterMap id).foldl (fun c e => firstCount c (preCount e)) .none
    ⟨ofF32 (runProgram i.prog words (fun j md => rndWord (s.unit b) b s.freeCtr i p r k j md)), false, pre,
     es.headD none |>.elim 0 Decoded.code⟩
  else
    let e := sourceElem s i ts 1 r k
    ⟨e.v, e.dazzed, .none, e.code⟩

/-- Bits of source A that KEEP_A keeps (R237). -/
def keptCode (s : State) (i : Issued) (ts : Tiles) (r k : Nat) : Nat :=
  if i.op.isShuffle then (sourceElem s i ts 1 r (shuffleSource i k).2).code
  else if i.op == .permute then
    let f := permField (i.field 1)
    plainCode s i.space (plainAddr f (plainBits (fFmt f)) 0 k) (plainBits (fFmt f))
  else (sourceElem s i ts 1 r k).code

/-! ### Grants of a lane group (R239) -/

/-- Plain fields that element (r, k) reads, with their addresses and widths in bytes. -/
def elemReads (s : State) (i : Issued) (r k : Nat) : List (Int × Nat) :=
  let at_ (f : BitVec 128) (r k : Nat) : List (Int × Nat) :=
    if isPlain f then [(plainAddr f (plainBits (fFmt f)) r k, plainBits (fFmt f) / 8)] else []
  match i.op with
  | .permute =>
    let j := permIndex s i r k
    at_ (i.field 2) r k ++ (if j < bSn i.body then at_ (permField (i.field 1)) 0 j else [])
  | .pack =>
    let g := dGroup (i.desc 4)
    at_ (i.field 1) r k ++ (if g = 0 then [] else at_ (i.field 2) r (k / g) ++ at_ (i.field 3) r (k / g))
  | .unpackCodes | .unpackScales | .unpackZpoints => []
  | .randomBits | .randomBernoulli => []
  | o =>
    if o.isShuffle then let q := shuffleSource i k; at_ (i.field q.1) r q.2
    else [1, 2, 3].flatMap (fun n => at_ (i.field n) r k)

/-- Group size along k of an UNPACK of scales or zero points; 1 otherwise. -/
def Issued.every (i : Issued) : Nat :=
  if i.op == .unpackScales || i.op == .unpackZpoints then dGroup (i.desc 1) else 1

/-- Address that element (r, k) writes in a plain destination. -/
def destAddr (i : Issued) (r k : Nat) : Int := plainAddr (i.field 4) (plainBits (fFmt (i.field 4))) r (k / i.every)

/-- An active element of a lane group reads or writes outside the grant. -/
def groupDenied (s : State) (i : Issued) (els : List (Nat × Nat)) : Bool :=
  let g := plainGrant s i
  els.any (fun e => activeAt s (i.field 5) e.1 e.2 &&
    ((elemReads s i e.1 e.2).any (fun a => !addrIn g a.1 a.2)
      || (isPlain (i.field 4) && i.op != .reduce && decide (e.2 % i.every = 0)
            && !addrIn g (destAddr i e.1 e.2) (plainBits (fFmt (i.field 4)) / 8))))

/-! ### Destinations -/

/-- The code of value +0 in a plain format; E8M0 has none, so its value is free (log entry 6). -/
def plainZero (s : State) (fmt : Nat) : Nat :=
  if fmt = 0x30 then (Config.freeWord s.freeCtr).toNat % 256
  else (encodeElem (plainDesc fmt) 0 [] .rne (.fin 0 false) false).1

/-- A value written to a plain destination. -/
def writePlain (s : State) (i : Issued) (r k code : Nat) : State :=
  { s with mem := writeBytes s.mem (plainKey i.space (destAddr i r k)) (leBytes (plainBits (fFmt (i.field 4)) / 8) code) }

/-- What one element does: the state, the slot of a tile destination, what step 2 counted, and for a plain
destination the code written with its counter. -/
structure ElemDone where
  st : State
  slot : Slot
  pre : Counted
  code : Option (Nat × Counted)
  /-- PERMUTE found its index out of range (R254) -/
  past : Bool := false

/-- One source and the destination have one format, tiles one ungrouped descriptor. -/
def sameFormat (f1 f4 : BitVec 128) (d1 d4 : Desc) : Bool :=
  if isStream f4 then isStream f1 && decide (d1 = d4) && decide (dGroup d4 = 0)
  else isPlain f1 && decide (fFmt f1 = fFmt f4)

/-- SHUFFLE copies bits: every source has the destination's format (R255). -/
def copiesBits (o : Op) (sl : List SlotWord) (descs : List Desc) : Bool :=
  let same (n : Nat) : Bool := sameFormat (fieldOf sl n) (fieldOf sl 4) (descs.getD (n - 1) 0) (descs.getD 3 0)
  o.isShuffle && same 1 && (o != .shufInterleave || same 2)

/-- Format code of the destination's elements. -/
def destElem (i : Issued) : Nat := if isStream (i.field 4) then dElem (i.desc 4) else fFmt (i.field 4)

/-- Element (r, k) with processing index p of a class that converts or copies. -/
def elemStep (s : State) (b : Nat) (i : Issued) (ts : Tiles) (p r k : Nat) : ElemDone :=
  let f := i.field 4
  if !activeAt s (i.field 5) r k then
    match bMfill i.body with
    | 1 =>
      let c := keptCode s i ts r k
      ⟨if isPlain f then writePlain s i r k c else s, .raw c, .none, none, false⟩
    | 2 => ⟨s, .zero, .none, none, false⟩
    | _ => ⟨if isPlain f then writePlain s i r k (plainZero s (fFmt f)) else s, .zero, .none, none, false⟩
  else
    let out := elemOut s b i ts p r k
    let past := i.op == .permute && decide (bSn i.body ≤ permIndex s i r k)
    let copy := copiesBits i.op i.slots i.descs
    let slot : Slot := if past then .zero else if copy then .raw (copyCode (destElem i) out.code) else .num out.v out.dazzed
    if isPlain f then
      let c := if past then (plainZero s (fFmt f), Counted.none)
        else if copy then (copyCode (fFmt f) out.code, Counted.none)
        else encodeElem (plainDesc (fFmt f)) 0 [] (seRound (s.unit b) b s.freeCtr i p r k) out.v out.dazzed
      ⟨writePlain s i r k c.1, slot, out.pre, some c, past⟩
    else ⟨s, slot, out.pre, none, past⟩

/-- UNPACK of element (r, k) from the position at hand, one block body and scale body per tile: the state after it, and the
code it wrote where the element is active. -/
def unpackStep (s : State) (i : Issued) (blks : List (Nat × Blk × Option Blk)) (r k : Nat) : State × Option Nat :=
  let d := i.desc 1
  let f := i.field 4
  if k % i.every ≠ 0 then (s, none)
  else if !activeAt s (i.field 5) r k then
    (if bMfill i.body = 2 then s else writePlain s i r k (plainZero s (fFmt f)), none)
  else
    match blks.find? (fun x => decide (x.1 = k / 128)) with
    | none => (s, none)
    | some x =>
      let e := 128 * r + k % 128
      let g := e / (max 1 (dGroup d))
      let code := match i.op with
        | .unpackScales => (scaleCodes d (x.2.2.elim [] Blk.body)).getD g 0
        | .unpackZpoints => (zeroCodes d (x.2.2.elim [] Blk.body)).getD g 0
        | _ =>
          let c := (payloadCodes (dWidth d) x.2.1.body).getD e 0
          if (dElem d = 0x12 ∨ dElem d = 0x14) ∧ 2 ^ (dWidth d - 1) ≤ c then c + 256 - 2 ^ dWidth d else c
      (writePlain s i r k code, some (code % 2 ^ dWidth (plainDesc (fFmt f))))

/-- One element of PACK: its code, or what MFILL gives. Codes are copied as they stand (R256), also one that no unit writes: the
most negative code of a SYM format (R41), a NaN that is not the written one (R37) (log entry 53(b)). -/
def packSlot (s : State) (i : Issued) (r k : Nat) : Slot :=
  let w := dWidth (i.desc 4)
  let c := (sourceElem s i [] 1 r k).code % 2 ^ w
  if activeAt s (i.field 5) r k then .raw c else if bMfill i.body = 1 then .raw c else .zero

/-- Random bit of element p of a BERNOULLI (R278, R279). -/
def bernoulliBit (s : State) (b : Nat) (i : Issued) (p : Nat) : Bool :=
  let e := (p / i.len, p % i.len)
  let pr := bProb i.body
  if pr = 0 then false else if pr = 2 ^ 24 then true
  else
    let v : BitVec 24 := if hGen i.head = 1 then bitsAt (i.keyedWord 0x04 (hDraw i.head) e.1 e.2) 40 24
      else bitsAt (pacerDraw (s.unit b) b s.freeCtr .real (i.groupAt p) (p % 128)) 40 24
    decide (v.toNat < pr)

/-- Random word of element p of a BITS. -/
def randomWord (s : State) (b : Nat) (i : Issued) (p : Nat) : Nat :=
  let e := (p / i.len, p % i.len)
  let v : BitVec 32 := if hGen i.head = 1 then bitsAt (i.keyedWord 0x05 (hDraw i.head) e.1 e.2) 32 32
    else bitsAt (pacerDraw (s.unit b) b s.freeCtr .bits (i.groupAt p) (p % 128)) 32 32
  v.toNat

/-! ### Lane groups in processing order -/

/-- What a run of elements leaves. -/
structure RunDone where
  st : State
  slots : List (Slot × Counted)
  codes : List (Nat × Counted)
  /-- elements completed before a denied lane group -/
  stopped : Option Nat
  /-- an element met PERM_RANGE (R254) -/
  past : Bool := false

/-- Elements of one lane group, one after another; `p` is the processing index of the first. -/
def runGroup (b : Nat) (i : Issued) (ts : Tiles) (blks : List (Nat × Blk × Option Blk)) :
    List (Nat × Nat) → Nat → RunDone → RunDone
  | [], _, d => d
  | e :: es, p, d =>
    let d1 : RunDone := match i.op with
      | .unpackCodes | .unpackScales | .unpackZpoints =>
        let r := unpackStep d.st i blks e.1 e.2
        { d with st := r.1, codes := d.codes ++ (r.2.elim [] (fun c => [(c, Counted.none)])) }
      | .pack => { d with slots := d.slots ++ [(packSlot d.st i e.1 e.2, .none)] }
      | .randomBits => { d with st := writePlain d.st i e.1 e.2 (randomWord d.st b i p) }
      | _ =>
        let r := elemStep d.st b i ts p e.1 e.2
        { d with st := r.st, slots := d.slots ++ [(r.slot, r.pre)]
                 codes := d.codes ++ (r.code.elim [] (fun c => [(c.1, firstCount r.pre c.2)])), past := d.past || r.past }
    runGroup b i ts blks es (p + 1) d1

/-- Lane groups of a run, stopped before the first that is denied. -/
def runGroups (b : Nat) (i : Issued) (ts : Tiles) (blks : List (Nat × Blk × Option Blk)) :
    List (List (Nat × Nat) × List (Nat × Nat)) → Nat → RunDone → RunDone
  | [], _, d => d
  | g :: gs, p, d =>
    if d.stopped.isSome then d
    else if groupDenied d.st i g.1 then { d with stopped := some p }
    else runGroups b i ts blks gs (p + g.2.length) (runGroup b i ts blks g.2 p d)

/-- Lane groups that hold the elements with processing index p to p + n - 1: the elements of each whole group, which run
on across positions (R235, R350), and those of the range. -/
def Issued.laneGroups (i : Issued) (p n : Nat) : List (List (Nat × Nat) × List (Nat × Nat)) :=
  let l := i.lanes
  (List.range (ceilDiv (p % l + n) l)).map (fun j =>
    let g := l * (p / l + j)
    let a := max p g
    ((List.range (min l (i.elements - g))).map (fun e => i.elementAt (g + e)),
     (List.range (min (p + n) (g + l) - a)).map (fun e => i.elementAt (a + e))))

/-- The sticky PERM_RANGE bit set (R254). -/
def setPermRange (s : State) (c : Nat) : State := s.setContext c { s.context c with permr := true, permrAt := s.now }

/-- What a run left of PERM_RANGE, in the context and in the instruction. -/
def notePermRange (run : RunDone) (i : Issued) : State × Issued :=
  if run.past then (setPermRange run.st i.ctx, { i with perm := true }) else (run.st, i)

/-! ### Sums over written elements (R174, R187, R245) -/

/-- Values of a written tile as a reader decodes them under R108, taken where `keep` holds. -/
def writtenValues (d : Desc) (e : Encoded) (keep : List Bool) : List XVal :=
  let g := if dGroup d = 0 then 128 else dGroup d
  let scales := if dGroup d = 0 then List.replicate 32 (some 1) else e.scales.map (scaleVal (dSfmt d))
  let zs := if dZpm d = 2 then e.zeros else List.replicate (4096 / g) 0
  let els := ((chunksOf g (4096 / g) (e.codes.map Prod.fst)).zip (scales.zip zs)).flatMap
    (fun p => decodeGroup d p.2.1 p.2.2 [] p.1)
  (els.zip keep).filterMap (fun p => if p.2 then some p.1.v else none)

/-- Sums of a run of codes written to a plain destination (R174, R187, R245); an E8M0 code counts as 0 (log entry 53(g)). -/
def plainSums (d : Desc) (codes : List (Nat × Counted)) : TileSum :=
  let a := sumUp (codes.map (fun c => (codeVal d 0 [] c.1).1))
  let n (k : Counted) : BitVec 32 := satOf 32 (codes.filter (fun c => decide (c.2 = k))).length
  { counts := { nan := n .nan, clip := n .clip, flush := n .flush }, amax := a.1, capmax := 0, norm := a.2.1, nonfin := a.2.2 }

/-- The good tile of an engine at position p, as a destination position of F4. -/
def goodTile (i : Issued) (p : Nat) (d : Desc) (e : Encoded) (t : TileSum) : OutPos :=
  { field := 4, count := 128 * i.rowsAt p, good := some { ovf := false, body := e.payload d, sbody := e.scaleBody d, sum := some t } }

/-- The poisoned tile of an engine at position p. -/
def badTile (i : Issued) (p : Nat) : OutPos := { field := 4, count := 128 * i.rowsAt p }

/-- A tile's sums added, leaving DONE as it is. -/
def Issued.absorbOnly (i : Issued) (t : TileSum) : Issued := { i.absorb t with done := i.done }

/-! ### Tiles written -/

/-- Slots of destination tile t from the slots of its elements in processing order. -/
def layTile (n rows t : Nat) (els : List (Slot × Counted)) : List (Slot × Counted) :=
  let w := min 128 (n - 128 * t)
  fitTo 4096 (.pad, .none) ((chunksOf w rows els).flatMap (fun r => fitTo 128 (.zero, .none) r))

/-- Slots whose element is active: what an instruction copies as it stands counts, what KEEP_A keeps does not (R174,
R237). -/
def activeSlots (s : State) (i : Issued) (t : Nat) (laid : List (Slot × Counted)) : List Bool :=
  (laid.zip (List.range 4096)).map (fun x => match x.1.1 with
    | .num _ _ => true
    | .raw _ => activeAt s (i.field 5) (32 * (i.tileAt t).1 + x.2 / 128) (128 * (i.tileAt t).2 + x.2 % 128)
    | _ => false)

/-- Destination tile at position t of an element class. -/
def formElemTile (s : State) (b : Nat) (i : Issued) (t : Nat) (els : List (Slot × Counted)) : OutPos :=
  let d := i.desc 4
  let pl := i.tileAt t
  let laid := layTile i.len (i.rowsAt t) pl.2 els
  let m (e : Nat) : Round :=
    seRound (s.unit b) b s.freeCtr i (i.firstOf t + i.colsAt t * (e / 128) + e % 128) (32 * pl.1 + e / 128) (128 * pl.2 + e % 128)
  let e := encodeTile d (hSrule i.head) (fun _ => 0) [] m (laid.map Prod.fst)
  let codes := (e.codes.zip laid).map (fun p => (p.1.1, firstCount p.2.2 p.1.2))
  let e2 : Encoded := { e with codes := codes }
  let keep := activeSlots s i t laid
  let whole := laid.filterMap (fun x => match x.1 with | .num v _ => some v | _ => none)
  let a := sumUp (if i.op == .sliceProgram && decide (dSfmt d ≠ 0) then whole else writtenValues d e2 keep)
  goodTile i t d e2 { counts := e2.counts, amax := a.1, capmax := 0, norm := a.2.1, nonfin := a.2.2 }

/-- Groups of a PACK position with the scale and zero point read for each: row, group in row, scale, zero point.
A group with no active element takes the encoding of 1 and zero point 0. -/
def packGroups (s : State) (i : Issued) (t : Nat) : List (Nat × Nat) :=
  let d := i.desc 4
  let g := dGroup d
  (List.range (if g = 0 then 0 else 4096 / g)).map (fun j =>
    let r := j * g / 128
    let k := 128 * t + j * g % 128
    let live := decide (r < i.height) && (List.range g).any (fun e =>
      decide (k + e < i.len) && activeAt s (i.field 5) r (k + e))
    if live then
      ((sourceElem s i [] 2 r (k / g)).code, if dZpm d = 2 then (sourceElem s i [] 3 r (k / g)).code else 0)
    else (scaleOne (dSfmt d), 0))

/-- A PACK position: as packed, or poisoned for an invalid scale or zero point, and then true (R256). -/
def packTile (s : State) (i : Issued) (t : Nat) (els : List (Slot × Counted)) : OutPos × Bool :=
  let d := i.desc 4
  let gs := packGroups s i t
  if gs.any (fun x => (scaleVal (dSfmt d) x.1).isNone || (decide (dElem d = 0x13) && decide (15 < x.2))) then
    (badTile i t, true)
  else
    let laid := layTile i.len i.height t els
    let g := max 1 (dGroup d)
    let codes := (laid.zip (List.range 4096)).map (fun x =>
      let z := if dZpm d = 2 then (gs.getD (x.2 / g) (0, 0)).2 else 0
      match x.1.1 with
      | .raw c => (c, Counted.none)
      | .pad => (0, Counted.none)
      | _ => ((encodeElem d z [] .rne (.fin 0 false) false).1, Counted.none))
    let e : Encoded := ⟨codes, gs.map Prod.fst, gs.map Prod.snd⟩
    let a := sumUp (writtenValues d e (activeSlots s i t laid))
    (goodTile i t d e { counts := {}, amax := a.1, capmax := 0, norm := a.2.1, nonfin := a.2.2 }, false)

/-! ### One progress unit with a tile operand -/

/-- Destination tiles of the progress unit at position t. -/
def Issued.unitTiles (i : Issued) (t : Nat) : List Nat :=
  ((List.range i.span).map (· + t)).filter (fun x => decide (x < i.total))

/-- Source tiles that a progress unit at position t reads in its step j, one of each field: tile and field. -/
def Issued.stepReads (i : Issued) (t j : Nat) : List (Nat × Nat) :=
  [1, 2, 3].filterMap (fun n =>
    let x := i.sourceTiles n t
    if isStream (i.field n) && decide (j < x.2) then some (x.1 + j, n) else none)

/-- The source tiles that the progress unit reads next: its first step, or its second. -/
def Issued.nextReads (i : Issued) (t : Nat) : List (Nat × Nat) :=
  if i.reads.length < (i.stepReads t 0).length then i.stepReads t 0 else i.stepReads t 1

/-- The progress unit at position t has read all it reads. -/
def Issued.allRead (i : Issued) (t : Nat) : Bool :=
  decide ((i.stepReads t 0).length + (i.stepReads t 1).length ≤ i.reads.length)

/-- A source is not yet written, or a destination is full (R94). Two-tile units read tile by tile and write tile by tile; a
unit that reads in one step does so when its tile has room. -/
def seWaits (s : State) (i : Issued) (t : Nat) : Bool :=
  match i.outs with
  | o :: _ => fieldFull s i o.field
  | [] => (i.nextReads t).any (fun x => fieldEmpty s i x.2)
      || (isStream (i.field 4) && i.reads.isEmpty && (i.stepReads t 1).isEmpty && decide (i.span = 1) && fieldFull s i 4)

/-- What a unit read: the state after it, the blocks read, and the field that found SKEW. -/
structure UnitRead where
  st : State
  got : List ((Nat × Nat) × PosRead)
  skew : Option Nat

/-- A source position read by an engine: R97, then its COUNT (R229), its side tile (R142), and its zero points where the
payload is decoded (R40). -/
def seRead (i : Issued) (n t : Nat) (p : PosRead) : Option Status :=
  match p.status with
  | some x => some x
  | none =>
    if p.d.count ≠ 128 * rowsIn i.height (t / tilesOf (i.sourceLen n)) then some .format
    else if p.o.any (fun o => !sideOk (i.desc n) p.d.count o.body) then some .format
    else if badZero (i.desc n) (fun _ => 0) p.d.count (i.sourceLen n - 128 * (t % tilesOf (i.sourceLen n))) (p.s.elim [] Blk.body)
        && !(i.op == .unpackCodes || i.op == .unpackScales || i.op == .unpackZpoints) then some .format
    else none

/-- The positions of a step read one after another, up to a SKEW (R97, R98). A source behind the one that finds SKEW is not
read at this position (DESIGN CHOICE: log entry 43). -/
def readUnit (b : Nat) (i : Issued) : List (Nat × Nat) → UnitRead → UnitRead
  | [], u => u
  | x :: xs, u =>
    if u.skew.isSome then u
    else
      let p := readPosition u.st i x.2 []
      let s1 := advanceRead (positionEvents u.st b i x.2 p x.1) i x.2
      let skew := decide (p.status = some .skew)
      readUnit b i xs
        { st := if skew then haltField s1 i x.2 .skew else s1, got := u.got ++ [((x.2, x.1), p)]
          skew := if skew then some x.2 else none }

/-- The first failure of the positions read, with its tile. -/
def firstBad (i : Issued) (got : List ((Nat × Nat) × PosRead)) : Option (Status × Nat) :=
  got.findSome? (fun g => (seRead i g.1.1 g.1.2 g.2).map (fun x => (x, g.1.2)))

/-- A failure of a unit kept (R99). -/
def Issued.failUnit (i : Issued) (got : List ((Nat × Nat) × PosRead)) : Issued :=
  match firstBad i got with
  | some x => i.fail x.1 x.2
  | none => i

/-- The poisoned tile that a stopping engine instruction owes at i.pos; none for plain operands or past the end (R104). -/
def sePoison (i : Issued) : List OutPos :=
  if isStream (i.field 4) && decide (i.pos < i.total) then [badTile i i.pos] else []

/-- Element e of a moved tile is written with the code of +0: outside the instruction (R229), or masked under ZERO
(R237). -/
def moveZero (s : State) (i : Issued) (t e : Nat) : Bool :=
  let k := 128 * (i.tileAt t).2 + e % 128
  decide (i.len ≤ k) || (!activeAt s (i.field 5) (32 * (i.tileAt t).1 + e / 128) k && decide (bMfill i.body ≠ 1))

/-- The bulk move of R128 of tile t: blocks copied under the destination's identity, but for the elements outside the
instruction or masked. -/
def moveTile (s : State) (i : Issued) (t : Nat) (p : PosRead) : OutPos :=
  let d := i.desc 4
  let sb := p.s.elim [] Blk.body
  let zs := zeroCodes d sb
  let g := max 1 (dGroup d)
  let codes := ((payloadCodes (dWidth d) p.d.body).zip (List.range 4096)).map (fun x =>
    if x.2 < p.d.count && moveZero s i t x.2 then
      (encodeElem d (if dZpm d = 2 then zs.getD (x.2 / g) 0 else 0) [] .rne (.fin 0 false) false).1
    else x.1)
  let els := (decodeTile d (fun _ => 0) [] p.d.count (packCodes (dWidth d) codes) sb).zip (List.range 4096)
  let a := sumUp (els.filterMap (fun x => if x.2 < p.d.count && decide (x.2 % 128 < i.colsAt t)
    && activeAt s (i.field 5) (32 * (i.tileAt t).1 + x.2 / 128) (128 * (i.tileAt t).2 + x.2 % 128) then some x.1.v else none))
  { field := 4, count := 128 * i.rowsAt t
    good := some { ovf := p.d.ovf, body := packCodes (dWidth d) codes, sbody := sb, obody := p.o.elim [] Blk.body
                   sum := some { counts := {}, amax := a.1, capmax := 0, norm := a.2.1, nonfin := a.2.2 } } }

/-- The instruction is the bulk move that R128 and R232 permit. -/
def isMove (i : Issued) : Bool :=
  (i.op == .element || i.op == .sliceProgram) && (decide (dRot (i.desc 4) ≠ 0) || decide (dOcap (i.desc 4) ≠ 0)) && isStream (i.field 4)

/-- The tiles of a unit formed from the slots of its elements. -/
def formTiles (s : State) (b : Nat) : List Nat → List (Slot × Counted) → Issued → Issued
  | [], _, i => i
  | x :: xs, slots, i =>
    let n := i.colsAt x * i.rowsAt x
    let els := slots.take n
    let i1 := if i.op == .pack then
        let r := packTile s i x els
        let j := { i with outs := i.outs ++ [r.1] }
        if r.2 then j.fail .format x else j
      else { i with outs := i.outs ++ [formElemTile s b i x els] }
    formTiles s b xs (slots.drop n) i1

/-- The good elements of a unit carried out. -/
def seCompute (s : State) (b : Nat) (i : Issued) (t : Nat) : State × Issued :=
  let got := i.reads
  let tiles := i.unitTiles t
  let ts : Tiles := got.map (fun g => (g.1, decodeTile (i.desc g.1.1) (fun _ => 0) [] g.2.d.count g.2.d.body
    (g.2.s.elim [] Blk.body)))
  let blks := got.map (fun g => (g.1.2, g.2.d, g.2.s))
  let p0 := i.firstOf t
  let n := i.rowsAt t * (tiles.map i.colsAt).foldl (· + ·) 0
  let run := runGroups b i ts blks (i.laneGroups p0 n) p0 { st := s, slots := [], codes := [], stopped := none }
  let r := notePermRange run i
  match run.stopped with
  | some _ =>
    let i2 := r.2.fail .denied t
    let w := stopOn sePoison r.1 i2 i2.endStatus
    if isPlain (i.field 4) then (w.1, { w.2 with pos := i.total }) else w
  | none =>
    let i1 := if isPlain (i.field 4) then
        { r.2.absorbOnly (plainSums (plainDesc (fFmt (i.field 4))) run.codes) with
          pos := t + tiles.length, done := i.done + tiles.length, reads := [] }
      else formTiles r.1 b tiles run.slots r.2
    (passDraws r.1 b i (i.height * tiles.length), i1)

/-- One progress unit of an element class with a tile operand: formed tiles written while there is room, else source
tiles read, and the unit's tiles formed when all of them are. -/
def seTileUnit (s : State) (b : Nat) (i : Issued) : State × Issued :=
  if i.stopAs.isSome then stopOn sePoison s i .ok
  else if i.outs ≠ [] then drainOuts s i
  else
    let t := i.pos
    let u := readUnit b i (i.nextReads t) { st := s, got := [], skew := none }
    let i1 := { i with reads := i.reads ++ u.got }
    if u.skew.isSome then
      let i2 := i1.failUnit i1.reads
      stopOn sePoison u.st i2 i2.endStatus
    else if !i1.allRead t then (u.st, i1)
    else
      let tiles := i.unitTiles t
      match firstBad i1 i1.reads with
      | some _ =>
        let i2 := i1.failUnit i1.reads
        if isStream (i.field 4) then drainOuts u.st { i2 with outs := tiles.map (badTile i) }
        else (u.st, { i2 with pos := t + tiles.length, reads := [] })
      | none =>
        if isPlain (i.field 4) && i.failed.isSome then (u.st, { i1 with pos := t + tiles.length, reads := [] })
        else if isMove i then
          drainOuts u.st { i1 with outs := (i1.reads.take 1).map (fun g => moveTile u.st i t g.2) }
        else
          let r := seCompute u.st b i1 t
          if r.2.stopAs.isSome then r else drainOuts r.1 r.2

/-- One progress unit of 256 elements of an instruction with plain operands only (R263). -/
def sePlainUnit (s : State) (b : Nat) (i : Issued) : State × Issued :=
  let n := min (2 * min i.lanes 1024) (i.elements - i.pos)
  if i.op == .randomBernoulli then
    let a : Int := (fBase (i.field 4)).toNat + i.pos / 8
    let bits := (List.range n).map (fun j => bernoulliBit s b i (i.pos + j))
    let bytes := (chunksOf 8 (ceilDiv n 8) bits).map (fun c =>
      wordOf 8 (packNat 1 (c.map (fun x => if x then 1 else 0))))
    let g := gSpad (s.grant i.ctx)
    let ok (k : Nat) : Bool := addrIn g (a + 16 * k) (min 16 (bytes.length - 16 * k))
    let good := (List.range (ceilDiv bytes.length 16)).takeWhile ok
    let w := min bytes.length (16 * good.length)
    let s1 := passDraws { s with mem := writeBytes s.mem (addrKey a) (bytes.take w) } b i 2
    if w = bytes.length then (s1, { i with pos := i.pos + n, done := i.done + n })
    else (s1, { i.fail .denied (i.pos + 8 * w) with done := i.done + 8 * w, pos := i.elements })
  else
    let run := runGroups b i [] [] (i.laneGroups i.pos n) i.pos { st := s, slots := [], codes := [], stopped := none }
    let ran := match run.stopped with | some p => p - i.pos | none => n
    let r := notePermRange run i
    let s1 := passDraws r.1 b i 2
    let i1 := { r.2.absorbOnly (plainSums (plainDesc (fFmt (i.field 4))) run.codes) with done := i.done + ran }
    match run.stopped with
    | some p => (s1, { i1.fail .denied p with pos := i.elements })
    | none => (s1, { i1 with pos := i.pos + n })

/-- Progress units of the instruction are all done. -/
def Issued.seDone (i : Issued) : Bool :=
  i.outs.isEmpty && (if i.tiled then decide (i.total ≤ i.pos) else decide (i.elements ≤ i.pos))

/-- One progress unit of an element class. -/
def seUnit (s : State) (b : Nat) (i : Issued) : State × Issued :=
  let r := if i.tiled then seTileUnit s b i else sePlainUnit s b i
  ({ r.1 with freeCtr := r.1.freeCtr + 32 }, r.2)

/-- Up to `steps` progress units of an element class, or steps of one. -/
def seRun (b : Nat) : Nat → State → Issued → State × Issued
  | 0, s, i => (s, i)
  | k + 1, s, i =>
    if i.seDone then (s, { i with finished := some i.endStatus })
    else if i.tiled && seWaits s i i.pos then (s, i)
    else
      let r := seUnit s b i
      if r.2.finished.isSome then r
      else if r.2.seDone then (r.1, { r.2 with finished := some r.2.endStatus })
      else seRun b k r.1 r.2

/-! ### What the element classes check at issue -/

/-- Formats of R231. -/
def plainFormat (fmt : Nat) : Bool := [0x01, 0x02, 0x03, 0x04, 0x05, 0x10].contains fmt

/-- Operand n is absent, a tile, or plain with an admitted format. -/
def operandFormat (o : Offer) (n : Nat) (fmts : Nat → Bool) : Bool :=
  let f := o.field n
  decide (f = 0) || isStream f || (isPlain f && fmts (fFmt f))

/-- Tile operands of an engine (R128, R232). -/
def seTileFormat (o : Offer) : Bool :=
  let rotates (n : Nat) : Bool := decide (dRot (o.desc n) ≠ 0) || decide (dOcap (o.desc n) ≠ 0)
  let move := (o.op == .element || o.op == .sliceProgram) && !bPv o.body && isStream (o.field 1) && isStream (o.field 4)
    && decide (o.desc 1 = o.desc 4)
  o.streams.all (fun n => !dIsCode (o.desc n) && decide (dZpm (o.desc n) ≠ 1) && (!rotates n || move))

/-- The format code of a group scale held in plain containers. -/
def scaleFmt (sfmt : Nat) : Nat := match sfmt with | 1 => 0x30 | 2 => 0x03 | 3 => 0x04 | _ => 0

/-- MFILL against the operands (R237). -/
def mfillFormat (o : Offer) : Bool :=
  let a := o.field 1
  let d := o.field 4
  decide (o.field 5 = 0) ||
    (match bMfill o.body with
     | 1 => if isStream d then (isStream a && decide (o.desc 1 = o.desc 4)) || o.op == .pack
            else isPlain a && isPlain d && decide (fFmt a = fFmt d)
     | 2 => !isStream d
     | _ => true)

/-- Extent of source n along k. -/
def sourceExtent (o : Offer) (n : Nat) : Nat :=
  match o.op with
  | .shufInterleave => if n = 1 then ceilDiv o.len 2 else o.len / 2
  | .shufEven | .shufOdd => 2 * o.len
  | _ => o.len

/-- Destination against source intervals (R233). -/
def overlapFormat (o : Offer) : Bool :=
  let d := o.field 4
  let rows := o.height
  let dspan := if o.op == .reduce then
      plainSpan d (plainBits (fFmt d)) (if bShape o.body then rows else 1) 1
    else plainSpan d (plainBits (fFmt d)) rows o.len
  !isPlain d || [1, 2, 3].all (fun n =>
    let f := o.field n
    let fspan := if o.op == .permute && decide (n = 1) then plainSpan (permField f) (plainBits (fFmt f)) 1 (bSn o.body)
      else plainSpan f (plainBits (fFmt f)) rows (sourceExtent o n)
    !isPlain f || decide (o.len = 0) || !spansMeet dspan fspan
      || (decide (fBase f = fBase d) && decide (fSk f = fSk d) && decide (fSr f = fSr d) && decide (fFmt f = fFmt d)))

/-- Program number of an ELEMENT, REDUCE or SLICE PROGRAM that names one. -/
def Offer.program (s : State) (o : Offer) : BitVec 1024 := if bPv o.body then s.programOn o.b o.ctx (bProg o.body) else 0

/-- The sources named are the sources read (R244). -/
def programSources (s : State) (o : Offer) : Bool :=
  if bPv o.body then
    let p := o.program s
    decide (pLen p ≠ 0) && [1, 2, 3].all (fun n => decide (o.field n ≠ 0) == programReads p n)
  else decide (o.field 1 ≠ 0) && decide (o.field 2 = 0) && decide (o.field 3 = 0)

/-- A REDUCE sums exactly (R249, R253). -/
def exactSum (op : Op) (body f1 : BitVec 128) (d1 : Desc) : Bool :=
  op == .reduce && decide (bRop body = 0) && !bPv body
    && (if isStream f1 then decide (dWidth d1 ≤ 16) else decide (fFmt f1 ≠ 0x01))

/-- Formats of a REDUCE (R251, R253). -/
def reduceFormat (o : Offer) : Bool :=
  let b := o.body
  let d := o.field 4
  let a := o.field 1
  let exact := exactSum o.op b a (o.desc 1)
  (!(decide (5 ≤ bRop b)) || decide (d = 0) || (isPlain d && decide (fFmt d = 0x01)))
    && (!(isPlain a && decide (fFmt a = 0)) || exact)
    && (!(isPlain d && decide (fFmt d = 0)) || (exact && !bShape b))

/-- Conditions of SHUFFLE (R255). -/
def shuffleFormat (o : Offer) : Bool :=
  let p := bP o.body
  match o.op with
  | .shufEven | .shufOdd => decide (2 * o.len ≤ 65535)
  | .shufReverse => decide (1 ≤ p) && decide (p ≤ 8) && decide (o.len % 2 ^ p = 0)
  | .shufRotate => decide (1 ≤ p) && decide (p ≤ 8) && decide (bSh o.body < 2 ^ p) && decide (o.len % 2 ^ p = 0)
  | _ => true

/-- FORMAT rules of the SE classes beyond layout and descriptors. -/
def seFormat (s : State) (o : Offer) : Bool :=
  let key := o.field 6
  let f (n : Nat) : BitVec 128 := o.field n
  let d4 := o.desc 4
  let d1 := o.desc 1
  decide (fRbs key = 0) && decide (fRbd key = 0) && seTileFormat o && mfillFormat o && overlapFormat o
    && (match o.op with
        | .element | .sliceProgram => programSources s o && [1, 2, 3, 4].all (fun n => operandFormat o n plainFormat)
        | .reduce => programSources s o && reduceFormat o
            && [1, 2, 3, 4].all (fun n => operandFormat o n (fun x => plainFormat x || (decide (x = 0) && (n == 1 || n == 4))))
        | .permute => operandFormat o 1 plainFormat && operandFormat o 2 (fun x => decide (x = 0x01))
            && operandFormat o 4 plainFormat
        | .shufInterleave | .shufEven | .shufOdd | .shufReverse | .shufRotate =>
          let copy := copiesBits o.op o.slots o.descs
          shuffleFormat o && [1, 2, 4].all (fun n => operandFormat o n (fun x => plainFormat x || (decide (x = 0x30) && copy)))
        | .pack => decide (2 ≤ dWidth d4) && decide (dWidth d4 ≤ 8) && operandFormat o 1 (fun x => decide (x = dElem d4))
            && (if dSfmt d4 = 0 then decide (f 2 = 0)
              else decide (f 2 ≠ 0) && operandFormat o 2 (fun x => decide (x = scaleFmt (dSfmt d4))))
            && (if dZpm d4 = 2 then decide (f 3 ≠ 0) && operandFormat o 3 (fun x => decide (x = 0x11)) else decide (f 3 = 0))
        | .unpackCodes => decide (dWidth d1 ≤ 8) && operandFormat o 4 (fun x => decide (x = dElem d1))
        | .unpackScales => decide (dSfmt d1 ≠ 0) && operandFormat o 4 (fun x => decide (x = scaleFmt (dSfmt d1)))
        | .unpackZpoints => decide (dZpm d1 = 2) && operandFormat o 4 (fun x => decide (x = 0x11))
        | .randomBits => operandFormat o 4 (fun x => decide (x = 0x01))
        | .randomBernoulli =>
          -- a dense bit string has no strides and no format code (R278, R286)
          decide ((fBase (f 4)).toNat % 16 = 0) && decide (fSk (f 4) = 0) && decide (fSr (f 4) = 0) && decide (fFmt (f 4) = 0) && decide (bProb o.body ≤ 2 ^ 24)
        | _ => true)

end Sys2Proof.Machine
end

