-- ==== Sys2Proof/Machine/Reduce.lean ====
section
/-!
DEFINITION. REDUCE (R248 to R253, R260) and STATS (R174, R299).
-/

namespace Sys2Proof.Machine

/-! ### The exact accumulator (R249, R253) -/

/-- The exact sum in units of 2^-149 with what the accumulator record says beside it. -/
structure Acc where
  sum : Int := 0
  nan : Bool := false
  pinf : Bool := false
  ninf : Bool := false
  nzero : Bool := true
  satur : Bool := false
  nact : Nat := 0
  deriving DecidableEq, Repr

/-- One active input as an accumulator. -/
def accOf (v : XVal) : Acc :=
  match v with
  | .nan _ => { nan := true, nzero := false, nact := 1 }
  | .inf s => { pinf := !s, ninf := s, nzero := false, nact := 1 }
  | .fin q s => { sum := (q * pow2 149).floor, nzero := decide (q = 0) && s, nact := 1 }

/-- Two accumulators added; one with no active input adds nothing. -/
def Acc.add (a b : Acc) : Acc :=
  { sum := a.sum + b.sum, nan := a.nan || b.nan, pinf := a.pinf || b.pinf, ninf := a.ninf || b.ninf
    nzero := a.nzero && b.nzero, satur := a.satur || b.satur, nact := a.nact + b.nact }

/-- The accumulator brought back into 320 bits (R253). -/
def Acc.settle (a : Acc) : Acc :=
  if (2 : Int) ^ 319 ≤ a.sum then { a with sum := 2 ^ 319 - 1, satur := true }
  else if a.sum ≤ -(2 : Int) ^ 319 then { a with sum := -(2 : Int) ^ 319, satur := true }
  else a

/-- The value is an infinity that SATUR makes (R253). -/
def Acc.saturated (a : Acc) : Bool := a.satur && !a.nan && !a.pinf && !a.ninf

/-- The value of an accumulator. -/
def Acc.value (a : Acc) : XVal :=
  if a.nan || (a.pinf && a.ninf) then .nan false
  else if a.pinf then .inf false
  else if a.ninf then .inf true
  else if a.satur then .inf (decide (a.sum < 0))
  else if a.sum = 0 then .fin 0 (a.nzero && decide (0 < a.nact))
  else xval ((a.sum : ℚ) * pow2 (-149)) false

/-- The 48-byte record of an accumulator. -/
def Acc.bytes (a : Acc) : List Byte :=
  let w := (bit a.nan).toNat + 2 * (bit a.pinf).toNat + 4 * (bit a.ninf).toNat
    + 8 * (bit (a.nzero && decide (0 < a.nact))).toNat + 16 * (bit (decide (a.nact = 0))).toNat + 32 * (bit a.satur).toNat
  leBytes 40 (a.sum % 2 ^ 320).toNat ++ leBytes 4 w ++ leBytes 4 (satOf 32 a.nact).toNat

/-- A record read; none where a reserved bit is set. -/
def accRead (bs : List Byte) : Option Acc :=
  let n := leNat (bs.take 40)
  let w : BitVec 32 := wordLE 32 ((bs.drop 40).take 4)
  if bitsAt w 6 26 ≠ 0 then none
  else if bitAt w 4 then some { nan := bitAt w 0, pinf := bitAt w 1, ninf := bitAt w 2, satur := bitAt w 5, nact := 0 }
  else some { sum := if 2 ^ 319 ≤ n then (n : Int) - 2 ^ 320 else n, nan := bitAt w 0, pinf := bitAt w 1
              ninf := bitAt w 2, nzero := bitAt w 3, satur := bitAt w 5, nact := leNat (bs.drop 44) }

/-! ### The pairwise fold (R250) -/

/-- A partial result: the binary32 word, whether rounding changed it, whether finite operands overflowed. -/
structure Part where
  w : BitVec 32
  inexact : Bool
  ovf : Bool
  deriving DecidableEq, Repr

/-- A value rounded to binary32 under RNE, as a partial result. -/
def partOf (v : XVal) (inexact ovf : Bool) : Part :=
  let w := toF32 v
  ⟨w, inexact || (v.isFin && decide ((ofF32 w).rat ≠ v.rat)), ovf || (v.isFin && !(ofF32 w).isFin)⟩

/-- One operation of the fold. -/
def foldOp (prod : Bool) (a b : Part) : Part :=
  let x := ofF32 a.w
  let y := ofF32 b.w
  partOf (if prod then x.mul y else x.add y) (a.inexact || b.inexact) (a.ovf || b.ovf)

/-- One level of the fold; none stands for HOLE. -/
def foldLevel (prod : Bool) : List (Option Part) → List (Option Part)
  | a :: b :: l => (match a, b with
      | none, y => y
      | x, none => x
      | some x, some y => some (foldOp prod x y)) :: foldLevel prod l
  | l => l

/-- The fold of a list of at most 2^n inputs. -/
def foldTree (prod : Bool) : Nat → List (Option Part) → Option Part
  | 0, l => l.headD none
  | n + 1, l => foldTree prod n (foldLevel prod l)

/-! ### One result -/

/-- A folded result: the value (or the index or count as a word), and what the summary flags say. -/
structure Folded where
  empty : Bool
  v : XVal
  word : BitVec 32
  acc : Acc
  inexact : Bool
  ovf : Bool
  finite : Bool
  deriving DecidableEq, Repr

/-- Identity value of an operation (R248). -/
def identityVal (rop : Nat) : XVal :=
  match rop with
  | 1 => .fin 1 false
  | 2 | 5 => .inf true
  | 3 | 6 => .inf false
  | _ => .fin 0 false

/-- Identity word of an index or count. -/
def identityWord (rop : Nat) : BitVec 32 := if rop = 7 then 0 else 0xFFFFFFFF

/-- The extreme of a list of indexed inputs: first in index order among the best. -/
def bestOf (lt : XVal → XVal → Bool) : List (Nat × XVal) → Option (Nat × XVal) → Option (Nat × XVal)
  | [], b => b
  | x :: xs, b =>
    if x.2.isNan then bestOf lt xs b
    else match b with
      | none => bestOf lt xs (some x)
      | some y => bestOf lt xs (if lt y.2 x.2 || (!lt x.2 y.2 && decide (x.1 < y.1)) then some x else some y)

/-- The absolute value. -/
def XVal.abs : XVal → XVal
  | .nan _ => .nan false
  | .inf _ => .inf false
  | .fin q _ => .fin |q| false

/-- The fold of the active inputs with indices below m (R248 to R250). -/
def foldInputs (rop : Nat) (exact : Bool) (m : Nat) (ins : List (Nat × XVal)) : Folded :=
  let nan := ins.any (fun x => x.2.isNan)
  let base : Folded := { empty := ins.isEmpty, v := identityVal rop, word := identityWord rop, acc := {}
                         inexact := false, ovf := false, finite := ins.all (fun x => x.2.isFin) }
  let a := (ins.foldl (fun (a : Acc) x => a.add (accOf x.2)) {}).settle
  if ins.isEmpty then base
  else match rop with
    | 0 | 1 =>
      if exact then { base with v := a.value, acc := a, ovf := a.satur }
      else
        let parts := (List.range m).map (fun j => (ins.find? (fun x => decide (x.1 = j))).map (fun x => partOf x.2 false false))
        match foldTree (decide (rop = 1)) 22 parts with
        | none => base
        | some p => { base with v := ofF32 p.w, inexact := p.inexact, ovf := p.ovf }
    | 2 => { base with v := if nan then .nan false else ((bestOf ordLt ins none).map Prod.snd).getD base.v }
    | 3 => { base with v := if nan then .nan false else ((bestOf (fun x y => ordLt y x) ins none).map Prod.snd).getD base.v }
    | 4 => { base with v := if nan then .nan false
                            else ((bestOf ordLt (ins.map (fun x => (x.1, x.2.abs))) none).map Prod.snd).getD base.v }
    | 5 => match bestOf ordLt ins none with
      | none => base
      | some x => { base with v := x.2, word := wordOf 32 x.1 }
    | 6 => match bestOf (fun x y => ordLt y x) ins none with
      | none => base
      | some x => { base with v := x.2, word := wordOf 32 x.1 }
    | _ => { base with word := wordOf 32 (ins.filter (fun x => match x.2 with | .fin q _ => decide (q ≠ 0) | _ => true)).length }

/-- The fold of accumulator records (R253). -/
def foldRecords (recs : List Acc) : Folded :=
  let a := (recs.foldl Acc.add {}).settle
  { empty := decide (a.nact = 0), v := if a.nact = 0 then .fin 0 false else a.value, word := 0, acc := a
    inexact := false, ovf := a.satur, finite := !(a.nan || a.pinf || a.ninf) }

/-! ### The instruction -/

/-- ROP of a REDUCE. -/
def Issued.rop (i : Issued) : Nat := bRop i.body

/-- The operation writes words, not values. -/
def Issued.wordOp (i : Issued) : Bool := decide (5 ≤ i.rop)

/-- The inputs are accumulator records. -/
def Issued.fromRecords (i : Issued) : Bool := isPlain (i.field 1) && decide (fFmt (i.field 1) = 0)

/-- The reduction is exact (R249). -/
def Issued.exact (i : Issued) : Bool := exactSum i.op i.body (i.field 1) (i.desc 1)

/-- Results of a reduction: index of the result and its fold. -/
def reduceFolds (s : State) (i : Issued) : List (Nat × Folded) :=
  let rows := if bShape i.body then List.range i.height else [0]
  let m := if bShape i.body then i.len else i.elements
  rows.map (fun r =>
    if i.fromRecords then
      let els := (List.range i.elements).map i.elementAt
      let recs := (els.filter (fun e => (!bShape i.body || decide (e.1 = r)) && activeAt s (i.field 5) e.1 e.2)).filterMap
        (fun e => accRead (readBytes s.mem (addrKey (plainAddr (i.field 1) 384 e.1 e.2)) 48))
      (r, foldRecords recs)
    else
      let ins := if bShape i.body then
          (i.inputs.filter (fun x => decide (x.1 / i.len = r))).map (fun x => (x.1 % i.len, x.2))
        else i.inputs
      (r, foldInputs i.rop i.exact m ins))

/-- Rounding of a result. -/
def reduceRound (i : Issued) : Round := if hRmode i.head = 2 then .rtz else .rne

/-- Code of an identity in a format: its infinity, or the finite value of greatest magnitude (R248). -/
def identityCode (d : Desc) (z : Nat) (v : XVal) : Nat :=
  match v, elemOf (dElem d) with
  | .inf s, some (.flt f) => f.signed s (f.infCode.getD f.maxCode)
  | v, _ => (encodeElem d z [] .rne v false).1

/-- Overflow and inexactness of a result written under a counter and read back as `back`. -/
def lossOf (f : Folded) (c : Counted) (back : XVal) : Bool × Bool :=
  (f.ovf || (f.v.isFin && decide (c = .clip)),
   f.inexact || (f.v.isFin && (!back.isFin || decide (back.rat ≠ f.v.rat))))

/-- The same for a result in a format without scale. -/
def resultFlags (d : Desc) (m : Round) (f : Folded) : Bool × Bool :=
  let c := encodeElem d 0 [] m f.v false
  lossOf f c.2 (codeVal d 0 [] c.1).1

/-- The counter of a result: one formed with SATUR set lay beyond every finite range (R70, R78, R253). -/
def foldCount (f : Folded) (c : Counted) : Counted := if f.acc.saturated then .clip else c

/-- Results written to a plain destination. -/
def writeFolds (s : State) (i : Issued) : List (Nat × Folded) → State × List (Nat × Counted) → State × List (Nat × Counted)
  | [], acc => acc
  | x :: xs, acc =>
    let f := i.field 4
    let bits := plainBits (fFmt f)
    let a := addrKey (plainAddr f bits x.1 0)
    if fFmt f = 0 then
      writeFolds s i xs ({ acc.1 with mem := writeBytes acc.1.mem a x.2.acc.bytes }, acc.2)
    else if i.wordOp then
      writeFolds s i xs ({ acc.1 with mem := writeBytes acc.1.mem a (leBytes 4 x.2.word.toNat) }, acc.2)
    else
      let d := plainDesc (fFmt f)
      let e := encodeElem d 0 [] (reduceRound i) x.2.v false
      let c := if x.2.empty then (identityCode d 0 x.2.v, Counted.none) else (e.1, foldCount x.2 e.2)
      writeFolds s i xs ({ acc.1 with mem := writeBytes acc.1.mem a (leBytes (bits / 8) c.1) }, acc.2 ++ [c])

/-- COUNT of a REDUCE's destination tile (R229, R251). -/
def reduceCount (i : Issued) : Nat := if bShape i.body then i.height else 128 * i.height

/-- The tile of a REDUCE with a tile destination, and what its results are worth to the status and the summary. The
identity of a row with no input is converted like a result, but for an infinity (R248, R250). -/
def foldTile (i : Issued) (fs : List (Nat × Folded)) : OutPos × List (Bool × Bool) :=
  let d := i.desc 4
  let slots := fs.map (fun x => if x.2.empty && !x.2.v.isFin then Slot.raw (identityCode d 0 x.2.v) else Slot.num x.2.v false)
  let laid := fitTo 4096 Slot.pad (fitTo (reduceCount i) Slot.zero slots)
  let e := encodeTile d (hSrule i.head) (fun _ => 0) [] (fun _ => reduceRound i) laid
  let a := sumUp (writtenValues d e (laid.map (fun x => match x with | .num _ _ | .raw _ => true | _ => false)))
  let more : Counts := { clip := satOf 32 ((fs.zip e.codes).filter (fun x =>
    x.1.2.acc.saturated && decide (x.2.2 ≠ .clip))).length }
  let back := decodeTile d (fun _ => 0) [] (reduceCount i) (e.payload d) (e.scaleBody d)
  ({ goodTile i 0 d e { counts := e.counts.add more, amax := a.1, capmax := 0, norm := a.2.1, nonfin := a.2.2 } with
       count := reduceCount i, last := false },
   (fs.zip (e.codes.zip back)).map (fun x => if x.1.2.empty then (false, false)
     else lossOf x.1.2 x.2.1.2 x.2.2.v))

/-- KIND of the summary (R260). -/
def reduceKind (i : Issued) : BitVec 8 :=
  if bShape i.body then 3 else if i.rop = 7 then 3 else if i.wordOp then 2 else 1

/-- VALUE of the summary (R260). -/
def reduceValue (i : Issued) (f : Folded) : BitVec 64 :=
  if bShape i.body then wordOf 64 i.height
  else if i.rop = 7 then f.word.setWidth 64
  else if i.wordOp then f.word.setWidth 64 ||| ((toF32 f.v).setWidth 64 <<< 32)
  else wordOf 64 (f32.encode (reduceRound i) false false f.v false).1

/-- Summary flags NAN, INF, OVERFLOW, INEXACT, POISON. -/
def sumFlags (nan inf ovf inexact poison : Bool) : BitVec 6 :=
  wordOf 6 ((bit nan).toNat + 2 * (bit inf).toNat + 4 * (bit ovf).toNat + 8 * (bit inexact).toNat + 16 * (bit poison).toNat)

/-- The identity summary of a reduction that gives no result (R239, R252). -/
def identityFold (i : Issued) : Folded :=
  { empty := true, v := identityVal i.rop, word := identityWord i.rop, acc := {}, inexact := false, ovf := false, finite := true }

/-- Destination bytes of a REDUCE lie in the grant (R239). -/
def reduceDestOk (s : State) (i : Issued) : Bool :=
  let f := i.field 4
  !isPlain f || (if bShape i.body then List.range i.height else [0]).all (fun r =>
    addrIn (gSpad (s.grant i.ctx)) (plainAddr f (plainBits (fFmt f)) r 0) (plainBits (fFmt f) / 8))

/-- The poisoned tile of a REDUCE with a tile destination (R252, R104); its position is position 0 (R102). -/
def reducePoison (i : Issued) : List OutPos :=
  if isStream (i.field 4) && decide (i.len ≠ 0) then
    [{ field := 4, count := reduceCount i, last := false, src := some (some 0) }] else []

/-- The summary of a REDUCE that gives no result: the identity, and POISON_IN where a position that it took in had failed
(R239, R252, R253). -/
def identitySummary (i : Issued) : Summary :=
  { value := reduceValue i (identityFold i), kind := reduceKind i, status := if i.rowsBad then some .poisonIn else none
    flags := sumFlags (i.sawNan && decide (i.rop ≠ 7)) i.sawInf false false i.rowsBad }

/-- A REDUCE ends without a result: its tile poisoned where `tile` says so, its summary the identity (R239, R252, R253). -/
def reduceFail (tile : Bool) (s : State) (i : Issued) (pos : Nat) : State × Issued :=
  (s, { i with pos := pos, inputs := [], reads := [], outs := if tile then reducePoison i else []
               summary := some (identitySummary i) })

/-- The end of a REDUCE: results written or formed and the summary formed (R250 to R253). -/
def reduceEnd (s : State) (i : Issued) (pos : Nat) : State × Issued :=
  let d := i.field 4
  let bad := i.fromRecords && (List.range i.elements).any (fun e =>
    let x := i.elementAt e
    activeAt s (i.field 5) x.1 x.2 && (accRead (readBytes s.mem (addrKey (plainAddr (i.field 1) 384 x.1 x.2)) 48)).isNone)
  let i0 := if bad then i.fail .format 0 else if reduceDestOk s i || decide (i.len = 0) then i else i.fail .denied 0
  if i0.failed.isSome then reduceFail (!bad) s i0 pos
  else
    let fs := reduceFolds s i
    let resDesc : Desc := if d = 0 ∨ (isPlain d ∧ fFmt d = 0) then plainDesc 1 else plainDesc (fFmt d)
    let tile := foldTile i fs
    let flags := if isStream d && decide (i.len ≠ 0) then tile.2
      else fs.map (fun x => if i.wordOp || x.2.empty then (false, false) else resultFlags resDesc (reduceRound i) x.2)
    let vflags := fs.map (fun x => if i.wordOp || bShape i.body || x.2.empty then (false, false)
      else resultFlags (plainDesc 1) (reduceRound i) x.2)
    let ovf := (flags.zip fs).any (fun p => p.1.1 && (p.2.2.finite || p.2.2.acc.satur))
    let w := if d = 0 || decide (i.len = 0) then (s, i)
      else if isStream d then (s, { i with outs := [tile.1] })
      else
        let r := writeFolds s i fs (s, [])
        (r.1, i.absorbOnly (plainSums (plainDesc (fFmt d)) r.2))
    let nan := i.sawNan || fs.any (fun x => x.2.acc.nan)
    let inf := i.sawInf || fs.any (fun x => x.2.acc.pinf || x.2.acc.ninf)
    let whole := (fs.headD (0, identityFold i)).2
    (w.1, { w.2 with
      pos := pos, inputs := [], reads := []
      emptySeen := fs.any (fun x => x.2.empty), overflow := ovf
      done := if i.tiled then w.2.done else i.elements
      summary := some { value := reduceValue i whole, kind := reduceKind i, status := none
                        flags := sumFlags (nan && decide (i.rop ≠ 7)) inf (ovf || vflags.any Prod.fst)
                          ((flags ++ vflags).any Prod.snd) false } })

/-- Active elements of a run taken in as inputs (R244, R245, R248). -/
def takeInputs (s : State) (b : Nat) (i : Issued) (ts : Tiles) : List (Nat × Nat) → Nat → Issued → Issued
  | [], _, acc => acc
  | e :: es, p, acc =>
    if i.fromRecords || !activeAt s (i.field 5) e.1 e.2 then takeInputs s b i ts es (p + 1) acc
    else
      let out := elemOut s b i ts p e.1 e.2
      let one (k : Counted) : BitVec 32 := if out.pre = k then 1 else 0
      takeInputs s b i ts es (p + 1)
        { acc with inputs := acc.inputs ++ [(i.len * e.1 + e.2, out.v)]
                   sawNan := acc.sawNan || out.v.isNan
                   sawInf := acc.sawInf || (!out.v.isNan && !out.v.isFin)
                   counts := acc.counts.add { nan := one .nan, clip := one .clip, flush := one .flush } }

/-- Lane groups of a REDUCE, stopped before the first that is denied. -/
def reduceGroups (s : State) (b : Nat) (i : Issued) (ts : Tiles) :
    List (List (Nat × Nat)) → Nat → Issued → Issued × Bool
  | [], _, acc => (acc, false)
  | g :: gs, p, acc =>
    if groupDenied s i g then (acc, true) else reduceGroups s b i ts gs (p + g.length) (takeInputs s b i ts g p acc)

/-- One progress unit of a REDUCE: its formed tile written, a position with a tile source, all of it otherwise. -/
def reduceUnit (s : State) (b : Nat) (i : Issued) : State × Issued :=
  if i.outs ≠ [] then drainOuts s i
  else if i.len = 0 then reduceEnd s i 1
  else if i.tiled && [1, 2, 3].any (fun n => isStream (i.field n)) then
    let t := i.pos
    let last := tilesOf i.len
    let u := readUnit b i (i.stepReads t 0) { st := s, got := [], skew := none }
    let i1 := if (firstBad i u.got).isSome then { i.failUnit u.got with rowsBad := true } else i
    if u.skew.isSome then reduceFail true u.st i1 last
    else
      let ts : Tiles := u.got.map (fun g => (g.1, decodeTile (i.desc g.1.1) (fun _ => 0) [] g.2.d.count g.2.d.body
        (g.2.s.elim [] Blk.body)))
      let p0 := 128 * i.height * t
      let n := i.height * (min i.len (128 * (t + 1)) - 128 * t)
      let r := if i1.failed.isSome then (i1, false) else reduceGroups u.st b i1 ts ((i1.laneGroups p0 n).map Prod.snd) p0 i1
      let s1 := passDraws u.st b i i.height
      if r.2 then reduceFail true s1 (r.1.fail .denied t) last
      else if t + 1 < last then (s1, { r.1 with pos := t + 1 })
      else reduceEnd s1 r.1 last
  else
    let r := reduceGroups s b i [] ((i.laneGroups 0 i.elements).map Prod.snd) 0 i
    let s1 := passDraws s b i (ceilDiv i.elements 128)
    if r.2 then reduceFail true s1 (r.1.fail .denied 0) (max 1 (tilesOf i.len))
    else reduceEnd s1 r.1 (max 1 (tilesOf i.len))

/-- The REDUCE has given its result. -/
def Issued.reduceDone (i : Issued) : Bool := i.outs.isEmpty && decide (max 1 (tilesOf i.len) ≤ i.pos)

/-- A source of a REDUCE is not yet written, or its formed tile has no room (R94). -/
def reduceWaits (s : State) (i : Issued) : Bool :=
  match i.outs with
  | o :: _ => fieldFull s i o.field
  | [] => decide (i.len ≠ 0) && (i.stepReads i.pos 0).any (fun x => fieldEmpty s i x.2)

/-- Up to `steps` progress units of a REDUCE. -/
def reduceRun (b : Nat) : Nat → State → Issued → State × Issued
  | 0, s, i => (s, i)
  | k + 1, s, i =>
    if i.reduceDone then (s, { i with finished := some (i.stopAs.getD i.endStatus) })
    else if reduceWaits s i then (s, i)
    else
      let r := reduceUnit s b i
      let s1 := { r.1 with freeCtr := r.1.freeCtr + 32 }
      if r.2.reduceDone then (s1, { r.2 with finished := some (r.2.stopAs.getD r.2.endStatus) })
      else reduceRun b k s1 r.2

/-- A REDUCE stops before its result: its tile poisoned (R104, R331). A TIMEOUT gives the identity summary, as a failed
position does (R252); that of an aborted one is R331's. -/
def reduceStop (s : State) (i : Issued) (st : Status) : State × Issued :=
  let i1 := { i.stopping st with
    pos := max 1 (tilesOf i.len), outs := if i.reduceDone then [] else reducePoison i
    summary := if st = .aborted || i.summary.isSome then i.summary else some (identitySummary i) }
  stopOn (fun _ => []) s i1 st

/-! ### STATS (R174, R299) -/

/-- The summary of a STATS. -/
def statsSummary (i : Issued) : Summary :=
  { value := (i.amax.setWidth 64 <<< 16) ||| (i.counts.nan.setWidth 64 <<< 32), kind := 1, status := none
    flags := sumFlags i.sawNan i.sawInf false false i.failed.isSome }

/-- Values of a STATS taken in. -/
def Issued.takeStats (i : Issued) (vals : List XVal) : Issued :=
  let a := sumUp vals
  { i.absorbOnly { counts := { nan := satOf 32 (vals.filter XVal.isNan).length }, amax := a.1, capmax := 0
                   norm := a.2.1, nonfin := a.2.2 } with
    sawNan := i.sawNan || vals.any XVal.isNan
    sawInf := i.sawInf || vals.any (fun v => !v.isNan && !v.isFin) }

/-- A source entry of the channel scale file or codebook that a STATS position reads is invalid (R48, R122). -/
def statsInvalid (u : UnitSt) (i : Issued) (rb : Nat) : Bool :=
  let d := i.desc 1
  (dIsCode d && u.files.cbBadActive.contains (dCbk d))
    || (channelScaled d (i.field 1) && u.files.chBadActive.any (fun e =>
          decide (bCb0 i.body + 32 * rb ≤ e) && decide (e < bCb0 i.body + 32 * rb + rowsIn i.height rb)))

/-- One position of a STATS on a tile stream. -/
def statsPosition (s : State) (b : Nat) (i : Issued) : State × Issued :=
  let u := s.unit b
  let pl := i.place i.pos
  let rows := rowsIn i.height pl.1
  let p := readPosition s i 1 []
  let st := match p.status with
    | some x => some x
    | none => if statsInvalid u i pl.1 then some .checksum
      else if sourceFormat u i pl.1 pl.2 (128 * rows) p then none else some .format
  let s1 := advanceRead (positionEvents s b i 1 p i.pos) i 1
  match st with
  | some .skew => (haltField s1 i 1 .skew, { i.fail .skew i.pos with pos := i.total })
  | some x => (s1, { i.fail x i.pos with pos := i.pos + 1 })
  | none =>
    let els := decodeSource u i pl.1 p
    let vals := (els.zip (List.range 4096)).filterMap (fun e =>
      if e.2 / 128 < rows ∧ 128 * pl.2 + e.2 % 128 < i.len then some e.1.v else none)
    (s1, { i.takeStats vals with pos := i.pos + 1, done := i.done + 1 })

/-- A STATS on a plain operand, whole. -/
def statsPlain (s : State) (i : Issued) : Issued :=
  let f := i.field 1
  let w := plainBits (fFmt f)
  let els := (List.range i.elements).map (fun p => (p / i.len, p % i.len))
  let groups := chunksOf 128 (ceilDiv i.elements 128) els
  let ok (g : List (Nat × Nat)) : Bool := g.all (fun e => addrIn (gSpad (s.grant i.ctx)) (plainAddr f w e.1 e.2) (w / 8))
  let good := (groups.takeWhile ok).flatten
  let i1 := i.takeStats (good.map (fun e => (sourceElem s i [] 1 e.1 e.2).v))
  let i2 := { i1 with pos := max 1 i.total, done := good.length }
  if good.length = i.elements then i2 else i2.fail .denied good.length

/-- Positions of a STATS: those of its stream, or one for a plain operand. -/
def Issued.statsTotal (i : Issued) : Nat :=
  if i.len = 0 then 0 else if isStream (i.field 1) then i.total else max 1 i.total

/-- Up to `steps` progress units of a STATS. -/
def statsRun (b : Nat) : Nat → State → Issued → State × Issued
  | 0, s, i => (s, i)
  | k + 1, s, i =>
    let fin (t : State) (j : Issued) : State × Issued :=
      (t, { j with finished := some j.endStatus, summary := some (statsSummary j) })
    if i.statsTotal ≤ i.pos then fin s i
    else if isStream (i.field 1) && (entriesOf (i.field 1) (i.desc 1)).any (fun p => (s.stream p.1).readerWaits) then
      (s, i)
    else
      let r := if isStream (i.field 1) then statsPosition s b i else (s, statsPlain s i)
      let i1 := r.2
      if i1.statsTotal ≤ i1.pos then fin r.1 i1 else statsRun b k r.1 i1

/-- FORMAT rules of STATS beyond layout and descriptors. -/
def statsFormat (o : Offer) : Bool :=
  let f := o.field 1
  let d := o.desc 1
  let cb := bCb0 o.body
  if isPlain f then plainFormat (fFmt f) && decide (hM o.head ≤ 31)
  else if o.kind == some .cv then
    (channelScaled d f || decide (cb = 0)) && (!channelScaled d f || decide (o.len = 0) || decide (cb + o.height ≤ 8192))
  else !dIsCode d && decide (dZpm d ≠ 1) && decide (dRot d = 0) && decide (dOcap d = 0)

/-- Grants of STATS. -/
def statsGranted (s : State) (o : Offer) : Bool :=
  let g := s.grant o.ctx
  let d := o.desc 1
  !(o.kind == some .cv) || ((!dIsCode d || inRange (gBooks g) (dCbk d))
    && (!channelScaled d (o.field 1) || decide (o.len = 0) || spanIn (gChannels g) (bCb0 o.body) o.height))

end Sys2Proof.Machine
end

