-- ==== Sys2Proof/Machine/Delivery.lean ====
section
/-!
DEFINITION. Product tables and their feed (R149 to R155) and the last-use handshake (R166 to R168).
-/

namespace Sys2Proof.Machine

/-! ### Product tables -/

/-- WFDI of a build. -/
def bWfdi (b : BitVec 128) : BitVec 6 := bitsAt b 0 6

/-- Weight code width of R150; none where the table path does not take the weight format. -/
def weightWidth (w : Desc) : Option Nat :=
  if !dValid w then none
  else match dElem w with
    | 0x20 => some 4 | 0x21 => some 3 | 0x22 => some 2 | 0x23 => some 1
    | 0x08 | 0x12 => some 4
    | 0x14 => some 2
    | 0x13 => if dZpm w = 1 ∧ dSfmt w = 0 then some 4 else none
    | _ => none

/-- The activation format is accepted beside the weight format (R150). R110 refuses ZPM 0b01 to every unit but a CV, R150
takes a UINT activation and a UINT4 weight with it: the model follows R150 (DEDUCED: log entry 44). -/
def pairAccepted (a w : Desc) : Bool :=
  let uint := dIsUint a && decide (dZpm a = 1) && decide (dSfmt a = 0) && decide (dOcap a = 0)
  let plain := [0x03, 0x02, 0x04, 0x05, 0x06, 0x07, 0x08, 0x10, 0x12, 0x14].contains (dElem a)
  (weightWidth w).isSome &&
    (if dElem w = 0x13 then uint else if dElem w = 0x12 ∨ dElem w = 0x14 then uint || plain else plain)

/-- v_c of R150. The weight descriptor's DAZ is applied to FP4 codes too (DESIGN CHOICE: log entry 44). -/
def weightValue (u : UnitSt) (w : Desc) (c : Nat) : XVal :=
  if dElem w = 0x13 then xint c else (codeVal w 0 (bookEntries u (dCbk w)) c).1

/-- Activation values of a position: side slots and raw UINT codes taken, elements outside the instruction absent. -/
def tableInputs (i : Issued) (rows t : Nat) (p : PosRead) : List (Option XVal) :=
  let d := i.desc 1
  let els := decodeTile d (fun _ => 0) [] p.d.count p.d.body (p.s.elim [] Blk.body)
  let merged := match p.o with
    | some o => mergeSide (sideSlots o.body) 0 els
    | none => els
  (merged.zip (List.range 4096)).map (fun x =>
    if x.2 / 128 < rows ∧ 128 * t + x.2 % 128 < i.len then
      some (if dIsUint d then xint x.1.code else x.1.v)
    else none)

/-- Entries of one activation and the counter it takes (R151). -/
def tableEntries (vs : List XVal) (x : Option XVal) : List (BitVec 32) × Counted :=
  match x with
  | none => (vs.map (fun _ => 0), .none)
  | some x =>
    let es := vs.map (fun v => f32.encode .rne true false (x.mul v) false)
    (es.map (fun e => wordOf 32 e.1),
     if x.isNan then .nan else if es.any (fun e => decide (e.2 = .clip)) then .clip
     else if es.any (fun e => decide (e.2 = .flush)) then .flush else .none)

/-- Control word of a beat (R153). -/
def beatControl (first last poison : Bool) (k : Nat) (epoch : BitVec 4) (ctx : Nat) (tag : BitVec 16) (tensor : BitVec 24) :
    BitVec 96 :=
  (bit first).setWidth 96 ||| ((bit last).setWidth 96 <<< 1) ||| ((bit poison).setWidth 96 <<< 2)
    ||| (wordOf 96 (k - 1) <<< 3) ||| (epoch.setWidth 96 <<< 8) ||| (wordOf 96 (ctx % 1024) <<< 12)
    ||| (tag.setWidth 96 <<< 32) ||| (tensor.setWidth 96 <<< 64)

/-- A poisoned block: one beat. -/
def poisonBeat (k : Nat) (epoch : BitVec 4) (ctx : Nat) (tag : BitVec 16) (tensor : BitVec 24) : Beat :=
  ⟨beatControl true true true k epoch ctx tag tensor, List.replicate 1024 0⟩

/-- Activations per beat (R154). -/
def perBeat (k : Nat) : Nat := match k with | 4 => 64 | 3 => 128 | _ => 256

/-- The beats of a table block. -/
def tableBeats (k : Nat) (epoch : BitVec 4) (ctx : Nat) (tag : BitVec 16) (tensor : BitVec 24)
    (entries : List (List (BitVec 32))) : List Beat :=
  let a := perBeat k
  let n := 4096 / a
  ((chunksOf a n entries).zip (List.range n)).map (fun x =>
    ⟨beatControl (decide (x.2 = 0)) (decide (x.2 + 1 = n)) false k epoch ctx tag tensor, fitTo 1024 0 x.1.flatten⟩)

/-- The feed of the unit still holds beats of this build. -/
def feedOwned (u : UnitSt) (i : Issued) : Bool := !u.feed.isEmpty && decide (u.feedOwner = some (i.queue, i.slot))

/-- A block whose last beat has left counts (R155). -/
def settleBlock (u : UnitSt) (i : Issued) : Issued :=
  match i.outs with
  | o :: _ => if feedOwned u i then i
    else match o.good with
      | some g => { (match g.sum with | some t => i.absorb t | none => i) with outs := [] }
      | none => { i with outs := [] }
  | [] => i

/-- Poisoned blocks of n positions from a tag on, one beat each (R98, R152). -/
def poisonBeats (k : Nat) (epoch : BitVec 4) (ctx : Nat) (tag : BitVec 16) (tensor : BitVec 24) (n : Nat) : List Beat :=
  (List.range n).map (fun j => poisonBeat k epoch ctx (tag + wordOf 16 j) tensor)

/-- Weight code width of a build. -/
def buildK (i : Issued) : Nat := (weightWidth i.wdesc).getD 1

/-- Poisoned blocks of the positions of a build from i.pos on, behind the feed; the last of them ends it. -/
def poisonRest (s : State) (b : Nat) (i : Issued) (n : Nat) : State :=
  let e := s.stream (fStream (i.field 1))
  s.onUnit b (fun u => { u with
    feed := u.feed ++ poisonBeats (buildK i) i.epoch i.ctx (i.sourceTag s (fStream (i.field 1)) i.pos) e.tensor n
    feedOwner := if n = 0 then u.feedOwner else some (i.queue, i.slot) })

/-- A build with its two format table entries as they stand (R152; DEDUCED: log entry 44). -/
def liveFormats (u : UnitSt) (i : Issued) : Issued :=
  let entry (n : BitVec 6) : Desc := tget 0 u.ftab (64 * i.ctx + n.toNat)
  { i with descs := i.descs.set 0 (entry (i.fdis.getD 0 0)), wdesc := entry (bWfdi i.body) }

/-- Two descriptors give the blocks of a position the same sizes (R453). -/
def sameBlocks (d e : Desc) : Bool :=
  (dSfmt d = 0) == (dSfmt e = 0) && (dOcap d = 0) == (dOcap e = 0)
    && [0, 1, 2].all (fun k => decide (bodyBytes d k = bodyBytes e k))

/-- Status of a position held in a tile buffer as its sending begins: R97, the codebook slot and the format table entries
as they then stand, COUNT and side tile (R142, R150, R152). `d` is the descriptor under which the position was read. -/
def buildStatus (u : UnitSt) (d : Desc) (i : Issued) (p : PosRead) : Option Status :=
  match p.status with
  | some x => some x
  | none =>
    if !sameBlocks d (i.desc 1) then some .format
    else if dIsCode i.wdesc && u.files.cbBadActive.contains (dCbk i.wdesc) then some .checksum
    else if p.d.count ≠ 128 * rowsIn i.height (i.place i.pos).1 || p.o.any (fun (o : Blk) => !sideOk (i.desc 1) p.d.count o.body)
        || !pairAccepted (i.desc 1) i.wdesc then some .format
    else none

/-- The PT begins to send the entries of a position (R152); they carry the epoch fixed at issue (R199). A SKEW stops the
build: a poisoned block for every position left (R98). -/
def sendPosition (s : State) (b : Nat) (i : Issued) (p : PosRead) : State × Issued :=
  let u := s.unit b
  let pl := i.place i.pos
  let j := liveFormats u i
  let k := buildK j
  match buildStatus u (i.desc 1) j p with
  | some x =>
    let n := if x = .skew then i.total - i.pos else 1
    let i1 := i.fail x i.pos
    (poisonRest s b j n, { i1 with pos := i.pos + n, stopAs := if x = .skew then some i1.endStatus else none })
  | none =>
    let vs := (List.range (2 ^ k)).map (weightValue u j.wdesc)
    let es := (tableInputs j (rowsIn i.height pl.1) pl.2 p).map (tableEntries vs)
    let n (c : Counted) : BitVec 32 := satOf 32 (es.filter (fun x => decide (x.2 = c))).length
    (s.onUnit b (fun u => { u with
        feed := u.feed ++ tableBeats k i.epoch i.ctx p.d.tag p.d.tensor (es.map Prod.fst)
        feedOwner := some (i.queue, i.slot) }),
     { i with
        pos := i.pos + 1
        outs := [{ field := 1, count := p.d.count, good := some { body := [], sum := some {
          counts := { nan := n .nan, clip := n .clip, flush := n .flush }, amax := 0, capmax := 0, norm := 0, nonfin := false } } }] })

/-- The PT has a tile buffer free and positions left to read; a SKEW read ends the reading (R98, R152). -/
def buildReads (u : UnitSt) (i : Issued) : Bool :=
  decide (i.reads.length + (if u.feed.isEmpty then 0 else 1) < 2) && decide (i.pos + i.reads.length < i.total)
    && i.reads.all (fun x => decide (x.2.status ≠ some .skew))

/-- The build waits: the array has not taken the block being sent, and no position can be read (R94, R152). -/
def buildWaits (s : State) (b : Nat) (i : Issued) : Bool :=
  let u := s.unit b
  !(u.feed.isEmpty && !i.reads.isEmpty) && !(buildReads u i && !fieldEmpty s i 1)

/-- The oldest position held sent. -/
def sendHeld (s : State) (b : Nat) (i : Issued) : State × Issued :=
  match i.reads with
  | [] => (s, i)
  | x :: xs => sendPosition s b { i with reads := xs } x.2

/-- One step of a TABLE BUILD: the entries of a position held sent when the feed is empty, else a position read into a free
tile buffer, and sent at once when the feed is empty (R152). -/
def buildUnit (s : State) (b : Nat) (i : Issued) : State × Issued :=
  if (s.unit b).feed.isEmpty && !i.reads.isEmpty then sendHeld s b i
  else
    let n := i.pos + i.reads.length
    let p := readPosition s i 1 []
    let s1 := advanceRead (positionEvents s b i 1 p n) i 1
    let s2 := if p.status = some .skew then haltField s1 i 1 .skew else s1
    let i1 := { i with reads := i.reads ++ [((1, n), p)] }
    if (s2.unit b).feed.isEmpty then sendHeld s2 b i1 else (s2, i1)

/-- Up to `steps` steps of a TABLE BUILD. It completes when its last beat has left. -/
def buildRun (b : Nat) : Nat → State → Issued → State × Issued
  | 0, s, i => (s, i)
  | k + 1, s, i0 =>
    let i := settleBlock (s.unit b) i0
    if feedOwned (s.unit b) i && (i.stopAs.isSome || decide (i.total ≤ i.pos)) then (s, i)
    else if i.stopAs.isSome || decide (i.total ≤ i.pos) then (s, { i with finished := some (i.stopAs.getD i.endStatus) })
    else if buildWaits s b i then (s, i)
    else
      let r := buildUnit s b i
      buildRun b k r.1 r.2

/-- The feed of a build that is stopped: the held beat leaves, and inside a block one further beat with LAST and POISON
follows it (R155). -/
def stopFeed (feed : List Beat) : List Beat :=
  match feed with
  | [] => []
  | x :: _ => if bitAt x.control 1 then [x] else [x, ⟨(x.control ||| 6#96) &&& ~~~1#96, List.replicate 1024 0⟩]

/-- A TABLE BUILD stops: on a TIMEOUT (`rest`) the block being sent leaves whole and every position left gives a poisoned
block (R95); on an abort the block is ended (R155, R331). -/
def buildStop (rest : Bool) (s : State) (b : Nat) (i0 : Issued) (st : Status) : State × Issued :=
  let u := s.unit b
  let i := settleBlock u i0
  let own := feedOwned u i
  let cut := own && !rest && (u.feed.head?.any (fun x => !bitAt x.control 1))
  let s1 := if own && !rest then s.onUnit b (fun v => { v with feed := stopFeed v.feed }) else s
  let s2 := if rest then poisonRest s1 b i (i.total - i.pos) else s1
  let i1 := { i.stopping st with pos := if rest then i.total else i.pos, outs := if cut then [] else i.outs }
  (s2, if feedOwned (s2.unit b) i1 then i1 else { i1 with finished := i1.stopAs })

/-- FORMAT rules of TABLE BUILD (R150). -/
def buildFormat (s : State) (o : Offer) : Bool :=
  pairAccepted (o.desc 1) (unitFormat s o.b o.ctx (bWfdi o.body))

/-- Grants of TABLE BUILD (R45). -/
def buildGranted (s : State) (o : Offer) : Bool :=
  let w := unitFormat s o.b o.ctx (bWfdi o.body)
  !dIsCode w || inRange (gBooks (s.grant o.ctx)) (dCbk w)

/-- FEED_BEAT: the array took the beat that the PT holds (R155). -/
def execFeedBeat (bib : Bib) (s : State) : Host.Outcome State Fault Refusal :=
  let u := s.unit bib.toNat
  live s (match kindOf bib.toNat, u.feed with
    | some .pt, x :: xs => (s.emit (.beat bib x.control x.lanes)).setUnit bib.toNat { u with feed := xs }
    | _, _ => s)

/-! ### The last-use handshake -/

/-- A LASTUSE message is well formed (R167). -/
def lastuseOk (m : BitVec 128) : Bool :=
  decide (bitsAt m 0 8 = 1) && decide (bitsAt m 24 8 = 0) && decide (bitsAt m 56 8 = 0) && decide (bitsAt m 112 16 = 0)
    && decide (bitsAt m 16 8 ≠ 0)

/-- LASTUSE: MG takes a message of the accumulator buffer (R168). RELEASED is what MG sends itself: one that comes to MG is
malformed (log entry 53(d)). -/
def execLastuse (msg : BitVec 128) (s : State) : Host.Outcome State Fault Refusal :=
  let q := (bitsAt msg 8 8).toNat
  let e := s.lastUse q
  live s (
    if !lastuseOk msg then s.malformed 0 1 (bitsAt msg 0 32) 0
    else if decide (e.st = 0) && decide (bitsAt msg 64 48 = s.pace.lap) && decide (bitsAt msg 32 24 = e.tensor) then
      s.setLastUse q { e with st := 1, uses := bitsAt msg 16 8, laplo := bitsAt msg 64 32 }
    else s.post 0 0 .lastuseDiscard (if e.tied then some e.ctx.toNat else none) (wordOf 32 (q + 256 * e.st.toNat))
      (bitsAt msg 64 32) ((bitsAt msg 32 24).setWidth 32))

/-- The RELEASED message of a region (R167). -/
def releasedMsg (q : Nat) (tensor : BitVec 24) (lap : BitVec 48) : BitVec 128 :=
  2#128 ||| (wordOf 128 q <<< 8) ||| (tensor.setWidth 128 <<< 32) ||| (lap.setWidth 128 <<< 64)

/-- A CONVERT that read a marked tied region completed with OK (R168). -/
def releaseRegion (s : State) (i : Issued) (st : Status) : State :=
  let q := bRegion i.body
  let e := s.lastUse q
  if i.op.isConv && bRgv i.body && e.tied && decide (e.st = 1) && decide (st = .ok) then
    (s.setLastUse q { e with st := 2 }).emit (.buffer (releasedMsg q e.tensor s.pace.lap))
  else s

/-- The last-use table at a lap-end boundary or at the start of a re-run (R168). -/
def resetLastUse (t : Tab LastUse) : Tab LastUse :=
  (t.map (fun p => (p.1, { p.2 with st := 0, uses := 0, laplo := 0 }))).filter (fun p => decide (p.2 ≠ ({} : LastUse)))

end Sys2Proof.Machine
end

