-- ==== Sys2Proof/Machine/Loads.lean ====
section
/-!
DEFINITION. The TABLE loads: codebook slots (R46 to R48), channel-scale-file and rescale-table entries (R120 to R122),
element programs (R243), and what happens to the copies at a lap boundary.
-/

namespace Sys2Proof.Machine

/-- A number read as `n` words of `w` bytes from bytes. -/
def wordsOf (w n : Nat) (bs : List Byte) : List Nat := (chunksOf w n bs).map leNat

/-- Entries of a table set from a list, from entry a on. -/
def tsetAll {α : Type} [DecidableEq α] (d : α) (t : Tab α) (a : Nat) : List α → Tab α
  | [] => t
  | v :: vs => tsetAll d (tset d t a v) (a + 1) vs

/-- The entries a to a + n - 1 taken out of a list of entry numbers. -/
def withoutRange (l : List Nat) (a n : Nat) : List Nat := l.filter (fun e => decide (e < a) || decide (a + n ≤ e))

/-- The entries a to a + n - 1 added to a list of entry numbers. -/
def withRange (l : List Nat) (a n : Nat) : List Nat := withoutRange l a n ++ (List.range n).map (· + a)

/-- Source bytes of a load as they stand. -/
def loadSource (s : State) (i : Issued) : List Byte := s.readSpad (bSrc i.body) (loadBytes i.op i.body)

/-- The source of a load passes the checks that complete it with FORMAT (R42, R117, R118, R120, R243). -/
def loadSourceOk (i : Issued) (bs : List Byte) : Bool :=
  match i.op with
  | .tableCodebook => (wordsOf 2 16 bs).all (fun e => (bf16.decode e).isFin)
  | .tableChannel => (wordsOf 4 (bCount i.body) bs).all (fun e =>
      (scaleVal 2 (e % 65536)).isSome && decide (e / 2 ^ 25 = 0))
  | .tableRescale => (wordsOf 4 (2 * bCount i.body) bs).all (fun e => (f32.decode e).isFin)
  | .tableProgram => programOk (wordLE 1024 bs)
  | _ => true

/-- Slot of a codebook load. -/
def bSlot (b : BitVec 128) : Nat := (bitsAt b 0 6).toNat

/-- A codebook load written (R46, R48). -/
def Files.loadBook (f : Files) (imm : Bool) (slot : Nat) (w : BitVec 256) : Files :=
  let st := { f with cbStaged := tset 0 f.cbStaged slot w, cbBadStaged := f.cbBadStaged.filter (· ≠ slot) }
  if imm then { st with cbActive := tset 0 f.cbActive slot w, cbBadActive := f.cbBadActive.filter (· ≠ slot) } else st

/-- Entries that LAP loads wrote in an earlier cycle than `now` wait for the next lap boundary like all others. -/
def Files.settleFresh (f : Files) (now : Nat) : Files :=
  if f.freshAt = now then f
  else { f with chWritten := f.chWritten ++ f.chFresh, rtWritten := f.rtWritten ++ f.rtFresh
                chFresh := [], rtFresh := [], freshAt := now }

/-- A channel load that completes in cycle `now` written (R120 to R122). -/
def Files.loadChannel (f0 : Files) (now : Nat) (imm : Bool) (a : Nat) (ws : List (BitVec 32)) : Files :=
  let n := ws.length
  let f := f0.settleFresh now
  let nx := { f with chNext := tsetAll 0x3F80 f.chNext a ws, chBadNext := withoutRange f.chBadNext a n
                     chWritten := withoutRange f.chWritten a n, chFresh := withRange f.chFresh a n }
  if imm then { nx with chActive := tsetAll 0x3F80 f.chActive a ws, chBadActive := withoutRange f.chBadActive a n }
  else nx

/-- A rescale load that completes in cycle `now` written. -/
def Files.loadRescale (f0 : Files) (now : Nat) (imm : Bool) (a : Nat) (ws : List (BitVec 64)) : Files :=
  let n := ws.length
  let f := f0.settleFresh now
  let nx := { f with rtNext := tsetAll 0x3F800000 f.rtNext a ws, rtBadNext := withoutRange f.rtBadNext a n
                     rtWritten := withoutRange f.rtWritten a n, rtFresh := withRange f.rtFresh a n }
  if imm then { nx with rtActive := tsetAll 0x3F800000 f.rtActive a ws, rtBadActive := withoutRange f.rtBadActive a n }
  else nx

/-- Entries of a copy made active: those written since the last boundary whose next copy is good. -/
def activate {α : Type} [DecidableEq α] (d : α) (next active : Tab α) (written bad : List Nat) : Tab α :=
  (written.filter (fun e => !bad.contains e)).foldl (fun t e => tset d t e (tget d next e)) active

/-- The step of both files at a lap boundary in cycle `now` (R121, R122). -/
def Files.boundary (f0 : Files) (now : Nat) : Files :=
  let f := f0.settleFresh now
  let live (w bad : List Nat) : List Nat := w.filter (fun e => !bad.contains e)
  { f with
    chActive := activate 0x3F80 f.chNext f.chActive f.chWritten f.chBadNext
    chBadActive := f.chBadActive.filter (fun e => !(live f.chWritten f.chBadNext).contains e)
    chWritten := f.chWritten.filter (fun e => f.chBadNext.contains e)
    rtActive := activate 0x3F800000 f.rtNext f.rtActive f.rtWritten f.rtBadNext
    rtBadActive := f.rtBadActive.filter (fun e => !(live f.rtWritten f.rtBadNext).contains e)
    rtWritten := f.rtWritten.filter (fun e => f.rtBadNext.contains e) }

/-- Adoption of a value over a range: SCALE of every entry whose PIN is 0 (R121). -/
def Files.adopt (f : Files) (a n : Nat) (v : BitVec 16) : Files :=
  { f with chActive := (List.range n).foldl (fun t e =>
      let w := tget 0x3F80 t (a + e)
      if bitAt w 24 then t else tset 0x3F80 t (a + e) (putBits w 0 v)) f.chActive }

/-- The codebook slots that an acknowledgement fixes are made active at a commit (R46 to R48). -/
def Files.commitBooks (f : Files) : Files :=
  match f.cbFixed with
  | none => f
  | some (t, bad) =>
    let good := (List.range 64).filter (fun e => !bad.contains e)
    { f with cbActive := good.foldl (fun (a : Tab (BitVec 256)) e => tset 0 a e (tget 0 t e)) f.cbActive
             cbBadActive := f.cbBadActive.filter (fun e => bad.contains e), cbFixed := none }

/-- An instruction reads codebook slot n. -/
def readsBook (j : Issued) (n : Nat) : Bool :=
  let names (d : Desc) : Bool := dIsCode d && decide (dCbk d = n)
  ((j.op.isConv || j.op == .stats || j.op == .tableBuild) && [1, 2].any (fun m => names (j.desc m)))
    || (j.op == .tableBuild && names j.wdesc)

/-- An instruction reads a channel entry from a on, of n. -/
def readsChannels (j : Issued) (a n : Nat) : Bool :=
  let meet (x k : Nat) : Bool := rangesMeet (x, k) (a, n)
  let c1 := channelScaled (j.desc 1) (j.field 1)
  let c2 := channelScaled (j.desc 2) (j.field 2)
  if j.op == .stats then c1 && meet (bCb0 j.body) j.height
  else if j.op == .convRescale then
    ((bEnr j.body || bEnz j.body) && meet (bCb0 j.body) j.height) || (bEnz j.body && meet (bCb1 j.body) j.len)
      || (c2 && meet (bDcb j.body) j.height)
  else j.op.isConv && ((c1 && meet (bCb0 j.body) j.height)
    || (c2 && meet (bCb1 j.body) (if j.op == .convTranspose then j.len else j.height)))

/-- The instruction runs program k of context c, in either stage (R349). -/
def namesProgram (j : Issued) (c k : Nat) : Bool :=
  (j.op == .element || j.op == .reduce || j.op == .sliceProgram) && decide (j.ctx = c)
    && ((bPv j.body && decide (bProg j.body = k)) || decide (j.second.map BitVec.toNat = some k))

/-- Instructions preempted on unit b, by the queues bound to it (R325). -/
def parkedOn (s : State) (b : Nat) : List Issued :=
  (s.tables.queues.filter (fun q => decide (q.2.bib.toNat = b))).filterMap (fun q => q.2.parked)

/-- An earlier instruction of the unit, issued or preempted and not yet completed, reads the entries that an IMMEDIATE load writes (R46, R120),
or an earlier one on any unit names the program that a program load writes (R243). -/
def loadWaits (s : State) (b : Nat) (i : Issued) : Bool :=
  let earlier := ((s.unit b).issued ++ parkedOn s b).filter (fun j => j.active && decide (j.serial < i.serial))
  let imm := loadImmediate i.op i.body
  match i.op with
  | .tableCodebook => imm && earlier.any (fun j => readsBook j (bSlot i.body))
  | .tableChannel => imm && earlier.any (fun j => readsChannels j (bFirst i.body) (bCount i.body))
  | .tableRescale => imm && earlier.any (fun j =>
      j.op == .convRescale && rangesMeet (bRsb j.body, j.len) (bFirst i.body, bCount i.body))
  | .tableProgram =>
    let blocks (j : Issued) : Bool := j.active && decide (j.serial < i.serial) && namesProgram j i.ctx (bProg i.body)
    s.units.any (fun u => u.2.issued.any blocks) || s.tables.queues.any (fun q => q.2.parked.any blocks)
  | _ => false

/-- Entries of a converter's file written from the source bytes not yet written. A LAP load writes all of them in the step in
which it completes, the cycle that R121 judges; an IMMEDIATE load writes them as they arrive, 512 bytes a step, so that a lap
boundary may find it part written (R121, R460; log entry 53(h)). -/
def loadEntries (s : State) (b : Nat) (i : Issued) (bs : List Byte) : State × Issued :=
  let imm := loadImmediate i.op i.body
  let w := if i.op == .tableChannel then 4 else 8
  let n := if imm then min 512 bs.length else bs.length
  let a := bFirst i.body + (bCount i.body - bs.length / w)
  let ws := wordsOf w (n / w) bs
  let write (f : Files) : Files :=
    if i.op == .tableChannel then f.loadChannel s.now imm a (ws.map (wordOf 32)) else f.loadRescale s.now imm a (ws.map (wordOf 64))
  (s.onUnit b (fun u => { u with files := write u.files }),
   { i with loaded := bs.drop n, finished := if bs.length ≤ n then some .ok else none })

/-- A load carried out: it waits for the earlier readers, checks its whole source and then writes (R46, R120, R243, R460). -/
def loadRun (b : Nat) (s : State) (i : Issued) : State × Issued :=
  let bs := loadSource s i
  let imm := loadImmediate i.op i.body
  if i.loaded ≠ [] then loadEntries s b i i.loaded
  else if loadWaits s b i then (s, i)
  else if !loadSourceOk i bs then (s, { i with finished := some .format })
  else
    let done := { i with finished := some .ok }
    match i.op with
    | .tableCodebook =>
      (s.onUnit b (fun u => { u with files := u.files.loadBook imm (bSlot i.body) (wordLE 256 bs) }), done)
    | .tableChannel | .tableRescale => loadEntries s b i bs
    | .tableProgram =>
      let k := bProg i.body
      (discardProgram (s.writeSpad (s.programAt i.ctx k) bs) i.ctx k, done)
    | _ => (s, i)

/-- Grants of a load (R45, R119, R298). -/
def loadGranted (s : State) (o : Offer) : Bool :=
  let g := s.grant o.ctx
  let b := o.body
  spanIn (gSpad g) (bSrc b) (loadBytes o.op b)
    && (match o.op with
        | .tableCodebook => inRange (gBooks g) (bSlot b)
        | .tableChannel => spanIn (gChannels g) (bFirst b) (bCount b)
        | .tableRescale => spanIn (gRescales g) (bFirst b) (bCount b)
        | _ => true)

/-- State rules of a load: IMMEDIATE only in phase IDLE (R306, R195). -/
def loadReady (s : State) (o : Offer) : Bool :=
  o.op == .tableProgram || !loadImmediate o.op o.body || decide (s.pace.phase = 0)

end Sys2Proof.Machine
end

