-- ==== Sys2Proof/Machine/Records.lean ====
section
/-!
DEFINITION. Messages of the slice link and the fabric (R361, R365), the rings of a queue (R315, R317), summaries (R259)
and completion records (R310, R311), and what a completion does to its queue (R320, R321), its entries and trackers.
-/

namespace Sys2Proof.Machine

/-! ### Messages (R361) -/

/-- 32-bit word i of a message. -/
def msgWord (m : List Byte) (i : Nat) : BitVec 32 := wordLE 32 ((m.drop (4 * i)).take 4)

/-- What follows the first chunk. -/
def msgRest (m : List Byte) : List Byte := m.drop 16

/-- A message of one type with the chunk count of the type and no reserved bit set; the masks name the used bits of
its words. -/
def linkMsgOk (m : List Byte) (mtype chunks : Nat) (m1 m2 m3 : BitVec 32) : Bool :=
  decide (m.length = 16 * chunks) && decide (msgWord m 0 = wordOf 32 (mtype + 256 * (chunks - 1)))
    && decide (msgWord m 1 &&& ~~~m1 = 0) && decide (msgWord m 2 &&& ~~~m2 = 0) && decide (msgWord m 3 &&& ~~~m3 = 0)

/-- A status code of R308; the others are reserved. -/
def statusKnown (c : BitVec 8) : Bool := decide (c.toNat ≤ 0x0D)

/-- A COMPL whose record holds no reserved bit and no reserved STATUS (R16, R310, R361). -/
def complOk (m : List Byte) : Bool :=
  linkMsgOk m 0x11 4 0x3FFF 0 0 && decide (bitsAt (msgWord m 15) 1 31 = 0) && statusKnown (bitsAt (msgWord m 4) 24 8)

/-- A SUMM whose slot holds no reserved bit, STATUS or KIND (R16, R259, R361). -/
def summOk (m : List Byte) : Bool :=
  let w := msgWord m 6
  linkMsgOk m 0x12 2 0x00FF03FF 0 0 && decide (bitsAt w 22 10 = 0) && statusKnown (bitsAt w 0 8)
    && decide (bitsAt w 8 8 ≠ 0) && decide ((bitsAt w 8 8).toNat ≤ 5)

/-- A MGMTR with a status of R308 (R16, R361). -/
def mgmtrOk (m : List Byte) : Bool :=
  linkMsgOk m 0x1B 1 0xFF0000FF 0xFFFFFFFF 0xFFFFFFFF && statusKnown (bitsAt (msgWord m 1) 0 8)

/-- A message of the slice link or fabric that its receiver discards (R361, R425): interface 3. -/
def badMsg (s : State) (receiver sender : Nat) (m : List Byte) : State := s.malformed receiver 3 (msgWord m 0) sender

/-! ### What is visible (R317) -/

/-- The instruction at slot counter c of a queue is wholly visible (R317). -/
def visibleAt (s : State) (q : Queue) (c : BitVec 16) : Bool :=
  let n := (q.tail - c).toNat
  decide (0 < n) && decide (1 + hNslot (ringSlot s q c) ≤ n)

/-- The next instruction of a queue is wholly visible. -/
def nextVisible (s : State) (q : Queue) : Bool := visibleAt s q q.next

/-- The completion ring has room for one record beyond those owed (R317). -/
def ringRoom (q : Queue) : Bool :=
  decide ((q.ctail + wordOf 16 (q.owed + 1) - q.chead).toNat ≤ 2 ^ (q.csize.toNat + 4))

/-! ### Summaries (R259) -/

/-- The 16 bytes of a mailbox slot. -/
def summaryBytes (value : BitVec 64) (status : Status) (kind : BitVec 8) (flags : BitVec 6) (seq queue : BitVec 16) :
    List Byte :=
  bytesLE 8 value ++ [status.byte, kind, flags.setWidth 8, 0] ++ bytesLE 2 seq ++ bytesLE 2 queue

/-- A slot of a mailbox written, its SEQ one more than before. -/
def writeSlot (s : State) (ctx slot : Nat) (bs : List Byte) : State :=
  let k := 256 * ctx + slot
  let seq := tget 0 s.tables.sumSeq k + 1
  { s with mem := writeBytes s.mem (spadKey ((s.context ctx).sumbase.toNat + 16 * slot))
             (bs.take 12 ++ bytesLE 2 seq ++ bs.drop 14)
           tables := { s.tables with sumSeq := tset 0 s.tables.sumSeq k seq } }

/-- KIND that a class posts (R260, R299, R390). -/
def kindPosted (i : Issued) : BitVec 8 :=
  match i.op with
  | .reduce => reduceKind i
  | .stats => 1
  | .sample => 3
  | _ => 5

/-- The instruction posts a summary when it completes. -/
def Issued.postsSummary (i : Issued) : Bool := (hSumv i.head || i.op.isScale) && !i.mute

/-- What the instruction's summary says (R259, R305, R331). -/
def summaryOf (s : State) (i : Issued) (st : Status) : List Byte :=
  let q := wordOf 16 i.queue
  let plain (x : Status) : List Byte := summaryBytes 0 x (kindPosted i) 0 0 q
  let perm : BitVec 6 := if (s.context i.ctx).permr then 32 else 0
  if i.atIssue then plain st
  else if st = .aborted then
    summaryBytes 0 .aborted (kindPosted i) (i.summary.elim 0 Summary.flags ||| perm) 0 q
  else
    match i.summary with
    | some x => summaryBytes x.value (x.status.getD st) x.kind (x.flags ||| perm) 0 q
    | none => summaryBytes 0 st (kindPosted i) perm 0 q

/-- The summary of an instruction posted, or sent to MG by a far unit (R259, R355). -/
def postSummary (s : State) (b : Nat) (i : Issued) (st : Status) : State :=
  if i.postsSummary then
    let bs := summaryOf s i st
    if isFar b then
      sendMsg s false b (linkMsg 0x12 (wordOf 32 (i.ctx + 65536 * hSumslot i.head)) 0 0 bs)
    else writeSlot s i.ctx (hSumslot i.head) bs
  else s

/-! ### Completion records (R310) -/

/-- The twelve words of a record; SEQ is put in where the record is written. -/
def recordBytes (h : SlotWord) (b : Nat) (st : Status) (pos done : BitVec 32) (c : Counts) (lap : BitVec 48) (par : Bool) :
    List Byte :=
  let w0 : BitVec 32 := (hId h).setWidth 32 ||| ((hOpcode h).setWidth 32 <<< 16) ||| (st.byte.setWidth 32 <<< 24)
  let w1 : BitVec 32 := ((hForm h).setWidth 32 <<< 16) ||| (wordOf 32 b <<< 20)
  [w0, w1, pos, done, c.nan, c.clip, c.flush, c.ovfl, c.flagged, c.otiles, bitsAt lap 0 32, (bit par).setWidth 32].flatMap
    (bytesLE 4)

/-- Tracker of a tracked entry. -/
def tkOfEntry (n : Nat) : Nat := firstBib .tk + n / 4096
/-- Tracker of a norm watch. -/
def tkOfWatch (w : Nat) : Nat := firstBib .tk + w / 1024
/-- Tracker of a stream entry. -/
def tkOfStream (n : Nat) : Nat := firstBib .tk + n / 16384

/-- INDEX and ITEM of a SUMMARY. -/
def sumIndex (b : BitVec 128) : Nat := (bitsAt b 0 16).toNat
/-- ITEM of a SUMMARY. -/
def sumItem (b : BitVec 128) : Nat := (bitsAt b 16 4).toNat

/-- Tracker that holds what a SUMMARY names (R299). -/
def summaryHolder (b : BitVec 128) : Nat :=
  if sumItem b ≤ 3 then tkOfEntry (sumIndex b) else if sumItem b ≤ 5 then tkOfWatch (sumIndex b) else tkOfStream (sumIndex b)

/-- Executing tracker of a SCALE or SUMMARY (R313). -/
def executor (i : Issued) : Nat := if i.op == .summary then summaryHolder i.body else tkOfEntry (hTrk i.head)

/-- BIB of a record: the unit that executed the instruction (R310, R313). -/
def recordBib (b : Nat) (i : Issued) : Nat := if !i.atIssue && (i.op.isScale || i.op == .summary) then executor i else b

/-- The record of an instruction on unit b that completed in run parity `par`. -/
def recordOf (b : Nat) (i : Issued) (st : Status) (par : Bool) : List Byte :=
  if i.atIssue then recordBytes i.head b st 0xFFFFFFFF 0 {} i.lap par
  else
    recordBytes i.head (recordBib b i) st (i.failed.elim 0xFFFFFFFF (fun p => wordOf 32 p.2)) (wordOf 32 i.done) i.counts i.lap par

/-- Every queue of a context satisfies `p`. -/
def queuesAll (s : State) (c : Nat) (p : Queue → Bool) : Bool :=
  s.tables.queues.all (fun x => !inRange (gQueues (s.grant c)) x.1 || p x.2)

/-- CSTATE follows the context's queues (R323). A SUSPENDED context whose queue runs again is ACTIVE, and SUSPENDING while
one closes (DEDUCED: log entry 35). -/
def settleContext (s : State) (c : Nat) : State :=
  let x := s.context c
  let rest := queuesAll s c (fun q => q.st == .suspended || q.st == .halted || q.st == .off)
  if x.cstate = 1 && rest then s.setContext c { x with cstate := 2 }
  else if x.cstate = 2 && !rest then
    s.setContext c (if queuesAll s c (fun q => q.st != .run) then { x with cstate := 1 } else { x with cstate := 0, force := false })
  else if x.cstate = 3 && queuesAll s c (fun q => q.st == .off) then s.setContext c { x with cstate := 0 }
  else s

/-- CSTATE of the context that owns a queue settled. -/
def settleOwner (s : State) (q : Nat) : State :=
  match s.ownerOf q with
  | some c => settleContext s c
  | none => s

/-- A SUSPENDING queue with nothing issued becomes SUSPENDED (R321). -/
def settleQueue (s : State) (q : Nat) : State :=
  let x := s.queue q
  settleOwner (if x.st = .suspending && decide (x.owed = 0) then s.setQueue q { x with st := .suspended } else s) q

/-- A halting completion on a running queue with HALTE 1 (R320). -/
def haltQueue (s : State) (q : Nat) (st : Status) : State :=
  let x := s.queue q
  if st.halting && x.halte && (x.st == .run) then s.setQueue q { x with st := .halted, hstat := st.byte } else s

/-- A record written into its queue's ring (R310, R311, R315). -/
def writeRecord (s : State) (q : Nat) (bs : List Byte) (n : Nat) : State :=
  let x := s.queue q
  let seq := x.seq + 1
  let a := x.cbase.toNat + 48 * (x.ctail.toNat % 2 ^ (x.csize.toNat + 4))
  let y := { x with seq := seq, ctail := x.ctail + 1, head := x.head + wordOf 16 n, owed := x.owed - 1 }
  (s.writeSpad a (bs.take 4 ++ bytesLE 2 seq ++ bs.drop 6)).setQueue q y

/-- The record of an instruction written, or sent to MG by a far unit (R355). -/
def postRecord (s : State) (b : Nat) (i : Issued) (st : Status) (par : Bool) : State :=
  let bs := recordOf b i st par
  if isFar b then sendMsg s false b (linkMsg 0x11 (wordOf 32 i.queue) 0 0 bs)
  else settleQueue (writeRecord s i.queue bs i.slots.length) i.queue

/-- An unissued instruction completed with CLOSED, by its unit or by MG in its place (R330). -/
def closeNext (s : State) (q : Nat) : State :=
  let x := s.queue q
  let sl := ringInstr s x x.next
  let l := s.lapOf x.bib.toNat
  let bs := recordBytes (headOf sl) x.bib.toNat .closed 0xFFFFFFFF 0 {} l.1 l.2
  let s1 := s.setQueue q { x with next := x.next + wordOf 16 sl.length, owed := x.owed + 1 }
  let c := (s.ownerOf q).getD 0
  let h := headOf sl
  let posts := match opIn sl with
    | some o => (hSumv h || o.isScale) && s.mailboxOk c
    | none => false
  let kind := kindPosted
    { queue := q, slot := 0, slots := sl, ctx := c, epoch := 0, descs := [], fdis := [], seed := 0, lap := 0, bci := 0 }
  let s2 := if posts then writeSlot s1 c (hSumslot h) (summaryBytes 0 .closed kind 0 0 (wordOf 16 q)) else s1
  writeRecord s2 q bs sl.length

/-- The unit can act for a queue's instructions: it holds its bib and is not fenced for a fault (R333). -/
def unitActs (s : State) (b : Nat) : Bool :=
  let h := (s.unit b).health
  (s.unit b).held && !h.resetting && !(h.fenced && !h.epochFence)

/-- The unit's issue hold around an LB (R200). -/
def heldBack (s : State) (b : Nat) : Bool :=
  if isFar b then (s.unit b).farStopped else batonKind b && s.pace.hold

/-- The queue's unit, in its issue hold, does not complete the queue's visible instructions with CLOSED yet (R304); MG, in
the place of a unit that does not act, does. -/
def closeHeld (s : State) (x : Queue) : Bool :=
  heldBack s x.bib.toNat && unitActs s x.bib.toNat && nextVisible s x && ringRoom x

/-- Visible unissued instructions of a CLOSING queue with nothing issued completed with CLOSED while the ring has room
(R330 step 1). -/
def closeVisible : Nat → State → Nat → State
  | 0, s, _ => s
  | n + 1, s, q =>
    let x := s.queue q
    if x.st = .closing && decide (x.owed = 0) && !x.pre && nextVisible s x && ringRoom x && !closeHeld s x then
      closeVisible n (closeNext s q) q
    else s

/-- R330 step 1 for one queue; a ring holds at most 2^15 slots. -/
def closeUnissued (s : State) (q : Nat) : State := closeVisible 32768 s q

/-- The CLOSING queues of the units of `p` are answered, where a hold or a fence has changed (R304, R330). -/
def answerClosing (s : State) (p : Nat → Bool) : State :=
  s.each (s.tables.queues.filter (fun x => x.2.st == .closing && p x.2.bib.toNat)) (fun t x => closeUnissued t x.1)

/-- Instructions of a queue that a far unit has received and not issued go back to the queue (R304, R355): it issues
nothing more for now. -/
def recallInbox (s : State) (q : Nat) : State :=
  let b := (s.queue q).bib.toNat
  let mine := (s.unit b).inbox.filter (fun a => decide (a.queue = q))
  match mine with
  | [] => s
  | a :: _ =>
    (s.onUnit b (fun u => { u with inbox := u.inbox.filter (fun x => decide (x.queue ≠ q)) })).onQueue q (fun x =>
      { x with next := a.slot, owed := x.owed - mine.length })

/-! ### Reports and partials (R173, R187) -/

/-- The stamp of R173. -/
def stampOf (s : State) (b : Nat) : BitVec 8 × Bool :=
  let l := s.lapOf b
  (bitsAt l.1 0 8, l.2)

/-- The STATS message of a report (R362). -/
def statsMsg (r : Report) : List Byte :=
  let d := r.data
  linkMsg 0x13 (r.entry.setWidth 32 ||| (r.lap8.setWidth 32 <<< 16) ||| ((bit r.par).setWidth 32 <<< 24))
    (d.amax.setWidth 32 ||| (d.capmax.setWidth 32 <<< 16)) 0
    ([d.nan, d.clip, d.flush, d.overflow, d.flagged, d.otiles, 0, 0].flatMap (bytesLE 4))

/-- The NORM message of a partial (R362); it has no field for a close flag, which MG takes from the completion. -/
def normMsg (p : Partial) : List Byte :=
  linkMsg 0x14 (p.watch.setWidth 32 ||| ((bit p.nonfin).setWidth 32 <<< 12) ||| ((bit p.satur).setWidth 32 <<< 13)
    ||| (p.lap8.setWidth 32 <<< 16) ||| ((bit p.par).setWidth 32 <<< 24)) 0 0
    (leBytes 40 p.sum ++ List.replicate 8 0)

/-- A report on its way to its tracker: over the compute die, or as a message of a slice. -/
def sendReport (s : State) (b : Nat) (r : Report) : State :=
  if isFar b then sendMsg s false b (statsMsg r)
  else { s with trackers := { s.trackers with reports := s.trackers.reports ++ [r] } }

/-- A partial on its way to its watch. -/
def sendPartial (s : State) (b : Nat) (p : Partial) : State :=
  if isFar b then sendMsg s false b (normMsg p)
  else { s with trackers := { s.trackers with partials := s.trackers.partials ++ [p] } }

/-- The unit's kind sends reports (R173). -/
def reportsFrom (b : Nat) : Bool := match kindOf b with
  | some .cv | some .se | some .sl => true
  | _ => false

/-- A far unit's completion that closes a watch, noted for its COMPL (R189; log entry 20). -/
def noteClose (s : State) (b : Nat) (i : Issued) (stamp : BitVec 8 × Bool) : State :=
  let key := (i.queue, i.slot)
  if isFar b && hWclose i.head then
    { s with trackers := { s.trackers with
      closings := s.trackers.closings.filter (fun y => decide (y.1 ≠ key)) ++ [(key, stamp)] } }
  else s

/-- Report and partial of a completing instruction (R79, R143, R173, R187); a fenced unit sends none. -/
def sendStatistics (s : State) (b : Nat) (i : Issued) (st : Status) : State :=
  if i.atIssue || !reportsFrom b || (s.unit b).health.fenced then s
  else
    let c : Counts := if st = .ok then i.counts else {}
    let stamp := stampOf s b
    let s1 := if hTen i.head then sendReport s b
        { entry := wordOf 14 (hTrk i.head), lap8 := stamp.1, par := stamp.2
          data := { amax := i.amax, capmax := i.capmax, nan := c.nan, clip := c.clip, flush := c.flush
                    overflow := c.ovfl, flagged := c.flagged, otiles := c.otiles } }
      else s
    if hWen i.head then noteClose (sendPartial s1 b
        { watch := wordOf 12 (hWatch i.head), sum := i.norm, nonfin := i.nonfin, satur := i.satur
          close := hWclose i.head, lap8 := stamp.1, par := stamp.2 }) b i stamp
    else s1

/-! ### The end of an instruction (R309 to R311) -/

/-- The unit without an instruction, and without a choice of it for preemption (R319). -/
def UnitSt.without (u : UnitSt) (i : Issued) : UnitSt :=
  { u with issued := u.issued.filter (fun j => decide (j.queue ≠ i.queue) || decide (j.slot ≠ i.slot))
           chosen := u.chosen.filter (fun c => decide (c ≠ (i.queue, i.slot))) }

/-- Instruction taken out of its unit's list, and counted (R416). -/
def dropIssued (s : State) (b : Nat) (i : Issued) : State :=
  s.onUnit b (fun u => { u.without i with instr := satAdd u.instr 1 })

/-- Entries that an instruction opened as they stood before; one that another instruction holds waits to be freed (R307). -/
def undoOpens (s : State) (i : Issued) : State :=
  s.each i.undo (fun t x => if heldElsewhere t x.1 then t.onStream x.1 (fun e => { e with st := .closing }) else t.setStream x.1 x.2)

/-- Scale blocks brought to the slice for an instruction that ends are dropped (R354). -/
def forgetScales (s : State) (i : Issued) : State :=
  if i.space = 0 then s
  else s.onUnit i.slice (fun u => { u with slice := { u.slice with
    scaleIn := u.slice.scaleIn.filter (fun x => !i.allEntries.contains x.1.1.toNat)
    scaleAsked := u.slice.scaleAsked.filter (fun x => !i.allEntries.contains x.1.1.toNat) } })

/-- What a completion brings about before its record: summary, statistics, the halt of its queue, close forms, region
(R311, R320, R292, R168). One with WRONG_STATE leaves no side effect (R307). MG halts the queue of a far unit at COMPL. -/
def endInstr (s : State) (b : Nat) (i0 : Issued) (st : Status) : State :=
  let void := decide (st = .wrongState)
  let i := if void then { i0 with atIssue := true } else i0
  let s1 := sendStatistics (postSummary (forgetScales s i) b i st) b i st
  let s2 := setIssued s1 b { i with ended := some (s.lapOf b).2 }
  let s3 := if isFar b then s2 else haltQueue s2 i.queue st
  let s4 := if void then undoOpens s3 i0
    else if i.atIssue then s3
    else if i.noClose then s3.each i.allEntries settleEntry else closeFields s3 i
  releaseRegion s4 i st

/-- The oldest issued instruction of a queue on a unit. -/
def oldestIssued (u : UnitSt) (q : Nat) : Option Issued := u.issued.find? (fun i => decide (i.queue = q))

/-- Records of a queue written in issue order, up to the first instruction that has not completed (R311). -/
def flushRecords (b q : Nat) : Nat → State → State
  | 0, s => s
  | n + 1, s =>
    match oldestIssued (s.unit b) q with
    | none => s
    | some i =>
      match i.finished, i.ended with
      | some st, some par => flushRecords b q n (dropIssued (postRecord s b i st par) b i)
      | _, _ => s

/-- An instruction completes, and the records it held back follow (R311). -/
def completeIssued (s : State) (b : Nat) (i : Issued) (st : Status) : State :=
  let t := endInstr s b i st
  closeUnissued (flushRecords b i.queue (t.unit b).issued.length t) i.queue

/-- A scale block that the instruction wrote is still on its way to MG (R311, R354). -/
def scalesOut (s : State) (b : Nat) (i : Issued) : Bool :=
  (s.unit b).slice.scaleOut.any (fun x => (i.entries true).contains x.1.1.toNat)

/-- The instructions of one queue of a tracker complete in issue order (R313). -/
def inTurn (s : State) (b : Nat) (i : Issued) : Bool :=
  decide (kindOf b ≠ some .tk)
    || ((s.unit b).issued.find? (fun j => decide (j.queue = i.queue) && j.ended.isNone)).any (fun j => decide (j.slot = i.slot))

/-- INSTRUCTION_COMPLETE: the oldest issued instruction of a queue whose work is done, and whose writes have arrived,
completes (R311). -/
def execInstructionComplete (bib : Bib) (queue : BitVec 14) (s : State) : Host.Outcome State Fault Refusal :=
  live s (match (s.unit bib.toNat).issued.find? (fun i =>
      decide (i.queue = queue.toNat) && i.finished.isSome && i.ended.isNone) with
    | some i => match i.finished with
      | some st => if scalesOut s bib.toNat i || !inTurn s bib.toNat i then s else completeIssued s bib.toNat i st
      | none => s
    | none => s)

/-! ### MG's side of far units (R355) -/

/-- Status of a code; a code that is not assigned halts as FORMAT does. -/
def statusOf (c : BitVec 8) : Status :=
  match c.toNat with
  | 0 => .ok | 1 => .empty | 2 => .wrongState | 3 => .closed | 4 => .aborted | 5 => .skew | 6 => .checksum | 7 => .poisonIn
  | 8 => .format | 9 => .permRange | 10 => .overflow | 11 => .epoch | 12 => .denied | _ => .timeout

/-- The close of a slice's instruction that sent a partial with its close flag set: MG passes it on to the watch when the
completion comes, under the stamp of the completion (R173, R189; DEDUCED: log entry 20). -/
def passClose (s : State) (q : Nat) (h : SlotWord) : State :=
  let key := (q, (s.queue q).head)
  match s.trackers.closings.find? (fun x => decide (x.1 = key)) with
  | some x => { s with trackers := { s.trackers with
      closings := s.trackers.closings.filter (fun y => decide (y.1 ≠ key))
      partials := s.trackers.partials ++ (if hWen h && hWclose h then
        [{ watch := wordOf 12 (hWatch h), sum := 0, nonfin := false, satur := false, close := true
           lap8 := x.2.1, par := x.2.2, bare := true }] else []) } }
  | none => s

/-- COMPL: MG writes the record that a far unit sent (R355, R361). -/
def execCompl (bib : Bib) (msg : List Byte) (s : State) : Host.Outcome State Fault Refusal :=
  let q := (bitsAt (msgWord msg 1) 0 14).toNat
  live s (
    if !complOk msg then badMsg s 0 bib.toNat msg
    else if (s.queue q).bib = bib && decide (0 < (s.queue q).owed) then
      let bs := msgRest msg
      let st := statusOf (bs.getD 3 0)
      let sl := ringInstr s (s.queue q) (s.queue q).head
      let s1 := if kindOf bib.toNat = some .sl then passClose s q (headOf sl) else s
      let s2 := haltQueue (writeRecord s1 q bs sl.length) q st
      let s3 := if (s2.queue q).st = .halted then recallInbox s2 q else s2
      closeUnissued (settleQueue s3 q) q
    else s)

/-- SUMM: MG writes the summary that a far unit sent; the unit judged the mailbox at issue (R259, R355, R361). -/
def execSumm (bib : Bib) (msg : List Byte) (s : State) : Host.Outcome State Fault Refusal :=
  live s (
    if !summOk msg then badMsg s 0 bib.toNat msg
    else
      let c := (bitsAt (msgWord msg 1) 0 10).toNat
      writeSlot s c (bitsAt (msgWord msg 1) 16 8).toNat (msgRest msg))

/-- STATS_MESSAGE: MG forwards a slice's report to its tracker (R362). -/
def execStatsMessage (bib : Bib) (msg : List Byte) (s : State) : Host.Outcome State Fault Refusal :=
  let w (i : Nat) : BitVec 32 := msgWord msg i
  live s (
    if !linkMsgOk msg 0x13 3 0x01FF3FFF 0xFFFFFFFF 0 || decide (w 10 ≠ 0) || decide (w 11 ≠ 0) then badMsg s 0 bib.toNat msg
    else { s with trackers := { s.trackers with reports := s.trackers.reports ++
      [{ entry := bitsAt (w 1) 0 14, lap8 := bitsAt (w 1) 16 8, par := bitAt (w 1) 24
         data := { amax := bitsAt (w 2) 0 16, capmax := bitsAt (w 2) 16 16, nan := w 4, clip := w 5, flush := w 6
                   overflow := w 7, flagged := w 8, otiles := w 9 } }] } })

/-- NORM: MG forwards a slice's partial to its watch (R362). The message has no field for a close flag. -/
def execNorm (bib : Bib) (msg : List Byte) (s : State) : Host.Outcome State Fault Refusal :=
  let w (i : Nat) : BitVec 32 := msgWord msg i
  live s (
    if !linkMsgOk msg 0x14 4 0x01FF3FFF 0 0 || decide (w 14 ≠ 0) || decide (w 15 ≠ 0) then badMsg s 0 bib.toNat msg
    else { s with trackers := { s.trackers with partials := s.trackers.partials ++
      [{ watch := bitsAt (w 1) 0 12, sum := leNat ((msgRest msg).take 40), nonfin := bitAt (w 1) 12, satur := bitAt (w 1) 13
         close := false, lap8 := bitsAt (w 1) 16 8, par := bitAt (w 1) 24 }] } })

end Sys2Proof.Machine
end

