-- ==== Sys2Proof/Machine/Fences.lean ====
section
/-!
DEFINITION. Fences (R428, R429), the completions that MG makes in a fenced unit's place (R333), unit reset (R391, R392).
-/

namespace Sys2Proof.Machine

/-- CAUSE codes of R428. -/
inductive Cause where
  | bist | kind | absent | linkFail | feature | deferred | resync | repeated | falseStart
  deriving DecidableEq, Repr

/-- Encoding of a cause. -/
def Cause.code : Cause → BitVec 8
  | .bist => 1 | .kind => 2 | .absent => 3 | .linkFail => 4 | .feature => 5 | .deferred => 6 | .resync => 7
  | .repeated => 8 | .falseStart => 9

/-- The record of an instruction of unit b written by MG in the unit's place. -/
def recordByMg (s : State) (b : Nat) (i : Issued) (st : Status) (par : Bool) : State :=
  dropIssued (writeRecord s i.queue (recordOf b i st par) i.slots.length) b i

/-- MG completes one instruction of unit b with ABORTED in the unit's place; its queue stays in its state (R333). One
that has completed and waits for older records gets its own record. -/
def abortByMg (s : State) (b : Nat) (i : Issued) : State :=
  match i.finished, i.ended with
  | some st, some par => closeUnissued (settleQueue (recordByMg s b i st par) i.queue) i.queue
  | _, _ =>
    let s1 := if i.postsSummary then
        writeSlot s i.ctx (hSumslot i.head) (summaryOf s { i with atIssue := false } .aborted)
      else s
    let s2 := haltAll s1 i .aborted
    let s3 := recordByMg s2 b { i with atIssue := false } .aborted (s.lapOf b).2
    closeUnissued (settleQueue (s3.each i.allEntries settleEntry) i.queue) i.queue

/-- A preempted instruction of a queue completed with ABORTED by MG (R333). -/
def abortParked (s : State) (q : Nat) : State :=
  let x := s.queue q
  match s.preempted q with
  | some i => abortByMg (s.setQueue q { x with
      parked := none, pre := false, next := x.head + wordOf 16 i.slots.length, owed := x.owed + 1 }) x.bib.toNat i
  | none => s

/-- Instructions that a far unit received and has not issued go back to their queues. -/
def returnInbox (s : State) (b : Nat) : State :=
  let back := (s.unit b).inbox.reverse.foldl (fun t (a : Arrived) =>
    t.onQueue a.queue (fun q => { q with next := a.slot, owed := q.owed - 1 })) s
  back.onUnit b (fun u => { u with inbox := [] })

/-- MG completes every issued and preempted instruction of a unit with ABORTED (R333). -/
def abortUnit (s : State) (b : Nat) : State :=
  let s1 := (s.unit b).issued.foldl (fun t i => abortByMg t b i) s
  let s2 := s1.tables.queues.foldl (fun t x =>
    if x.2.pre && decide (x.2.bib = wordOf 12 b) then abortParked t x.1 else t) s1
  (returnInbox s2 b).onUnit b (fun u => { u with feed := [] })

/-- Converters of a staged adoption that are unfenced. -/
def stillNeeded (s : State) (need : BitVec 64) : BitVec 64 :=
  (List.range 64).foldl (fun m c => if bitAt need c && s.serving (firstBib .cv + c) then m ||| (1#64 <<< c) else m) 0

/-- Staged adoptions complete when every unfenced converter of their set has acknowledged (R183). -/
def settleStaging (s : State) : State :=
  s.trackers.tracked.foldl (fun t x =>
    match x.2.staged with
    | some g =>
      if g.complete.isNone && decide (stillNeeded t g.need &&& ~~~g.got = 0) then
        t.setTracked x.1 { x.2 with staged := some { g with complete := some t.now } }
      else t
    | none => t) s

/-- CONFIRMING ends once every member still awaited has sent DONE with the new epoch (R211, R429). -/
def settleConfirm (s : State) : State :=
  let b := s.baton
  if b.st = .confirming && b.members.all (fun m => b.dones.contains m || !s.serving m) then
    { s with baton := { b with st := .idle, members := [], dones := [], wrongDone := [] } }
  else s

/-- A converter that is fenced owes no PMASK acknowledgement (R206). Where it was the last one awaited, the 64 cycles count
from its fence: R206 does not say when the last acknowledgement then falls (DESIGN CHOICE: log entry 46). -/
def settlePmask (s : State) : State :=
  let b := s.baton
  let w := b.pmaskWait.filter (fun c => s.serving c)
  if w = b.pmaskWait then s
  else { s with baton := { b with pmaskWait := w, pmaskLast := if w = [] then some s.now else b.pmaskLast } }

/-- A fenced unit leaves the baton: MG awaits no ACK and no DONE of it, and forgets those it sent (R429). -/
def leaveBaton (s : State) (b : Nat) : State :=
  let x := s.baton
  { s with baton := { x with
    members := x.members.filter (fun m => decide (m ≠ b)), acks := x.acks.filter (fun m => decide (m ≠ b))
    dones := x.dones.filter (fun m => decide (m ≠ b)), wrongDone := x.wrongDone.filter (fun m => decide (m.1 ≠ b)) } }

/-- A fence set, or its kind and cause changed (R428, R429). -/
def setFence (s : State) (b : Nat) (c : Cause) : State :=
  let h := (s.unit b).health
  let ep := c == .falseStart
  if h.fenced && decide (h.cause = c.code) && (h.epochFence == ep) then s
  else
    let s1 := s.post 0 b .fence none (c.code.setWidth 32) 0 0
    let f (u : UnitSt) : UnitSt :=
      let h := { u.health with fenced := true, epochFence := ep, cause := c.code, syncedAt := none, mismatches := 0 }
      { u with health := h, member := if ep then .falseStart else u.member }
    let s2 := leaveBaton (s1.onUnit b f) b
    let s3 := if ep then s2 else answerClosing (abortUnit s2 b) (fun n => n == b)
    settlePmask (settleStaging (settleConfirm s3))

/-- MG fences a unit, or changes the cause of its fence. A KIND fence stays until power-on reset, and a fault fence becomes an
EPOCH fence only where R397 or a passed self-test makes it one (`setFence`; R428, R429). -/
def fence (s : State) (b : Nat) (c : Cause) : State :=
  let h := (s.unit b).health
  if h.fenced && (decide (h.cause = Cause.kind.code) || (c == .falseStart && !h.epochFence)) then s else setFence s b c

/-- The entries of a tracker at their reset values (R90, R171, R188). -/
def resetTracker (t : Trackers) (i : Nat) : Trackers :=
  let keep (size : Nat) (n : Nat) : Bool := decide (n / size ≠ i)
  { t with
    streams := t.streams.filter (fun p => keep 16384 p.1)
    tracked := t.tracked.filter (fun p => keep 4096 p.1)
    watches := t.watches.filter (fun p => keep 1024 p.1) }

/-- A unit enters unit reset: its tables, files and instructions return to their reset values; its pacers, its bib and
all state of MG stay (R391, R392). -/
def enterReset (s : State) (b : Nat) : State :=
  let s1 := abortUnit s b
  let s2 := if kindOf b = some .tk then { s1 with trackers := resetTracker s1.trackers (indexOf b) } else s1
  s2.onUnit b (fun u =>
    { held := u.held
      health := { u.health with resetting := true, syncedAt := none }
      member := .falseStart, lastQueue := u.lastQueue, events := u.events, lossNext := u.lossNext, evArrived := u.evArrived
      evSent := u.evSent && !u.evArrived.isEmpty
      farLap := u.farLap, farPar := u.farPar, pacer0 := u.pacer0, pacer1 := u.pacer1, reseed := u.reseed
      drawnRound := u.drawnRound, drawnReal := u.drawnReal, drawnBits := u.drawnBits })

end Sys2Proof.Machine
end

