-- ==== Sys2Proof/Machine/Baton.lean ====
section
/-!
DEFINITION. The baton: its messages and digests (R210), MG's state machine (R208 to R213), the members' (R212), false
starts and resynchronisation (R214, R215), lap summaries and fallback requests (R218 to R220).
-/

namespace Sys2Proof.Machine

/-! ### Messages (R210) -/

/-- A baton message. -/
def batonMsg (type : Nat) (seq : BitVec 8) (epoch : BitVec 4) (b : Nat) (lap : BitVec 48) (rpt par : Bool)
    (val : BitVec 32) : BitVec 128 :=
  wordOf 128 type ||| (seq.setWidth 128 <<< 8) ||| (epoch.setWidth 128 <<< 16) ||| (wordOf 128 b <<< 20)
    ||| (lap.setWidth 128 <<< 32) ||| ((bit rpt).setWidth 128 <<< 80) ||| ((bit par).setWidth 128 <<< 81)
    ||| (val.setWidth 128 <<< 96)

/-- TYPE -/
def mType (m : BitVec 128) : Nat := (bitsAt m 0 8).toNat
/-- SEQ -/
def mSeq (m : BitVec 128) : BitVec 8 := bitsAt m 8 8
/-- EPOCH -/
def mEpoch (m : BitVec 128) : BitVec 4 := bitsAt m 16 4
/-- BIB -/
def mBib (m : BitVec 128) : Nat := (bitsAt m 20 12).toNat
/-- LAP -/
def mLap (m : BitVec 128) : BitVec 48 := bitsAt m 32 48
/-- RPT -/
def mRpt (m : BitVec 128) : Bool := bitAt m 80
/-- PAR -/
def mPar (m : BitVec 128) : Bool := bitAt m 81
/-- VAL -/
def mVal (m : BitVec 128) : BitVec 32 := bitsAt m 96 32

/-- The message has an assigned TYPE and no reserved bit set. -/
def batonMsgOk (m : BitVec 128) : Bool := decide (0x20 ≤ mType m) && decide (mType m ≤ 0x29) && decide (bitsAt m 82 14 = 0)

/-- A baton message sent to unit b or by it, framed on the paths of far units (R361). -/
def sendBaton (s : State) (toUnit : Bool) (b : Nat) (m : BitVec 128) : State :=
  if isFar b then sendMsg s toUnit b (linkMsg 0x18 0 0 0 (bytesLE 16 m)) else s.emit (.baton toUnit (wordOf 12 b) m)

/-- Far units that hold a bib. -/
def State.farUnits (s : State) : List Nat := allBibs.filter (fun b => isFar b && (s.unit b).held)

/-! ### Content and digests -/

/-- The fields of a layer map word that software writes. -/
abbrev layerFields : BitVec 32 := 0x01FFFFFF

/-- Committed width of a layer. -/
def widthOf (w : BitVec 32) : BitVec 2 := bitsAt w 28 2

/-- REQ of a layer. -/
def reqOf (w : BitVec 32) : Bool := bitAt w 30

/-- USED of a layer. -/
def usedOf (w : BitVec 32) : Bool := bitAt w 24

/-- Committed layer map word. -/
def State.layer (s : State) (l : Nat) : BitVec 32 := tget 0 s.tables.lmActive l

/-- A table of 32-bit words from a function of its index. -/
def tabOf (n : Nat) (f : Nat → BitVec 32) : Tab (BitVec 32) :=
  (List.range n).filterMap (fun k => if f k = 0 then none else some (k, f k))

/-- WIDTH of a layer after a baton with these width changes. -/
def widthAfter (s : State) (widths : List (Nat × BitVec 2)) (l : Nat) : BitVec 2 :=
  ((widths.find? (fun p => decide (p.1 = l))).map Prod.snd).getD (widthOf (s.layer l))

/-- The layer map that a baton with these width changes stages: the staged fields with the widths after the commit. -/
def stagedMap (s : State) (widths : List (Nat × BitVec 2)) : Tab (BitVec 32) :=
  tabOf 4096 (fun l => (tget 0 s.tables.lmStaged l &&& layerFields) ||| ((widthAfter s widths l).setWidth 32 <<< 28))

/-- The committed layer map without the bits that MG alone holds. -/
def committedMap (s : State) : Tab (BitVec 32) := tabOf 4096 (fun l => s.layer l &&& ~~~0x40000000#32)

/-- The words of a table in order. -/
def tabBytes (n : Nat) (t : Tab (BitVec 32)) : List Byte := (List.range n).flatMap (fun k => bytesLE 4 (tget 0 t k))

/-- The unit has a codebook file. -/
def hasBooks (b : Nat) : Bool := match kindOf b with
  | some .cv | some .pt => true
  | _ => false

/-- The digest of R210 over format tables, layer map and codebook slots. -/
def digestOf (b : Nat) (ft lm : Tab (BitVec 32)) (books : Tab (BitVec 256)) : BitVec 32 :=
  crc32c (tabBytes 65536 ft ++ tabBytes 4096 lm
    ++ (if hasBooks b then (List.range 64).flatMap (fun k => bytesLE 32 (tget 0 books k)) else []))

/-! ### Lap summaries and fallback requests (R218 to R220) -/

/-- Layers with REQ set. -/
def reqLayers (s : State) : List Nat := (s.tables.lmActive.filter (fun p => reqOf p.2)).map Prod.fst

/-- VALUE of a lap summary (R218). -/
def lapSummary (s : State) : BitVec 64 :=
  let n := (reqLayers s).length
  let wide := s.tables.lmActive.any (fun p => usedOf p.2 && decide (widthOf p.2 = 2))
  s.pace.lap.setWidth 64 ||| (s.baton.attempt.setWidth 64 <<< 48)
    ||| ((bit (decide (s.baton.fbudget.toNat < n))).setWidth 64 <<< 56) ||| ((bit wide).setWidth 64 <<< 57)
    ||| ((satOf 6 n).setWidth 64 <<< 58)

/-- MG posts a lap summary, where a valid profile context's mailbox is valid (R218). -/
def postLapSummary (s : State) : State :=
  match s.profileCtx with
  | some c =>
    if s.mailboxOk c then
      writeSlot s c (s.context c).lapmb.toNat
        (summaryBytes (lapSummary s) .ok 4 (if (s.context c).permr then 32 else 0) 0 0)
    else s
  | none => s

/-- The width changes of an announced LB: those of a re-run (R220), or the return step of a lap-end boundary (R222). -/
def widthsFor (s : State) (rpt : Bool) : List (Nat × BitVec 2) :=
  if rpt then
    let reqs := reqLayers s
    if reqs = [] then []
    else if reqs.length ≤ s.baton.fbudget.toNat then reqs.map (fun l => (l, 1))
    else (s.tables.lmActive.filter (fun p => usedOf p.2)).map (fun p => (p.1, 2))
  else match s.baton.returnStep with
    | some l => [(l, 0)]
    | none => []

/-- A baton is due at the announced LB (R208). -/
def batonDue (s : State) (rpt : Bool) : Bool :=
  if rpt then decide (widthsFor s true ≠ []) else s.baton.pending || s.baton.returnStep.isSome

/-! ### Staging (R209, R211) -/

/-- SEQ after a staging: it skips 0 (R210). -/
def nextSeq (q : BitVec 8) : BitVec 8 := if q + 1 = 0 then 1 else q + 1

/-- The lap after the announced LB. -/
def lapAfter (s : State) : BitVec 48 :=
  match s.pace.ann with
  | some (_, true) => s.pace.lap
  | _ => s.pace.lap + 1

/-- RPT of the outstanding announcement. -/
def annRpt (s : State) : Bool := s.pace.ann.any Prod.snd

/-- MG's digest of what a unit holds staged. -/
def stagedDigest (s : State) (b : Nat) : BitVec 32 :=
  digestOf b s.baton.ftab s.baton.lmap (s.unit b).files.cbStaged

/-- The staged content and a STAGE message sent to one unit. -/
def sendStage (s : State) (b : Nat) : State :=
  let s1 := s.onUnit b (fun u => { u with ftabStaged := s.baton.ftab, lmapStaged := s.baton.lmap })
  sendBaton s1 true b (batonMsg 0x20 s.baton.seq (s.baton.epoch + 1) b (lapAfter s) (annRpt s) false (stagedDigest s b))

/-- MG stages with a new SEQ: content fixed, STAGE to every member (R211). -/
def stageAll (s : State) : State :=
  let rpt := annRpt s
  let w := widthsFor s rpt
  let s1 := { s with baton := { s.baton with
    st := .staging, seq := nextSeq s.baton.seq, ftab := s.tables.ftStaged, lmap := stagedMap s w, widths := w
    taken := if rpt then reqLayers s else [], members := s.members, acks := [], pendingNext := false } }
  s1.each s1.members sendStage

/-- A staged change that completes while a baton is staging and before its commit point makes MG restage (R209, R211). -/
def restage (s : State) : State :=
  if s.baton.st = .staging && !s.pace.passed && !s.pace.ann.any (fun a => decide (a.1 + 4096 ≤ s.now)) then stageAll s else s

/-- The same for a write of the management aperture: one in the MCLK cycle of the commit point belongs to the next baton
(R209, R448). -/
def restageWrite (s : State) : State :=
  if s.pace.ann.any (fun a => decide ((a.1 + 4096) / 9 ≤ s.now / 9)) then s else restage s

/-- Width changes looked at again before the commit point: a baton becomes due, or what it carries changes (R211, R220). -/
def rebuild (s : State) : State :=
  match s.pace.ann with
  | some (_, rpt) =>
    if s.pace.passed || s.baton.barred then s
    else if s.baton.st = .idle && rpt && batonDue s true then stageAll s
    else if s.baton.st = .staging && batonDue s rpt && decide (widthsFor s rpt ≠ s.baton.widths ∨
        (rpt = true ∧ reqLayers s ≠ s.baton.taken)) then stageAll s
    else s
  | none => s

/-- MG accepts a fallback request for a layer, or ignores it (R219). -/
def acceptRequest (s : State) (l : Nat) : State × Bool :=
  let w := s.layer l
  if usedOf w && decide (widthOf w = 0) then
    let s1 := { s with tables := { s.tables with lmActive := tset 0 s.tables.lmActive l (w ||| 0x40000000) } }
    (rebuild (postLapSummary s1), true)
  else (s, false)

/-- A return step that is no longer due (R222). -/
def dropReturn (s : State) : State :=
  if s.pace.passed then s
  else rebuild { s with baton := { s.baton with returnStep := none } }

/-! ### The commit point (R211, R213) -/

/-- DEFER to every member. -/
def deferAll (s : State) : State :=
  s.each s.members (fun t b => sendBaton t true b (batonMsg 0x24 t.baton.seq t.baton.epoch b (lapAfter t) (annRpt t) false 0))

/-- Adoptions that every converter acknowledged before the deadline are due at the boundary (R183). -/
def markDue (s : State) : State :=
  s.trackers.tracked.foldl (fun t x => match x.2.staged with
    | some g => if g.complete.isSome then t.setTracked x.1 { x.2 with staged := some { g with due := true } } else t
    | none => t) s

/-- A deferral that counts: BATON_DEFER for each missing unit, and fences at DEFERMAX (R211, R213). -/
def deferMissing (s : State) (missing : List Nat) : State :=
  let n : BitVec 4 := satAdd s.baton.defcnt 1
  let s1 := deferAll { s with baton := { s.baton with defcnt := n, st := .idle } }
  let s2 := s1.each missing (fun t b => t.post 0 b .batonDefer none
    ((s.baton.seq.setWidth 32) ||| (n.setWidth 32 <<< 8)) 0 0)
  if decide (s.baton.defermax ≠ 0) && decide (n = s.baton.defermax) && decide (s.baton.defcnt ≠ n) then
    s2.each missing (fun t b => fence t b .deferred)
  else s2

/-- What the commit point of the announced LB brings about (R209, R211, R183). A member whose fence was lifted during STAGING
causes no deferral, and gets COMMIT only behind its ACK (R429). -/
def passCommit (s : State) : State :=
  if s.pace.ann.isNone || s.pace.passed then s
  else
    let s0 := { markDue s with pace := { s.pace with passed := true } }
    if s0.baton.st ≠ .staging then s0
    else if !batonDue s0 (annRpt s0) || s0.baton.barred then
      deferAll { s0 with baton := { s0.baton with st := .idle } }
    else
      let missing := s0.members.filter (fun b => s0.baton.members.contains b && !s0.baton.acks.contains b)
      if missing = [] then
        (s0.members.filter (fun b => s0.baton.acks.contains b)).foldl (fun t b => sendBaton t true b
            (batonMsg 0x23 t.baton.seq (t.baton.epoch + 1) b (lapAfter t) (annRpt t) false 0))
          { s0 with baton := { s0.baton with st := .armed } }
      else deferMissing s0 missing

/-- COMMIT_POINT: the acknowledgement deadline, 4,096 CCLK cycles before the announced LB (R211). -/
def execCommitPoint (s : State) : Host.Outcome State Fault Refusal := live s (passCommit s)

/-! ### Members (R212) -/

/-- A member takes STAGE: it digests its staged content and answers (R212). -/
def memberStage (s : State) (b : Nat) (m : BitVec 128) : State :=
  let u := s.unit b
  if u.member = .steady || u.member = .staged then
    let s1 := s.setUnit b { u with
      member := .staged, ackSeq := mSeq m
      files := { u.files with cbFixed := if hasBooks b then some (u.files.cbStaged, u.files.cbBadStaged) else none } }
    sendBaton s1 false b (batonMsg 0x21 (mSeq m) u.epoch b (mLap m) (mRpt m) false
      (digestOf b u.ftabStaged u.lmapStaged u.files.cbStaged))
  else s

/-- A member takes COMMIT with the SEQ it acknowledged: it arms (R212). -/
def memberCommit (s : State) (b : Nat) (m : BitVec 128) : State :=
  let u := s.unit b
  if u.member = .staged && decide (u.ackSeq = mSeq m) then s.setUnit b { u with member := .armed, armSeq := mSeq m } else s

/-- A member takes DEFER: it disarms (R212). -/
def memberDefer (s : State) (b : Nat) : State :=
  let u := s.unit b
  if u.member = .staged || u.member = .armed then s.setUnit b { u with member := .steady } else s

/-- An epoch taken; a slice's read cache held tiles of the old one, which fail check 6 at their next wide read (R347). -/
def UnitSt.withEpoch (u : UnitSt) (e : BitVec 4) : UnitSt :=
  { u with epoch := e, slice := if u.epoch = e then u.slice else { u.slice with cache := [] } }

/-- An armed member applies the baton and sends DONE with the lap it is in; `rpt` tells a re-run boundary (R210, R212). -/
def memberApply (s : State) (b : Nat) (rpt : Bool) : State :=
  let u := s.unit b
  let e := u.epoch + 1
  let u1 := { u with ftab := u.ftabStaged, lmap := u.lmapStaged, files := u.files.commitBooks, member := .steady }.withEpoch e
  let s1 := s.setUnit b u1
  sendBaton s1 false b (batonMsg 0x27 u.armSeq e b (s1.lapOf b).1 rpt false 0)

/-! ### False starts (R214, R215) -/

/-- RESYNC sent to a unit that answers on the management chain (R215). -/
def sendResync (s : State) (b : Nat) : State :=
  let u := s.unit b
  if u.held && !u.health.resetting && !s.mg.fatal then
    let books := if s.baton.boundarySeq ≠ 0 ∧ u.ackSeq = s.baton.boundarySeq then u.files.commitBooks.cbActive
      else u.files.cbActive
    sendBaton s true b (batonMsg 0x28 s.baton.boundarySeq s.baton.epoch b s.pace.lap false false
      (digestOf b s.tables.ftActive (committedMap s) books))
  else s

/-- MG declares a unit a false start (R214). -/
def falseStart (s : State) (b : Nat) (e : Option (BitVec 4)) : State :=
  let s1 := s.post 0 b .falseStart none
    ((e.getD 0).setWidth 32 ||| ((bit e.isSome).setWidth 32 <<< 4)) (s.baton.epoch.setWidth 32) 0
  sendResync (fence s1 b .falseStart) b

/-- A false start takes RESYNC; a unit outside the baton set only digests what it is sent (R215). -/
def memberResync (s : State) (b : Nat) (m : BitVec 128) : State :=
  let u := s.unit b
  if u.member = .falseStart then
    let files := if mSeq m ≠ 0 ∧ u.ackSeq = mSeq m then u.files.commitBooks else u.files
    let u1 := if batonKind b then { u with ftab := s.tables.ftActive, lmap := committedMap s, files := files }.withEpoch (mEpoch m)
      else u
    sendBaton (s.setUnit b u1) false b (batonMsg 0x29 (mSeq m) (mEpoch m) b (mLap m) false false
      (digestOf b s.tables.ftActive (committedMap s) files.cbActive))
  else s

/-- MG lifts a unit's fence (R428, R429). -/
def liftFence (s : State) (b : Nat) : State :=
  let f (u : UnitSt) : UnitSt :=
    { u with health := { u.health with fenced := false, epochFence := false, syncedAt := none, mismatches := 0 }
             member := .steady }
  let s1 := (s.post 0 b .unfence none ((s.unit b).health.cause.setWidth 32) 0 0).onUnit b f
  if batonKind b && (s1.baton.st = .staging || s1.baton.st = .armed) then sendStage s1 b else s1

/-- The fences whose SYNCED matched in an earlier cycle lifted at an SB (R215). -/
def liftSynced (s : State) : State :=
  s.each (allBibs.filter (fun b => (s.unit b).health.syncedAt.any (fun c => decide (c < s.now)))) liftFence

/-! ### MG's side of the messages -/

/-- MG takes an ACK (R209 to R211, R429). -/
def mgAck (s : State) (m : BitVec 128) : State :=
  let b := mBib m
  let good := decide (mSeq m = s.baton.seq) && decide (mVal m = stagedDigest s b) && s.members.contains b
  if good && s.baton.st = .staging && !s.pace.passed then
    if s.baton.acks.contains b then s else { s with baton := { s.baton with acks := s.baton.acks ++ [b] } }
  else if good && s.baton.st = .armed && !s.baton.acks.contains b then
    sendBaton { s with baton := { s.baton with acks := s.baton.acks ++ [b] } } true b
      (batonMsg 0x23 s.baton.seq (s.baton.epoch + 1) b (lapAfter s) (annRpt s) false 0)
  else s

/-- MG takes a DONE (R211). -/
def mgDone (s : State) (m : BitVec 128) : State :=
  let b := mBib m
  if s.baton.st ≠ .confirming || !s.baton.members.contains b then s
  else if mEpoch m = s.baton.epoch then
    settleConfirm { s with baton := { s.baton with dones := s.baton.dones ++ [b] } }
  else { s with baton := { s.baton with wrongDone := (b, mEpoch m) :: s.baton.wrongDone } }

/-- MG takes a SYNCED (R215). -/
def mgSynced (s : State) (m : BitVec 128) : State :=
  let b := mBib m
  let u := s.unit b
  if !(u.health.fenced && u.health.epochFence && decide (0 < b)) then s
  else
    let d := digestOf b s.tables.ftActive (committedMap s) u.files.cbActive
    if mVal m = d && decide (mEpoch m = s.baton.epoch) then
      s.onUnit b (fun v => { v with health := { v.health with syncedAt := some s.now, mismatches := 0 } })
    else
      let n := u.health.mismatches + 1
      let s1 := s.post 0 b .resyncFail none (wordOf 32 n) d (mVal m)
      let s2 := s1.onUnit b (fun v => { v with health := { v.health with mismatches := n } })
      if n < 3 then sendResync s2 b else fence s2 b .resync

/-- Residual field of a RELAY body: enable, region, first tile (R301, R380). -/
def bResid (b : BitVec 128) : Bool × Nat × Nat := (bitAt b 55, (bitsAt b 32 6).toNat, (bitsAt b 38 17).toNat)

/-- An issued RELAY that has begun its transfer names a residual region (R374, R381). -/
def regionBusy (u : UnitSt) (r : Nat) : Bool :=
  u.issued.any (fun j => j.op.isRelay && j.active && j.transfer.started && (bResid j.body).1 && decide ((bResid j.body).2.1 = r))

/-- The buffers of a region exchange: SEL inverted, PEND cleared (R381). -/
def exchangeRegion (s : State) (b r : Nat) : State :=
  s.onUnit b (fun u =>
    let w := tget 0 u.relay.resid r
    { u with relay := { u.relay with resid := tset 0 u.relay.resid r ((w ^^^ 0x4000) &&& ~~~0x8000#128) } })

/-- A region pends, and exchanges at once where no RELAY holds it (R381). -/
def pendRegion (s : State) (b r : Nat) : State :=
  let s1 := s.onUnit b (fun u =>
    { u with relay := { u.relay with resid := tset 0 u.relay.resid r (tget 0 u.relay.resid r ||| 0x8000) } })
  if regionBusy (s1.unit b) r then s1 else exchangeRegion s1 b r

/-- A BOUNDARY that advances the lap reaches a relay: every region pends (R381). -/
def pendRegions (s : State) (b : Nat) (lap : BitVec 48) : State :=
  if decide (kindOf b = some .rl) && decide (lap ≠ (s.unit b).farLap) then
    s.each (List.range 64) (fun t r => pendRegion t b r)
  else s

/-- The LB that a far unit's last ANNOUNCE named has come, or its announcement has lapsed (R200; log entry 2). -/
def farResumes (s : State) (u : UnitSt) : Bool := u.farAnn.isNone || decide (s.pace.ann.map Prod.fst ≠ u.farAnn)

/-- A far unit's issue stop ends with the BOUNDARY or LAPSE for its announced LB; an earlier one leaves it (R200). -/
def UnitSt.resumeFar (s : State) (u : UnitSt) : UnitSt :=
  if farResumes s u then { u with farStopped := false, farStopAt := none, farAnn := none } else u

/-- A far unit takes BOUNDARY (R197, R200, R212, R381). -/
def memberBoundary (s0 : State) (b : Nat) (m : BitVec 128) : State :=
  let s := pendRegions s0 b (mLap m)
  let u := s.unit b
  let s1 := s.setUnit b { u.resumeFar s with farLap := mLap m, farPar := mPar m }
  let s2 := if u.member = .armed && decide (mSeq m ≠ 0) && decide (u.armSeq = mSeq m) then memberApply s1 b (mRpt m) else s1
  let v := s2.unit b
  if v.member ≠ .falseStart && decide (v.epoch ≠ mEpoch m) then
    sendBaton (s2.setUnit b { v with member := .falseStart }) false b
      (batonMsg 0x27 (mSeq m) v.epoch b (mLap m) (mRpt m) false 0)
  else s2

/-- A far unit takes ANNOUNCE: its count toward the issue stop begins; a count of 0 is already spent (R200). -/
def memberAnnounce (s : State) (b : Nat) (m : BitVec 128) : State :=
  let n := (mVal m).toNat
  s.onUnit b (fun u => { u with farStopAt := some (s.now + (n - 264)), announced := mLap m, farAnn := s.pace.ann.map Prod.fst })

/-- A unit takes a baton message for it; one of a type that MG sends to other units has no effect. A tracker, outside the
baton set, takes RESYNC alone (R207, R215). -/
def unitTakes (s : State) (b : Nat) (m : BitVec 128) : State :=
  if !(s.unit b).held || (!batonKind b && decide (mType m ≠ 0x28)) || mBib m ≠ b then s
  else match mType m with
    | 0x20 => memberStage s b m
    | 0x22 => if isFar b then memberAnnounce s b m else s
    | 0x23 => memberCommit s b m
    | 0x24 => memberDefer s b
    | 0x25 => if isFar b then answerClosing (memberBoundary s b m) (fun n => n == b) else s
    | 0x26 => if isFar b then answerClosing (s.onUnit b (fun u => { u.resumeFar s with
        member := if u.member = .armed then .steady else u.member })) (fun n => n == b) else s
    | 0x28 => memberResync s b m
    | _ => s

/-- MG takes a baton message of a unit. -/
def mgTakes (s : State) (m : BitVec 128) : State :=
  match mType m with
  | 0x21 => mgAck s m
  | 0x27 => mgDone s m
  | 0x29 => mgSynced s m
  | _ => s

/-- A message to a unit, discarded where it is malformed (R210, R425: interface 2). -/
def toUnit (s : State) (b : Nat) (type : Nat) (m : BitVec 128) : State :=
  if !batonMsgOk m then s.malformed b 2 (bitsAt m 0 32) 0 else if mType m = type then unitTakes s b m else s

/-- A message to MG, discarded where it is malformed. -/
def toMg (s : State) (type : Nat) (m : BitVec 128) : State :=
  if !batonMsgOk m then s.malformed 0 2 (bitsAt m 0 32) (mBib m) else if mType m = type then mgTakes s m else s

/-- STAGE reaches a member (R212). -/
def execStage (bib : Bib) (msg : BitVec 128) (s : State) : Host.Outcome State Fault Refusal :=
  live s (toUnit s bib.toNat 0x20 msg)

/-- ACK reaches MG (R211). -/
def execAck (msg : BitVec 128) (s : State) : Host.Outcome State Fault Refusal := live s (toMg s 0x21 msg)

/-- COMMIT reaches a member (R212). -/
def execCommit (bib : Bib) (msg : BitVec 128) (s : State) : Host.Outcome State Fault Refusal :=
  live s (toUnit s bib.toNat 0x23 msg)

/-- DEFER reaches a member (R212). -/
def execDefer (bib : Bib) (msg : BitVec 128) (s : State) : Host.Outcome State Fault Refusal :=
  live s (toUnit s bib.toNat 0x24 msg)

/-- RESIDUAL_EXCHANGE: a pending region that no issued RELAY names exchanges its buffers (R381). -/
def execResidualExchange (bib : Bib) (region : BitVec 6) (s : State) : Host.Outcome State Fault Refusal :=
  let u := s.unit bib.toNat
  live s (if bitAt (tget 0 u.relay.resid region.toNat) 15 && !regionBusy u region.toNat then
      exchangeRegion s bib.toNat region.toNat
    else s)

/-- A framed baton message is well formed and carries a baton message (R361). -/
def framedBaton (m : List Byte) : Option (BitVec 128) :=
  if linkMsgOk m 0x18 2 0 0 0 then some (wordLE 128 (msgRest m)) else none

/-- LAPSE reaches a far unit (R212). -/
def execLapse (bib : Bib) (msg : BitVec 128) (s : State) : Host.Outcome State Fault Refusal :=
  live s (toUnit s bib.toNat 0x26 msg)

/-- DONE reaches MG (R211). -/
def execDoneReport (msg : BitVec 128) (s : State) : Host.Outcome State Fault Refusal := live s (toMg s 0x27 msg)

/-- RESYNC reaches a unit (R215). -/
def execResync (bib : Bib) (msg : BitVec 128) (s : State) : Host.Outcome State Fault Refusal :=
  live s (toUnit s bib.toNat 0x28 msg)

/-- SYNCED reaches MG (R215). -/
def execSynced (msg : BitVec 128) (s : State) : Host.Outcome State Fault Refusal := live s (toMg s 0x29 msg)

/-- CONFIRM_TIMEOUT: 4,096 CCLK cycles after the LB, members without a matching DONE are false starts (R211, R214). -/
def confirmTimeout (s : State) : State :=
  let b := s.baton
  if b.st ≠ .confirming then s
  else
    let bad := b.members.filter (fun m => s.serving m && !b.dones.contains m)
    let s1 := { s with baton := { b with st := .idle, members := [], dones := [], wrongDone := [] } }
    s1.each bad (fun t m => falseStart t m ((b.wrongDone.find? (fun p => decide (p.1 = m))).map Prod.snd))

/-- CONFIRM_TIMEOUT (R211). -/
def execConfirmTimeout (s : State) : Host.Outcome State Fault Refusal := live s (confirmTimeout s)

end Sys2Proof.Machine
end

