-- ==== Sys2Proof/Machine/Access.lean ====
section
/-!
DEFINITION. Who may write what: the agents and classes of R400, the state of the aperture before READY (R394), the
indirect ports (R451, R452).
-/

namespace Sys2Proof

/-- The agent holds management rights (R400); context 0 is COACH. -/
def Agent.manages : Agent → Bool
  | .host | .coach => true
  | .ctx n => decide (n = 0)

/-- The agent is a given context, or holds management rights (class GRANTED). -/
def Agent.owns (a : Agent) (c : Nat) : Bool := a.manages || (match a with | .ctx n => decide (n.toNat = c) | _ => false)

/-- ARG1 of ACCESS and ARG2 of DOORBELL: the agent. -/
def Agent.code : Agent → BitVec 11
  | .host => 0x400
  | .coach => 0
  | .ctx n => n.setWidth 11

/-- Context number of an agent; HOST has none. -/
def Agent.ctx? : Agent → Option Nat
  | .host => none
  | .coach => some 0
  | .ctx n => some n.toNat

end Sys2Proof

namespace Sys2Proof.Machine

/-- The aperture serves writes only at READY (R394). -/
def apertureOpen (s : State) : Bool := s.mg.step == .ready && !s.mg.fatal

/-- A forbidden write: dropped, with an ACCESS event that carries the agent's context (R400, R421, R425; log entry 26). -/
def accessEvent (s : State) (a : Agent) (offset : Nat) : State :=
  s.post 0 0 .access a.ctx? (wordOf 32 offset) (a.code.setWidth 32 ||| 0x800) 0

/-- The agent may write a register of a context's grant: the owning context while it exists, COACH or HOST. -/
def mayWrite (s : State) (a : Agent) (c : Nat) : Bool :=
  a.manages || (a.owns c && gEn (s.grant c))

/-- The agent may write a resource of a numbered table: the context whose grant holds it, COACH or HOST. -/
def mayWriteAt (s : State) (a : Agent) (f : BitVec 384 → Nat × Nat) (n : Nat) : Bool :=
  a.manages || (match a.ctx? with
    | some c => gEn (s.grant c) && inRange (f (s.grant c)) n
    | none => false)

/-- A write that the class allows, or its refusal; before READY nothing is written. -/
def guarded (s : State) (a : Agent) (offset : Nat) (allowed : Bool) (t : State) : State :=
  if !apertureOpen s then s else if allowed then t else accessEvent s a offset

/-- Offset of a unit window register (R13). -/
def unitOffset (b off : Nat) : Nat := 0x01000000 + b * 0x10000 + off

/-! ### Indirect ports (R451, R452) -/

/-- The record that a selection names on unit b: it exists, and the ranges of a grant that admit its reader. -/
def portRecord (s : State) (b : Nat) (table index : Nat) : Option (Nat → Bool) :=
  let books (c : Nat) : Bool := inRange (gBooks (s.grant c)) index
  match kindOf b, table with
  | some .cv, 0x01 | some .cv, 0x02 | some .pt, 0x01 | some .pt, 0x02 => if index < 64 then some books else none
  | some .cv, 0x03 | some .cv, 0x04 =>
    if index < 8192 then some (fun c => inRange (gChannels (s.grant c)) index) else none
  | some .cv, 0x05 | some .cv, 0x06 =>
    if index < 8192 then some (fun c => inRange (gRescales (s.grant c)) index) else none
  | some .tk, 0x10 =>
    if index < 65536 ∧ index / 16384 = indexOf b then some (fun c => inRange (gStreams (s.grant c)) index) else none
  | some .tk, 0x11 =>
    if index < 16384 ∧ index / 4096 = indexOf b then some (fun c => inRange (gTracked (s.grant c)) index) else none
  | some .tk, 0x12 =>
    if index < 4096 ∧ index / 1024 = indexOf b then some (fun c => inRange (gWatches (s.grant c)) index) else none
  | some .rl, 0x20 =>
    if index < 256 then some (fun c => decide ((tget {} (s.unit b).relay.groups index).ctx = wordOf 10 c)) else none
  | _, _ => none

/-- The unit has indirect ports (R449). -/
def hasPorts (b : Nat) : Bool := match kindOf b with
  | some .cv | some .pt | some .tk | some .rl => true
  | _ => false

/-- VALID and DENIED of a port (R451). -/
def portStatus (s : State) (b : Nat) (p : Port) : Bool × Bool :=
  match portRecord s b (bitsAt p.sel 0 8).toNat (bitsAt p.sel 8 24).toNat, p.holder with
  | some admits, some a =>
    let ok := a.manages || (match a.ctx? with | some c => gEn (s.grant c) && admits c | none => false)
    (ok, !ok)
  | _, _ => (false, false)

/-- A port of a unit. -/
def State.port (s : State) (b p : Nat) : Port := tget {} (s.unit b).ports p

/-- IXSEL written: the writer becomes the port's holder (R451). -/
def selectPort (s : State) (a : Agent) (b p : Nat) (v : BitVec 32) : State :=
  s.onUnit b (fun u => { u with ports := tset {} u.ports p { sel := v, holder := some a } })

/-- Some port of unit b that the agent holds shows a record (R451). -/
def portShows (s : State) (a : Agent) (b table index : Nat) : Bool :=
  (s.unit b).held && (s.unit b).ports.any (fun p => decide (p.2.holder = some a) && (portStatus s b p.2).1
    && decide (p.2.sel = wordOf 32 (table + 256 * index)))

end Sys2Proof.Machine
end

