-- ==== Sys2Proof/Machine/Tracking.lean ====
section
/-!
DEFINITION. Trackers: configuration writes (R172, R188), reports and partials (R175, R176, R187), proposals and staging
(R181 to R184), watch closes and stumbles (R189 to R192), the close scan (R177 to R179, R185), SCALE and SUMMARY (R299).
-/

namespace Sys2Proof.Machine

/-! ### Proposals (R181, R182) -/

/-- up of R181. -/
def upScale (pow : Bool) (v : ℚ) : BitVec 16 :=
  if pow then
    let e := clog2 v
    if 127 < e then 0x7F7F else wordOf 16 (128 * ((max (-126) e) + 127).toNat)
  else wordOf 16 (scaleUp bf16 0x0080 0x7F7F v)

/-- The proposal that h gives. -/
def proposalOf (c : TrackedCfg) (h : BitVec 16) : BitVec 16 :=
  upScale c.pow2 ((ofBf16 h).rat * pow2 c.marg.toNat / (ofBf16 c.target).rat)

/-- The proposal step from h with a source; nothing changes where PINP is 1 or h is +0. -/
def Tracked.propose (t : Tracked) (h : BitVec 16) (src : BitVec 2) : Tracked :=
  if t.cfg.pinp || decide (h = 0) then t else { t with prop := proposalOf t.cfg h, pvalid := true, psrc := src }

/-- The largest of the ring slots that the history length takes in (R181). -/
def Tracked.historyMax (t : Tracked) : BitVec 16 :=
  let n := min (t.cfg.hlen.toNat + 1) t.fill.toNat
  (List.range n).foldl (fun m j => maxBf m (tget 0 t.ring ((t.head.toNat + 32 - (j + 1)) % 32))) 0

/-- The history rule on a committed record (R181). -/
def Tracked.commit (t : Tracked) (r : Record) : Tracked :=
  let t1 := { t with ring := tset 0 t.ring t.head.toNat r.amax, head := t.head + 1
                     fill := if t.fill.toNat < 32 then t.fill + 1 else t.fill }
  { t1.propose t1.historyMax 1 with last := { r with requested := false } }

/-! ### Staging (R183) -/

/-- An entry's PROP staged for adoption. -/
def stageEntry (s : State) (n : Nat) : State :=
  let t := s.tracked n
  let need := stillNeeded s t.cfg.cvmask
  let g : Staging :=
    { value := t.prop, base := t.cfg.abase, count := t.cfg.acount, need := need, got := 0
      complete := if need = 0 then some s.now else none }
  s.setTracked n { t with staged := some g }

/-- ADOPT_ACK: a converter acknowledges a staged value (R183). -/
def execAdoptAck (entry : BitVec 14) (cv : BitVec 6) (s : State) : Host.Outcome State Fault Refusal :=
  let t := s.tracked entry.toNat
  live s (match t.staged with
    | some g =>
      if bitAt g.need cv.toNat && s.serving (firstBib .cv + cv.toNat) then
        settleStaging (s.setTracked entry.toNat { t with staged := some { g with got := g.got ||| (1#64 <<< cv.toNat) } })
      else s
    | none => s)

/-- The boundary adopts an entry's staged value where it was acknowledged before the deadline (R121, R183). -/
def adoptEntry (s : State) (n : Nat) : State :=
  let t := s.tracked n
  match t.staged with
  | some g =>
    if g.due || g.complete.any (fun c => decide (c + 4096 < s.now)) then
      let s1 := (List.range 64).foldl (fun x c =>
        let b := firstBib .cv + c
        if bitAt g.need c && bitAt g.got c && x.serving b then
          x.onUnit b (fun u => { u with files := u.files.adopt g.base.toNat g.count.toNat g.value })
        else x) s
      s1.setTracked n { t with staged := none, adopted := g.value }
    else s
  | none => s

/-- Every adoption that is due, in increasing entry number (R121). -/
def adoptAll (s : State) : State := (s.trackers.tracked.map Prod.fst).foldl adoptEntry s

/-! ### Fallback checks (R146, R191) -/

/-- FLAGGED exceeds its share of OTILES (R146). -/
def flagsHigh (c : TrackedCfg) (r : Record) : Bool :=
  decide (r.otiles ≠ 0) && decide (c.flagth.toNat * r.otiles.toNat < r.flagged.toNat * 65536)

/-- The layer has had its request from this record (R191). -/
def alreadyAsked (s : State) (prev : Bool) (l : BitVec 12) : Bool :=
  s.trackers.tracked.any (fun p => decide (p.2.cfg.layer = l) && (if prev then p.2.prev.requested else p.2.cur.requested))

/-- The fallback check of an entry on its current or previous record: an event each time, and a request unless its layer
has had one from that record (R146, R185, R191, R219, R221). -/
def fallbackCheck (s : State) (n : Nat) (prev : Bool) : State :=
  let t := s.tracked n
  let r := if prev then t.prev else t.cur
  if t.cfg.fben && flagsHigh t.cfg r then
    let s1 := s.post (tkOfEntry n) (tkOfEntry n) .fallback (some t.cfg.ctx.toNat) (wordOf 32 n) (t.cfg.layer.setWidth 32)
      r.flagged
    let r1 := { r with requested := true }
    let s2 := s1.setTracked n (if prev then { t with prev := r1 } else { t with cur := r1 })
    let a := acceptRequest s2 t.cfg.layer.toNat
    if alreadyAsked s prev t.cfg.layer then s1
    else if !a.2 then a.1
    else if prev then { a.1 with baton := { a.1.baton with dirtyPrev := true } }
    else dropReturn { a.1 with baton := { a.1.baton with dirtyCur := true } }
  else s

/-! ### Watches (R187 to R192) -/

/-- N of a record: the root of its sum, or +infinity (R189). -/
def normOf (r : WatchRec) : BitVec 32 :=
  if r.nonfin || r.satur then 0x7F800000
  else if r.sum = 0 then 0
  else toF32 (.fin (sqrtNear ((r.sum : ℚ) * pow2 (-160))) false)

/-- A close finds a stumble (R190). -/
def isStumble (w : Watch) (n : BitVec 32) : Bool :=
  w.stb && (decide (n = 0x7F800000)
    || (w.avalid && decide (w.warm.toNat ≤ w.laps.toNat)
        && decide ((ofF32 w.avg).rat * (ofBf16 w.ratio).rat < (ofF32 n).rat)))

/-- The scan of a stumble over one entry (R191). -/
def stumbleEntry (ctx : BitVec 10) (layer : BitVec 12) (s : State) (n : Nat) : State :=
  let t := s.tracked n
  if decide (t.cfg.ctx ≠ ctx) || (s.unit (tkOfEntry n)).health.fenced then s
  else
    let s1 := if decide (t.cfg.layer = layer) && t.cfg.en && !t.cfg.pinp then
        let t1 := t.propose t.cur.amax 2
        let s2 := s.setTracked n t1
        if decide (t.cfg.acount ≠ 0) && t1.pvalid then stageEntry s2 n else s2
      else s
    fallbackCheck s1 n false

/-- What MG does when a watch signals a stumble (R218, R221, R222). -/
def signalStumble (s : State) (prev : Bool) : State :=
  let s1 := postLapSummary { s with baton := { s.baton with
    stumble := true, dirtyCur := s.baton.dirtyCur || !prev, dirtyPrev := s.baton.dirtyPrev || prev } }
  if prev then s1 else dropReturn s1

/-- A watch closes its current or previous record (R189 to R191). -/
def closeWatch (s : State) (w : Nat) (prev : Bool) : State :=
  let x := s.watch w
  let r := if prev then x.prev else x.cur
  let n := normOf r
  let st := isStumble x n
  let r1 := { r with closed := true, ncur := n, stumbled := st }
  let s1 := s.setWatch w (if prev then { x with prev := r1 } else { x with cur := r1 })
  if st then
    let s2 := s1.post (tkOfWatch w) (tkOfWatch w) .stumble (some x.ctx.toNat) (wordOf 32 w) n x.avg
    (s2.trackers.tracked.map Prod.fst).foldl (stumbleEntry x.ctx x.layer) (signalStumble s2 prev)
  else s1

/-- The committed state of a watch after a close commits a closed record (R192). -/
def Watch.commit (w : Watch) (n : BitVec 32) : Watch :=
  let laps := satAdd w.laps 1
  if n = 0x7F800000 then { w with nlast := n }
  else if !w.avalid then { w with avg := n, avalid := true, laps := laps, nlast := n }
  else
    let d := toF32 ((ofF32 n).add (ofF32 w.avg).negate)
    let p := toF32 ((ofF32 d).mul (.fin (pow2 (-((w.alpha.toNat : Int) + 1))) false))
    { w with avg := toF32 ((ofF32 w.avg).add (ofF32 p)), laps := laps, nlast := n }

/-! ### Reports and partials arriving (R175, R176, R187) -/

/-- Which record a stamp matches: the current one, or the previous one within its settle window. -/
def recordFor (s : State) (lap8 : BitVec 8) (par : Bool) : Option Bool :=
  if decide (lap8 = bitsAt s.pace.lap 0 8) && (par == s.pace.parity) then some false
  else match s.trackers.settle with
    | .settling _ _ => if decide (lap8 = s.trackers.prevLap8) && (par == s.trackers.prevPar) then some true else none
    | _ => none

/-- STATS_LATE (R176, R189). -/
def statsLate (s : State) (tk n : Nat) (isWatch : Bool) (ctx : Nat) (lap8 : BitVec 8) (par : Bool) : State :=
  s.post tk tk .statsLate (some ctx) (wordOf 32 n ||| ((bit isWatch).setWidth 32 <<< 16))
    (lap8.setWidth 32 ||| ((bit par).setWidth 32 <<< 8)) 0

/-- A report reaches its tracker. -/
def mergeReport (s : State) (r : Report) : State :=
  let n := r.entry.toNat
  let t := s.tracked n
  if (s.unit (tkOfEntry n)).health.fenced || !t.cfg.en then s
  else match recordFor s r.lap8 r.par with
    | some false => s.setTracked n { t with cur := t.cur.merge r.data }
    | some true => s.setTracked n { t with prev := t.prev.merge r.data }
    | none => statsLate s (tkOfEntry n) n false t.cfg.ctx.toNat r.lap8 r.par

/-- REPORT_MERGE: the oldest report under way reaches its tracker (R175). -/
def execReportMerge (s : State) : Host.Outcome State Fault Refusal :=
  live s (match s.trackers.reports with
    | r :: rest => mergeReport { s with trackers := { s.trackers with reports := rest } } r
    | [] => s)

/-- A record with a partial added (R187). -/
def WatchRec.add (r : WatchRec) (p : Partial) : WatchRec :=
  let sum := r.sum + p.sum
  { r with sum := min sum (2 ^ 320 - 1), nonfin := r.nonfin || p.nonfin
           satur := r.satur || p.satur || decide (2 ^ 320 ≤ sum) }

/-- A partial reaches its watch; a bare close adds nothing and finds its record open or closed (R189). -/
def mergePartial (s : State) (p : Partial) : State :=
  let n := p.watch.toNat
  let w := s.watch n
  let late := statsLate s (tkOfWatch n) n true w.ctx.toNat p.lap8 p.par
  if (s.unit (tkOfWatch n)).health.fenced || !w.en then s
  else match recordFor s p.lap8 p.par with
    | none => if p.bare then s else late
    | some prev =>
      let r := if prev then w.prev else w.cur
      if r.closed then (if p.bare then s else late)
      else
        let s1 := s.setWatch n (if prev then { w with prev := w.prev.add p } else { w with cur := w.cur.add p })
        if p.close then closeWatch s1 n prev else s1

/-- NORM_PARTIAL: the oldest partial under way reaches its watch (R187). -/
def execNormPartial (s : State) : Host.Outcome State Fault Refusal :=
  live s (match s.trackers.partials with
    | p :: rest => mergePartial { s with trackers := { s.trackers with partials := rest } } p
    | [] => s)

/-! ### The close scan (R177 to R179, R185, R221, R222) -/

/-- Threshold events of a committed record (R185). -/
def thresholdEvents (s : State) (n : Nat) : State :=
  let t := s.tracked n
  let tk := tkOfEntry n
  let one (x : State) (v : Ev) (a th : BitVec 32) : State :=
    if decide (th ≠ 0xFFFFFFFF) && decide (th.toNat < a.toNat) then x.post tk tk v (some t.cfg.ctx.toNat) (wordOf 32 n) a th else x
  one (one (one s .clipHigh t.last.clip t.cfg.clipth) .flushHigh t.last.flush t.cfg.flushth) .nanHigh t.last.nan t.cfg.nanth

/-- The close scan does not skip a tracked entry (R178, R429). -/
def scanned (s : State) (n : Nat) : Bool := (s.tracked n).cfg.en && !(s.unit (tkOfEntry n)).health.fenced

/-- The close scan reaches a tracked entry. -/
def scanEntry (commit : Bool) (s : State) (n : Nat) : State :=
  let t := s.tracked n
  if !scanned s n then s.setTracked n { t with prev := {} }
  else
    let s1 := fallbackCheck s n true
    let t1 := s1.tracked n
    let t2 := if commit then t1.commit t1.prev else t1
    s1.setTracked n { t2 with prev := { requested := t1.prev.requested } }

/-- What follows the scan for a committed entry: threshold events, and the proposal staged where AUTO is set (R177, R185). -/
def followEntry (s : State) (n : Nat) : State :=
  let t := s.tracked n
  let s1 := thresholdEvents s n
  if t.cfg.auto && !t.cfg.pinp && decide (t.historyMax ≠ 0) && decide (t.cfg.acount ≠ 0) then stageEntry s1 n else s1

/-- The close scan reaches a watch. -/
def scanWatch (commit : Bool) (s : State) (w : Nat) : State :=
  let x := s.watch w
  if !x.en || (s.unit (tkOfWatch w)).health.fenced then s.setWatch w { x with prev := {} }
  else
    let s1 := if x.prev.closed then s else closeWatch s w true
    let y := s1.watch w
    let z := if commit then y.commit y.prev.ncur else y
    s1.setWatch w { z with prev := {} }

/-- MG's decision at the end of a close scan: the clean-lap count and the return step, which a stumble or an accepted
request of the current lap has dropped already (R221, R222). -/
def judgeLap (commit : Bool) (s : State) : State :=
  let b := s.baton
  let run : BitVec 16 := if !commit then b.cleanrun else if b.dirtyPrev then 0 else satAdd b.cleanrun 1
  let wide := s.tables.lmActive.find? (fun p => usedOf p.2 && decide (widthOf p.2 ≠ 0))
  let step := if b.dirtyCur then none
    else if decide (b.clean ≠ 0) && decide (b.clean.toNat ≤ run.toNat) then
      match wide with | some p => some p.1 | none => b.returnStep
    else b.returnStep
  { s with baton := { b with cleanrun := run, returnStep := step, dirtyPrev := false } }

/-- Marks of requests cleared once a scan is over. -/
def clearMarks (s : State) : State :=
  (s.trackers.tracked.map Prod.fst).foldl (fun t n => t.setTracked n { t.tracked n with prev := {} }) s

/-- The whole close of the previous record: entries and watches, then threshold events and AUTO (R177, R178, R185, R221). -/
def closeScan (s : State) (rerun : Bool) : State :=
  let ns := s.trackers.tracked.map Prod.fst
  let s1 := ns.foldl (scanEntry (!rerun)) s
  let s2 := (s1.trackers.watches.map Prod.fst).foldl (scanWatch (!rerun)) s1
  let s3 := judgeLap (!rerun) (clearMarks (if rerun then s2 else (ns.filter (scanned s)).foldl followEntry s2))
  { s3 with trackers := { s3.trackers with settle := .idle } }

/-- SETTLE_WINDOW_END: the previous record stops taking reports (R177). -/
def execSettleWindowEnd (s : State) : Host.Outcome State Fault Refusal :=
  live s (match s.trackers.settle with
    | .settling b r => { s with trackers := { s.trackers with settle := .scanning b r } }
    | _ => s)

/-- CLOSE_SCAN_DONE: the close scan has run (R177, R178). -/
def execCloseScanDone (s : State) : Host.Outcome State Fault Refusal :=
  live s (match s.trackers.settle with
    | .scanning _ r => closeScan s r
    | _ => s)

/-- Reports under way for the previous record of one tracker. -/
def reportsDue (s : State) (tk : Nat) : Nat :=
  let due (l : BitVec 8) (p : Bool) : Bool := decide (l = s.trackers.prevLap8) && (p == s.trackers.prevPar)
  (s.trackers.reports.filter (fun r => decide (tkOfEntry r.entry.toNat = tk) && due r.lap8 r.par)).length
    + (s.trackers.partials.filter (fun p => decide (tkOfWatch p.watch.toNat = tk) && due p.lap8 p.par)).length

/-- A boundary that comes before the close has finished: each tracker finishes it first and posts STATS_SHORT (R179). -/
def finishClose (s : State) : State :=
  let run (r : Bool) : State :=
    let s1 := closeScan s r
    (bibsOf .tk).foldl (fun t tk => if s.serving tk then
        t.post tk tk .statsShort none (wordOf 32 (reportsDue s tk)) 0 0 else t) s1
  match s.trackers.settle with
  | .idle => s
  | .settling _ r | .scanning _ r => run r

/-- The trackers at a boundary: the current record becomes the previous one, a new one opens empty (R177). -/
def turnRecords (s : State) (oldLap : BitVec 48) (oldPar rerun : Bool) : State :=
  let t := s.trackers
  { s with
    trackers := { t with
      tracked := (t.tracked.map (fun p => (p.1, { p.2 with prev := p.2.cur, cur := {} }))).filter (fun p => decide (p.2 ≠ ({} : Tracked)))
      watches := (t.watches.map (fun p => (p.1, { p.2 with prev := p.2.cur, cur := {} }))).filter (fun p => decide (p.2 ≠ ({} : Watch)))
      prevLap8 := bitsAt oldLap 0 8, prevPar := oldPar
      settle := .settling s.now rerun }
    baton := { s.baton with dirtyPrev := s.baton.dirtyCur, dirtyCur := false } }

/-! ### Configuration writes (R172, R188) -/

/-- A tracked entry's state at its reset values, its configuration and staged value kept (R172). -/
def Tracked.cleared (t : Tracked) : Tracked := { cfg := t.cfg, staged := t.staged }

/-- Word w of a tracked entry's configuration written (R171, R172). -/
def Tracked.write (t : Tracked) (w : Nat) (v : BitVec 32) : Tracked :=
  let c := t.cfg
  let on := c.en
  match w with
  | 0 =>
    let c1 := { c with en := bitAt v 0, auto := bitAt v 1, fben := bitAt v 4 }
    let c2 := if on then c1 else
      { c1 with pinp := bitAt v 2, pow2 := bitAt v 3, marg := bitsAt v 5 3, hlen := bitsAt v 8 5, ctx := bitsAt v 13 10 }
    let t1 := { t with cfg := c2 }
    if !on && bitAt v 0 then t1.cleared else t1
  | 1 => if on then t else { t with cfg := { c with tensor := bitsAt v 0 24 } }
  | 2 => if on || (scaleVal 2 (bitsAt v 16 16).toNat).isNone then t
         else { t with cfg := { c with layer := bitsAt v 0 12, target := bitsAt v 16 16 } }
  | 3 => if on || decide (8192 < (bitsAt v 0 13).toNat + (bitsAt v 13 14).toNat) then t
         else { t with cfg := { c with abase := bitsAt v 0 13, acount := bitsAt v 13 14 } }
  | 4 => { t with cfg := { c with flagth := bitsAt v 0 16 } }
  | 5 => { t with cfg := { c with clipth := v } }
  | 6 => { t with cfg := { c with flushth := v } }
  | 7 => { t with cfg := { c with nanth := v } }
  | 8 => if on then t else { t with cfg := { c with cvmask := putBits c.cvmask 0 v } }
  | 9 => if on then t else { t with cfg := { c with cvmask := putBits c.cvmask 32 v } }
  | _ => t

/-- A RATIO that R188 admits: bfloat16, finite and above 1. -/
def ratioOk (r : BitVec 16) : Bool := decide (0x3F80 < r.toNat) && decide (r.toNat ≤ 0x7F7F)

/-- Word w of a watch's configuration written (R188). -/
def Watch.write (x : Watch) (w : Nat) (v : BitVec 32) : Watch :=
  if w = 0 then
    let a := { x with en := bitAt v 0, stb := bitAt v 1 }
    let b := if x.en then a else { a with alpha := bitsAt v 2 3, warm := bitsAt v 5 8, ctx := bitsAt v 13 10 }
    if !x.en && bitAt v 0 then { b with cur := {}, prev := {}, nlast := 0, avg := 0, laps := 0, avalid := false } else b
  else if ratioOk (bitsAt v 16 16) then
    { x with ratio := bitsAt v 16 16, layer := if x.en then x.layer else bitsAt v 0 12 }
  else x

/-- A scrub cleared EN in this MCLK cycle in a region of tracker i that `p` tells: it takes precedence over a write (R451). -/
def enScrubbed (s : State) (i : Nat) (p : Nat → Bool) : Bool :=
  s.trackers.scrubs.any (fun x => decide (x.1 = i) && p x.2.1 && decide (x.2.2 / 9 = s.now / 9))

/-- A configuration word written: EN stays 0 where a scrub cleared it in this MCLK cycle. -/
def underScrub (off : Bool) (w : Nat) (v : BitVec 32) : BitVec 32 := if off && decide (w = 0) then v &&& ~~~1#32 else v

/-- A write of a tracked entry's configuration through a port (R172, R451). -/
def writeTracked (s : State) (n w : Nat) (v : BitVec 32) : State :=
  let off := enScrubbed s (n / 4096) (fun r => Config.regionTracked (n / 4096) r (n % 4096))
  s.setTracked n ((s.tracked n).write w (underScrub off w v))

/-- A write of a watch's configuration through a port (R188, R451). -/
def writeWatch (s : State) (n w : Nat) (v : BitVec 32) : State :=
  let off := enScrubbed s (n / 1024) (fun r => Config.regionWatch (n / 1024) r (n % 1024))
  s.setWatch n ((s.watch n).write w (underScrub off w v))

/-- TRACKED_ENTRY_WRITE (R172): by the holder of a port that shows the entry. -/
def execTrackedEntryWrite (agent : Agent) (entry : BitVec 14) (word : BitVec 4) (value : BitVec 32) (s : State) :
    Host.Outcome State Fault Refusal :=
  let n := entry.toNat
  access s (if apertureOpen s && portShows s agent (tkOfEntry n) 0x11 n then writeTracked s n word.toNat value else s)

/-- WATCH_WRITE (R188): by the holder of a port that shows the watch. -/
def execWatchWrite (agent : Agent) (watch : BitVec 12) (word : BitVec 1) (value : BitVec 32) (s : State) :
    Host.Outcome State Fault Refusal :=
  let n := watch.toNat
  access s (if apertureOpen s && portShows s agent (tkOfWatch n) 0x12 n then writeWatch s n word.toNat value else s)

/-! ### SCALE and SUMMARY (R182, R299) -/

/-- Summary of a SCALE: PROP, PVALID, PSRC (R299), EMPTY where nothing is proposed. -/
def scaleSummary (t : Tracked) : Summary :=
  { value := t.prop.setWidth 64 ||| ((bit t.pvalid).setWidth 64 <<< 16) ||| (t.psrc.setWidth 64 <<< 17), kind := 5
    status := if t.pvalid then none else some .empty, flags := 0 }

/-- h of a PROPOSE; +0 for a value that is given. -/
def proposeInput (t : Tracked) (sel : Nat) : BitVec 16 := if sel = 0 then t.historyMax else t.cur.amax

/-- A SCALE executed by the tracker that holds its entry (R182). -/
def scaleRun (s : State) (i : Issued) : State × Issued :=
  let n := hTrk i.head
  let t := s.tracked n
  let b := i.body
  let sel := (bitsAt b 0 2).toNat
  let found := i.op == .scalePropose && decide (sel ≠ 2)
  let t1 := match i.op with
    | .scalePropose =>
      if sel = 2 then { t with prop := bitsAt b 16 16, pvalid := true, psrc := 3 }
      else t.propose (proposeInput t sel) (if sel = 0 then 1 else 2)
    | .scalePin => { t with cfg := { t.cfg with pinp := bitAt b 2 } }
    | _ => t
  let s1 := s.setTracked n t1
  let s2 := if i.op == .scaleAdopt then stageEntry s1 n else s1
  let x := scaleSummary t1
  let y := if found && decide (proposeInput t sel = 0) then { x with status := some .empty } else x
  (s2, { i with finished := some .ok, summary := some y })

/-- FORMAT rule of a SCALE: the value of a PROPOSE VALUE is a valid scale (R182). -/
def scaleFormat (o : Offer) : Bool :=
  o.op != .scalePropose || decide ((bitsAt o.body 0 2).toNat ≠ 2) || (scaleVal 2 (bitsAt o.body 16 16).toNat).isSome

/-- State rule of a SCALE (R182, R306). -/
def scaleReady (s : State) (o : Offer) : Bool :=
  let t := s.tracked (hTrk o.head)
  match o.op with
  | .scalePropose => decide ((bitsAt o.body 0 2).toNat = 2) || !t.cfg.pinp
  | .scaleAdopt => decide (t.cfg.acount ≠ 0) && t.pvalid
  | _ => true

/-- STATE code of a stream entry (R90). -/
def StreamState.code : StreamState → BitVec 3
  | .free => 0 | .opened => 1 | .halted => 2 | .closing => 3 | .hclose => 4

/-- Words 0 and 2 of a stream entry (R90). -/
def Stream.word0 (e : Stream) : BitVec 32 :=
  e.st.code.setWidth 32 ||| (e.kind.setWidth 32 <<< 3) ||| ((bit e.rest).setWidth 32 <<< 5)
    ||| ((bit e.paired).setWidth 32 <<< 6) ||| ((bit e.sided).setWidth 32 <<< 7) ||| (e.ctx.setWidth 32 <<< 8)
    ||| (e.fdi.setWidth 32 <<< 18)

/-- Word 2 of a stream entry (R90). -/
def Stream.word2 (e : Stream) : BitVec 32 := e.wtag.setWidth 32 ||| (e.rtag.setWidth 32 <<< 16)

/-- VALUE of a SUMMARY: low and high words (R299). -/
def summaryItem (s : State) (item n : Nat) : BitVec 32 × BitVec 32 :=
  let t := s.tracked n
  let w := s.watch n
  let e := s.stream n
  match item with
  | 0 => (t.cur.amax.setWidth 32 ||| (t.cur.capmax.setWidth 32 <<< 16),
          t.prop.setWidth 32 ||| ((bit t.pvalid).setWidth 32 <<< 16))
  | 1 => (t.cur.nan, t.cur.clip)
  | 2 => (t.cur.flush, t.cur.overflow)
  | 3 => (t.cur.flagged, t.cur.otiles)
  | 4 => (w.cur.ncur, w.avg)
  | 5 => (w.nlast, w.laps.setWidth 32 ||| ((bit w.avalid).setWidth 32 <<< 8) ||| ((bit w.cur.closed).setWidth 32 <<< 9)
            ||| ((bit w.cur.nonfin).setWidth 32 <<< 10) ||| ((bit w.cur.satur).setWidth 32 <<< 11)
            ||| ((bit w.cur.stumbled).setWidth 32 <<< 12))
  | _ => (e.word0, e.word2)

/-- A SUMMARY executed (R299). -/
def summaryRun (s : State) (i : Issued) : State × Issued :=
  let v := summaryItem s (sumItem i.body) (sumIndex i.body)
  (s, { i with finished := some .ok
               summary := some { value := v.1.setWidth 64 ||| (v.2.setWidth 64 <<< 32), kind := 5, status := none, flags := 0 } })

/-- Grants of a SUMMARY (R299). -/
def summaryGranted (s : State) (o : Offer) : Bool :=
  let g := s.grant o.ctx
  let n := sumIndex o.body
  if sumItem o.body ≤ 3 then inRange (gTracked g) n
  else if sumItem o.body ≤ 5 then inRange (gWatches g) n
  else inRange (gStreams g) n && decide ((s.stream n).ctx = wordOf 10 o.ctx)

/-- The holder of what a SUMMARY names is not fenced (R170, R299, R313). -/
def summaryReady (s : State) (o : Offer) : Bool := !(s.unit (summaryHolder o.body)).health.fenced

/-- The tracker that holds the entry executes a SCALE or SUMMARY; fenced since, it brings WRONG_STATE (R170, R313). -/
def onExecutor (run : State → Issued → State × Issued) (s : State) (i : Issued) : State × Issued :=
  if (s.unit (executor i)).health.fenced then (s, { i with finished := some .wrongState }) else run s i

/-- SCALE_PROPOSE executes (R182). -/
def execScalePropose (bib : Bib) (queue : BitVec 14) (s : State) : Host.Outcome State Fault Refusal :=
  live s (workOn s bib.toNat queue.toNat .scalePropose (onExecutor scaleRun))

/-- SCALE_ADOPT executes (R183). -/
def execScaleAdopt (bib : Bib) (queue : BitVec 14) (s : State) : Host.Outcome State Fault Refusal :=
  live s (workOn s bib.toNat queue.toNat .scaleAdopt (onExecutor scaleRun))

/-- SCALE_PIN executes (R182). -/
def execScalePin (bib : Bib) (queue : BitVec 14) (s : State) : Host.Outcome State Fault Refusal :=
  live s (workOn s bib.toNat queue.toNat .scalePin (onExecutor scaleRun))

/-- SUMMARY executes (R299). -/
def execSummary (bib : Bib) (queue : BitVec 14) (s : State) : Host.Outcome State Fault Refusal :=
  live s (workOn s bib.toNat queue.toNat .summary (onExecutor summaryRun))

end Sys2Proof.Machine
end

