-- ==== Sys2Proof/Machine/Events.lean ====
section
/-!
DEFINITION. Event records, their acceptance and the event log (R421 to R424); the finish record (R431 to R438).
-/

namespace Sys2Proof.Machine

/-! ### Records (R421) -/

/-- The 32 bytes of an event record with the SEQ that MG assigns, CRC included. -/
def Event.bytes (e : Event) (seq : BitVec 16) : List Byte :=
  let w0 : BitVec 32 := e.bib.setWidth 32 ||| (e.cls.setWidth 32 <<< 12) ||| (e.code.setWidth 32 <<< 16)
    ||| (e.sev.setWidth 32 <<< 24) ||| ((bit e.loss).setWidth 32 <<< 26)
  let w1 : BitVec 32 := e.ctx.setWidth 32 ||| ((bit e.ctxv).setWidth 32 <<< 10) ||| (seq.setWidth 32 <<< 16)
  let w3 : BitVec 32 := (bitsAt e.lap 32 16).setWidth 32 ||| ((bit e.par).setWidth 32 <<< 16) ||| (e.rep.setWidth 32 <<< 17)
  let bs := [w0, w1, bitsAt e.lap 0 32, w3, e.arg0, e.arg1, e.arg2].flatMap (bytesLE 4)
  bs ++ bytesLE 4 (crc32c bs)

/-- The record that 32 bytes hold. -/
def eventOf (bs : List Byte) : Event :=
  let w (i : Nat) : BitVec 32 := msgWord bs i
  { bib := bitsAt (w 0) 0 12, cls := bitsAt (w 0) 12 4, code := bitsAt (w 0) 16 8, sev := bitsAt (w 0) 24 2
    loss := bitAt (w 0) 26, ctx := bitsAt (w 1) 0 10, ctxv := bitAt (w 1) 10
    lap := (w 2).setWidth 48 ||| ((bitsAt (w 3) 0 16).setWidth 48 <<< 32), par := bitAt (w 3) 16, rep := bitsAt (w 3) 17 15
    arg0 := w 4, arg1 := w 5, arg2 := w 6 }

/-! ### Records waiting for the finish record (R432, R433) -/

/-- A body of 48 bytes from its words. -/
def bodyOf (ws : List (BitVec 32)) : BitVec 384 := wordLE 384 (ws.flatMap (bytesLE 4))

/-- A record waits for commit, or is left out where 32 wait (R433). -/
def queueRecord (s : State) (rtype : BitVec 8) (body : BitVec 384) : State :=
  let f := s.finish
  if f.waiting.length < 32 then { s with finish := { f with waiting := f.waiting ++ [(rtype, body)] } }
  else { s with finish := { f with lost := satAdd f.lost 1 } }

/-- An EVENT record (R433); the limit of 64 between two LBs is kept where it is committed. -/
def queueEvent (s : State) (bs : List Byte) : State := queueRecord s 3 (wordLE 384 bs)

/-- The record that an accepted event commits: FENCE and UNFENCE as FENCE records, ERROR and FATAL as EVENT records. -/
def queueAccepted (s : State) (e : Event) (bs : List Byte) : State :=
  let unit := decide (e.cls = 13)
  if unit && (decide (e.code = 3) || decide (e.code = 4)) then
    let lifted := decide (e.code = 4)
    let c := e.arg0
    let ep := decide (c = 9)
    queueRecord s 4 (bodyOf [e.bib.setWidth 32 ||| ((bit ep).setWidth 32 <<< 12) ||| ((bit lifted).setWidth 32 <<< 13)
      ||| ((bitsAt c 0 8).setWidth 32 <<< 14), bitsAt e.lap 0 32, (bitsAt e.lap 32 16).setWidth 32])
  else if 2 ≤ e.sev.toNat then queueEvent s bs
  else s

/-! ### Acceptance (R423, R424) -/

/-- A record written into the event ring. -/
def writeLog (s : State) (seq : BitVec 16) (bs : List Byte) : State :=
  s.writeSpad (s.log.evbase.toNat + 32 * (seq.toNat % s.log.evn.toNat)) bs

/-- MG accepts one record: SEQ, log or backlog, finish record; or drops it while the backlog is full (R424). -/
def acceptEvent (s : State) (e : Event) : State :=
  let l := s.log
  if decide (l.evn = 0) && decide (256 ≤ l.backlog.length) then
    let s1 := { s with log := { l with drop := satAdd l.drop 1 } }
    if 2 ≤ e.sev.toNat then { s1 with finish := { s1.finish with lost := satAdd s1.finish.lost 1 } } else s1
  else
    let bs := e.bytes l.next
    let s1 := { s with log := { l with next := l.next + 1 } }
    let s2 := if l.evn = 0 then { s1 with log := { s1.log with backlog := l.backlog ++ [wordLE 256 bs] } }
      else writeLog s1 l.next bs
    queueAccepted s2 e bs

/-- Bibs in the order of the round that begins after `last`. -/
def roundFrom (last : Nat) : List Nat := allBibs.filter (fun b => decide (last < b)) ++ allBibs.filter (fun b => decide (b ≤ last))

/-- The EVENT message of a far unit (R361, R421). -/
def eventMsg (e : Event) : List Byte := linkMsg 0x19 0 0 0 (e.bytes 0)

/-- The record that unit b hands to MG next: its oldest, or for a far unit the first of it that reached MG, with what was
merged into it since (R422; DEDUCED: log entry 21). -/
def nextRecord (u : UnitSt) (b : Nat) : Option Event :=
  if isFar b then u.evArrived.head?.map (fun e =>
    if u.evSent then { e with loss := e.loss || u.lossNext, rep := (u.events.headD e).rep } else e)
  else u.events.head?.map (fun e => { e with loss := u.lossNext })

/-- The unit once MG has accepted a record of it: it holds that record no more (R422). -/
def UnitSt.handed (u : UnitSt) (b : Nat) : UnitSt :=
  if isFar b then
    (if u.evSent then { u with evArrived := u.evArrived.tail, events := u.events.tail, evSent := false, lossNext := false }
     else { u with evArrived := u.evArrived.tail })
  else { u with events := u.events.tail, lossNext := false }

/-- A far unit sends its oldest record and holds it until MG has accepted it. -/
def sendEvent (s : State) (b : Nat) : State :=
  match (s.unit b).events with
  | [] => s
  | e :: _ => sendMsg (s.onUnit b (fun u => { u with evSent := true })) false b (eventMsg { e with loss := (s.unit b).lossNext })

/-- The far unit has a record to send. -/
def sendsEvent (s : State) (b : Nat) : Bool := isFar b && decide ((s.unit b).events ≠ []) && !(s.unit b).evSent

/-- EVENT_ACCEPT: MG accepts the oldest record of the next poster in the round. A far unit's record takes its turn once it has
come as an EVENT message; one that has a record to send sends it as the round reaches it (R421, R423; log entry 21). -/
def execEventAccept (s : State) : Host.Outcome State Fault Refusal :=
  live s (match (roundFrom s.log.lastBib).find? (fun b => (nextRecord (s.unit b) b).isSome || sendsEvent s b) with
    | none => s
    | some b =>
      match nextRecord (s.unit b) b with
      | none => sendEvent s b
      | some e =>
        let s1 := s.onUnit b (fun u => u.handed b)
        acceptEvent { s1 with log := { s1.log with lastBib := b } } e)

/-- An EVENT message that holds no reserved bit and no event outside the catalogue (R16, R361, R421, R425). -/
def eventMsgOk (m : List Byte) : Bool :=
  let w := msgWord m 4
  linkMsgOk m 0x19 3 0 0 0 && decide (bitsAt w 27 5 = 0) && decide (bitsAt (msgWord m 5) 11 5 = 0)
    && catalogued (bitsAt w 12 4) (bitsAt w 16 8)

/-- EVENT_MESSAGE: a far unit's record reaches MG, and waits for its turn in the round (R421, R423). -/
def execEventMessage (bib : Bib) (msg : List Byte) (s : State) : Host.Outcome State Fault Refusal :=
  live s (
    if !eventMsgOk msg then badMsg s 0 bib.toNat msg
    else s.onUnit bib.toNat (fun u => { u with evArrived := u.evArrived ++ [eventOf (msgRest msg)] }))

/-- The backlog written into the log in SEQ order (R424). -/
def flushBacklog (s : State) : State :=
  if s.log.evn = 0 then s
  else
    let s1 := s.log.backlog.foldl (fun t w => writeLog t (bitsAt w 48 16) (bytesLE 32 w)) s
    { s1 with log := { s1.log with backlog := [] } }

/-- EVCTL written: EVN above 8,192 leaves the word unchanged (R424). -/
def writeEvctl (s : State) (v : BitVec 32) : State :=
  if 8192 < (bitsAt v 0 14).toNat then s
  else flushBacklog { s with log := { s.log with evn := bitsAt v 0 14, evint := bitAt v 14 } }

/-- EVCTL_WRITE (R424), class PRIVILEGED. -/
def execEvctlWrite (agent : Agent) (value : BitVec 32) (s : State) : Host.Outcome State Fault Refusal :=
  access s (guarded s agent 0x54 agent.manages (writeEvctl s value))

/-- The event interrupt line (R424). -/
def eventInterrupt (s : State) : Bool := s.log.evint && decide (s.log.next ≠ s.log.ack)

/-! ### The finish record (R431 to R437) -/

/-- TIME of a record: MCLK cycles since power-on reset in units of 2^20, saturating; one MCLK cycle is nine CCLK cycles
(R22). -/
def recordTime (s : State) : BitVec 32 := satOf 32 (s.now / 9 / 2 ^ 20)

/-- The 64 bytes of a slot (R431). -/
def slotRecord (rtype : BitVec 8) (boot : BitVec 20) (rseq : BitVec 32) (body : BitVec 384) (time : BitVec 32) : BitVec 512 :=
  let w0 : BitVec 32 := rtype.setWidth 32 ||| 0x100 ||| (boot.setWidth 32 <<< 12)
  let bs := bytesLE 4 w0 ++ bytesLE 4 rseq ++ bytesLE 48 body ++ bytesLE 4 time
  wordLE 512 (bs ++ bytesLE 4 (crc32c bs))

/-- A slot holds a valid record (R434). -/
def slotValid (w : BitVec 512) : Bool := decide (crc32c (bytesLE 60 (bitsAt w 0 480)) = bitsAt w 480 32)

/-- RSEQ of a slot. -/
def slotSeq (w : BitVec 512) : BitVec 32 := bitsAt w 32 32

/-- The head of the ring: the valid record that none follows (R436). -/
def findHead (t : Tab (BitVec 512)) : Option (Nat × BitVec 512) :=
  let good := t.filter (fun p => slotValid p.2)
  good.find? (fun h => good.all (fun r =>
    let d := (slotSeq r.2 - slotSeq h.2).toNat
    !(decide (1 ≤ d) && decide (d ≤ 2 ^ 31 - 1))))

/-- The newest UPDATE_BEGIN or UPDATE_END behind a head is an UPDATE_BEGIN (R411). -/
def updateOpen (t : Tab (BitVec 512)) (head : BitVec 32) : Bool :=
  let age (w : BitVec 512) : Nat := (head - slotSeq w).toNat
  let marks := (t.map Prod.snd).filter (fun w => slotValid w && (decide (bitsAt w 0 8 = 5) || decide (bitsAt w 0 8 = 6)))
  marks.any (fun w => decide (bitsAt w 0 8 = 5) && marks.all (fun v => decide (age w ≤ age v)))

/-- HEAD_SCAN_DONE: Marshal takes the head record, and finds an update that was not ended (R411, R436). -/
def execHeadScanDone (s : State) : Host.Outcome State Fault Refusal :=
  let f := s.finish
  live s (
    if f.scanned || s.mg.step == .ready then s
    else match findHead f.slots with
      | some h => { s with
          finish := { f with scanned := true, head := some (wordOf 13 h.1), rseq := slotSeq h.2, boot := bitsAt h.2 12 20 }
          mg := { s.mg with updint := updateOpen f.slots (slotSeq h.2) } }
      | none => { s with finish := { f with scanned := true, head := none, rseq := 0, boot := 0 } })

/-- The slot after the head. -/
def nextSlot (f : Finish) : BitVec 13 := match f.head with
  | some h => h + 1
  | none => 0

/-- A free value for a slot that did not take what was written. -/
def freeSlot (n : Nat) : BitVec 512 :=
  (List.range 8).foldl (fun w k => w ||| ((Config.freeWord (n + k)).setWidth 512 <<< (64 * k))) 0

/-- A record written into the next slot; `good` tells whether it reads back as written (R434). -/
def writeSlotRecord (s : State) (rtype : BitVec 8) (body : BitVec 384) (good : Bool) : State :=
  let f := s.finish
  let boot := if rtype = 1 then f.boot + 1 else f.boot
  let w := slotRecord rtype boot (f.rseq + 1) body (recordTime s)
  let n := nextSlot f
  { s with
    freeCtr := if good then s.freeCtr else s.freeCtr + 8
    finish := { f with slots := tset 0 f.slots n.toNat (if good then w else freeSlot s.freeCtr)
                       head := some n, rseq := f.rseq + 1, boot := if good then boot else f.boot } }

/-- A record committed, or left out: one EVENT record beyond the 64 that two LBs admit (R410, R433, R434). -/
def commitRecord (s : State) (r : BitVec 8 × BitVec 384) : State :=
  if r.1 = 3 ∧ 64 ≤ s.finish.inLap then { s with finish := { s.finish with lost := satAdd s.finish.lost 1 } }
  else
    let t := writeSlotRecord s r.1 r.2 true
    { t with finish := { t.finish with inLap := if r.1 = 3 then t.finish.inLap + 1 else t.finish.inLap }
             mg := { t.mg with begun := t.mg.begun || decide (r.1 = 5) } }

/-- The next record to commit is an EVENT record beyond the limit: it is not written (R433). -/
def leftOut (s : State) (r : BitVec 8 × BitVec 384) : Bool := decide (r.1 = 3) && decide (64 ≤ s.finish.inLap)

/-- RECORD_COMMIT: the oldest waiting record is written and read back (R434); an EVENT beyond the 64 that two LBs admit is
left out (R433). -/
def execRecordCommit (readback : Bool) (s : State) : Host.Outcome State Fault Refusal :=
  live s (match s.finish.waiting with
    | [] => s
    | r :: rest =>
      if !s.finish.scanned || s.finish.pfailAt.isSome then s
      else if !readback && !leftOut s r then writeSlotRecord s r.1 r.2 false
      else
        let t := commitRecord s r
        { t with finish := { t.finish with waiting := rest } })

/-- BSTATE code (R225). -/
def BState.code : BState → BitVec 2
  | .idle => 0 | .staging => 1 | .armed => 2 | .confirming => 3

/-- Body of POWER_LOSS (R432). -/
def powerLossBody (s : State) : BitVec 384 :=
  let p := s.pace
  bodyOf [bitsAt p.lap 0 32,
    (bitsAt p.lap 32 16).setWidth 32 ||| (p.split.setWidth 32 <<< 16) ||| (p.phase.setWidth 32 <<< 24)
      ||| (s.baton.epoch.setWidth 32 <<< 26) ||| (s.baton.st.code.setWidth 32 <<< 30),
    wordOf 32 s.finish.waiting.length, s.log.next.setWidth 32]

/-- PFAIL (R435). -/
def execPfail (s : State) : Host.Outcome State Fault Refusal :=
  live s (
    if s.finish.pfailAt.isSome then s
    else
      let s1 := if s.finish.scanned then writeSlotRecord s 7 (powerLossBody s) true else s
      { s1 with finish := { s1.finish with waiting := [], pfailAt := some s.now } })

/-- POWER_OK: Marshal commits it before what came while PFAIL was asserted (R435). -/
def execPowerOk (s : State) : Host.Outcome State Fault Refusal :=
  live s (match s.finish.pfailAt with
    | none => s
    | some t => { s with finish := { s.finish with
        pfailAt := none, waiting := (8, bodyOf [satOf 32 ((s.now - t) / 9)]) :: s.finish.waiting } })

/-- The finish record at an LB: a LOSS record where EVENT records were left out. One that meets 32 waiting records is left
out itself, and the next counts it and what it counted (R433). -/
def turnFinish (s : State) : State :=
  let f := s.finish
  if f.lost = 0 then { s with finish := { f with inLap := 0 } }
  else if f.waiting.length < 32 then
    queueRecord { s with finish := { f with inLap := 0, lost := 0 } } 9 (bodyOf [f.lost, bitsAt s.pace.lap 0 32])
  else { s with finish := { f with inLap := 0, lost := satAdd f.lost 1 } }

/-- A background action that has begun is taken off MG's list. -/
def takeAction (s : State) (action : Nat) : Option ((BitVec 9 × BitVec 8 × BitVec 16) × State) :=
  match s.mg.background.find? (fun a => decide (a.2.1 = wordOf 8 action)) with
  | some a => some (a, { s with mg := { s.mg with background := s.mg.background.erase a } })
  | none => none

/-- Background work goes on: PHASE is IDLE (R203, R412). -/
def workIdle (s : State) : Bool := decide (s.pace.phase = 0)

/-- WEAR: 64 slots margin-read and rewritten in place where they read differently; `weak` lists those slots, and tells
of each whether it still differs (R437). -/
def execWear (weak : List (Nat × Bool)) (s : State) : Host.Outcome State Fault Refusal :=
  live s (match if workIdle s then takeAction s 6 else none with
    | none => s
    | some (_, t) =>
      let f := t.finish
      let read (n : Nat) : Bool := decide ((n + 8192 - f.wearPos.toNat) % 8192 < 64) && slotValid (tget 0 f.slots n)
      let bad := (weak.filter (fun p => read p.1 && p.2)).length
      { t with finish := { f with weak := satOf 10 (f.weak.toNat + bad), wearPos := f.wearPos + 64 } })

end Sys2Proof.Machine
end

