-- ==== Sys2Proof/Machine/Power.lean ====
section
/-!
DEFINITION. The power budget interface and the governor (R417 to R420), telemetry (R416).
-/

namespace Sys2Proof.Machine

/-- An 8-byte message of the budget interface (R417). -/
def budgetMsg (type : Nat) (seq : BitVec 8) (watts laplo : BitVec 16) : BitVec 64 :=
  wordOf 64 type ||| (seq.setWidth 64 <<< 8) ||| (watts.setWidth 64 <<< 32) ||| (laplo.setWidth 64 <<< 48)

/-- MG sends DEMAND (R418). -/
def sendDemand (s : State) (watts laplo : BitVec 16) : State :=
  let q := s.power.demandSeq + 1
  ({ s with power := { s.power with demandSeq := q, demand := watts } }).emit (.budget (budgetMsg 1 q watts laplo))

/-- DEMAND at an ANN with RPT 0, for the lap after the announced LB (R418). -/
def announceDemand (s : State) : State :=
  sendDemand s (if s.mg.demovr ≠ 0 then s.mg.demovr else s.power.lastPeak) (bitsAt (s.pace.lap + 1) 0 16)

/-- CAP: MG receives a message of the module power controller (R417, R420). -/
def execCap (msg : BitVec 64) (s : State) : Host.Outcome State Fault Refusal :=
  let type := (bitsAt msg 0 8).toNat
  live s (
    if type = 0 ∨ 3 < type ∨ bitsAt msg 16 16 ≠ 0 then s.malformed 0 5 (bitsAt msg 0 32) 0
    else if type = 2 then
      let left := match s.power.pendingCap with | some p => p.2.2 | none => 2
      { s with power := { s.power with pendingCap := some (bitsAt msg 32 16, bitsAt msg 8 8, left) } }
    else s)

/-- A pending CAP at a window boundary: it counts down, or takes effect with its CAPACK (R420). -/
def applyCap (s : State) : State :=
  match s.power.pendingCap with
  | some (w, q, n) =>
    if n ≤ 1 then
      let s1 := { s with power := { s.power with cap := w, capSeq := q, pendingCap := none } }
      (s1.postMg .cap (q.setWidth 32) (w.setWidth 32) 0).emit (.budget (budgetMsg 3 q w 0))
    else { s with power := { s.power with pendingCap := some (w, q, n - 1) } }
  | none => s

/-- The largest duty from 1 to 16 that the cap admits; 1 where none does (R419). Draws in 0.25 W. -/
def dutyFor (cap u : Nat) (f : ℚ) : Nat :=
  ((List.range 16).map (· + 1)).foldl
    (fun (d x : Nat) => if ((u : Nat) : ℚ) + ((x : Nat) : ℚ) * f / 16 ≤ ((cap : Nat) : ℚ) then x else d) 1

/-- GOVERNOR_WINDOW: a window of 1,024 CCLK cycles ends (R419). -/
def execGovernorWindow (s : State) : Host.Outcome State Fault Refusal :=
  let u := Config.drawFixed s.storage.pwrcal s.freeCtr
  let drawn := Config.drawIssue s.storage.pwrcal s.freeCtr
  let mean := Config.drawMean s.storage.pwrcal s.freeCtr
  let f : ℚ := (drawn : ℚ) * 16 / s.power.duty.toNat
  live s (
    let s1 := applyCap { s with freeCtr := s.freeCtr + 1 }
    let p := s1.power
    let d := if p.cap = 0xFFFF then 16 else dutyFor p.cap.toNat u f
    let above := decide (p.cap ≠ 0xFFFF) && decide ((p.cap.toNat : ℚ) < (u : ℚ) + f / 16)
    let s2 := if above && !p.floorPosted then s1.postMg .powerFloor (p.cap.setWidth 32) (wordOf 32 u) 0 else s1
    { s2 with power := { s2.power with
      duty := wordOf 5 d, floorPosted := p.floorPosted || above
      throtw := if s.power.duty.toNat < 16 then satAdd p.throtw 1 else p.throtw
      throt := satAdd p.throt (wordOf 32 (64 * (16 - s.power.duty.toNat)))
      peak := if p.peak.toNat < mean.toNat then mean else p.peak } })

/-! ### Telemetry (R416) -/

/-- The governor throttles the unit: it withholds 16 − d of every 16 cycles of a window with duty d from converters and stream
engines, and nothing from any other (R29, R419). -/
def throttled (b : Nat) : Bool := kindOf b == some .cv || kindOf b == some .se

/-- The record of one unit in a snapshot. -/
def unitRecord (s : State) (b : Nat) : List Byte :=
  let u := s.unit b
  let w0 : BitVec 32 := wordOf 32 b ||| (((kindOf b).elim 0 Kind.code).setWidth 32 <<< 12)
    ||| ((bit (u.health.fenced || !u.held)).setWidth 32 <<< 16)
  [w0, Config.busyCycles b s.freeCtr, u.instr, if throttled b then s.power.throt else 0, Config.energy b s.freeCtr, u.errs].flatMap
    (bytesLE 4) ++ List.replicate 40 0

/-- The lap header with its LOST count and CRC. -/
def snapshotHeader (first lost : BitVec 16) (words : List (BitVec 32)) (records : List Byte) : List Byte :=
  let w3 : BitVec 32 := first.setWidth 32 ||| (lost.setWidth 32 <<< 16)
  let h := (words.take 3 ++ [w3] ++ words.drop 3).flatMap (bytesLE 4) ++ List.replicate 40 0
  h ++ bytesLE 4 (crc32c (h ++ records))

/-- Header words of the lap that ends: offsets 0, 4, 8, then 16. -/
def headerWords (s : State) : List (BitVec 32) :=
  [bitsAt s.pace.lap 0 32,
   (bitsAt s.pace.lap 32 16).setWidth 32 ||| (s.baton.attempt.setWidth 32 <<< 16) ||| (s.baton.epoch.setWidth 32 <<< 24),
   s.power.cap.setWidth 32 ||| (s.power.demand.setWidth 32 <<< 16), s.power.throtw]

/-- The accumulations start again; POWER_FLOOR was posted or not in a lap, whatever its attempts (R419). -/
def clearCounts (s : State) : State :=
  { s with units := (s.units.map (fun p => (p.1, { p.2 with instr := 0, errs := 0 }))).filter
             (fun p => decide (p.2 ≠ ({} : UnitSt)))
           power := { s.power with peak := 0, throtw := 0, throt := 0 }
           freeCtr := s.freeCtr + 1 }

/-- Telemetry at an LB: the ending lap's accumulation becomes the held snapshot, or is discarded (R416). The held form
keeps the header words, PEAK, then the unit records. -/
def turnTelemetry (s : State) (rerun : Bool) : State :=
  if rerun then clearCounts s
  else
    let snap := (headerWords s).flatMap (bytesLE 4) ++ bytesLE 4 (s.power.peak.setWidth 32)
      ++ ((List.range 153).flatMap (unitRecord s))
    let lost := if s.power.snapshot.isSome then satAdd s.power.lostSnap 1 else s.power.lostSnap
    clearCounts { s with power := { s.power with
      snapshot := some snap, lostSnap := lost, lastPeak := s.power.peak, floorPosted := false } }

/-- SNAPSHOT: the held snapshot is written into the telemetry ring (R416). -/
def snapshotAction (s : State) : State :=
  let n := s.mg.teln.toNat
  if n = 0 then { s with power := { s.power with lostSnap := satAdd s.power.lostSnap 1 } }
  else match s.power.snapshot with
    | none => s
    | some bs =>
      let k := s.power.telIndex % n
      let a := s.mg.telbase.toNat + 9856 * k
      let words := (List.range 4).map (msgWord bs)
      let records := bs.drop 20
      let h := snapshotHeader (bitsAt (msgWord bs 4) 0 16) s.power.lostSnap words records
      let s1 := (s.writeSpad (a + 64) records).writeSpad a h
      { s1 with power := { s1.power with snapshot := none, lostSnap := 0, telIndex := (k + 1) % n } }

end Sys2Proof.Machine
end

