-- ==== Sys2Proof/Machine/Doorbells.lean ====
section
/-!
DEFINITION. Doorbells (R316) and the waits of LAPWAIT (R303).
-/

namespace Sys2Proof.Machine

/-- A doorbell discarded: DBERR and a DOORBELL event (R316, R425). -/
def discardBell (s : State) (q : Nat) (tail : BitVec 16) (agent : BitVec 11) : State :=
  (s.onQueue q (fun x => { x with dberr := true, dberrAt := s.now })).post 0 0 .doorbell (s.ownerOf q) (wordOf 32 q) (tail.setWidth 32) (agent.setWidth 32)

/-- The new tail is valid for the queue (R316). -/
def bellValid (x : Queue) (tail : BitVec 16) : Bool :=
  decide ((tail - x.head).toNat ≤ 2 ^ (x.rsize.toNat + 4)) && decide ((x.tail - x.head).toNat ≤ (tail - x.head).toNat)

/-- A doorbell that an agent may ring: TAIL set, or the doorbell discarded (R316). -/
def ringBell (s : State) (q : Nat) (tail : BitVec 16) (agent : BitVec 11) (mine : Bool) : State :=
  let x := s.queue q
  if mine && decide (x.st ≠ .off) && bellValid x tail then closeUnissued (s.setQueue q { x with tail := tail }) q
  else discardBell s q tail agent

/-- The agent may ring the queue (R316). -/
def mayRing (s : State) (a : Agent) (q : Nat) : Bool :=
  a.manages || (match s.ownerOf q, a.ctx? with
    | some o, some c => decide (o = c)
    | _, _ => false)

/-- DOORBELL: a QDB write with STAGE 0 (R316). -/
def execDoorbell (agent : Agent) (queue : BitVec 14) (tail : BitVec 16) (s : State) : Host.Outcome State Fault Refusal :=
  access s (if apertureOpen s then ringBell s queue.toNat tail agent.code (mayRing s agent queue.toNat) else s)

/-- A QDB write with STAGE 1 (R316). -/
def stageBell (s : State) (a : Agent) (q : Nat) (tail : BitVec 16) : State :=
  if mayRing s a q && decide ((s.queue q).st ≠ .off) then s.onQueue q (fun x => { x with stail := tail })
  else discardBell s q tail a.code

/-- DOORBELL_STAGE: a QDB write with STAGE 1 (R316). -/
def execDoorbellStage (agent : Agent) (queue : BitVec 14) (tail : BitVec 16) (s : State) :
    Host.Outcome State Fault Refusal :=
  access s (if apertureOpen s then stageBell s agent queue.toNat tail else s)

/-! ### LAPWAIT (R303) -/

/-- TLAP of a LAPWAIT. -/
def bTlap (b : BitVec 128) : BitVec 48 := bitsAt b 0 48
/-- TSPLIT -/
def bTsplit (b : BitVec 128) : BitVec 8 := bitsAt b 48 8
/-- TPHASE -/
def bTphase (b : BitVec 128) : BitVec 2 := bitsAt b 56 2
/-- SPEN -/
def bSpen (b : BitVec 128) : Bool := bitAt b 58
/-- PHEN -/
def bPhen (b : BitVec 128) : Bool := bitAt b 59
/-- REL -/
def bRel (b : BitVec 128) : Bool := bitAt b 60

/-- The target of a LAPWAIT is reached on unit b (R303). -/
def lapwaitMet (s : State) (b : Nat) (i : Issued) : Bool :=
  let d := ((s.lapOf b).1 - i.target).toNat
  (decide (1 ≤ d) && decide (d < 2 ^ 47))
    || (decide (d = 0) && (!bSpen i.body || decide ((bTsplit i.body).toNat ≤ s.pace.split.toNat))
        && (!bPhen i.body || decide (s.pace.phase = bTphase i.body)))

/-- The oldest issued instruction of a LAPWAIT queue ends where its target is reached. -/
def endLapwait (s : State) (b : Nat) (i : Issued) : Issued :=
  if i.op == .lapwait && i.finished.isNone && lapwaitMet s b i then { i with finished := some .ok } else i

/-- Every LAPWAIT of a unit whose target is reached ends (R303). -/
def releaseLapwaits (s : State) (b : Nat) : State :=
  if (s.unit b).issued.any (fun i => i.op == .lapwait) then
    s.onUnit b (fun u => { u with issued := u.issued.map (endLapwait s b) })
  else s

/-- LAPWAIT: the wait of a queue's oldest issued instruction is looked at (R303). -/
def execLapwait (bib : Bib) (queue : BitVec 14) (s : State) : Host.Outcome State Fault Refusal :=
  live s (workOn s bib.toNat queue.toNat .lapwait (fun t i => (t, endLapwait t bib.toNat i)))

end Sys2Proof.Machine
end

