-- ==== Sys2Proof/Machine/Laps.lean ====
section
/-!
DEFINITION. The pace bus: announcements, lap and split boundaries, the issue hold (R195 to R200), the start list
(R201 to R203, R409), the converter partition (R206), requests and their tables (R204, R208, R224), pacers (R267, R271).
-/

namespace Sys2Proof.Machine

/-- PACE_FAULT for a row of R198, with the LAP that the bus drives. -/
def paceFault (s : State) (row : Nat) (lap : BitVec 48) : State :=
  s.postMg .paceFault (wordOf 32 row) (bitsAt lap 0 32) 0

/-- A message to every far unit that holds a bib. -/
def toFar (s : State) (type : Nat) (seq : BitVec 8) (lap : BitVec 48) (rpt par : Bool) (val : BitVec 32) : State :=
  s.each s.farUnits (fun t b => sendBaton t true b (batonMsg type seq t.baton.epoch b lap rpt par val))

/-! ### Announcements (R198, R200, R211, R220, R418) -/

/-- No request is held and no USED layer is NARROW (R220). -/
def allWide (s : State) : Bool :=
  decide (reqLayers s = []) && !s.tables.lmActive.any (fun p => usedOf p.2 && decide (widthOf p.2 = 0))

/-- An ANN pulse. -/
def announce (s : State) (rpt : Bool) : State :=
  let early := s.pace.lastLb.any (fun c => decide (s.now < c + 4096)) || decide (s.baton.st = .confirming)
  let s1 := if early then paceFault s 4 s.pace.busLap else s
  let s2 := { s1 with pace := { s1.pace with ann := some (s.now, rpt), passed := false }
                      baton := { s1.baton with barred := early } }
  let s3 := if rpt && allWide s2 then s2.postMg .widest 0 0 0 else s2
  let s4 := if decide (s3.baton.st = .idle) && !early && batonDue s3 rpt then stageAll s3 else s3
  let s5 := toFar s4 0x22 0 (lapAfter s4) rpt false 8192
  if rpt then s5 else announceDemand s5

/-- ANNOUNCEMENT (R211). -/
def execAnnouncement (rpt : Bool) (s : State) : Host.Outcome State Fault Refusal := live s (announce s rpt)

/-- ISSUE_HOLD_BEGIN: 64 CCLK cycles before an announced LB (R200). -/
def execIssueHoldBegin (s : State) : Host.Outcome State Fault Refusal :=
  live s (if s.pace.ann.isSome then { s with pace := { s.pace with hold := true } } else s)

/-- ISSUE_HOLD_END: 64 CCLK cycles after the LB (R200). -/
def execIssueHoldEnd (s : State) : Host.Outcome State Fault Refusal :=
  live s (answerClosing { s with pace := { s.pace with hold := false } } (fun b => !isFar b))

/-- An armed baton is deferred without being counted; requests made meanwhile are satisfied by the next commit (R198, R208,
R211, R213). -/
def deferArmed (s : State) : State :=
  if s.baton.st = .armed then deferAll { s with baton := { s.baton with st := .idle, pendingNext := false } } else s

/-- The announcement lapses in the cycle in which its LB was due (R198, R200, R211). -/
def lapseAnnouncement (s0 : State) : State :=
  if s0.pace.ann.isNone then s0
  else
    let s := passCommit s0
    let s1 := toFar (deferArmed (paceFault s 2 s.pace.busLap)) 0x26 0 (lapAfter s) (annRpt s) false 0
    answerClosing { s1 with pace := { s1.pace with ann := none, passed := false, hold := false }
                            baton := { s1.baton with barred := false } } (fun b => !isFar b)

/-- ANNOUNCEMENT_LAPSE (R198). -/
def execAnnouncementLapse (s : State) : Host.Outcome State Fault Refusal := live s (lapseAnnouncement s)

/-- PACE_BUS_CHANGE: the bus changes without its pulse; what was taken stays (R198). -/
def execPaceBusChange (lap : BitVec 48) (split : BitVec 8) (phase : BitVec 2) (s : State) :
    Host.Outcome State Fault Refusal :=
  let p := s.pace
  live s (if decide (lap = p.busLap) && decide (split = p.busSplit) && decide (phase = p.busPhase) then s
    else { paceFault s 5 lap with pace := { p with busLap := lap, busSplit := split, busPhase := phase } })

/-! ### Background actions (R203, R409, R412) -/

/-- A background action: begun while PHASE is IDLE, waiting otherwise. -/
def fireBackground (s : State) (entry : BitVec 9) (action : BitVec 8) (arg : BitVec 16) : State :=
  if s.pace.phase = 0 then
    { s with mg := { s.mg with background := s.mg.background ++ [(entry, action, arg)] } }
  else { s with mg := { s.mg with waiting := s.mg.waiting ++ [(entry, action, arg)] } }

/-- Waiting actions begin when PHASE is IDLE. -/
def beginWaiting (s : State) : State :=
  if s.pace.phase = 0 then
    { s with mg := { s.mg with background := s.mg.background ++ s.mg.waiting, waiting := [] } }
  else s

/-- At an LB: waiting actions and MARGINs not finished are dropped with START_LAPSE; a SCRUB of class 0 leaves
its progress (scrubNext) to the next of its class, a WEAR goes on (R203, R412, R437). -/
def dropActions (s : State) : State :=
  let margins := s.mg.background.filter (fun a => decide (a.2.1 = 5))
  let s1 := (s.mg.waiting ++ margins).foldl (fun t a => t.postMg .startLapse (a.1.setWidth 32) (a.2.1.setWidth 32) 0) s
  { s1 with mg := { s1.mg with waiting := [], background := s1.mg.background.filter (fun a => decide (a.2.1 = 6)) } }

/-! ### The start list (R201, R202) -/

/-- A baton request (R208, R224); one made after the commit point of an armed baton is the next baton's. -/
def requestBaton (s : State) : State :=
  if s.baton.st = .armed then { s with baton := { s.baton with pending := true, pendingNext := true } }
  else { s with baton := { s.baton with pending := true } }

/-- One action fires. -/
def fireAction (s : State) (entry : BitVec 9) (action : BitVec 8) (arg : BitVec 16) : State :=
  match action.toNat with
  | 1 =>
    let q := (bitsAt arg 0 14).toNat
    let d := s.draw
    ringBell d.2 q (d.2.queue q).stail (d.1.setWidth 11) true
  | 2 => requestBaton s
  | 3 => snapshotAction s
  | 4 | 5 | 6 => fireBackground s entry action arg
  | 7 => s.postMg .mark (arg.setWidth 32 ||| (entry.setWidth 32 <<< 16)) 0 0
  | _ => s

/-- An entry fires at the split just taken (R202). -/
def entryFires (s : State) (w : BitVec 128) : Bool :=
  bitAt w 0 && decide (bitsAt w 16 8 = s.pace.split)
    && decide (0 < (bitsAt w 32 16).toNat) && decide (s.pace.lap.toNat % (bitsAt w 32 16).toNat = (bitsAt w 48 16).toNat)
    && (bitAt w 1 || decide (s.baton.attempt = 1))

/-- The start list at an SB, in increasing entry number. -/
def runStartList (s : State) : State :=
  s.tables.startList.foldl (fun t p => if entryFires s p.2 then
      fireAction t (wordOf 9 p.1) (bitsAt p.2 8 8) (bitsAt p.2 64 16) else t) s

/-- The built-in actions of minimal mode, at an SB into split 0 (R409, R410). -/
def runBuiltIn (s : State) : State :=
  if decide (s.pace.split = 0) && (s.mg.mode == .minimal || s.mg.mode == .updating) then
    let s1 := fireAction (fireAction (fireAction s 0x103 3 0) 0x104 4 0) 0x106 6 0
    if s.pace.lap.toNat % 256 = 0 then fireAction s1 0x105 5 0xFFFF else s1
  else s

/-! ### Split boundaries (R195, R206, R215, R303) -/

/-- A staged partition takes effect 64 CCLK cycles or more after its last acknowledgement (R206). -/
def applyPmask (s : State) : State :=
  let b := s.baton
  match b.pmaskStaged with
  | some v =>
    if decide (b.pmaskWait = []) && b.pmaskLast.any (fun c => decide (c + 64 ≤ s.now)) then
      { s with baton := { b with pmask := v, pmaskStaged := none, pmaskLast := none } }
    else s
  | none => s

/-- An SB pulse: SPLIT and PHASE taken, then everything that an SB brings about. -/
def takeSplit (s : State) (split : BitVec 8) (phase : BitVec 2) : State :=
  let s1 := { s with pace := { s.pace with split := split, phase := phase, busSplit := split, busPhase := phase } }
  let s2 := liftSynced (applyPmask s1)
  let s3 := runBuiltIn (runStartList (beginWaiting s2))
  (allBibs.filter (fun b => !isFar b)).foldl releaseLapwaits s3

/-- SPLIT_BOUNDARY (R195). -/
def execSplitBoundary (split : BitVec 8) (phase : BitVec 2) (s : State) : Host.Outcome State Fault Refusal :=
  live s (takeSplit s split phase)

/-! ### Lap boundaries (R197, R198, R216) -/

/-- The LB comes in the announced cycle: 8,192 CCLK cycles after its ANN, or, where the sender's clock has not moved
since the ANN, once its commit point has passed (log entry 2). -/
def isAnnounced (s : State) : Bool :=
  match s.pace.ann with
  | some (c, _) => decide (s.now = c + 8192) || (decide (s.now = c) && s.pace.passed)
  | none => false

/-- The pending request, the return step and the committed copies after a commit (R208, R211, R220, R222). -/
def commitBaton (s : State) : State :=
  let b := s.baton
  let lm := tabOf 4096 (fun l => tget 0 b.lmap l
    ||| (if reqOf (s.layer l) && !b.taken.contains l then (0x40000000 : BitVec 32) else 0))
  { s with
    tables := { s.tables with ftActive := b.ftab, lmActive := lm }
    baton := { b with
      epoch := b.epoch + 1, committedSeq := b.seq, commits := b.commits + 1
      pending := b.pendingNext, pendingNext := false, defcnt := 0
      returnStep := if b.widths.any (fun w => decide (some w.1 = b.returnStep)) then none else b.returnStep
      st := .confirming, members := s.members, dones := [], wrongDone := [] } }

/-- Compute-die members that are armed apply the baton at the announced LB, whatever MG's state (R212). -/
def applyMembers (s : State) (rerun : Bool) : State :=
  (allBibs.filter (fun b => batonKind b && !isFar b && decide ((s.unit b).member = .armed))).foldl
    (fun t b => memberApply t b rerun) s

/-- The files of every converter at a boundary (R121): LAP loads first, then adoptions. -/
def turnFiles (s : State) : State :=
  let s1 := s.each ((bibsOf .cv).filter (fun b => (s.unit b).held)) (fun t b =>
    t.onUnit b (fun u => { u with files := u.files.boundary s.now }))
  adoptAll s1

/-- Once-per-lap marks of every unit start again; a re-run is still its lap (R197, R427). -/
def clearCorrected (s : State) : State :=
  s.each (allBibs.filter (fun b => (s.unit b).health.corrected)) (fun t b =>
    t.onUnit b (fun u => { u with health := { u.health with corrected := false } }))

/-- The lap, its parity and the attempt after an LB (R197, R225). -/
def turnLap (s : State) (lap : BitVec 48) : State :=
  let rerun := decide (lap = s.pace.lap)
  { s with
    pace := { s.pace with lap := lap, busLap := lap, parity := !s.pace.parity, lastLb := some s.now }
    baton := { s.baton with attempt := if rerun then satAdd s.baton.attempt 1 else 1, stumble := false } }

/-- What every LB brings about, whether announced or not: `seq` is the SEQ of the baton committed at it. -/
def turnBoundary (s : State) (rerun : Bool) (oldLap : BitVec 48) (oldPar : Bool) (seq : BitVec 8) : State :=
  let s1 := turnRecords (turnFiles s) oldLap oldPar rerun
  let s2 := { s1 with tables := { s1.tables with lastUse := resetLastUse s1.tables.lastUse }
                      baton := { s1.baton with boundarySeq := seq } }
  let s3 := toFar s2 0x25 seq s2.pace.lap rerun s2.pace.parity 0
  let s4 := turnFinish s3
  dropActions (if rerun then s4 else clearCorrected s4)

/-- An announced LB: an armed baton commits (R211, R212). -/
def takeAnnounced (s : State) : State × BitVec 8 :=
  let s1 := { s with pace := { s.pace with ann := none, passed := false }
                     baton := { s.baton with barred := false } }
  if s.baton.st = .armed then (commitBaton s1, s.baton.seq) else (s1, 0)

/-- An unannounced LB: PACE_FAULT, and an armed baton is deferred (R198, R211). -/
def takeUnannounced (s : State) (lap : BitVec 48) : State :=
  let s1 := paceFault s 1 lap
  if s.baton.st = .armed then toFar (deferArmed s1) 0x26 0 (lapAfter s1) (annRpt s1) false 0 else s1

/-- The LAP that an LB drives breaks R196 (R198 row 3). -/
def lapWrong (s : State) (announced : Bool) (lap : BitVec 48) : Bool :=
  let old := s.pace.lap
  !(decide (lap = old) || decide (lap = old + 1)) || (announced && (annRpt s != decide (lap = old)))

/-- An LB pulse. -/
def takeLap (s0 : State) (lap : BitVec 48) (phase : BitVec 2) : State :=
  let ann := isAnnounced s0
  let s := finishClose (if ann then passCommit s0 else s0)
  let rerun := decide (lap = s.pace.lap)
  let s1 := if lapWrong s ann lap then paceFault s 3 lap else s
  let st := turnTelemetry s1 rerun
  let r : State × BitVec 8 := if ann then takeAnnounced st else (takeUnannounced st lap, 0)
  let t := turnLap r.1 lap
  takeSplit (turnBoundary (if ann then applyMembers t rerun else t) rerun s.pace.lap s.pace.parity r.2) 0 phase

/-- LAP_BOUNDARY (R197). -/
def execLapBoundary (lap : BitVec 48) (phase : BitVec 2) (s : State) : Host.Outcome State Fault Refusal :=
  live s (takeLap s lap phase)

/-! ### Requests and tables of the baton (R57, R204, R206, R208, R224) -/

/-- The agent is the profile context, COACH or HOST. -/
def profileAgent (s : State) (a : Agent) : Bool :=
  a.manages || (match s.profileCtx, a.ctx? with
    | some p, some c => decide (p = c)
    | _, _ => false)

/-- BATON_REQUEST: BATREQ written (R224). -/
def execBatonRequest (agent : Agent) (s : State) : Host.Outcome State Fault Refusal :=
  access s (guarded s agent 0x18 (profileAgent s agent) (requestBaton s))

/-- Every REQ bit cleared (R224). -/
def clearRequests (s : State) : State :=
  rebuild { s with tables := { s.tables with lmActive := tabOf 4096 (fun l => s.layer l &&& ~~~0x40000000#32) } }

/-- FALLBACK_CLEAR: FBCLR written (R224). -/
def execFallbackClear (agent : Agent) (s : State) : Host.Outcome State Fault Refusal :=
  access s (guarded s agent 0x18 (profileAgent s agent) (clearRequests s))

/-- A partition staged and sent to every unfenced converter (R206). Where no converter is unfenced there is no acknowledgement:
the 64 cycles count from the write (log entry 46). -/
def stagePmask (s : State) (v : BitVec 64) : State :=
  let cvs := (bibsOf .cv).filter (fun b => s.serving b)
  let s1 := { s with baton := { s.baton with
    pmaskStaged := some v, pmaskWait := cvs, pmaskLast := if cvs = [] then some s.now else none } }
  s1.each cvs (fun t b => t.emit (.pmask (wordOf 12 b) v))

/-- PMASK_WRITE (R206). -/
def execPmaskWrite (agent : Agent) (value : BitVec 64) (s : State) : Host.Outcome State Fault Refusal :=
  access s (guarded s agent 0x28 (profileAgent s agent) (stagePmask s value))

/-- PMASK_ACK: a converter acknowledges the staged copy (R206). -/
def execPmaskAck (bib : Bib) (s : State) : Host.Outcome State Fault Refusal :=
  let b := s.baton
  live s (if b.pmaskWait.contains bib.toNat then
      let w := b.pmaskWait.erase bib.toNat
      { s with baton := { b with pmaskWait := w, pmaskLast := if w = [] then some s.now else b.pmaskLast } }
    else s)

/-- FORMAT_TABLE_WRITE: the staged copy of an entry, and the baton that is staging (R57, R209, R211, R448). -/
def execFormatTableWrite (agent : Agent) (ctx : BitVec 10) (index : BitVec 6) (value : BitVec 32) (s : State) :
    Host.Outcome State Fault Refusal :=
  let k := 64 * ctx.toNat + index.toNat
  access s (guarded s agent (0x200000 + 4 * k) (mayWrite s agent ctx.toNat)
    (restageWrite { s with tables := { s.tables with ftStaged := tset 0 s.tables.ftStaged k value } }))

/-- LAYER_MAP_WRITE: the staged copy of an entry (R204, R441, R445). -/
def execLayerMapWrite (agent : Agent) (layer : BitVec 12) (value : BitVec 32) (s : State) :
    Host.Outcome State Fault Refusal :=
  let l := layer.toNat
  access s (guarded s agent (0x10000 + 4 * l) (s.profileCtx.isSome && profileAgent s agent)
    (restageWrite { s with tables := { s.tables with lmStaged := tset 0 s.tables.lmStaged l (value &&& layerFields) } }))

/-! ### Pacers (R267, R271) -/

/-- Units with pacers. -/
def pacerUnits : List Nat := bibsOf .cv ++ bibsOf .se

/-- PACER_STEP: a CCLK cycle passes; every pacer takes a step, after MG_FATAL too (R267; log entry 1). -/
def execPacerStep (s : State) : Host.Outcome State Fault Refusal :=
  .next (({ s with now := s.now + 1 }).each pacerUnits (fun t b => t.onUnit b (fun u =>
    let p := pacerNext (u.pacer0, u.pacer1)
    { u with pacer0 := p.1, pacer1 := p.2
             drawnRound := u.drawnRound - 1, drawnReal := u.drawnReal - 1, drawnBits := u.drawnBits - 1 })))

/-- PACER_RESEED: every lane of a unit takes the seed that waits, once no instruction that draws runs on it (R271). -/
def execPacerReseed (bib : Bib) (s : State) : Host.Outcome State Fault Refusal :=
  let u := s.unit bib.toNat
  live s (match u.reseed with
    | some seed =>
      if u.issued.any (fun i => i.finished.isNone && drawsPacer i.op i.head i.prog) then s
      else
        let p := pacerSeed seed
        s.setUnit bib.toNat { u with pacer0 := p.1, pacer1 := p.2, reseed := none, drawnRound := 0, drawnReal := 0, drawnBits := 0 }
    | none => s)

end Sys2Proof.Machine
end

