-- ==== Sys2Proof/Machine/Sampler.lean ====
section
/-!
DEFINITION. The token sampler (R383 to R390).
-/

namespace Sys2Proof.Machine

/-- TEMP -/
def bTemp (b : BitVec 128) : BitVec 32 := bitsAt b 0 32
/-- TOPK -/
def bTopk (b : BitVec 128) : Nat := (bitsAt b 32 11).toNat
/-- TOPP -/
def bTopp (b : BitVec 128) : BitVec 32 := bitsAt b 64 32

/-- Order key of a logit as binary32. -/
def logitKey (w : BitVec 32) : Nat := (if bitAt w 31 then ~~~w else w ^^^ 0x80000000).toNat

/-- A token put into rank order: descending key, lower index first. -/
def rankToken (x : Nat × BitVec 32) : List (Nat × BitVec 32) → List (Nat × BitVec 32)
  | [] => [x]
  | y :: ys =>
    if logitKey y.2 < logitKey x.2 ∨ (logitKey y.2 = logitKey x.2 ∧ x.1 < y.1) then x :: y :: ys
    else y :: rankToken x ys

/-- A token's weight: EXP2 of (l − lmax) × c (R385 step 5). -/
def tokenWeight (lmax c l : BitVec 32) : ℚ :=
  let y := toF32 (((ofF32 l).add (ofF32 lmax).negate).mul (ofF32 c))
  (ofF32 (exp2Op y)).rat

/-- The shortest prefix whose weight reaches a bound, or the whole list (R385 step 7). -/
def nucleus (bound : ℚ) : ℚ → List (Nat × ℚ) → List (Nat × ℚ)
  | _, [] => []
  | acc, x :: xs => if bound ≤ acc + x.2 then [x] else x :: nucleus bound (acc + x.2) xs

/-- A token put into index order. -/
def indexToken (x : Nat × ℚ) : List (Nat × ℚ) → List (Nat × ℚ)
  | [] => [x]
  | y :: ys => if x.1 < y.1 then x :: y :: ys else y :: indexToken x ys

/-- The first token whose cumulative weight exceeds a target (R387). -/
def drawToken (target : ℚ) : ℚ → List (Nat × ℚ) → Nat × ℚ
  | _, [] => (0, 0)
  | acc, x :: xs => if xs = [] ∨ target < acc + x.2 then x else drawToken target (acc + x.2) xs

/-- A token record (R388) with what it says of its sequence. -/
structure Token where
  token : BitVec 32
  prob : BitVec 32
  nnuc : Nat
  flags : BitVec 5
  lmax : BitVec 32
  deriving DecidableEq, Repr

/-- The bytes of a token record. -/
def Token.bytes (t : Token) : List Byte :=
  bytesLE 4 t.token ++ bytesLE 4 t.prob ++ bytesLE 4 (wordOf 32 t.nnuc ||| (t.flags.setWidth 32 <<< 16)) ++ bytesLE 4 t.lmax

/-- A record with one token certain. -/
def sureToken (n : Nat) (nan inf : Bool) (lmax : BitVec 32) : Token :=
  { token := wordOf 32 n, prob := 0x3F800000, nnuc := 1
    flags := 16 ||| ((bit nan).setWidth 5 <<< 2) ||| ((bit inf).setWidth 5 <<< 3), lmax := lmax }

/-- Steps 5 to 8 of R385 and the draw of R387. -/
def chooseToken (body : BitVec 128) (word : BitVec 64) (nan : Bool) (lmax : BitVec 32) (ranked : List (Nat × BitVec 32)) :
    Token :=
  let c := toF32 ((ofF32 0x3FB8AA3B).div (ofF32 (bTemp body)))
  let topp := (ofF32 (bTopp body)).rat
  let k := if bTopk body ≠ 0 then bTopk body else if topp < 1 then 1024 else ranked.length
  let kept := (ranked.take k).map (fun x => (x.1, tokenWeight lmax c x.2))
  let total (l : List (Nat × ℚ)) : ℚ := l.foldl (fun a x => a + x.2) 0
  let nuc := if topp < 1 then nucleus (topp * total kept) 0 kept else kept
  if nuc.length ≤ 1 then sureToken (nuc.headD (0, 0)).1 nan false lmax
  else
    let w := total nuc
    let x := drawToken ((word.toNat : ℚ) * pow2 (-64) * w) 0 (nuc.foldr indexToken [])
    { token := wordOf 32 x.1, prob := toF32 (xval (x.2 / w) false), nnuc := nuc.length
      flags := (bit nan).setWidth 5 <<< 2, lmax := lmax }

/-- The record of a sequence (R385): its logits as binary32 in index order, and its keyed word. -/
def sampleRow (body : BitVec 128) (word : BitVec 64) (logits : List (BitVec 32)) : Token :=
  let ls := (List.range logits.length).zip logits
  let nan := ls.any (fun x => (ofF32 x.2).isNan)
  let live := ls.filter (fun x => !(ofF32 x.2).isNan && decide (x.2 ≠ 0xFF800000))
  let ranked := live.foldr rankToken []
  match ranked with
  | [] => { token := 0xFFFFFFFF, prob := 0, nnuc := 0, flags := 2 ||| ((bit nan).setWidth 5 <<< 2), lmax := 0xFF800000 }
  | x :: _ =>
    if x.2 = 0x7F800000 then sureToken x.1 nan true 0x7F800000
    else if bTemp body &&& 0x7FFFFFFF = 0 ∨ bTopk body = 1 then sureToken x.1 nan false x.2
    else chooseToken body word nan x.2 ranked

/-- The logits of sequence r, as binary32. -/
def logitsOf (s : State) (i : Issued) (r : Nat) : List (BitVec 32) :=
  (List.range i.len).map (fun k => toF32 (sourceElem s i [] 1 r k).v)

/-- The logits of sequence r lie within the grant (R389). -/
def logitsIn (s : State) (i : Issued) (r : Nat) : Bool :=
  let f := i.field 1
  let w := plainBits (fFmt f)
  decide (i.len = 0) || (addrIn (gSpad (s.grant i.ctx)) (plainAddr f w r 0) (w / 8)
    && addrIn (gSpad (s.grant i.ctx)) (plainAddr f w r (i.len - 1)) (w / 8))

/-- Address of record r. -/
def recordAddr (i : Issued) (r : Nat) : Int := plainAddr (i.field 4) 128 r 0

/-- Summary of a SAMPLE so far (R388): the records with a token. -/
def Issued.tokens (i : Issued) : Nat := (i.summary.elim 0 (fun x => x.value.toNat))

/-- One sequence (R385, R389). -/
def sampleUnit (s : State) (i : Issued) : State × Issued :=
  let r := i.pos
  let a := recordAddr i r
  let put (t : Token) : State := { s with mem := writeBytes s.mem (addrKey a) t.bytes }
  if !addrIn (gSpad (s.grant i.ctx)) a 16 then (s, { i.fail .denied 0xFFFFFFFF with pos := i.height })
  else if !logitsIn s i r then
    (put { token := 0xFFFFFFFF, prob := 0, nnuc := 0, flags := 1, lmax := 0 },
     { i.fail .denied r with pos := i.height, done := i.done + 1 })
  else
    let ls := logitsOf s i r
    let t := sampleRow i.body (i.keyedWord 0x06 (hDraw i.head) r 0) ls
    let nans := (ls.filter (fun x => (ofF32 x).isNan)).length
    let has := decide (t.token ≠ 0xFFFFFFFF)
    let nan := i.sawNan || decide (nans ≠ 0)
    let inf := i.sawInf || bitAt t.flags 3
    (put t, { i with
      pos := r + 1, done := i.done + 1, emptySeen := i.emptySeen || !has, sawNan := nan, sawInf := inf
      counts := { i.counts with nan := satAdd i.counts.nan (satOf 32 nans) }
      summary := some { value := wordOf 64 (i.tokens + (if has then 1 else 0)), kind := 3, status := none
                        flags := sumFlags nan inf false false false } })

/-- A SAMPLE whose sequences are all done. -/
def sampleEnd (i : Issued) : Issued :=
  { i with
    finished := some i.endStatus
    summary := some { value := wordOf 64 i.tokens, kind := 3, status := none
                      flags := sumFlags i.sawNan i.sawInf false false false } }

/-- Up to `steps` sequences of a SAMPLE. -/
def sampleRun : Nat → State → Issued → State × Issued
  | 0, s, i => (s, i)
  | k + 1, s, i =>
    if i.height ≤ i.pos then (s, sampleEnd i)
    else
      let r := sampleUnit s i
      if r.2.height ≤ r.2.pos then (r.1, sampleEnd r.2) else sampleRun k r.1 r.2

/-- TEMP of R383. -/
def tempOk (t : BitVec 32) : Bool :=
  decide (t &&& 0x7FFFFFFF = 0) || (!bitAt t 31 && decide (0x00800000 ≤ t.toNat) && decide (t.toNat < 0x7F800000))

/-- FORMAT rules of SAMPLE (R383, R384). -/
def sampleFormat (o : Offer) : Bool :=
  let f1 := o.field 1
  let f4 := o.field 4
  tempOk (bTemp o.body) && decide (bTopk o.body ≤ 1024)
    && decide (0 < (bTopp o.body).toNat) && decide ((bTopp o.body).toNat ≤ 0x3F800000)
    && (decide (fFmt f1 = 1) || decide (fFmt f1 = 2) || decide (fFmt f1 = 3))
    && decide (fFmt f4 = 0) && decide ((fBase f4).toNat % 16 = 0) && decide (fSk f4 = 0) && decide (fSr f4 ≠ 0)
    && decide (fRbs (o.field 6) = 0) && decide (fRbd (o.field 6) = 0)
    && !spansMeet (plainSpan f4 128 o.height 1) (plainSpan f1 (plainBits (fFmt f1)) o.height o.len)

/-- SAMPLE (R385). -/
def execSample (bib : Bib) (queue : BitVec 14) (steps : Nat) (s : State) : Host.Outcome State Fault Refusal :=
  live s (workOn s bib.toNat queue.toNat .sample (sampleRun steps))

end Sys2Proof.Machine
end

