-- ==== Sys2Proof/Machine/Windows.lean ====
section
/-!
DEFINITION. The host side of a slice: column commands and their side band (R335 to R337), conversion windows
(R338 to R347), reports of windows (R346).
-/

namespace Sys2Proof.Machine

/-! ### Window registers (R338) -/

/-- CTX -/
def wCtx (w : BitVec 256) : BitVec 10 := bitsAt w 0 10
/-- WFDI -/
def wWfdi (w : BitVec 256) : BitVec 6 := bitsAt w 10 6
/-- NFDI -/
def wNfdi (w : BitVec 256) : BitVec 6 := bitsAt w 16 6
/-- FSEL -/
def wFsel (w : BitVec 256) : Bool := bitAt w 22
/-- PROF -/
def wProf (w : BitVec 256) : Bool := bitAt w 23
/-- STATE: 0 CLOSED, 1 OPEN, 2 CLOSING -/
def wState (w : BitVec 256) : Nat := (bitsAt w 30 2).toNat
/-- TENSOR -/
def wTensor (w : BitVec 256) : BitVec 24 := bitsAt w 32 24
/-- LAYER -/
def wLayer (w : BitVec 256) : Nat := (bitsAt w 64 12).toNat
/-- RSR -/
def wRsr (w : BitVec 256) : Bool := bitAt w 76
/-- LAPK -/
def wLapk (w : BitVec 256) : Bool := bitAt w 77
/-- SRULE -/
def wSrule (w : BitVec 256) : Bool := bitAt w 78
/-- TEN -/
def wTen (w : BitVec 256) : Bool := bitAt w 79
/-- DRAW -/
def wDraw (w : BitVec 256) : BitVec 8 := bitsAt w 80 8
/-- TRK -/
def wTrk (w : BitVec 256) : Nat := (bitsAt w 96 14).toNat
/-- First byte of the narrow region. -/
def wNbase (w : BitVec 256) : Nat := (bitsAt w 128 32).toNat + (bitsAt w 160 5).toNat * 2 ^ 32
/-- NSLOTS -/
def wNslots (w : BitVec 256) : Nat := (bitsAt w 192 25).toNat

/-- Stack bytes of a slice: 96 GiB (R335). -/
def stackBytes : Nat := 96 * 2 ^ 30

/-- WS of R339. -/
def wideSlot (d : Desc) : Nat := 64 * ceilDiv (16 + bodyBytes d 0) 64

/-- NS of R339. -/
def narrowSlot (d : Desc) : Nat :=
  64 * ceilDiv (16 + bodyBytes d 0 + (if dSfmt d = 0 then 0 else 16 + bodyBytes d 1)) 64

/-- A window of unit b. -/
def State.window (s : State) (b w : Nat) : Window := tget {} (s.unit b).slice.windows w

/-- The state with a window replaced. -/
def State.setWindow (s : State) (b w : Nat) (v : Window) : State :=
  s.onUnit b (fun u => { u with slice := { u.slice with windows := tset {} u.slice.windows w v } })

/-- Narrow region of a window: first byte and bytes. -/
def Window.region (v : Window) : Nat × Nat := (wNbase v.regs, narrowSlot v.ndesc * wNslots v.regs)

/-- The window is OPEN on an unfenced slice (R337, R364). -/
def windowOpen (s : State) (b w : Nat) : Bool := decide (wState (s.window b w).regs = 1) && s.serving b

/-- Memory number of narrow slot k of a window on unit b. -/
def narrowKey (b : Nat) (v : Window) (k : Nat) : Nat := stackKey (indexOf b) (wNbase v.regs + narrowSlot v.ndesc * k)

/-! ### Conversion of a slot (R342, R344, R352) -/

/-- Slots of a converted tile: valid elements, then padding. -/
def windowSlots (count : Nat) (els : List Decoded) : List Slot :=
  (els.zip (List.range 4096)).map (fun p => if p.2 < count then .num p.1.v p.1.dazzed else .pad)

/-- Rounding of element i of slot k. -/
def windowRound (s : State) (b : Nat) (v : Window) (k i : Nat) : Round :=
  let r := v.regs
  if wRsr r then
    let key : Key := ⟨v.seed, wTensor r, if wLapk r then (s.unit b).farLap else 0, 0x02, wDraw r⟩
    .sr (bitsAt (keyed key (wordOf 32 k) (wordOf 32 i)) 0 16)
  else .rne

/-- The blocks of a narrow slot: data tile, then scale block. -/
def narrowBytes (v : Window) (epoch : BitVec 4) (k count : Nat) (poison : Bool) (body sbody : List Byte) : List Byte :=
  let r := v.regs
  let blk (kind : Nat) (x : List Byte) : List Byte :=
    blockBytes (wTensor r) v.nfdi poison false (wordOf 16 k) epoch (wCtx r) kind count x
  blk 0 body ++ (if dSfmt v.ndesc = 0 then [] else blk 1 sbody)

/-- A narrow slot written; the slot leaves the read cache (R345). -/
def writeNarrow (s : State) (b w k : Nat) (bs : List Byte) : State :=
  let v := s.window b w
  ({ s with mem := writeBytes s.mem (narrowKey b v k) bs }).onUnit b (fun u =>
    { u with slice := { u.slice with
      cache := u.slice.cache.filter (fun c => decide (c.win ≠ wordOf 6 w) || decide (c.slot ≠ k)) } })

/-- A narrow slot written poisoned (R101, R342). -/
def poisonNarrow (s : State) (b w k count : Nat) : State :=
  let v := s.window b w
  let z (kind : Nat) : List Byte := List.replicate (bodyBytes v.ndesc kind) 0
  writeNarrow s b w k (narrowBytes v (s.unit b).epoch k count true (z 0) (z 1))

/-- The checks of R97 with the substitutions of R342 and R344: expected FDI `fdi`. -/
def checkSlot (v : Window) (epoch : BitVec 4) (k : Nat) (fdi : BitVec 6) (d : Blk) (sb : Option Blk) : Option Status :=
  let e : Stream := { ctx := wCtx v.regs, tensor := wTensor v.regs, fdi := fdi, rtag := wordOf 16 k }
  checkPosition false epoch e (wordOf 16 k) 0 d sb none

/-- The event that R98 gives for a failed slot: a window has no stream number, and its words for one are free
(log entry 6). -/
def slotEvent (s : State) (b w k : Nat) (st : Status) (d : Blk) (sb : Option Blk) : State :=
  let f := s.draw
  let v := s.window b w
  let ctx := some (wCtx v.regs).toNat
  match st with
  | .checksum =>
    let bad := if d.crcOk then sb.getD d else d
    let kind : Nat := if d.crcOk then 1 else 0
    f.2.post b b .checksum ctx ((bitsAt f.1 0 16).setWidth 32 ||| (wordOf 32 kind <<< 16))
      (bad.tag.setWidth 32 ||| ((wordOf 16 k).setWidth 32 <<< 16)) (wordOf 32 k)
  | .skew => f.2.post b b .skew ctx (bitsAt f.1 0 32)
      ((wordOf 16 k).setWidth 32 ||| ((bitsAt f.1 32 16).setWidth 32 <<< 16))
      (d.tag.setWidth 32 ||| ((sb.elim (bitsAt f.1 48 16) Blk.tag).setWidth 32 <<< 16))
  | _ => s

/-- A complete wide slot checked and narrowed, or written poisoned (R342, R346). -/
def narrowSlotWrite (s : State) (b w k : Nat) (tile : List Byte) : State :=
  let v := s.window b w
  let u := s.unit b
  let d := parseBlock 0 tile
  match checkSlot v u.epoch k (wWfdi v.regs) d none with
  | some st => poisonNarrow (slotEvent s b w k st d none) b w k d.count
  | none =>
    let els := decodeTile v.wdesc (fun _ => 0) [] d.count d.body []
    let r := buildTile v.ndesc (wSrule v.regs) (decide (dSfmt v.ndesc ≠ 0)) 0 (fun _ => 0) []
      (windowRound s b v k) (els.map Decoded.v) (windowSlots d.count els)
    let s1 := writeNarrow s b w k
      (narrowBytes v u.epoch k d.count false (r.1.payload v.ndesc) (r.1.scaleBody v.ndesc))
    if wTen v.regs then
      s1.setWindow b w { v with amax := maxBf v.amax r.2.2.2.amax, counts := v.counts.add r.2.2.2.counts }
    else s1

/-- The wide tile of slot k as a view read serves it (R344). -/
def widenSlot (s : State) (b w k : Nat) : State × List Byte :=
  let v := s.window b w
  let u := s.unit b
  let n := 16 + bodyBytes v.ndesc 0
  let bs := readBytes s.mem (narrowKey b v k) (n + (if dSfmt v.ndesc = 0 then 0 else 16 + bodyBytes v.ndesc 1))
  let d := parseBlock 0 (bs.take n)
  let sb := if dSfmt v.ndesc = 0 then none else some (parseBlock 1 (bs.drop n))
  let out (poison : Bool) (body : List Byte) : List Byte :=
    blockBytes (wTensor v.regs) (wWfdi v.regs) poison false (wordOf 16 k) u.epoch (wCtx v.regs) 0 d.count body
  let st := match checkSlot v u.epoch k v.nfdi d sb with
    | none => if badZero v.ndesc (fun _ => 0) d.count 128 (sb.elim [] Blk.body) then some .format else none
    | x => x
  match st with
  | some st => (slotEvent s b w k st d sb, out true (List.replicate (bodyBytes v.wdesc 0) 0))
  | none =>
    let els := decodeTile v.ndesc (fun _ => 0) [] d.count d.body (sb.elim [] Blk.body)
    let wd := v.wdesc ||| 0x100000
    let r := buildTile wd false false 0 (fun _ => 0) [] (fun _ => .rne) (els.map Decoded.v) (windowSlots d.count els)
    (s, out false (r.1.payload wd))

/-! ### View accesses (R337, R342 to R345) -/

/-- VIEW_RANGE (R337). -/
def viewRange (s : State) (b w addr : Nat) : State :=
  s.post b b .viewRange (some (wCtx (s.window b w).regs).toNat) (wordOf 32 w) (wordOf 32 addr) (wordOf 32 (addr / 2 ^ 32))

/-- A slot that lacks units: SLICE_TORN, and its narrow slot poisoned (R343). -/
def tornSlot (s : State) (b w k count : Nat) (evicted : Bool) : State :=
  poisonNarrow (s.post b b .sliceTorn (some (wCtx (s.window b w).regs).toNat) (wordOf 32 w) (wordOf 32 k)
    ((bit evicted).setWidth 32)) b w k count

/-- A staging slot put in place of the one that has gone longest without a write, where all 64 are taken. -/
def openStaging (s : State) (b : Nat) : State :=
  let st := (s.unit b).slice.staging
  if st.length < 64 then s
  else match st with
    | [] => s
    | x :: rest =>
      let f := s.draw
      let s1 := f.2.onUnit b (fun u => { u with slice := { u.slice with staging := rest } })
      let count := if x.fresh.contains 0 then (parseBlock 0 (bytesLE 32 (tget 0 x.units 0))).count
        else (bitsAt f.1 0 13).toNat
      tornSlot s1 b x.win.toNat x.slot count true

/-- Units of the wide tile of a window. -/
def tileUnits (v : Window) : Nat := ceilDiv (16 + bodyBytes v.wdesc 0) 32

/-- The bytes of a staged tile. -/
def Staged.tile (x : Staged) (v : Window) : List Byte :=
  ((List.range (tileUnits v)).flatMap (fun n => bytesLE 32 (tget 0 x.units n))).take (16 + bodyBytes v.wdesc 0)

/-- A view write of one 32-byte unit to a valid slot; a write of padding is discarded (R339, R342, R343). -/
def stageWrite (s0 : State) (b w k n : Nat) (data : BitVec 256) : State :=
  let v := s0.window b w
  if tileUnits v ≤ n then s0
  else
    let same (x : Staged) : Bool := decide (x.win = wordOf 6 w) && decide (x.slot = k)
    let old := (s0.unit b).slice.staging.find? same
    let s := if old.isNone then openStaging s0 b else s0
    let x := old.getD { win := wordOf 6 w, slot := k, units := [], fresh := [] }
    let y : Staged := { x with units := tset 0 x.units n data, fresh := if x.fresh.contains n then x.fresh else n :: x.fresh }
    let rest := (s.unit b).slice.staging.filter (fun z => !same z)
    let keep (l : List Staged) : State := s.onUnit b (fun u => { u with slice := { u.slice with staging := l } })
    if n ≠ 0 then keep (rest ++ [y])
    else if (List.range (tileUnits v)).all (fun j => y.fresh.contains j) then
      narrowSlotWrite (keep rest) b w k (y.tile v)
    else tornSlot (keep rest) b w k (parseBlock 0 (bytesLE 32 data)).count false

/-- A view write (R337). -/
def viewAccessWrite (s : State) (b w addr : Nat) (data : BitVec 256) : State :=
  let v := s.window b w
  let k := addr / wideSlot v.wdesc
  if windowOpen s b w && decide (k < wNslots v.regs) then stageWrite s b w k (addr % wideSlot v.wdesc / 32) data
  else viewRange s b w addr

/-- A tile put into the read cache of 64 slots; the oldest entry makes room. -/
def cacheTile (s : State) (b : Nat) (c : Cached) : State :=
  s.onUnit b (fun u =>
    let l := u.slice.cache
    { u with slice := { u.slice with cache := (if l.length < 64 then l else l.tail) ++ [c] } })

/-- A view read: the 32 bytes returned (R337, R344). -/
def viewAccessRead (s : State) (b w addr : Nat) : State × BitVec 256 :=
  let v := s.window b w
  let ws := wideSlot v.wdesc
  let k := addr / ws
  let part (tile : List Byte) : BitVec 256 := wordLE 256 ((tile.drop (addr % ws / 32 * 32)).take 32)
  if windowOpen s b w && decide (k < wNslots v.regs) then
    match (s.unit b).slice.cache.find? (fun c => decide (c.win = wordOf 6 w) && decide (c.slot = k)) with
    | some c => (s, part c.bytes)
    | none =>
      let r := widenSlot s b w k
      (cacheTile r.1 b { win := wordOf 6 w, slot := k, bytes := r.2 }, part r.2)
  else (viewRange s b w addr, 0)

/-! ### Column commands (R335 to R337) -/

/-- Slice of a stack. -/
def sliceBib (stack : Nat) : Nat := firstBib .sl + stack

/-- The byte address that a slice forms under IMAP for a column command (R337, R455); IMAP 3 is never held (R455). -/
def columnAddress (imap : BitVec 2) (c : Column) : Nat :=
  let r := c.rest.toNat
  let ch := c.channel.toNat
  let pc := c.pseudo.toNat
  match imap.toNat with
  | 1 => r % 2 ^ 12 + 2 ^ 12 * pc + 2 ^ 13 * ch + 2 ^ 18 * (r / 2 ^ 12)
  | 2 => 3 * 2 ^ 30 * ch + (r % 2 ^ 8 + 2 ^ 8 * pc + 2 ^ 9 * (r / 2 ^ 8))
  | _ => r % 2 ^ 8 + 2 ^ 8 * pc + 2 ^ 9 * ch + 2 ^ 14 * (r / 2 ^ 8)

/-- The parity of a side-band word is even (R336). -/
def sidebandOk (x : BitVec 8) : Bool := (List.range 8).foldl (fun p k => p != bitAt x k) false == false

/-- SIDEBAND (R336). -/
def sidebandEvent (s : State) (b : Nat) (c : Column) : State :=
  s.post b b .sideband none (wordOf 32 (c.channel.toNat + 32 * c.pseudo.toNat)) 0 0

/-- A direct access below 96 GiB (R337). -/
def directAccess (s : State) (stack addr : Nat) (write : Bool) (data : BitVec 256) : State :=
  let k := stackKey stack (addr / 32 * 32)
  if write then { s with mem := writeBytes s.mem k (bytesLE 32 data) }
  else s.emit (.hostData (wordOf 4 stack) (wordLE 256 (readBytes s.mem k 32)))

/-- A column command with its side-band word: view access, direct access, or neither on a parity error. -/
def columnAccess (s : State) (stack : Nat) (sb : BitVec 8) (c : Column) (write : Bool) (data : BitVec 256) :
    Host.Outcome State Fault Refusal :=
  let b := sliceBib stack
  let w := (bitsAt sb 1 6).toNat
  let addr := columnAddress (s.unit b).slice.addrmap c
  let reply (t : State) (x : BitVec 256) : State := t.emit (.hostData (wordOf 4 stack) x)
  if s.mg.fatal then .next s
  else if !sidebandOk sb then
    .next (if write then sidebandEvent s b c else reply (sidebandEvent s b c) 0)
  else if bitAt sb 0 then
    .next (if write then viewAccessWrite s b w addr data
      else let r := viewAccessRead s b w addr; reply r.1 r.2)
  else if addr < stackBytes then .next (directAccess s stack addr write data)
  else .fault .stackAddress

/-- VIEW_WRITE (R342). -/
def execViewWrite (stack : BitVec 4) (sideband : BitVec 8) (col : Column) (data : BitVec 256) (s : State) :
    Host.Outcome State Fault Refusal :=
  columnAccess s stack.toNat sideband col true data

/-- VIEW_READ (R344). -/
def execViewRead (stack : BitVec 4) (sideband : BitVec 8) (col : Column) (s : State) :
    Host.Outcome State Fault Refusal :=
  columnAccess s stack.toNat sideband col false 0

/-- DIRECT_ACCESS (R337). -/
def execDirectAccess (stack : BitVec 4) (sideband : BitVec 8) (col : Column) (write : Bool) (data : BitVec 256)
    (s : State) : Host.Outcome State Fault Refusal :=
  columnAccess s stack.toNat sideband col write data

/-- HOST_REFRESH: accepted and completed with no effect on the core dies (R335). -/
def execHostRefresh (_stack : BitVec 4) (s : State) : Host.Outcome State Fault Refusal := live s s

/-! ### Reports of windows (R346) -/

/-- The stamp of a window's report: the announced lap and toggled parity between a report point and its BOUNDARY. -/
def windowStamp (u : UnitSt) : BitVec 8 × Bool :=
  if u.farStopped then (bitsAt u.announced 0 8, !u.farPar) else (bitsAt u.farLap 0 8, u.farPar)

/-- The STATS message of a window with TEN 1, its accumulation then cleared. -/
def reportWindow (s : State) (b w : Nat) (stamp : BitVec 8 × Bool) : State :=
  let v := s.window b w
  if wTen v.regs then
    let s1 := sendReport s b { entry := wordOf 14 (wTrk v.regs), lap8 := stamp.1, par := stamp.2
                               data := { amax := v.amax, nan := v.counts.nan, clip := v.counts.clip, flush := v.counts.flush } }
    s1.setWindow b w { v with amax := 0, counts := {} }
  else s

/-- A far unit's count is spent: it stops issuing, and a slice reports its open windows, stamped with the lap it holds
(R200, R346). -/
def stopFar (s : State) (b : Nat) : State :=
  let u := s.unit b
  let opened := (u.slice.windows.filter (fun p => decide (wState p.2.regs = 1))).map Prod.fst
  let s1 := if decide (kindOf b = some .sl) && s.serving b then
      opened.foldl (fun t w => reportWindow t b w (bitsAt u.farLap 0 8, u.farPar)) s
    else s
  s1.onUnit b (fun v => { v with farStopped := true, farStopAt := none })

/-- FAR_ISSUE_STOP (R200). -/
def execFarIssueStop (bib : Bib) (s : State) : Host.Outcome State Fault Refusal :=
  live s (if isFar bib.toNat && (s.unit bib.toNat).farStopAt.isSome then stopFar s bib.toNat else s)

/-- What a baton message brings about at its unit beyond R212: LAPWAITs released, and a count already spent (R200, R303). -/
def settleFar (s : State) (b : Nat) : State :=
  let s1 := releaseLapwaits s b
  if isFar b && (s1.unit b).farStopAt.any (fun c => decide (c ≤ s1.now)) then stopFar s1 b else s1

/-- ANNOUNCE reaches a far unit (R200). -/
def execAnnounce (bib : Bib) (msg : BitVec 128) (s : State) : Host.Outcome State Fault Refusal :=
  live s (settleFar (toUnit s bib.toNat 0x22 msg) bib.toNat)

/-- BOUNDARY reaches a far unit: what R212 gives it, and the LAPWAITs that its new lap satisfies (R303). -/
def execBoundary (bib : Bib) (msg : BitVec 128) (s : State) : Host.Outcome State Fault Refusal :=
  live s (settleFar (toUnit s bib.toNat 0x25 msg) bib.toNat)

/-- BATON_MESSAGE: a framed baton message arrives and is handled as its TYPE states (R210, R361). -/
def execBatonMessage (bib : Bib) (toUnit : Bool) (msg : List Byte) (s : State) : Host.Outcome State Fault Refusal :=
  let b := bib.toNat
  live s (match framedBaton msg with
    | some m =>
      if !batonMsgOk m then s.malformed (if toUnit then b else 0) 2 (bitsAt m 0 32) (if toUnit then 0 else b)
      else if toUnit then settleFar (unitTakes s b m) b else mgTakes s m
    | none => badMsg s (if toUnit then b else 0) (if toUnit then 0 else b) msg)

/-! ### WINDOW (R340, R341) -/

/-- WIN and OP of a WINDOW form. -/
def bWin (b : BitVec 128) : Nat := (bitsAt b 32 6).toNat
/-- OP: true for CLOSE. -/
def bWinClose (b : BitVec 128) : Bool := bitAt b 38

/-- The narrow format index that OPEN resolves (R338, R205). -/
def windowNfdi (s : State) (b : Nat) (r : BitVec 256) : BitVec 6 :=
  if wFsel r then layerIndex (tget 0 (s.unit b).lmap (wLayer r)) (wProf r) else wNfdi r

/-- What OPEN fixes in a window. -/
def openedWindow (s : State) (b c : Nat) (r : BitVec 256) : Window :=
  let n := windowNfdi s b r
  { regs := putBits r 30 (1 : BitVec 2), wdesc := unitFormat s b c (wWfdi r), ndesc := unitFormat s b c n, nfdi := n
    seed := (s.context c).cseed }

end Sys2Proof.Machine
end

