-- ==== Sys2Proof/Machine/Slices.lean ====
section
/-!
DEFINITION. SLICE PROGRAM, CONVERT and REEPOCH, STATS on a slice (R348 to R354), the programs a slice asks for (R351),
what WINDOW and SLICE forms check at issue (R340, R341, R350, R354).
-/

namespace Sys2Proof.Machine

/-! ### Plane groups (R349) -/

/-- S2 -/
def gSecond (g : BitVec 2048) : Bool := bitAt g 10
/-- PROG2 -/
def gProg2 (g : BitVec 2048) : Nat := (bitsAt g 11 8).toNat
/-- I1A, I1B, I1C: j from 0 to 2. -/
def gMap1 (g : BitVec 2048) (j : Nat) : Nat := (bitsAt g (32 + 4 * j) 4).toNat
/-- I2A, I2B, I2C. -/
def gMap2 (g : BitVec 2048) (j : Nat) : Nat := (bitsAt g (44 + 4 * j) 4).toNat
/-- The value that OMAP gives plane p. -/
def gOut (g : BitVec 2048) (p : Nat) : Nat := (bitsAt g (64 + 4 * p) 4).toNat
/-- KTENSOR -/
def gTensor (g : BitVec 2048) : BitVec 24 := bitsAt g 96 24
/-- LAPK -/
def gLapk (g : BitVec 2048) : Bool := bitAt g 120
/-- The registers of plane p. -/
def gPlane (g : BitVec 2048) (p : Nat) : BitVec 128 := bitsAt g (128 + 128 * p) 128

/-- First byte of the element array. -/
def pBase (w : BitVec 128) : Nat := (bitsAt w 0 32).toNat + (bitsAt w 32 5).toNat * 2 ^ 32
/-- FMT -/
def pFmt (w : BitVec 128) : Nat := (bitsAt w 37 8).toNat
/-- SFMT -/
def pSfmt (w : BitVec 128) : Nat := (bitsAt w 45 2).toNat
/-- GRP -/
def pGrp (w : BitVec 128) : Nat := (bitsAt w 47 2).toNat
/-- The plane may be read. -/
def pIn (w : BitVec 128) : Bool := bitAt w 49
/-- The plane may be written. -/
def pOut (w : BitVec 128) : Bool := bitAt w 50
/-- PSR -/
def pPsr (w : BitVec 128) : Bool := bitAt w 51
/-- First byte of the scale array. -/
def pScaleBase (w : BitVec 128) : Nat := (bitsAt w 64 32).toNat + (bitsAt w 96 5).toNat * 2 ^ 32

/-- A plane's format as a descriptor, SAT 1 and FTZ 0 (R351 step 4). -/
def planeDesc (w : BitVec 128) : Desc := wordOf 32 (pFmt w + 256 * pSfmt w + 1024 * pGrp w + 0x100000)

/-- The plane group that a SLICE PROGRAM names. -/
def planeGroup (s : State) (b : Nat) (f1 : BitVec 128) : BitVec 2048 :=
  tget 0 (s.unit b).slice.groups (bitsAt (fBase f1) 0 6).toNat

/-- Planes that a map names: 0 to 7. -/
def mapPlanes (m : Nat → Nat) : List Nat := ((List.range 3).map m).filter (fun p => decide (p < 8))

/-- Planes that the maps of a group's stages name: each is decoded, whether or not a program reads it (R351). -/
def planesRead (g : BitVec 2048) : List Nat := mapPlanes (gMap1 g) ++ (if gSecond g then mapPlanes (gMap2 g) else [])

/-- Planes written. -/
def planesWritten (g : BitVec 2048) : List Nat := (List.range 8).filter (fun p => pOut (gPlane g p))

/-- FORMAT rules of a plane group (R350). -/
def planesOk (g : BitVec 2048) (p1 p2 : BitVec 1024) (elements : Nat) : Bool :=
  let used := (List.range 8).filter (fun p => pIn (gPlane g p) || pOut (gPlane g p))
  used.all (fun p =>
      let w := gPlane g p
      plainFormat (pFmt w) && decide (pSfmt w ≠ 3) && (decide (pSfmt w = 0) == decide (pGrp w = 0))
        && (decide (pSfmt w = 0) || [0x04, 0x05, 0x10].contains (pFmt w)))
    && (planesRead g).all (fun p => pIn (gPlane g p))
    && (List.range 3).all (fun j => !programReads p1 (j + 1) || decide (gMap1 g j < 8))
    && (gSecond g || (planesWritten g).all (fun p => decide (gOut g p < 8)))
    && (decide (elements % 128 = 0) || used.all (fun p => decide (pSfmt (gPlane g p) = 0)))
    && decide (pLen p1 ≠ 0) && (!gSecond g || decide (pLen p2 ≠ 0))

/-! ### Evaluation of a plane group (R351, R352) -/

/-- Micro-ops j, j + 1, … applied in order; the temporaries that remain. -/
def runTemps (p : BitVec 1024) (srcs : List (BitVec 32)) (rnd : Nat → BitVec 24) :
    Nat → Nat → List (BitVec 32) → List (BitVec 32)
  | 0, _, temps => temps
  | n + 1, j, temps =>
    let w := pOp p j
    let x (i : Nat) : BitVec 32 := selWord p temps srcs (uSel w i)
    runTemps p srcs rnd n (j + 1) (temps.set (uDst w) (evalOp (uOp w) (uMod w) (x 0) (x 1) (x 2) (rnd j)))

/-- Element e of a plane, decoded. -/
def planeElem (s : State) (st : Nat) (w : BitVec 128) (e : Nat) : Decoded :=
  let d := planeDesc w
  let n := plainBits (pFmt w) / 8
  let code := leNat (readBytes s.mem (stackKey st (pBase w + n * e)) n)
  let sc := if dSfmt d = 0 then some 1
    else scaleVal (dSfmt d) (leNat (readBytes s.mem (stackKey st (pScaleBase w + scaleBytes (dSfmt d) * (e / dGroup d)))
      (scaleBytes (dSfmt d))))
  (decodeGroup d sc 0 [] [code]).headD padElem

/-- Key of a plane group's words (R352). -/
def planeKey (i : Issued) (g : BitVec 2048) (purpose draw : BitVec 8) : Key :=
  ⟨i.seed, gTensor g, if gLapk g then i.lap else 0, purpose, draw⟩

/-- The word of a key at element e: ROWC its high half, COLC its low half (R352). -/
def planeWord (k : Key) (e : Nat) : BitVec 64 := keyed k (bitsAt (wordOf 64 e) 32 32) (bitsAt (wordOf 64 e) 0 32)

/-- RND word of micro-op j in a stage. -/
def planeRnd (i : Issued) (g : BitVec 2048) (second : Bool) (e j : Nat) : BitVec 24 :=
  let base := hDraw i.head &&& 0xF0
  let draw := (if second then base + 0x10 else base) ||| wordOf 8 j
  bitsAt (planeWord (planeKey i g 0x03 draw) e) 40 24

/-- Temporaries before a stage: nothing has written them, so they are free (log entry 6). -/
def freeTemps (n : Nat) : List (BitVec 32) := (List.range 8).map (fun j => bitsAt (Config.freeWord (n + j)) 0 32)

/-- One element: the earlier counter of its conversions to binary32, and the temporaries after each stage. -/
def planeEval (s : State) (st : Nat) (i : Issued) (g : BitVec 2048) (e free : Nat) :
    Counted × List (BitVec 32) × List (BitVec 32) :=
  let els := (planesRead g).map (fun p => planeElem s st (gPlane g p) e)
  let pre := els.foldl (fun c x => firstCount c (preCount x)) Counted.none
  let word (p : Nat) : BitVec 32 := toF32 (planeElem s st (gPlane g p) e).v
  let src1 := (List.range 3).map (fun j => if programReads i.prog (j + 1) then word (gMap1 g j) else 0)
  let t1 := runTemps i.prog src1 (planeRnd i g false e) (pLen i.prog) 0 (freeTemps free)
  let src2 := (List.range 3).map (fun j =>
    let m := gMap2 g j
    if programReads i.prog2 (j + 1) then (if m < 8 then word m else t1.getD (m - 8) 0) else 0)
  let t2 := if gSecond g then runTemps i.prog2 src2 (planeRnd i g true e) (pLen i.prog2) 0 (freeTemps (free + 8)) else t1
  (pre, t1, t2)

/-- One plane written over elements e0 to e0 + n - 1 from the evaluated elements. PSR alone chooses its rounding; RMODE of
the instruction is accepted and not used (R66 against R349; DESIGN CHOICE: log entry 45). -/
def writePlane (s : State) (st : Nat) (i : Issued) (g : BitVec 2048) (e0 : Nat)
    (vals : List (Counted × List (BitVec 32) × List (BitVec 32))) (p : Nat) : State × TileSum :=
  let w := gPlane g p
  let d := planeDesc w
  let n := vals.length
  let m := gOut g p
  let xs := vals.map (fun v => ofF32 (if m < 8 then v.2.2.getD m 0 else v.2.1.getD (m - 8) 0))
  let round (j : Nat) : Round :=
    if pPsr w then .sr (bitsAt (planeWord (planeKey i g 0x02 ((hDraw i.head &&& 0xF8) ||| wordOf 8 p)) (e0 + j)) 0 16) else .rne
  let e := encodeTile d false (fun _ => 0) [] round (fitTo 4096 .pad (xs.map (fun x => Slot.num x false)))
  let codes := ((e.codes.take n).zip vals).map (fun c => (c.1.1, firstCount c.2.1 c.1.2))
  let bytes := plainBits (pFmt w) / 8
  let body := codes.flatMap (fun c => leBytes bytes c.1)
  let scales := (e.scales.take (n / dGroup d)).flatMap (leBytes (scaleBytes (dSfmt d)))
  let m1 := writeBytes s.mem (stackKey st (pBase w + bytes * e0)) body
  let m2 := writeBytes m1 (stackKey st (pScaleBase w + scaleBytes (dSfmt d) * (e0 / dGroup d))) scales
  let s2 := { s with mem := if dSfmt d = 0 then m1 else m2 }
  let a := plainSums (wordOf 32 (pFmt w)) codes
  let whole := sumUp xs
  (s2, if dSfmt d = 0 then a else { a with amax := whole.1, norm := whole.2.1, nonfin := whole.2.2 })

/-- Every array that n elements of a group touch from e0 on lies in the grant (R348). -/
def planesIn (s : State) (b : Nat) (i : Issued) (g : BitVec 2048) (e0 n : Nat) : Bool :=
  let r := stackGrant (s.unit b) i.ctx
  (planesRead g ++ planesWritten g).all (fun p =>
    let w := gPlane g p
    let d := planeDesc w
    let bytes := plainBits (pFmt w) / 8
    spanIn r (pBase w + bytes * e0) (bytes * n)
      && (decide (dSfmt d = 0) ||
          spanIn r (pScaleBase w + scaleBytes (dSfmt d) * (e0 / dGroup d)) (scaleBytes (dSfmt d) * ceilDiv n (dGroup d))))

/-- Up to 2,048 elements of a plane group. -/
def planeUnit (s : State) (b : Nat) (i : Issued) : State × Issued :=
  let st := indexOf b
  let g := planeGroup s b (i.field 1)
  let e0 := 128 * (fSk (i.field 1)).toNat + i.pos
  let n := min 2048 (i.elements - i.pos)
  if !planesIn s b i g e0 n then (s, { i.fail .denied i.pos with pos := i.elements })
  else
    let vals := (List.range n).map (fun j => planeEval s st i g (e0 + j) (s.freeCtr + 16 * j))
    let r := (planesWritten g).foldl (fun (acc : State × Issued) p =>
      let w := writePlane acc.1 st i g e0 vals p
      (w.1, acc.2.absorbOnly w.2)) (s, i)
    ({ r.1 with freeCtr := r.1.freeCtr + 16 * n }, { r.2 with pos := i.pos + n, done := i.done + n })

/-! ### Blocks within the stack grant (R348) -/

/-- The block of entry `num` lies in the grant, or not in a stack. -/
def blockGranted (s : State) (b : Nat) (i : Issued) (d : Desc) (num kind : Nat) (dest : Bool) (j : Nat) : Bool :=
  let e := s.stream num
  let tag := (if dest then e.wtag else e.rtag) + wordOf 16 j
  match blockKey e d kind tag with
  | some k => decide (e.pspace.toNat ≠ indexOf b + 2)
      || spanIn (stackGrant (s.unit b) i.ctx) (k - stackKey (indexOf b) 0) (blockStride d kind)
  | none => true

/-- The blocks of field n, j positions on, lie in the grant. -/
def fieldGranted (s : State) (b : Nat) (i : Issued) (n j : Nat) : Bool :=
  (entriesOf (i.field n) (i.desc n)).all (fun p => blockGranted s b i (i.desc n) p.1 p.2 (isDest i.op n) j)

/-- Every block of the next position lies in the grant. -/
def positionGranted (s : State) (b : Nat) (i : Issued) : Bool :=
  (streamFields i.slots).all (fun n => fieldGranted s b i n 0)

/-- A position outside the grant: the instruction ends with DENIED, its remaining destination tiles poisoned (R104, R239,
R348). -/
def sliceDenied (s : State) (i : Issued) : State × Issued :=
  let j := i.fail .denied i.pos
  let r := stopOn sePoison s j j.endStatus
  if isStream (i.field 4) then r else (s, { j with finished := some j.endStatus })

/-! ### SLICE CONVERT and REEPOCH (R354) -/

/-- Status of a read position: R97, COUNT (R229), its side tile where it is moved (R142), its zero points (R40). -/
def sliceStatus (i : Issued) (p : PosRead) : Option Status :=
  match p.status with
  | some x => some x
  | none =>
    if p.d.count ≠ 128 * i.rowsAt i.pos || p.o.any (fun o => !sideOk (i.desc 1) p.d.count o.body)
      || badZero (i.desc 1) (fun _ => 0) p.d.count (i.len - 128 * (i.tileAt i.pos).2) (p.s.elim [] Blk.body) then some .format
    else none

/-- The good tile of a converted position; descriptors with rotation or capture name a bulk move (R128). -/
def sliceTile (s : State) (b : Nat) (i : Issued) (p : PosRead) : OutPos :=
  if dRot (i.desc 4) ≠ 0 ∨ dOcap (i.desc 4) ≠ 0 then moveTile s i i.pos p
  else
    let pl := i.tileAt i.pos
    let rows := i.rowsAt i.pos
    let d4 := i.desc 4
    let els := decodeTile (i.desc 1) (fun _ => 0) [] p.d.count p.d.body (p.s.elim [] Blk.body)
    let r := buildTile d4 (hSrule i.head) (decide (dSfmt d4 ≠ 0)) 0 (fun _ => 0) []
      (fun e => seRound (s.unit b) b s.freeCtr i e (32 * pl.1 + e / 128) (128 * pl.2 + e % 128))
      (els.map Decoded.v) (destSlots rows (fun e => decide (i.len ≤ 128 * pl.2 + e % 128)) (els.map (fun e => (e.v, e.dazzed))))
    { field := 4, count := 128 * rows, good := some { body := r.1.payload d4, sbody := r.1.scaleBody d4, sum := some r.2.2.2 } }

/-- One position converted, or tiles written that waited for room. -/
def sliceConvUnit (s : State) (b : Nat) (i : Issued) : State × Issued :=
  if i.stopAs.isSome then stopOn sePoison s i .ok
  else if i.outs ≠ [] then drainOuts s i
  else
    let p := readPosition s i 1 []
    let s1 := advanceRead (positionEvents s b i 1 p i.pos) i 1
    match sliceStatus i p with
    | some .skew =>
      let j := i.fail .skew i.pos
      stopOn sePoison (haltField s1 i 1 .skew) j j.endStatus
    | some x => drainOuts s1 { i.fail x i.pos with outs := [badTile i i.pos] }
    | none => drainOuts s1 { i with outs := [sliceTile s b i p] }

/-! ### Scale blocks that a slice reads from the scratchpad (R354) -/

/-- Scale entries in the scratchpad whose next block is written and has not crossed the link: number and descriptor. -/
def scalesDue (s : State) (i : Issued) : List (Nat × Desc) :=
  ((streamFields i.slots).filter (fun n => !isDest i.op n && (i.op != .stats || n == 1))).flatMap (fun n =>
    (entriesOf (i.field n) (i.desc n)).filterMap (fun x =>
      let e := s.stream x.1
      if crosses i e x.2 && !e.readerWaits && (crossedBlock s i x.1 e.rtag).isNone then some (x.1, i.desc n) else none))

/-- MG sends a slice the next block of a scale entry, once (DESIGN CHOICE: log entry 29). -/
def askScale (s : State) (i : Issued) (x : Nat × Desc) : State :=
  let e := s.stream x.1
  let key := (wordOf 16 x.1, e.rtag)
  if (s.unit i.slice).slice.scaleAsked.any (fun a => decide (a.1 = key)) then s
  else
    let bs := fetchBlock s e x.2 1 e.rtag []
    (sendMsg s true i.slice (linkMsg 0x17 (wordOf 32 x.1 ||| (e.rtag.setWidth 32 <<< 16)) 0 0
      (fitTo (16 * ceilDiv bs.length 16) 0 bs))).onUnit i.slice (fun u =>
        { u with slice := { u.slice with scaleAsked := u.slice.scaleAsked ++ [(key, bs.length)] } })

/-! ### Progress of a slice instruction -/

/-- A plane group is named. -/
def Issued.planes (i : Issued) : Bool := isPlaneGroup i.op i.slots

/-- The instruction waits on a stream (R94). -/
def sliceWaits (s : State) (i : Issued) : Bool :=
  match i.outs with
  | o :: _ => fieldFull s i o.field
  | [] => !i.planes && i.tiled && decide (i.pos < i.total) &&
      (streamFields i.slots).any (fun n => if isDest i.op n then fieldFull s i n else fieldEmpty s i n)

/-- Every progress unit is done. -/
def Issued.sliceDone (i : Issued) : Bool :=
  i.outs.isEmpty && (if i.tiled then decide (i.total ≤ i.pos) else decide (i.elements ≤ i.pos))

/-- One progress unit of a SLICE form. -/
def sliceUnit (s : State) (b : Nat) (i : Issued) : State × Issued :=
  if i.planes then planeUnit s b i
  else if i.tiled && i.outs.isEmpty && i.stopAs.isNone && !positionGranted s b i then sliceDenied s i
  else if i.op == .sliceProgram then seUnit s b i
  else sliceConvUnit s b i

/-- Up to `steps` progress units of a SLICE form. -/
def sliceRun (b : Nat) : Nat → State → Issued → State × Issued
  | 0, s, i => (s, i)
  | k + 1, s, i =>
    if i.sliceDone then (s, { i with finished := some i.endStatus })
    else if sliceWaits s i then (s, i)
    else if i.outs.isEmpty && !(scalesDue s i).isEmpty then (s.each (scalesDue s i) (fun t x => askScale t i x), i)
    else
      let r := sliceUnit s b i
      if r.2.finished.isSome then r
      else if r.2.sliceDone then (r.1, { r.2 with finished := some r.2.endStatus })
      else sliceRun b k r.1 r.2

/-- SLICE_PROGRAM (R350, R351). -/
def execSliceProgram (bib : Bib) (queue : BitVec 14) (steps : Nat) (s : State) : Host.Outcome State Fault Refusal :=
  live s (workOn s bib.toNat queue.toNat .sliceProgram (sliceRun bib.toNat steps))

/-- SLICE_CONVERT (R354). -/
def execSliceConvert (bib : Bib) (queue : BitVec 14) (steps : Nat) (s : State) : Host.Outcome State Fault Refusal :=
  live s (workOn s bib.toNat queue.toNat .sliceConvert (sliceRun bib.toNat steps))

/-- SLICE_REEPOCH (R354, R106). -/
def execSliceReepoch (bib : Bib) (queue : BitVec 14) (steps : Nat) (s : State) : Host.Outcome State Fault Refusal :=
  live s (workOn s bib.toNat queue.toNat .sliceReepoch (sliceRun bib.toNat steps))

/-- STATS: a CV, SE or SL reads a source and reports it (R174, R354). -/
def statsWork (s : State) (b : Nat) (steps : Nat) (i : Issued) : State × Issued :=
  if kindOf b = some .sl && decide (i.pos < i.statsTotal) && !positionGranted s b i then
    let j := { i.fail .denied i.pos with pos := i.statsTotal }
    (s, { j with finished := some j.endStatus, summary := some (statsSummary j) })
  else if kindOf b = some .sl && !(scalesDue s i).isEmpty then (s.each (scalesDue s i) (fun t x => askScale t i x), i)
  else statsRun b steps s i

/-- STATS (R174). -/
def execStats (bib : Bib) (queue : BitVec 14) (steps : Nat) (s : State) : Host.Outcome State Fault Refusal :=
  live s (workOn s bib.toNat queue.toNat .stats (fun t i => (List.range steps).foldl
    (fun (r : State × Issued) _ => if r.2.finished.isSome then r else statsWork r.1 bib.toNat 1 r.2) (t, i)))

/-! ### Programs of a slice (R351) -/

/-- Programs that an offered SLICE PROGRAM runs. -/
def slicePrograms (s : State) (o : Offer) : List Nat :=
  if o.op == .sliceProgram && bPv o.body then
    let g := planeGroup s o.b (o.field 1)
    bProg o.body :: (if isPlaneGroup o.op o.slots && gSecond g then [gProg2 g] else [])
  else []

/-- Programs that the slice does not hold yet. -/
def missingPrograms (s : State) (o : Offer) : List Nat :=
  (slicePrograms s o).filter (fun k => (heldProgram (s.unit o.b) o.ctx k).isNone)

/-- A slice asks MG for a program, once (R351, R361). -/
def askProgram (s : State) (b c k : Nat) : State :=
  if (s.unit b).asked.contains (c, k) then s
  else sendMsg (s.onUnit b (fun u => { u with asked := u.asked ++ [(c, k)] })) false b
    (linkMsg 0x15 (wordOf 32 (c + 65536 * k)) 0 0 [])

/-- PROGREQ: MG sends the program record (R351). -/
def execProgreq (bib : Bib) (msg : List Byte) (s : State) : Host.Outcome State Fault Refusal :=
  let w := msgWord msg 1
  live s (
    if !linkMsgOk msg 0x15 1 0x00FF03FF 0 0 then badMsg s 0 bib.toNat msg
    else sendMsg s true bib.toNat (linkMsg 0x16 w 0 0
      (bytesLE 128 (s.program (bitsAt w 0 10).toNat (bitsAt w 16 8).toNat))))

/-- PROG: a slice holds the program it asked for (R351). -/
def execProgMessage (bib : Bib) (msg : List Byte) (s : State) : Host.Outcome State Fault Refusal :=
  let b := bib.toNat
  let w := msgWord msg 1
  let c := (bitsAt w 0 10).toNat
  let k := (bitsAt w 16 8).toNat
  live s (
    if !linkMsgOk msg 0x16 9 0x00FF03FF 0 0 then badMsg s b 0 msg
    else if (s.unit b).asked.contains (c, k) then
      s.onUnit b (fun u => { holdProgram u c k (wordLE 1024 (msgRest msg)) with asked := u.asked.erase (c, k) })
    else s)

/-! ### What the slice forms check at issue -/

/-- Blocks that an instruction with `left` positions to go writes into its own stack: first byte and bytes. -/
def blockSpans (s : State) (b left : Nat) (f : BitVec 128) (d : Desc) (opening : Bool) : List (Nat × Nat) :=
  if !isStream f then []
  else (entriesOf f d).flatMap (fun p =>
    let e := s.stream p.1
    if e.pspace.toNat ≠ indexOf b + 2 then []
    else (List.range left).filterMap (fun j =>
      (blockKey e d p.2 ((if opening then fTag f else e.wtag) + wordOf 16 j)).map (fun k =>
        (k - stackKey (indexOf b) 0, blockStride d p.2))))

/-- Ranges that an issued slice instruction is writing in its stack (R340). -/
def writeSpans (s : State) (b : Nat) (i : Issued) : List (Nat × Nat) :=
  if i.finished.isSome then []
  else if i.planes then
    let g := planeGroup s b (i.field 1)
    let e0 := 128 * (fSk (i.field 1)).toNat
    (planesWritten g).flatMap (fun p =>
      let w := gPlane g p
      let d := planeDesc w
      let bytes := plainBits (pFmt w) / 8
      (pBase w + bytes * (e0 + i.pos), bytes * (i.elements - i.pos)) ::
        (if dSfmt d = 0 then [] else
          [(pScaleBase w + scaleBytes (dSfmt d) * ((e0 + i.pos) / dGroup d), scaleBytes (dSfmt d) * ceilDiv (i.elements - i.pos) (dGroup d))]))
  else if i.op.isSlice && isPlain (i.field 4) then
    match plainSpan (i.field 4) (plainBits (fFmt (i.field 4))) i.height i.len with
    | some (lo, hi) => [(lo.toNat, (hi - lo).toNat)]
    | none => []
  else if i.op.isSlice then blockSpans s b (i.total - i.pos) (i.field 4) (i.desc 4) false
  else []

/-- A narrow region meets that of no other open window and nothing that an instruction of the slice is writing (R340). -/
def regionFree (s : State) (b w : Nat) (region : Nat × Nat) : Bool :=
  (s.unit b).slice.windows.all (fun p => decide (p.1 = w) || decide (wState p.2.regs ≠ 1) || !rangesMeet p.2.region region)
    && (s.unit b).issued.all (fun i => (writeSpans s b i).all (fun x => !rangesMeet x region))

/-- A WINDOW form does its work; `close` names the form (R341). A form issued behind another one meets the window as that
one left it, and its region is checked again (DEDUCED: log entry 40). -/
def windowRun (s : State) (b : Nat) (i : Issued) : State × Issued :=
  let w := bWin i.body
  let v := s.window b w
  let fin : Issued := { i with finished := some .ok }
  if wState v.regs ≠ (if bWinClose i.body then 1 else 0) then (s, { i with finished := some .wrongState })
  else if bWinClose i.body then
    let s1 := reportWindow s b w (windowStamp (s.unit b))
    let s2 := s1.onUnit b (fun u => { u with slice := { u.slice with
      staging := u.slice.staging.filter (fun x => decide (x.win ≠ wordOf 6 w))
      cache := u.slice.cache.filter (fun x => decide (x.win ≠ wordOf 6 w)) } })
    (s2.setWindow b w { regs := putBits v.regs 30 (0 : BitVec 2) }, fin)
  else if regionFree s b w i.win.region then (s.setWindow b w i.win, fin)
  else (s, { i with finished := some .format })

/-- WINDOW_OPEN (R341). -/
def execWindowOpen (bib : Bib) (queue : BitVec 14) (s : State) : Host.Outcome State Fault Refusal :=
  live s (workOn s bib.toNat queue.toNat .sliceWindow (fun t i =>
    if bWinClose i.body then (t, i) else windowRun t bib.toNat i))

/-- WINDOW_CLOSE (R341). -/
def execWindowClose (bib : Bib) (queue : BitVec 14) (s : State) : Host.Outcome State Fault Refusal :=
  live s (workOn s bib.toNat queue.toNat .sliceWindow (fun t i =>
    if bWinClose i.body then windowRun t bib.toNat i else (t, i)))

/-- FORMAT rules of WINDOW OPEN (R340, R341). -/
def windowFormat (s : State) (o : Offer) : Bool :=
  let v := s.window o.b (bWin o.body)
  bWinClose o.body ||
    (let n := openedWindow s o.b o.ctx v.regs
     let d := n.ndesc
     let region := n.region
     (!wFsel v.regs || usedOf (tget 0 (s.unit o.b).lmap (wLayer v.regs)))
       && dValid n.wdesc && dWide n.wdesc && dValid d && !dIsCode d && decide (dZpm d ≠ 1) && decide (dOcap d = 0)
       && decide (dRot d = 0) && decide (wNslots v.regs ≠ 0) && decide (region.1 + region.2 ≤ stackBytes)
       && regionFree s o.b (bWin o.body) region)

/-- Grants of WINDOW (R341, R205). -/
def windowGranted (s : State) (o : Offer) : Bool :=
  let r := (s.window o.b (bWin o.body)).regs
  decide (wCtx r = wordOf 10 o.ctx) && (!wTen r || inRange (gTracked (s.grant o.ctx)) (wTrk r))
    && (bWinClose o.body || !wFsel r || decide (s.profileCtx = some o.ctx))

/-- State rules of WINDOW (R341, R170). -/
def windowReady (s : State) (o : Offer) : Bool :=
  let r := (s.window o.b (bWin o.body)).regs
  decide (wState r = if bWinClose o.body then 1 else 0)
    && (!wTen r || ((s.tracked (wTrk r)).cfg.en && !(s.unit (tkOfEntry (wTrk r))).health.fenced
          && decide ((s.tracked (wTrk r)).cfg.tensor = wTensor r)))

/-- Data streams of an SL instruction lie in its own stack, scale streams there or in the scratchpad (R354). -/
def sliceStreams (s : State) (o : Offer) : Bool :=
  o.streams.all (fun n => (entriesOf (o.field n) (o.desc n)).all (fun p =>
    let sp := (s.stream p.1).pspace.toNat
    decide (sp = indexOf o.b + 2) || (decide (p.2 = 1) && decide (sp = 1))))

/-- Width of the elements of an operand. -/
def operandWidth (f : BitVec 128) (d : Desc) : Nat := if isStream f then dWidth d else dWidth (plainDesc (fFmt f))

/-- The instruction asks for stochastic rounding from operand F1 into a wider F4 (R277). -/
def slicesWiden (o : Offer) (f : BitVec 128) (d : Desc) : Bool :=
  decide (hRmode o.head = 1) && decide (operandWidth f d < operandWidth (o.field 4) (o.desc 4))

/-- FORMAT rules of SLICE PROGRAM (R350, R277). -/
def sliceProgramFormat (s : State) (o : Offer) : Bool :=
  let p1 := (heldProgram (s.unit o.b) o.ctx (bProg o.body)).getD 0
  let f1 := o.field 1
  if isPlaneGroup o.op o.slots then
    let g := planeGroup s o.b f1
    let p2 := if gSecond g then (heldProgram (s.unit o.b) o.ctx (gProg2 g)).getD 0 else 0
    bPv o.body && [2, 3, 4].all (fun n => decide (o.field n = 0)) && decide (bitsAt f1 6 26 = 0) && decide (fSr f1 = 0)
      && planesOk g p1 p2 (o.height * o.len) && !programDraws p1 && !(gSecond g && programDraws p2)
  else
    seFormat s o && !(bPv o.body && programDraws p1) && (bPv o.body || !slicesWiden o (o.field 1) (o.desc 1))

/-- FORMAT rules of SLICE CONVERT and REEPOCH (R354, R277): no rotation, capture, channel factor or codebook, but that
descriptors which both name the same rotation and capture ask for a bulk move (R128). -/
def sliceConvFormat (o : Offer) : Bool :=
  let d1 := o.desc 1
  let d4 := o.desc 4
  let plain (d : Desc) : Bool := !dIsCode d && decide (dZpm d ≠ 1) && ((decide (dRot d = 0) && decide (dOcap d = 0)) || decide (d1 = d4))
  plain d1 && plain d4 && !slicesWiden o (o.field 1) d1 && decide (fRbs (o.field 6) = 0) && decide (fRbd (o.field 6) = 0)

/-- FORMAT rules of the SLICE forms. -/
def sliceFormat (s : State) (o : Offer) : Bool :=
  match o.op with
  | .sliceWindow => windowFormat s o
  | .sliceProgram => sliceStreams s o && sliceProgramFormat s o
  | .sliceConvert | .sliceReepoch => sliceStreams s o && sliceConvFormat o
  | .stats => sliceStreams s o
  | _ => true

/-- The group that a SLICE PROGRAM names belongs to its context (R349). -/
def sliceGranted (s : State) (o : Offer) : Bool :=
  match o.op with
  | .sliceWindow => windowGranted s o
  | .sliceProgram => !isPlaneGroup o.op o.slots || decide (bitsAt (planeGroup s o.b (o.field 1)) 0 10 = wordOf 10 o.ctx)
  | _ => true

/-- A SLICE CONVERT or REEPOCH does not write into an open window's narrow region (R354). -/
def sliceReady (s : State) (o : Offer) : Bool :=
  match o.op with
  | .sliceWindow => windowReady s o
  | .sliceConvert | .sliceReepoch =>
    (blockSpans s o.b (tilesOf o.len * rowBlocks o.height) (o.field 4) (o.desc 4) (opens (o.field 4))).all (fun x =>
      (s.unit o.b).slice.windows.all (fun p => decide (wState p.2.regs ≠ 1) || !rangesMeet p.2.region x))
  | _ => true

end Sys2Proof.Machine
end

