-- ==== Sys2Proof/Machine/Links.lean ====
section
/-!
DEFINITION. Training, retraining and loss of a slice link (R356 to R358, R363, R364), the link control register (R447).
-/

namespace Sys2Proof.Machine

/-! ### Modes (R356) -/

/-- Lanes and the RATES bit of a mode: 0 for 32, 1 for 64, 2 for 128 Gbit/s. -/
def modeShape : Nat → Nat × Nat
  | 1 => (16, 2) | 2 => (16, 1) | 3 => (8, 2) | 4 => (16, 0) | 5 => (8, 1) | 6 => (4, 2) | 7 => (8, 0) | 8 => (4, 1)
  | _ => (4, 0)

/-- Lane groups of n lanes, in order of preference. -/
def laneGroups (n : Nat) : List (BitVec 16) :=
  (List.range (16 / n)).map (fun g => (wordOf 16 (2 ^ n - 1)) <<< (n * g))

/-- The lane group that a mode uses over the lanes that both ends receive. -/
def modeGroup (m : Nat) (lanes : BitVec 16) : Option (BitVec 16) :=
  (laneGroups (modeShape m).1).find? (fun g => decide (g &&& ~~~lanes = 0))

/-- Both ends can use the mode. -/
def modeUsable (m : Nat) (lanes : BitVec 16) (rates : BitVec 3) : Bool :=
  bitAt rates (modeShape m).2 && (modeGroup m lanes).isSome

/-- Rates, highest version and features of generation 1 (R357). -/
abbrev ownRates : BitVec 3 := 7
abbrev ownVmax : BitVec 4 := 1
abbrev ownFeat : BitVec 32 := 0x0000000F

/-- Modes that an end may choose, numbered `first` or higher. -/
def LinkEnd.modes (e : LinkEnd) (first : Nat) : List Nat :=
  (List.range 10).filter (fun m => decide (1 ≤ m) && decide (first ≤ m) && decide (e.least.toNat ≤ m)
    && modeUsable m (e.lmask &&& e.partnerMask) (ownRates &&& e.partnerRates))

/-! ### Training sets (R357) -/

/-- A training set of 32 bytes: ROLE, STEP, LMASK, MODE, VER and STACK. -/
def setBits (role step : Nat) (lmask : BitVec 16) (mode ver stack : BitVec 4) : BitVec 256 :=
  let w0 : BitVec 32 := wordOf 32 (0x5C + 256 * role + 1024 * step) ||| (ownVmax.setWidth 32 <<< 12)
    ||| (ownRates.setWidth 32 <<< 16)
  let w3 : BitVec 32 := mode.setWidth 32 ||| (ver.setWidth 32 <<< 4)
  let w4 : BitVec 32 := 1 ||| (stack.setWidth 32 <<< 8)
  let bs := [w0, lmask.setWidth 32, ownFeat, w3, w4, 0, 0].flatMap (bytesLE 4)
  wordLE 256 (bs ++ bytesLE 4 (crc32c bs))

/-- ROLE, STEP, MODE, VER of a set. -/
def setRole (t : BitVec 256) : Nat := (bitsAt t 8 2).toNat
def setStep (t : BitVec 256) : Nat := (bitsAt t 10 2).toNat
def setMode (t : BitVec 256) : BitVec 4 := bitsAt t 96 4
def setVer (t : BitVec 256) : BitVec 4 := bitsAt t 100 4

/-- A receiver takes the set: CRC, MAGIC, no reserved value or bit, VMAX and RATES not 0 (R357). -/
def setOk (t : BitVec 256) : Bool :=
  let vmax := (bitsAt t 12 4).toNat
  decide (crc32c (bytesLE 28 (bitsAt t 0 224)) = bitsAt t 224 32) && decide (bitsAt t 0 8 = 0x5C)
    && (decide (setRole t = 1) || decide (setRole t = 2)) && decide (setStep t ≠ 3)
    && decide (1 ≤ vmax) && decide (vmax ≤ 3) && decide (bitsAt t 16 3 ≠ 0) && decide (bitsAt t 19 13 = 0)
    && decide (bitsAt t 48 16 = 0) && decide (setMode t ≤ 9) && decide (bitsAt t 104 24 = 0)
    && decide (bitsAt t 140 84 = 0)

/-- An end sends sets of one step; one stands for their repetition on every lane. -/
def sendSet (s : State) (k : Nat) (mg : Bool) (step : Nat) : State :=
  let e := s.linkEnd k mg
  let t := if step = 0 then setBits (if mg then 1 else 2) 0 e.lmask 0 0 (wordOf 4 k)
    else setBits (if mg then 1 else 2) step e.lmask e.mode e.ver (wordOf 4 k)
  s.emit (.trainingSet (wordOf 4 k) mg t)

/-! ### DOWN (R358, R364) -/

/-- An end enters DOWN; at the MG port, MG posts LINK_DOWN and fences the slice. -/
def goDown (s : State) (k : Nat) (mg : Bool) : State :=
  let e := s.linkEnd k mg
  if e.st = .down then s
  else
    let s1 := s.setLinkEnd k mg { e with st := .down, retraining := false, replay := [], outq := [], sending := [],
                                         sendingBaton := [], partialMsg := [], partialBaton := [] }
    let b := sliceBib k
    if mg then
      fence (s1.post 0 b .linkDown none ((s1.link k).mg.lmask.setWidth 32 ||| ((s1.link k).sl.lmask.setWidth 32 <<< 16)) 0 0)
        b .linkFail
    else s1

/-- LINK_DOWN: a link of which one end is in DOWN goes down as a whole (R364). -/
def execLinkDown (stack : BitVec 4) (s : State) : Host.Outcome State Fault Refusal :=
  let k := stack.toNat
  live s (if (s.linkEnd k true).st = .down ∨ (s.linkEnd k false).st = .down then goDown (goDown s k true) k false else s)

/-! ### ACTIVE -/

/-- The MGMT message that MG sends a far unit: offset, WRITE, WIDE and data (R361, R365). The TID is MG's own (free value: log
entry 29). -/
def sendMgmt (s : State) (b off : Nat) (write wide : Bool) (lo hi : BitVec 32) : State :=
  let w : BitVec 32 := wordOf 32 off ||| ((bit write).setWidth 32 <<< 16) ||| ((bit wide).setWidth 32 <<< 17)
    ||| ((Config.mgmtTid s.freeCtr).setWidth 32 <<< 24)
  sendMsg { s with freeCtr := s.freeCtr + 1 } true b (linkMsg 0x1A w lo hi [])

/-- A write of 32 bits that MG relays to a far unit's window: the unit's register changes when the MGMT arrives (R361, R439). -/
def relayPlain (s : State) (b off : Nat) (v : BitVec 32) : State := sendMgmt s b off true false v 0

/-- MG issues a slice's bib by an MGMT message; one that was absent enters FALSE_START (R393, R397, R428). The spec names no
register for the bib: the message writes it at offset 0, which no write changes (DESIGN CHOICE: log entry 29). -/
def issueSlice (s : State) (b : Nat) : State :=
  let s1 := if (s.unit b).held then s else (sendMgmt s b 0 true false (wordOf 32 b) 0).onUnit b (fun u => { u with held := true })
  let h := (s1.unit b).health
  if h.fenced && decide (h.cause = Cause.absent.code) then sendResync (setFence s1 b .falseStart) b else s1

/-- The MG port reaches ACTIVE: common features, bib, feature check (R358). -/
def portActive (s : State) (k : Nat) (e : LinkEnd) : State :=
  let common := ownFeat &&& e.partnerFeat
  let s1 := s.setLink k { s.link k with feat := common }
  let b := sliceBib k
  let s2 := issueSlice s1 b
  if common ≠ ownFeat ∨ e.partnerStack ≠ wordOf 4 k then
    fence (s2.post 0 b .linkFeature none common (e.partnerStack.setWidth 32) 0) b .feature
  else s2

/-- The slice's end reaches ACTIVE: what it posts after a retrain (R363, R425). -/
def sliceActive (s : State) (k : Nat) (e : LinkEnd) (first : BitVec 4) : State :=
  let b := sliceBib k
  if e.retraining then
    let s1 := s.post b b .retrain none (e.cause.setWidth 32) (e.mode.setWidth 32) 0
    if e.mode = first then s1
    else s1.post b b .linkDegraded none (first.setWidth 32 ||| (e.mode.setWidth 32 <<< 4)) 0 0
  else s

/-- An end enters ACTIVE: 512 chunk buffers granted, held flits sent again, waiting messages sent (R360, R363). -/
def becomeActive (s : State) (k : Nat) (mg : Bool) : State :=
  let e := s.linkEnd k mg
  let first := if e.first = 0 then e.mode else e.first
  let s1 := s.setLinkEnd k mg { e with st := .active, retraining := false, first := first, fails := 0, mismatches := 0
                                       sets := 0, confirmed := false, resends := 0, credit := 512 }
  let s2 := if mg then portActive s1 k e else sliceActive s1 k e first
  pumpFlits k mg 128 (e.replay.foldl (fun t f => t.emit (.flit (wordOf 4 k) mg f)) s2)

/-! ### Training (R358) -/

/-- The end chooses a mode and sends SELECT, or goes DOWN where none is left. -/
def chooseMode (s : State) (k : Nat) (mg : Bool) (first : Nat) : State :=
  let e := s.linkEnd k mg
  match e.modes first with
  | [] => goDown s k mg
  | m :: _ =>
    let ver := if ownVmax.toNat ≤ e.partnerVmax.toNat then ownVmax else e.partnerVmax
    sendSet (s.setLinkEnd k mg { e with st := .select, mode := wordOf 4 m, ver := ver, confirmed := false }) k mg 1

/-- A set in ADVERTISE: the eighth valid one in a row leads to SELECT. -/
def takeAdvertised (s : State) (k : Nat) (mg : Bool) (t : BitVec 256) : State :=
  let e := s.linkEnd k mg
  if !setOk t then s.setLinkEnd k mg { e with sets := 0 }
  else
    let e1 := { e with sets := e.sets + 1, partnerMask := bitsAt t 32 16, partnerRates := bitsAt t 16 3
                       partnerVmax := bitsAt t 12 4, partnerFeat := bitsAt t 64 32, partnerStack := bitsAt t 136 4 }
    let s1 := s.setLinkEnd k mg e1
    if 8 ≤ e1.sets then chooseMode s1 k mg 1 else s1

/-- A SELECT set in SELECT: equal choices lead to TRAIN, the second difference to DOWN. -/
def takeSelected (s : State) (k : Nat) (mg : Bool) (t : BitVec 256) : State :=
  let e := s.linkEnd k mg
  if setMode t = e.mode ∧ setVer t = e.ver then s.setLinkEnd k mg { e with st := .train, confirmed := false }
  else
    let s1 := if mg then s.post 0 (sliceBib k) .linkMismatch none (e.mode.setWidth 32 ||| ((setMode t).setWidth 32 <<< 4)
        ||| (e.ver.setWidth 32 <<< 8) ||| ((setVer t).setWidth 32 <<< 12)) 0 0 else s
    let s2 := s1.setLinkEnd k mg { e with st := .advertise, mismatches := e.mismatches + 1, sets := 0 }
    if 2 ≤ e.mismatches + 1 then goDown s2 k mg else sendSet s2 k mg 0

/-- The partner's CONFIRM in TRAIN. -/
def takeConfirm (s : State) (k : Nat) (mg : Bool) (t : BitVec 256) : State :=
  let e := s.linkEnd k mg
  if e.st == .train && e.confirmed && setOk t && decide (setStep t = 2) then becomeActive s k mg else s

/-- A training set received by an end. -/
def takeSet (s : State) (k : Nat) (mg : Bool) (t : BitVec 256) : State :=
  match (s.linkEnd k mg).st with
  | .advertise => takeAdvertised s k mg t
  | .select => if setOk t && decide (setStep t = 1) then takeSelected s k mg t else s
  | .train => takeConfirm s k mg t
  | _ => s

/-- DETECT_DONE: LMASK is taken from the lanes locked, and the end advertises. -/
def execDetectDone (stack : BitVec 4) (mgEnd : Bool) (lanes : BitVec 16) (s : State) : Host.Outcome State Fault Refusal :=
  let k := stack.toNat
  let e := s.linkEnd k mgEnd
  live s (if e.st = .detect then
      sendSet (s.setLinkEnd k mgEnd { e with st := .advertise, lmask := lanes, sets := 0 }) k mgEnd 0
    else s)

/-- TRAINING_SET (R357, R358). -/
def execTrainingSet (stack : BitVec 4) (mgEnd : Bool) (set : BitVec 256) (s : State) : Host.Outcome State Fault Refusal :=
  live s (takeSet s stack.toNat mgEnd set)

/-- ADVERTISE_TIMEOUT: the third failure takes the end DOWN. -/
def execAdvertiseTimeout (stack : BitVec 4) (mgEnd : Bool) (s : State) : Host.Outcome State Fault Refusal :=
  let k := stack.toNat
  let e := s.linkEnd k mgEnd
  live s (if e.st = .advertise then
      if 3 ≤ e.fails + 1 then goDown (s.setLinkEnd k mgEnd { e with fails := e.fails + 1 }) k mgEnd
      else s.setLinkEnd k mgEnd { e with st := .detect, fails := e.fails + 1, sets := 0 }
    else s)

/-- TRAIN_DONE: CONFIRM is sent, or the next usable mode is tried. -/
def execTrainDone (stack : BitVec 4) (mgEnd : Bool) (good : Bool) (s : State) : Host.Outcome State Fault Refusal :=
  let k := stack.toNat
  let e := s.linkEnd k mgEnd
  live s (if e.st = .train ∧ ¬ e.confirmed then
      if good then sendSet (s.setLinkEnd k mgEnd { e with confirmed := true }) k mgEnd 2
      else chooseMode s k mgEnd (e.mode.toNat + 1)
    else s)

/-- LINK_ACTIVE: the partner's CONFIRM arrives (R358). -/
def execLinkActive (stack : BitVec 4) (mgEnd : Bool) (set : BitVec 256) (s : State) : Host.Outcome State Fault Refusal :=
  live s (takeConfirm s stack.toNat mgEnd set)

/-! ### Retraining and restart (R363, R447) -/

/-- One end begins a retrain: with `up` from DETECT over every mode, else from ADVERTISE over modes no faster. -/
def retrainEnd (s : State) (k : Nat) (mg up : Bool) (cause : BitVec 2) : State :=
  let e := s.linkEnd k mg
  if e.st = .active then
    let e1 := { e with retraining := true, fails := 0, mismatches := 0, sets := 0, resends := 0, confirmed := false
                       cause := cause, least := if up then 1 else e.mode, st := if up then .detect else .advertise }
    if up then s.setLinkEnd k mg e1 else sendSet (s.setLinkEnd k mg e1) k mg 0
  else s

/-- A link in ACTIVE retrains at both ends (R363). -/
def retrainLink (s : State) (k : Nat) (up : Bool) (cause : BitVec 2) : State :=
  retrainEnd (retrainEnd s k true up cause) k false up cause

/-- One end of a link in DOWN goes to RESET, and on to DETECT; the mode of its first training stays. -/
def restartEnd (s : State) (k : Nat) (mg : Bool) : State :=
  (s.setLinkEnd k mg { st := .detect, first := (s.linkEnd k mg).first }).onUnit (sliceBib k) (fun u =>
    { u with evSent := u.evSent && !u.evArrived.isEmpty })

/-- A link restarts from RESET (R358, R428). -/
def restartLink (s : State) (k : Nat) : State := restartEnd (restartEnd s k true) k false

/-- The link control word written (R447). -/
def writeLinkControl (s : State) (k : Nat) (v : BitVec 32) : State :=
  let st := (s.linkEnd k true).st
  if bitAt v 2 && st == .down then restartLink s k
  else if bitAt v 0 && st == .active then retrainLink s k (bitAt v 1) 3
  else s

/-- Offset of a link block (R442). -/
def linkOffset (k : Nat) : Nat := 0x200 + 0x20 * k

/-- RETRAIN (R363, R447). -/
def execRetrain (agent : Agent) (stack : BitVec 4) (s : State) : Host.Outcome State Fault Refusal :=
  access s (guarded s agent (linkOffset stack.toNat) agent.manages (writeLinkControl s stack.toNat 1))

/-- RETRAIN_UP (R363, R447). -/
def execRetrainUp (agent : Agent) (stack : BitVec 4) (s : State) : Host.Outcome State Fault Refusal :=
  access s (guarded s agent (linkOffset stack.toNat) agent.manages (writeLinkControl s stack.toNat 3))

/-- RESTART (R447). -/
def execRestart (agent : Agent) (stack : BitVec 4) (s : State) : Host.Outcome State Fault Refusal :=
  access s (guarded s agent (linkOffset stack.toNat) agent.manages (writeLinkControl s stack.toNat 4))

/-- STATE of R447: RETRAIN while a retrain runs. -/
def LinkEnd.stateCode (e : LinkEnd) : BitVec 4 :=
  if e.retraining && e.st != .down then 6
  else match e.st with
    | .reset => 0 | .detect => 1 | .advertise => 2 | .select => 3 | .train => 4 | .active => 5 | .retrain => 6 | .down => 7

/-- Words 0x00 and 0x04 of the link block as they read (R447): the control word reads 0. -/
def linkWord (s : State) (k : Nat) : BitVec 32 :=
  let e := s.linkEnd k true
  e.stateCode.setWidth 32 ||| ((if e.st = .active then e.mode else 0).setWidth 32 <<< 4) ||| (e.first.setWidth 32 <<< 8)
    ||| (e.ver.setWidth 32 <<< 12) ||| ((e.lmask &&& (s.linkEnd k false).lmask).setWidth 32 <<< 16)

end Sys2Proof.Machine
end

