-- ==== Sys2Proof/Machine/Relays.lean ====
section
/-!
DEFINITION. Relay messages and their numbering (R369 to R371), groups and negotiation (R367, R372).
-/

namespace Sys2Proof.Machine

/-! ### Groups (R367) -/

/-- A group record. -/
def State.group (s : State) (b g : Nat) : Group := tget {} (s.unit b).relay.groups g

/-- The state with a group record replaced. -/
def State.setGroup (s : State) (b g : Nat) (v : Group) : State :=
  s.onUnit b (fun u => { u with relay := { u.relay with groups := tset {} u.relay.groups g v } })

/-- Ranks of the other members. -/
def Group.others (g : Group) : List Nat := (List.range g.nmem.toNat).filter (fun r => decide (r ≠ g.rank.toNat))

/-- The ring successor (R375). -/
def Group.next (g : Group) : Nat := (g.rank.toNat + 1) % g.nmem.toNat

/-- The ring predecessor. -/
def Group.prev (g : Group) : Nat := (g.rank.toNat + g.nmem.toNat - 1) % g.nmem.toNat

/-- What is kept for a peer. -/
def Group.peer (g : Group) (r : Nat) : Peer := tget {} g.links r

/-- The group with a peer's data changed. -/
def Group.onPeer (g : Group) (r : Nat) (f : Peer → Peer) : Group := { g with links := tset {} g.links r (f (g.peer r)) }

/-- VER in the messages of a group: 1 until members have computed it (log entry 23). -/
def Group.wireVer (g : Group) : BitVec 4 := if g.ver = 0 then 1 else g.ver

/-- Profiles that this member offers. -/
def Group.offers (g : Group) : BitVec 16 := g.pallow &&& 0x000F

/-! ### Messages (R369) -/

/-- A relay message. -/
def relayMsg (type : Nat) (ver : BitVec 4) (srank drank : Nat) (gkey mseq w3 w4 w5 w6 : BitVec 32) (payload : List Byte) :
    List Byte :=
  let w0 : BitVec 32 := wordOf 32 (type + 65536 * srank + 2 ^ 22 * drank) ||| (ver.setWidth 32 <<< 8)
  let h := [w0, gkey, mseq, w3, w4, w5, w6].flatMap (bytesLE 4)
  h ++ bytesLE 4 (crc32c (h ++ payload)) ++ payload

/-- TYPE, VER, SRANK, DRANK. -/
def rmType (m : List Byte) : Nat := (bitsAt (msgWord m 0) 0 8).toNat
def rmVer (m : List Byte) : BitVec 4 := bitsAt (msgWord m 0) 8 4
def rmSrank (m : List Byte) : Nat := (bitsAt (msgWord m 0) 16 6).toNat
def rmDrank (m : List Byte) : Nat := (bitsAt (msgWord m 0) 22 6).toNat
/-- CSEQ, CHAN, SVC. -/
def rmCseq (m : List Byte) : BitVec 16 := bitsAt (msgWord m 3) 0 16
def rmChan (m : List Byte) : Nat := (bitsAt (msgWord m 3) 16 3).toNat
def rmSvc (m : List Byte) : Bool := bitAt (msgWord m 3) 19

/-- Descriptors of the wire profiles (R368), by profile bit. -/
def wireProfiles : List (BitVec 32) := [0x00000003, 0x00100505, 0x00100504, 0x00900E10]

/-- Payload bytes of a DATA message. -/
def wireBytes (d : Desc) : Nat := bodyBytes d 0 + (if dSfmt d = 0 then 0 else bodyBytes d 1)

/-- Bytes 16 to 27 hold no reserved bit and no reserved value, and the payload fits the type (R16, R55, R369). -/
def typeOk (m : List Byte) : Bool :=
  let w4 := msgWord m 4
  let w5 := msgWord m 5
  let w6 := msgWord m 6
  let bare := decide (m.length = 32)
  match rmType m with
  | 0x01 => bare && decide (bitsAt w4 12 4 = 0) && decide (bitsAt w5 7 25 = 0) && decide (w6 = 0)
  | 0x02 => bare && decide (bitsAt w4 4 12 = 0) && decide (w5 = 0) && decide (w6 = 0)
  | 0x03 => bare && decide (1 ≤ w4.toNat) && decide (w4.toNat ≤ 5) && decide (w5 = 0) && decide (w6 = 0)
  | 0x21 => bare && decide (bitsAt w4 8 24 = 0) && statusKnown (bitsAt w4 0 8) && decide (w5 = 0) && decide (w6 = 0)
  | 0x10 => dValid w4 && decide (bitsAt w5 26 6 = 0) && decide (bitsAt w6 13 19 = 0)
      && (!wireProfiles.contains w4 || decide (m.length = 32 + wireBytes w4))
  | 0x11 | 0x12 => bare && decide (w4 = 0) && decide (w5 = 0) && decide (w6 = 0)
  | 0x20 => bare && dValid w4 && decide (w5.toNat ≤ 2)
  | _ => false

/-- CRC and form of a message (R370, first two cases). -/
def relayMsgOk (m : List Byte) : Bool :=
  decide (32 ≤ m.length) && decide (crc32c (m.take 28 ++ m.drop 32) = msgWord m 7)
    && decide (bitsAt (msgWord m 0) 12 4 = 0) && decide (bitsAt (msgWord m 0) 28 4 = 0)
    && decide (bitsAt (msgWord m 3) 20 12 = 0) && typeOk m

/-- The group that a message fits: OPEN or NEGOTIATING, with its GKEY and ranks (R370). -/
def groupOf (s : State) (b : Nat) (m : List Byte) : Option (Nat × Group) :=
  (s.unit b).relay.groups.find? (fun p =>
    (decide (p.2.st = .opened) || decide (p.2.st = .negotiating)) && decide (p.2.gkey = msgWord m 1)
      && decide (rmDrank m = p.2.rank.toNat) && decide (rmSrank m < p.2.nmem.toNat) && decide (rmSrank m ≠ p.2.rank.toNat))

/-- A message sent to a rank; it carries no number. -/
def sendPlain (s : State) (b : Nat) (g : Group) (r type : Nat) (ver : BitVec 4) (mseq w3 w4 w5 : BitVec 32) : State :=
  s.emit (.relay (wordOf 12 b) (tget 0 g.peers r) (relayMsg type ver g.rank.toNat r g.gkey mseq w3 w4 w5 0 []))

/-- A numbered message to a rank; at most 64 are outstanding at once (R371). -/
def sendNumbered (s : State) (b gi r type : Nat) (w3 w4 w5 w6 : BitVec 32) (payload : List Byte) : State :=
  let g := s.group b gi
  let p := g.peer r
  let m := relayMsg type g.wireVer g.rank.toNat r g.gkey p.nextSend w3 w4 w5 w6 payload
  let s1 := s.setGroup b gi (g.onPeer r (fun q => { q with nextSend := q.nextSend + 1, unacked := q.unacked ++ [⟨q.nextSend, m⟩] }))
  if p.unacked.length < 64 then s1.emit (.relay (wordOf 12 b) (tget 0 g.peers r) m) else s1

/-- Messages sent again. -/
def resend (s : State) (b : Nat) (g : Group) (r : Nat) (ms : List Unacked) : State :=
  s.each ms (fun t m => t.emit (.relay (wordOf 12 b) (tget 0 g.peers r) m.bytes))

/-- A message that a relay discards (R370, R425). -/
def badRelay (s : State) (b : Nat) (peer : BitVec 16) (m : List Byte) : State := s.malformed b 4 (msgWord m 0) peer.toNat

/-- A message of a type reaches relay b: `f` acts on it where R370 does not discard it. -/
def takeRelay (s : State) (b type : Nat) (peer : BitVec 16) (m : List Byte) (f : Nat → Group → Nat → State) : State :=
  let h := (s.unit b).health
  if kindOf b != some .rl || !(s.unit b).held || h.resetting || (h.fenced && !h.epochFence) then s
  else if !relayMsgOk m || decide (rmType m ≠ type) then badRelay s b peer m
  else match groupOf s b m with
    | none => badRelay s b peer m
    | some (gi, g) =>
      if type ≠ 1 ∧ rmVer m ≠ g.wireVer then badRelay s b peer m else f gi g (rmSrank m)

/-! ### Negotiation (R372) -/

/-- HELLO to every member. -/
def sendHellos (s : State) (b : Nat) (g : Group) : State :=
  s.each g.others (fun t r => sendPlain t b g r 0x01 1 0 0
    (wordOf 32 (1 + 16) ||| (g.offers.setWidth 32 <<< 16)) (g.nmem.setWidth 32))

/-- A group enters NEGOTIATING. -/
def beginNegotiation (s : State) (b gi : Nat) : State :=
  let g : Group := { s.group b gi with st := .negotiating, ver := 0, pcommon := 0, links := [], starts := [], doomed := [] }
  sendHellos (s.setGroup b gi g) b g

/-- Negotiation fails: REFUSE to every member, GROUP_REFUSED. -/
def refuseGroup (s : State) (b gi : Nat) (reason : BitVec 8) (by_ : Nat) : State :=
  let g := s.group b gi
  let s1 := s.each g.others (fun t r => sendPlain t b g r 0x03 g.wireVer 0 0 (reason.setWidth 32) 0)
  let s2 := s1.post b b .groupRefused (some g.ctx.toNat)
    (wordOf 32 gi ||| (reason.setWidth 32 <<< 8) ||| (wordOf 32 by_ <<< 16)) 0 0
  s2.setGroup b gi { g with st := .failed, ver := 0 }

/-- Every AGREE is in and equal to this member's: OPEN, with the numbers at their starting values. -/
def settleAgree (s : State) (b gi : Nat) : State :=
  let g := s.group b gi
  let mine := (g.ver, g.pcommon)
  if g.others.any (fun r => (g.peer r).agree.any (fun a => decide (a ≠ mine))) then refuseGroup s b gi 5 g.rank.toNat
  else if g.others.all (fun r => decide ((g.peer r).agree = some mine)) then
    s.setGroup b gi { g with st := .opened, cseq := 0, links := [], starts := [], doomed := [] }
  else s

/-- Every HELLO is in. -/
def Group.heardAll (g : Group) : Bool := g.others.all (fun r => (g.peer r).hello.isSome)

/-- Once every HELLO is in: VER and PCOMMON, and AGREE to every member. -/
def settleHellos (s : State) (b gi : Nat) : State :=
  let g := s.group b gi
  if g.heardAll then
    let hs := g.others.filterMap (fun r => (g.peer r).hello)
    let ver := hs.foldl (fun v h => if h.1.toNat < v.toNat then h.1 else v) 1
    let common := hs.foldl (fun v h => v &&& h.2) g.offers
    let g1 := { g with ver := ver, pcommon := common }
    let s1 := s.setGroup b gi g1
    if common = 0 then refuseGroup s1 b gi 4 g.rank.toNat
    else
      let s2 := s1.each g1.others (fun t r => sendPlain t b g1 r 0x02 g1.wireVer 0 0
        (ver.setWidth 32 ||| (common.setWidth 32 <<< 16)) 0)
      settleAgree s2 b gi
  else s

/-- A HELLO taken in NEGOTIATING. -/
def takeHello (s : State) (b gi r : Nat) (peer : BitVec 16) (m : List Byte) : State :=
  let g := s.group b gi
  let w4 := msgWord m 4
  if bitsAt (msgWord m 5) 0 7 ≠ g.nmem then refuseGroup s b gi 2 g.rank.toNat
  else if tget 0 g.peers r ≠ peer then refuseGroup s b gi 3 g.rank.toNat
  else settleHellos (s.setGroup b gi (g.onPeer r (fun p => { p with hello := some (bitsAt w4 0 4, bitsAt w4 16 16) }))) b gi

/-- HELLO_REPEAT (R372). -/
def execHelloRepeat (bib : Bib) (group : BitVec 8) (s : State) : Host.Outcome State Fault Refusal :=
  let g := s.group bib.toNat group.toNat
  live s (if g.st = .negotiating then sendHellos s bib.toNat g else s)

/-- AGREE (R372). -/
def execAgree (bib : Bib) (peer : BitVec 16) (msg : List Byte) (s : State) : Host.Outcome State Fault Refusal :=
  let b := bib.toNat
  live s (takeRelay s b 0x02 peer msg (fun gi g r =>
    if g.st = .negotiating then
      let w4 := msgWord msg 4
      let s1 := s.setGroup b gi (g.onPeer r (fun p => { p with agree := some (bitsAt w4 0 4, bitsAt w4 16 16) }))
      if g.heardAll then settleAgree s1 b gi else s1
    else s))

/-- REFUSE (R372). -/
def execRefuse (bib : Bib) (peer : BitVec 16) (msg : List Byte) (s : State) : Host.Outcome State Fault Refusal :=
  let b := bib.toNat
  live s (takeRelay s b 0x03 peer msg (fun gi g r =>
    if g.st = .negotiating then refuseGroup s b gi (bitsAt (msgWord msg 4) 0 8) r else s))

/-- Ranks as a mask of 64 bits. -/
def rankMask (l : List Nat) : BitVec 64 := l.foldl (fun m r => m ||| (1#64 <<< r)) 0

/-- Members not heard from: those whose HELLO is missing, or else whose AGREE is. -/
def Group.silent (g : Group) : List Nat :=
  if g.heardAll then g.others.filter (fun r => (g.peer r).agree.isNone)
  else g.others.filter (fun r => (g.peer r).hello.isNone)

/-- NEGOTIATION_TIMEOUT (R372). -/
def execNegotiationTimeout (bib : Bib) (group : BitVec 8) (s : State) : Host.Outcome State Fault Refusal :=
  let b := bib.toNat
  let g := s.group b group.toNat
  live s (if g.st = .negotiating then
      let m := rankMask g.silent
      (s.post b b .groupTimeout (some g.ctx.toNat) (group.setWidth 32) (bitsAt m 0 32) (bitsAt m 32 32)).setGroup b group.toNat
        { g with st := .failed, ver := 0 }
    else s)

/-! ### Acknowledgement and resending (R371) -/

/-- DACK (R371). -/
def execDack (bib : Bib) (peer : BitVec 16) (msg : List Byte) (s : State) : Host.Outcome State Fault Refusal :=
  let b := bib.toNat
  live s (takeRelay s b 0x11 peer msg (fun gi g r =>
    if g.st = .opened then
      let old := (g.peer r).unacked
      let rest := old.filter (fun x => decide (x.mseq ≠ msgWord msg 2))
      let s1 := s.setGroup b gi (g.onPeer r (fun p => { p with unacked := rest }))
      resend s1 b g r ((rest.take 64).filter (fun x => !(old.take 64).contains x))
    else s))

/-- NAK (R371). -/
def execRelayNak (bib : Bib) (peer : BitVec 16) (msg : List Byte) (s : State) : Host.Outcome State Fault Refusal :=
  let b := bib.toNat
  live s (takeRelay s b 0x12 peer msg (fun _ g r =>
    if g.st = .opened then
      resend s b g r (((g.peer r).unacked.take 64).filter (fun x => decide ((x.mseq - msgWord msg 2).toNat < 2 ^ 31)))
    else s))

/-- RESEND_TIMEOUT (R371). -/
def execResendTimeout (bib : Bib) (group : BitVec 8) (rank : BitVec 6) (s : State) : Host.Outcome State Fault Refusal :=
  let g := s.group bib.toNat group.toNat
  live s (if g.st = .opened then resend s bib.toNat g rank.toNat ((g.peer rank.toNat).unacked.take 64) else s)

/-- A numbered message: acted on in order with a DACK, unless `act` says that it must wait; DACK again, or NAK (R371). -/
def takeNumbered (s : State) (b gi : Nat) (g : Group) (r : Nat) (m : List Byte) (act : State → Option State) : State :=
  let n := msgWord m 2
  let p := g.peer r
  let dack (t : State) : State := sendPlain t b g r 0x11 g.wireVer n (msgWord m 3) 0 0
  if g.st ≠ .opened then s
  else if n = p.nextRecv then
    match act s with
    | none => s
    | some t => dack (t.setGroup b gi ((t.group b gi).onPeer r (fun q => { q with nextRecv := q.nextRecv + 1 })))
  else if (p.nextRecv - n).toNat < 2 ^ 31 then dack s
  else sendPlain s b g r 0x12 g.wireVer p.nextRecv (msgWord m 3) 0 0

end Sys2Proof.Machine
end

