-- ==== Sys2Proof/Machine/Transfers.lean ====
section
/-!
DEFINITION. RELAY instructions: their transfers tile by tile (R373 to R376), mismatches and early ends (R377, R378),
poison (R379), residuals (R380, R381), keyed words (R382), and what they check at issue (R374).
-/

namespace Sys2Proof.Machine

/-! ### Body fields (R301) -/

/-- GROUP -/
def rlGroup (b : BitVec 128) : Nat := (bitsAt b 0 8).toNat
/-- SCHAN -/
def rlChan (b : BitVec 128) : Nat := (bitsAt b 8 3).toNat
/-- SVC -/
def rlSvc (b : BitVec 128) : Bool := bitAt b 11
/-- WFDI -/
def rlWfdi (b : BitVec 128) : BitVec 6 := bitsAt b 16 6
/-- CKIND: 0 ALL_REDUCE, 1 REDUCE_SCATTER, 2 ALL_GATHER. -/
def rlCkind (b : BitVec 128) : Nat := (bitsAt b 64 4).toNat

/-- Word 12 of a transfer's messages: CSEQ, CHAN, SVC (R369). -/
def transferWord (i : Issued) : BitVec 32 :=
  i.transfer.cseq.setWidth 32 ||| (wordOf 32 (rlChan i.body) <<< 16) ||| ((bit (rlSvc i.body)).setWidth 32 <<< 19)

/-! ### Roles (R376) -/

/-- What a member does with a tile in a phase. -/
inductive Role where
  | none | start | hop | own
  deriving DecidableEq, Repr

/-- Role in the reduce phase. -/
def reduceRole (i : Issued) (n rank t : Nat) : Role :=
  match i.op with
  | .relaySend => .start
  | .relayReceive => .own
  | _ =>
    if rlCkind i.body = 2 then .none
    else if rank = (t % n + 1) % n then .start
    else if rank = t % n then .own else .hop

/-- Role in the gather phase: `own` for a tile of this member's chunk. -/
def gatherRole (i : Issued) (n rank t : Nat) : Role :=
  if i.op == .relayCollective && decide (rlCkind i.body ≠ 1) then (if rank = t % n then .own else .hop) else .none

/-- The reduce phase is over. -/
def reduceOver (i : Issued) (n rank : Nat) : Bool :=
  decide (i.total ≤ i.transfer.nextReduce) || decide (reduceRole i n rank 0 = .none)

/-- The gather phase is over. -/
def gatherOver (i : Issued) (n rank : Nat) : Bool :=
  decide (i.total ≤ i.transfer.nextGather) || decide (gatherRole i n rank 0 = .none)

/-- The source holds only this member's own tiles. -/
def ownSource (i : Issued) : Bool := i.op == .relayCollective && decide (rlCkind i.body = 2)

/-- The destination holds only this member's own tiles. -/
def ownDest (i : Issued) : Bool := i.op == .relayCollective && decide (rlCkind i.body = 1)

/-- The transfer's source tiles are read in the gather phase. -/
def sourcePtr (i : Issued) : Nat := if ownSource i then i.transfer.nextGather else i.transfer.nextReduce

/-- The phase in which destination tiles are written. -/
def destPtr (i : Issued) : Nat :=
  if ownDest i || i.op == .relayReceive then i.transfer.nextReduce else i.transfer.nextGather

/-- Tiles below t in a stream of all tiles, or of this member's own. -/
def tilesBelow (own : Bool) (n rank t : Nat) : Nat := if own then (t + n - 1 - rank) / n else t

/-- Position at which the transfer reads its source for tile t, if it does. -/
def relaySource (i : Issued) (n rank t : Nat) : Option Nat :=
  if i.op == .relayReceive then none
  else if ownSource i then (if t % n = rank then some (tilesBelow true n rank t) else none) else some t

/-! ### Residuals (R380, R381) -/

/-- Byte of residual tile t in the committed or the working buffer of the instruction's region. -/
def residKey (u : UnitSt) (i : Issued) (working : Bool) (t : Nat) : Nat :=
  let r := bResid i.body
  let w := tget 0 u.relay.resid r.2.1
  let second := bitAt w 14 != working
  let base := if second then (bitsAt w 64 31).toNat else (bitsAt w 32 31).toNat
  stackKey (bitsAt w 10 4).toNat (64 * base + 8256 * (t + r.2.2))

/-- Residuals of tile t as committed; +0 for a tile whose CRC fails, and without residuals. -/
def readResid (s : State) (b : Nat) (i : Issued) (t : Nat) : State × List XVal :=
  let r := bResid i.body
  if !r.1 then (s, List.replicate 4096 (.fin 0 false))
  else
    let bs := readBytes s.mem (residKey (s.unit b) i false t) 8196
    if crc32c (bs.take 8192) = wordLE 32 (bs.drop 8192) then
      (s, (chunksOf 2 4096 bs).map (fun p => ofBf16 (wordLE 16 p)))
    else
      (s.post b b .residCrc (some i.ctx) (wordOf 32 r.2.1) (wordOf 32 (t + r.2.2))
        (wordOf 32 (bit (bitAt (tget 0 (s.unit b).relay.resid r.2.1) 14)).toNat), List.replicate 4096 (.fin 0 false))

/-- Residuals of tile t written to the working buffer. -/
def writeResid (s : State) (b : Nat) (i : Issued) (t : Nat) (vals : List (BitVec 16)) : State :=
  if !(bResid i.body).1 then s
  else
    let body := vals.flatMap (bytesLE 2)
    let bs := body ++ bytesLE 4 (crc32c body) ++ List.replicate 60 0
    { s with mem := writeBytes s.mem (residKey (s.unit b) i true t) bs }

/-- The working residuals of tile t left equal to the committed ones (R378, R379). -/
def copyResid (s : State) (b : Nat) (i : Issued) (t : Nat) : State :=
  if !(bResid i.body).1 then s
  else
    let bs := readBytes s.mem (residKey (s.unit b) i false t) 8256
    { s with mem := writeBytes s.mem (residKey (s.unit b) i true t) bs }

/-- Tile t is settled. -/
def Issued.settleTile (i : Issued) (t : Nat) : Issued :=
  { i with transfer := { i.transfer with narrowed := i.transfer.narrowed ++ [t] } }

/-! ### Reading, narrowing and writing a tile -/

/-- COUNT of tile t. -/
def relayCount (i : Issued) (t : Nat) : Nat := 128 * rowsIn i.height (i.place t).1

/-- A failed position kept: the lowest, and the first recorded there (R99, R379). -/
def Issued.failAt (i : Issued) (st : Status) (t : Nat) : Issued :=
  match i.failed with
  | some p => if p.2 ≤ t then i else { i with failed := some (st, t) }
  | none => { i with failed := some (st, t) }

/-- The source has halted on a SKEW: its later tiles are not read. -/
def sourceStopped (s : State) (i : Issued) : Bool :=
  let st := (s.stream (fStream (i.field 1))).st
  decide (st = .halted) || decide (st = .hclose)

/-- The member's share of tile t: its status, or its elements. -/
def readShare (s : State) (b : Nat) (i : Issued) (t : Nat) : State × Option Status × List Decoded :=
  if sourceStopped s i then (s, some .skew, [])
  else
    let p := readPosition s i 1 []
    let st := match p.status with
      | some x => some x
      | none => if p.d.count ≠ relayCount i t then some .format else none
    let s1 := advanceRead (positionEvents s b i 1 p t) i 1
    let s2 := if st = some .skew then haltField s1 i 1 .skew else s1
    (s2, st, if st.isSome then [] else decodeTile (i.desc 1) (fun _ => 0) [] p.d.count p.d.body [])

/-- Elements to be narrowed, with what DAZ flushed (R78). -/
abbrev Share := List (XVal × Bool)

/-- The elements of a position as they stand. -/
def shareOf (els : List Decoded) : Share := els.map (fun e => (e.v, e.dazzed))

/-- What arrived, a share and residuals added, rounded once to binary32 under RNE (R376). -/
def sum32 (a : Option (List XVal)) (b : Share) (c : List XVal) : Share :=
  let plus : Share := (b.zip c).map (fun x => (x.1.1.add x.2, x.1.2))
  let all : Share := match a with
    | none => plus
    | some l => (l.zip plus).map (fun x => (x.1.add x.2.1, x.2.2))
  all.map (fun x => (ofF32 (toF32 x.1), x.2))

/-- The exact sum g + r that the owner of an ALL_GATHER narrows (R376). -/
def plainSum (b : Share) (c : List XVal) : Share := (b.zip c).map (fun x => (x.1.1.add x.2, x.1.2))

/-- Rounding word of element e of tile t (R382). -/
def relayRound (i : Issued) (rank t e : Nat) : Round :=
  match hRmode i.head with
  | 1 =>
    let pl := i.place t
    let key := i.field 6
    let tensor := fTensor (i.field 1) ^^^ wordOf 24 (rank * 2 ^ 18)
    let k : Key := ⟨i.seed, tensor, if hLapk i.head then i.lap else 0, 0x02, hDraw i.head⟩
    .sr (bitsAt (keyed k (fBase key + wordOf 32 (32 * pl.1 + e / 128)) (fSk key + wordOf 32 (128 * pl.2 + e % 128))) 0 16)
  | 2 => .rtz
  | _ => .rne

/-- Slots of tile t. -/
def relaySlots (i : Issued) (t : Nat) (xs : Share) : List Slot :=
  let pl := i.place t
  destSlots (rowsIn i.height pl.1) (fun e => decide (i.len ≤ 128 * pl.2 + e % 128)) xs

/-- narrow: tile t on the wire (R376). -/
def narrowTile (i : Issued) (rank t : Nat) (xs : Share) : Encoded :=
  encodeTile i.transfer.wdesc false (fun _ => 0) [] (relayRound i rank t) (relaySlots i t xs)

/-- decode: the values of a wire payload (R108). -/
def wireValues (d : Desc) (count : Nat) (payload : List Byte) : List XVal :=
  (decodeTile d (fun _ => 0) [] count (payload.take (bodyBytes d 0)) (payload.drop (bodyBytes d 0))).map Decoded.v

/-- The new residual of an element: s − decode(q) as bfloat16, +0 for a NaN, an infinity or padding. -/
def newResid (sl : Slot) (s q : XVal) : BitVec 16 :=
  match sl, s with
  | .num _ _, .fin _ _ => toBf16 true (s.add q.negate)
  | _, _ => 0

/-- DATA of tile t to the ring successor. -/
def sendData (s : State) (b : Nat) (i : Issued) (t : Nat) (phase poison : Bool) (payload : List Byte) : State :=
  let g := s.group b (rlGroup i.body)
  let w5 : BitVec 32 := wordOf 32 t ||| ((bit phase).setWidth 32 <<< 24) ||| ((bit poison).setWidth 32 <<< 25)
  sendNumbered s b (rlGroup i.body) g.next 0x10 (transferWord i) i.transfer.wdesc w5 (wordOf 32 (relayCount i t)) payload

/-- The tile narrowed and sent, its residuals settled; what was sent, decoded. -/
def sendNarrowed (s : State) (b : Nat) (i : Issued) (t : Nat) (phase : Bool) (xs : Share) : State × Issued × List XVal :=
  let rank := (s.group b (rlGroup i.body)).rank.toNat
  let d := i.transfer.wdesc
  let e := narrowTile i rank t xs
  let payload := e.payload d ++ (if dSfmt d = 0 then [] else e.scaleBody d)
  let q := wireValues d (relayCount i t) payload
  let rs := ((relaySlots i t xs).zip (xs.zip q)).map (fun x => newResid x.1 x.2.1.1 x.2.2)
  let s1 := writeResid (sendData s b i t phase false payload) b i t rs
  (s1, { i with counts := i.counts.add e.counts }.settleTile t, q)

/-- The tile sent poisoned; its working residuals keep the committed values (R379). -/
def sendPoisoned (s : State) (b : Nat) (i : Issued) (t : Nat) (phase : Bool) : State × Issued :=
  (copyResid (sendData s b i t phase true (List.replicate (wireBytes i.transfer.wdesc) 0)) b i t, i.settleTile t)

/-- Rounding of a destination element: RNE in a collective (R376), the instruction's mode in what RECEIVE writes (R63, R66,
R373; the words of SR: DEDUCED, log entry 45). -/
def destRound (i : Issued) (rank t e : Nat) : Round := if i.op == .relayReceive then relayRound i rank t e else .rne

/-- Tile t of the destination of relay b written from values (R373, R376). -/
def writeDest (s : State) (b : Nat) (i : Issued) (t : Nat) (xs : Share) : State × Issued :=
  let d := i.desc 4
  let rank := (s.group b (rlGroup i.body)).rank.toNat
  let r := buildTile d false false 0 (fun _ => 0) [] (destRound i rank t) (xs.map Prod.fst) (relaySlots i t xs)
  (writeGood s i 4 (relayCount i t) false (r.1.payload d) [] [], i.absorb r.2.2.2)

/-- Tile t of the destination written poisoned: the failed position (R379). -/
def poisonDest (s : State) (b : Nat) (i : Issued) (t : Nat) : State × Issued :=
  let g := s.group b (rlGroup i.body)
  (match relaySource i g.nmem.toNat g.rank.toNat t with
   | some p => writePoison s i 4 (relayCount i t) p
   | none => writePoisonBut (fun _ _ _ => false) s i 4 (relayCount i t), i.failAt .poisonIn t)

/-- Values as elements that DAZ left alone. -/
def plainShare (xs : List XVal) : Share := xs.map (fun x => (x, false))

/-! ### What a tile waits for -/

/-- The source is written (R94), or not read any more. -/
def shareReady (s : State) (i : Issued) : Bool :=
  sourceStopped s i || (entriesOf (i.field 1) (i.desc 1)).all (fun p => !(s.stream p.1).readerWaits)

/-- The destination has room (R94). -/
def destReady (s : State) (i : Issued) : Bool :=
  (entriesOf (i.field 4) (i.desc 4)).all (fun p => !(s.stream p.1).writerWaits)

/-- The successor may be sent one more message (R371). -/
def sendReady (g : Group) : Bool := decide ((g.peer g.next).unacked.length < 64)

/-! ### Actions on a tile (R376, R379) -/

/-- A share and the residuals added to what arrived, narrowed and sent with PHASE 0: a hop, or a starter, for which `p` holds
no values. A SEND without residuals narrows its source as it stands (R373). -/
def passReduce (s : State) (b : Nat) (i : Issued) (t : Nat) (p : Option (Option (List XVal))) : State × Issued :=
  let sh := readShare s b i t
  let i1 := match sh.2.1 with | some st => i.failAt st t | none => i
  let i2 := if p.isNone then i1.failAt .poisonIn t else i1
  let j : Issued := { i2 with transfer := { i2.transfer with nextReduce := t + 1 } }
  match p, sh.2.1 with
  | some xs, none =>
    let g := shareOf sh.2.2
    let r := readResid sh.1 b j t
    let bare := i.op == .relaySend && !(bResid i.body).1
    let o := sendNarrowed r.1 b j t false (if bare then g else sum32 xs g r.2)
    (o.1, o.2.1)
  | _, _ => sendPoisoned sh.1 b j t false

/-- The owner of a tile takes what arrived in the reduce phase; RECEIVE writes it. -/
def ownReduce (s : State) (b : Nat) (i : Issued) (t : Nat) (p : Option (List XVal)) : State × Issued :=
  let step (x : Issued) : Issued := { x with transfer := { x.transfer with nextReduce := t + 1 } }
  if i.op == .relayReceive then
    match p with
    | some xs => let o := writeDest s b i t (plainShare xs); (o.1, step o.2)
    | none => let o := poisonDest s b i t; (o.1, step o.2)
  else
    let sh := readShare s b i t
    let i1 := match sh.2.1 with | some st => i.failAt st t | none => i
    let i2 := if p.isNone then i1.failAt .poisonIn t else i1
    let scatter := ownDest i
    match p, sh.2.1 with
    | some xs, none =>
      let r := if scatter then (sh.1, List.replicate 4096 (.fin 0 false)) else readResid sh.1 b i t
      let total := sum32 (some xs) (shareOf sh.2.2) r.2
      if scatter then let o := writeDest r.1 b i2 t total; (o.1, step o.2)
      else (r.1, step { i2 with transfer := { i2.transfer with held := i2.transfer.held ++ [(t, total.map (fun x => (toF32 x.1, x.2)))] } })
    | _, _ =>
      if scatter then let o := poisonDest sh.1 b i2 t; (o.1, step o.2)
      else (sh.1, step { i2 with transfer := { i2.transfer with held := i2.transfer.held ++ [(t, [])] } })

/-- The owner's gather: its tile narrowed, sent with PHASE 1 and written. -/
def ownGather (s : State) (b : Nat) (i : Issued) (t : Nat) : State × Issued :=
  let sh : State × Option Status × Share :=
    if ownSource i then
      let x := readShare s b i t
      match x.2.1 with
      | some st => (x.1, some st, [])
      | none => let r := readResid x.1 b i t; (r.1, none, plainSum (shareOf x.2.2) r.2)
    else
      let ws := ((i.transfer.held.find? (fun h => decide (h.1 = t))).map Prod.snd).getD []
      (s, if ws = [] then some .poisonIn else none, ws.map (fun x => (ofF32 x.1, x.2)))
  let rest := i.transfer.held.filter (fun h => decide (h.1 ≠ t))
  let j : Issued := { i with transfer := { i.transfer with nextGather := t + 1, held := rest } }
  match sh.2.1 with
  | none =>
    let o := sendNarrowed sh.1 b j t true sh.2.2
    writeDest o.1 b o.2.1 t (plainShare o.2.2)
  | some st =>
    let o := sendPoisoned sh.1 b (if ownSource i then j.failAt st t else j) t true
    poisonDest o.1 b o.2 t

/-- A gathered tile written, and sent on unless the successor owns it. -/
def passGather (s : State) (b : Nat) (i : Issued) (t : Nat) (p : Option (List XVal)) (payload : List Byte) : State × Issued :=
  let g := s.group b (rlGroup i.body)
  let s1 := if g.next = t % g.nmem.toNat then s else sendData s b i t true p.isNone payload
  let o := match p with
    | some xs => writeDest s1 b i t (plainShare xs)
    | none => poisonDest s1 b i t
  (o.1, { o.2 with transfer := { o.2.transfer with nextGather := t + 1 } })

/-! ### Progress -/

/-- Both phases are over. -/
def relayDone (g : Group) (i : Issued) : Bool :=
  reduceOver i g.nmem.toNat g.rank.toNat && gatherOver i g.nmem.toNat g.rank.toNat

/-- The instruction ends where both phases are over. -/
def relayFinish (g : Group) (i : Issued) : Issued :=
  if i.finished.isNone && relayDone g i then { i with finished := some i.endStatus } else i

/-- One action that needs no message: a starter's tile, or the gather of an own tile. -/
def relayUnit (s : State) (b : Nat) (i : Issued) : State × Issued :=
  let g := s.group b (rlGroup i.body)
  let n := g.nmem.toNat
  let rank := g.rank.toNat
  let r := i.transfer.nextReduce
  let t := i.transfer.nextGather
  if !reduceOver i n rank && decide (reduceRole i n rank r = .start) && shareReady s i && sendReady g then
    passReduce s b i r (some none)
  else if !gatherOver i n rank && decide (gatherRole i n rank t = .own) && destReady s i && sendReady g
      && (if ownSource i then shareReady s i else decide (t < r)) then
    ownGather s b i t
  else (s, i)

/-! ### Ends of a transfer (R377, R378) -/

/-- Destination tiles from t on that this instruction has still to write. -/
def tilesToWrite (i : Issued) (n rank : Nat) : List Nat :=
  if i.op == .relaySend then []
  else ((List.range (i.total - destPtr i)).map (· + destPtr i)).filter (fun t => !ownDest i || decide (t % n = rank))

/-- This member narrows tile t. -/
def narrowsTile (i : Issued) (n rank t : Nat) : Bool :=
  match reduceRole i n rank t, gatherRole i n rank t with
  | .start, _ | .hop, _ | _, .own => true
  | _, _ => false

/-- The poisoned tile that an ending transfer owes next: i.pos counts those it has written (R104); none past the last. -/
def relayPoison (n rank : Nat) (i : Issued) : List OutPos :=
  match (tilesToWrite i n rank)[i.pos]? with
  | some t => [{ field := 4, count := relayCount i t, src := some (relaySource i n rank t) }]
  | none => []

/-- An early end, begun or carried on: working residuals of the tiles not narrowed copied, remaining destination tiles
poisoned while there is room (R378). -/
def relayStop (s : State) (b : Nat) (i : Issued) (st : Status) : State × Issued :=
  let g := s.group b (rlGroup i.body)
  let n := g.nmem.toNat
  let rank := g.rank.toNat
  let s1 := if i.stopAs.isSome then s
    else ((List.range i.total).filter (fun k => narrowsTile i n rank k && !i.transfer.narrowed.contains k)).foldl
      (fun t k => copyResid t b i k) s
  stopOn (relayPoison n rank) s1 i st

/-- The transfer ends with a status. -/
def endTransfer (s : State) (b : Nat) (i : Issued) (st : Status) : State :=
  let r := relayStop s b i st
  setIssued r.1 b r.2

/-- Up to `steps` such actions; an instruction that waits for its region's exchange begins once it has taken place. -/
def relayRun (b : Nat) : Nat → State → Issued → State × Issued
  | 0, s, i => (s, i)
  | k + 1, s, i =>
    let r := bResid i.body
    let i0 := if r.1 && bitAt (tget 0 (s.unit b).relay.resid r.2.1) 15 then i
      else { i with transfer := { i.transfer with started := true } }
    if i.stopAs.isSome then relayStop s b i .ok
    else if !i0.transfer.started then (s, i)
    else if i0.finished.isSome then (s, i0)
    else
      let o := relayUnit s b i0
      relayRun b k o.1 (relayFinish (s.group b (rlGroup i.body)) o.2)

/-- RELAY_SEND (R373). -/
def execRelaySend (bib : Bib) (queue : BitVec 14) (steps : Nat) (s : State) : Host.Outcome State Fault Refusal :=
  live s (workOn s bib.toNat queue.toNat .relaySend (relayRun bib.toNat steps))

/-- RELAY_RECEIVE (R373). -/
def execRelayReceive (bib : Bib) (queue : BitVec 14) (steps : Nat) (s : State) : Host.Outcome State Fault Refusal :=
  live s (workOn s bib.toNat queue.toNat .relayReceive (relayRun bib.toNat steps))

/-- RELAY_COLLECTIVE (R376). -/
def execRelayCollective (bib : Bib) (queue : BitVec 14) (steps : Nat) (s : State) : Host.Outcome State Fault Refusal :=
  live s (workOn s bib.toNat queue.toNat .relayCollective (relayRun bib.toNat steps))

/-- ABORT to every member. -/
def sendAborts (s : State) (b : Nat) (i : Issued) (st : Status) : State :=
  s.each (s.group b (rlGroup i.body)).others (fun t r =>
    sendNumbered t b (rlGroup i.body) r 0x21 (transferWord i) (st.byte.setWidth 32) 0 0 [])

/-- A mismatch: ABORT with FORMAT, and the instruction completes with FORMAT (R377). -/
def relayMismatch (s : State) (b : Nat) (i : Issued) : State := endTransfer (sendAborts s b i .format) b i .format

/-- Issued transfers of a group that have not ended. -/
def transfersOf (s : State) (b gi : Nat) : List Issued :=
  (s.unit b).issued.filter (fun i => i.op.isRelay && i.finished.isNone && i.stopAs.isNone && decide (rlGroup i.body = gi))

/-- The issued transfer of a CSEQ. -/
def transferAt (s : State) (b gi : Nat) (c : BitVec 16) : Option Issued :=
  (transfersOf s b gi).find? (fun i => decide (i.transfer.cseq = c))

/-- Every issued instruction of a group ends (R372, R378). -/
def endGroup (s : State) (b gi : Nat) (st : Status) : State :=
  (transfersOf s b gi).foldl (fun t i => endTransfer t b i st) s

/-- CSEQ has not been issued yet. -/
def notIssued (g : Group) (c : BitVec 16) : Bool := decide ((c - g.cseq).toNat < 2 ^ 15)

/-! ### Messages of a transfer -/

/-- CKIND as START carries it: 0 outside COLLECTIVE. -/
def startKind (i : Issued) : BitVec 4 := if i.op == .relayCollective then wordOf 4 (rlCkind i.body) else 0

/-- A START differs from the member's own transfer (R377). -/
def startDiffers (i : Issued) (x : EarlyStart) : Bool :=
  decide (x.wdesc ≠ i.transfer.wdesc) || decide (x.ckind ≠ startKind i) || decide (x.n.toNat ≠ i.len)
    || decide (x.m.toNat + 1 ≠ i.height)

/-- START to the ring successor (R375). -/
def sendStart (s : State) (b : Nat) (i : Issued) : State :=
  let g := s.group b (rlGroup i.body)
  sendNumbered s b (rlGroup i.body) g.next 0x20 (transferWord i) i.transfer.wdesc ((startKind i).setWidth 32)
    (wordOf 32 (i.len + 65536 * (i.height - 1))) []

/-- START (R375, R377). -/
def execRelayStart (bib : Bib) (peer : BitVec 16) (msg : List Byte) (s : State) : Host.Outcome State Fault Refusal :=
  let b := bib.toNat
  live s (takeRelay s b 0x20 peer msg (fun gi g r => takeNumbered s b gi g r msg (fun t =>
    let w6 := msgWord msg 6
    let x : EarlyStart :=
      ⟨rmCseq msg, msgWord msg 4, bitsAt (msgWord msg 5) 0 4, bitsAt w6 0 16, bitsAt w6 16 16, bitsAt (msgWord msg 3) 16 4⟩
    match transferAt t b gi x.cseq with
    | some i => some (if startDiffers i x then relayMismatch t b i else t)
    | none => some (if notIssued g x.cseq then t.setGroup b gi { t.group b gi with starts := (t.group b gi).starts ++ [x] }
        else t))))

/-- A transfer that this member has not issued ends with a status as soon as it issues (R377, R378). -/
def doom (s : State) (b gi : Nat) (c : BitVec 16) (st : Status) : State :=
  let g := s.group b gi
  s.setGroup b gi { g with starts := g.starts.filter (fun x => decide (x.cseq ≠ c))
                           doomed := if g.doomed.any (fun x => decide (x.1 = c)) then g.doomed else g.doomed ++ [(c, st)] }

/-- START_MISMATCH_TIMEOUT: the member has not issued the transfer within PTO: a mismatch (R377). -/
def execStartMismatchTimeout (bib : Bib) (group : BitVec 8) (cseq : BitVec 16) (s : State) : Host.Outcome State Fault Refusal :=
  let b := bib.toNat
  let gi := group.toNat
  let g := s.group b gi
  live s (match g.starts.find? (fun x => decide (x.cseq = cseq)) with
    | some x =>
      if g.st = .opened then
        (doom s b gi cseq .format).each g.others (fun t r => sendNumbered t b gi r 0x21
          (cseq.setWidth 32 ||| (x.chan.setWidth 32 <<< 16)) (Status.format.byte.setWidth 32) 0 0 [])
      else s
    | none => s)

/-- The first tile from t on that a message of the phase brings. -/
def expectedTile (role : Nat → Role) (total t : Nat) (takes : Role → Bool) : Option Nat :=
  ((List.range (total - t)).map (· + t)).find? (fun k => takes (role k))

/-- A DATA message acted on by its transfer; none where it has to wait. -/
def takeData (s : State) (b : Nat) (g : Group) (i : Issued) (r : Nat) (msg : List Byte) : Option State :=
  let n := g.nmem.toNat
  let rank := g.rank.toNat
  let w5 := msgWord msg 5
  let t := (bitsAt w5 0 24).toNat
  let gather := bitAt w5 24
  let payload := msg.drop 32
  let p := if bitAt w5 25 then none
    else some (wireValues i.transfer.wdesc (bitsAt (msgWord msg 6) 0 13).toNat payload)
  let expected := if gather then
      expectedTile (gatherRole i n rank) i.total i.transfer.nextGather (fun x => decide (x = .hop))
    else expectedTile (reduceRole i n rank) i.total i.transfer.nextReduce (fun x => decide (x = .hop) || decide (x = .own))
  let put (o : State × Issued) : State := setIssued o.1 b (relayFinish g o.2)
  if msgWord msg 4 ≠ i.transfer.wdesc ∨ r ≠ g.prev ∨ expected ≠ some t then some (relayMismatch s b i)
  else if !i.transfer.started then none
  else if gather then
    if i.transfer.nextGather = t ∧ destReady s i ∧ sendReady g then some (put (passGather s b i t p payload)) else none
  else if i.transfer.nextReduce ≠ t then none
  else if reduceRole i n rank t = .hop then
    if shareReady s i ∧ sendReady g then some (put (passReduce s b i t (p.map some))) else none
  else if (i.op == .relayReceive || shareReady s i) && (gatherRole i n rank t != .none || destReady s i) then
    some (put (ownReduce s b i t p))
  else none

/-- DATA (R370, R376). -/
def execRelayData (bib : Bib) (peer : BitVec 16) (msg : List Byte) (s : State) : Host.Outcome State Fault Refusal :=
  let b := bib.toNat
  live s (takeRelay s b 0x10 peer msg (fun gi g r => takeNumbered s b gi g r msg (fun t =>
    match transferAt t b gi (rmCseq msg) with
    | some i => if rlChan i.body = rmChan msg && rlSvc i.body == rmSvc msg then takeData t b g i r msg else some t
    | none => if notIssued g (rmCseq msg) then none else some t)))

/-- ABORT (R378). -/
def execRelayAbort (bib : Bib) (peer : BitVec 16) (msg : List Byte) (s : State) : Host.Outcome State Fault Refusal :=
  let b := bib.toNat
  live s (takeRelay s b 0x21 peer msg (fun gi g r => takeNumbered s b gi g r msg (fun t =>
    match transferAt t b gi (rmCseq msg) with
    | some i => some ((endTransfer t b i .timeout).post b b .peerAbort (some i.ctx) (wordOf 32 (gi + 256 * r))
        ((rmCseq msg).setWidth 32) (bitsAt (msgWord msg 4) 0 8 |>.setWidth 32))
    | none =>
      if notIssued g (rmCseq msg) then
        some ((doom t b gi (rmCseq msg) .timeout).post b b .peerAbort (some g.ctx.toNat) (wordOf 32 (gi + 256 * r))
          ((rmCseq msg).setWidth 32) (bitsAt (msgWord msg 4) 0 8 |>.setWidth 32))
      else some t)))

/-- PEER_TIMEOUT (R372, R378). -/
def execPeerTimeout (bib : Bib) (queue : BitVec 14) (rank : BitVec 6) (s : State) : Host.Outcome State Fault Refusal :=
  let b := bib.toNat
  live s (match (openOf (s.unit b) queue.toNat).find? (fun i => i.op.isRelay && i.stopAs.isNone) with
    | none => s
    | some i =>
      let gi := rlGroup i.body
      let g := s.group b gi
      if (s.unit b).held && !(s.unit b).health.resetting && decide (g.st = .opened)
          && (decide (rank.toNat = g.prev) || decide (rank.toNat = g.next)) then
        let s1 := (transfersOf s b gi).foldl (fun t x => endTransfer (sendAborts t b x .timeout) b x .timeout) s
        (s1.post b b .peerTimeout (some g.ctx.toNat) (wordOf 32 (gi + 256 * rank.toNat))
            (i.transfer.cseq.setWidth 32) 0).setGroup b gi
          { s1.group b gi with st := .failed, ver := 0 }
      else s)

/-- One group of a relay that lost its link (R372, R378). -/
def loseLink (s : State) (b gi : Nat) : State :=
  let g := s.group b gi
  if g.st = .opened then
    let cs := ((transfersOf s b gi).head?.map (fun i => i.transfer.cseq)).getD g.cseq
    let s1 := endGroup s b gi .timeout
    let d := s1.draw
    (d.2.post b b .peerTimeout (some g.ctx.toNat)
        (wordOf 32 (gi + 16384) ||| ((bitsAt d.1 0 6).setWidth 32 <<< 8)) (cs.setWidth 32) 0).setGroup b gi
      { s1.group b gi with st := .failed, ver := 0 }
  else s

/-- LOSS_OF_LINK (R378). -/
def execLossOfLink (bib : Bib) (s : State) : Host.Outcome State Fault Refusal :=
  let b := bib.toNat
  live s (if kindOf b = some .rl ∧ (s.unit b).held then
      ((s.unit b).relay.groups.map Prod.fst).foldl (fun t gi => loseLink t b gi) s
    else s)

/-- HELLO (R372). -/
def execHello (bib : Bib) (peer : BitVec 16) (msg : List Byte) (s : State) : Host.Outcome State Fault Refusal :=
  let b := bib.toNat
  live s (takeRelay s b 0x01 peer msg (fun gi g r =>
    if g.st = .negotiating then takeHello s b gi r peer msg
    else takeHello (beginNegotiation (endGroup s b gi .timeout) b gi) b gi r peer msg))

/-- GCMD written (R367, R372): 0 OPEN, 1 CLOSE. -/
def groupCommand (s : State) (b gi op : Nat) : State :=
  let g := s.group b gi
  if op = 0 then (if g.st = .closed ∨ g.st = .failed then beginNegotiation s b gi else s)
  else if op = 1 then (if (s.unit b).issued.all (fun i => !i.op.isRelay || !i.active || decide (rlGroup i.body ≠ gi)) then s.setGroup b gi { g with st := .closed, ver := 0 } else s)
  else s

/-- GCMD is written by the group's context, by Coach or by Marshal alone (R367). -/
def mayCommand (a : Agent) (ctx : Nat) : Bool :=
  match a with
  | .coach => true
  | _ => decide (a.ctx? = some ctx)

/-- An agent's write of GCMD (R367): MG relays it to the relay, where `groupCommand` acts on it (R439). -/
def writeGcmd (s : State) (a : Agent) (b gi op : Nat) : State :=
  if kindOf b = some .rl ∧ (s.unit b).held then
    guarded s a (unitOffset b 0x100) (mayCommand a (s.group b gi).ctx.toNat) (relayPlain s b 0x100 (wordOf 32 (gi % 256 + 256 * op)))
  else s

/-- GROUP_OPEN (R367, R372). -/
def execGroupOpen (agent : Agent) (bib : Bib) (group : BitVec 8) (s : State) : Host.Outcome State Fault Refusal :=
  access s (writeGcmd s agent bib.toNat group.toNat 0)

/-- GROUP_CLOSE (R367, R372). -/
def execGroupClose (agent : Agent) (bib : Bib) (group : BitVec 8) (s : State) : Host.Outcome State Fault Refusal :=
  access s (writeGcmd s agent bib.toNat group.toNat 1)

/-! ### Checks at issue (R374) and the issue itself (R375) -/

/-- The wire descriptor that WFDI names. -/
def offerWire (s : State) (o : Offer) : Desc := unitFormat s o.b o.ctx (rlWfdi o.body)

/-- Source and destination of a RELAY: binary32 or bfloat16 without scales, zero points, outliers and rotation. -/
def relayStream (d : Desc) : Bool :=
  (decide (dElem d = 1) || decide (dElem d = 3)) && decide (dSfmt d = 0) && decide (dZpm d = 0) && decide (dOcap d = 0)
    && decide (dRot d = 0)

/-- FORMAT rules. -/
def relayFormat (s : State) (o : Offer) : Bool :=
  wireProfiles.contains (offerWire s o) && (rlSvc o.body == (o.op == .relayCollective))
    && decide (rlCkind o.body ≤ 2) && o.streams.all (fun n => relayStream (o.desc n))

/-- DENIED rules. -/
def relayGranted (s : State) (o : Offer) : Bool :=
  let r := bResid o.body
  decide ((s.group o.b (rlGroup o.body)).ctx = wordOf 10 o.ctx)
    && (!r.1 || decide (bitsAt (tget 0 (s.unit o.b).relay.resid r.2.1) 0 10 = wordOf 10 o.ctx))
    && (!rlSvc o.body || gPriv (s.grant o.ctx))

/-- The channel already holds an issued instruction (R373). -/
def channelBusy (u : UnitSt) (o : Offer) : Bool :=
  u.issued.any (fun i => i.op.isRelay && i.active && (rlSvc i.body == rlSvc o.body) && decide (rlChan i.body = rlChan o.body)
    && (rlSvc o.body || decide (rlGroup i.body = rlGroup o.body)))

/-- WRONG_STATE rules. -/
def relayReady (s : State) (o : Offer) : Bool :=
  let g := s.group o.b (rlGroup o.body)
  let r := bResid o.body
  let bitOf := wireProfiles.findIdx (fun d => decide (d = offerWire s o))
  decide (g.st = .opened)
    && (if rlSvc o.body then decide (2 ≤ g.nmem.toNat) && decide (g.nmem.toNat ≤ 64) else decide (g.nmem.toNat = 2))
    && bitAt g.pcommon bitOf && !channelBusy (s.unit o.b) o
    && (!r.1 || decide (r.2.2 + tilesOf o.len * rowBlocks o.height
          ≤ (bitsAt (tget 0 (s.unit o.b).relay.resid r.2.1) 96 17).toNat))

/-- What a RELAY does as it issues: CSEQ taken, START sent, an early START compared (R375, R377). -/
def beginTransfer (s : State) (b : Nat) (i : Issued) : State :=
  let gi := rlGroup i.body
  let g := s.group b gi
  let r := bResid i.body
  let pend := r.1 && bitAt (tget 0 (s.unit b).relay.resid r.2.1) 15
  let j : Issued := { i with transfer := { cseq := g.cseq, wdesc := unitFormat s b i.ctx (rlWfdi i.body), started := !pend } }
  let early := g.starts.find? (fun x => decide (x.cseq = g.cseq))
  let s1 := (setIssued s b j).setGroup b gi
    { g with cseq := g.cseq + 1, starts := g.starts.filter (fun x => decide (x.cseq ≠ g.cseq))
             doomed := g.doomed.filter (fun x => decide (x.1 ≠ g.cseq)) }
  let s2 := sendStart s1 b j
  match g.doomed.find? (fun x => decide (x.1 = g.cseq)) with
  | some x => endTransfer s2 b j x.2
  | none => if early.any (startDiffers j) then relayMismatch s2 b j else s2

end Sys2Proof.Machine
end

