-- ==== Sys2Proof/Machine/Stop.lean ====
section
/-!
DEFINITION. Instructions that stop early: stream-wait limits (R95), aborts (R331), closing and draining (R321, R330),
preemption points (R325), preemption (R319), suspension (R328, R329) and resumption (R326).
-/

namespace Sys2Proof.Machine

/-! ### What a stopping instruction writes (R95, R104, R331) -/

/-- An instruction stops with a status: the poisoned blocks it owes, and its end once they are written. After `rest`, a
TABLE BUILD poisons the blocks it has not begun, too (R95, R326); an aborted one ends its block alone (R331, R155). -/
def stopWith (rest : Bool) (s : State) (b : Nat) (i : Issued) (st : Status) : State × Issued :=
  if i.op.isConv then stopOn convPoison s i st
  else if i.op == .tableBuild then buildStop rest s b i st
  else if i.op == .reduce then reduceStop s i st
  else if i.op.isRelay then relayStop s b i st
  else if (i.op.isSe || i.op.isSlice) && i.tiled && !i.planes then stopOn sePoison s i st
  else if i.op == .stats then (s, { i with finished := some st, summary := some (statsSummary i) })
  else if i.op == .sample then (s, { sampleEnd i with finished := some st })
  else (s, { i with finished := some st })

/-- An issued instruction aborted by its unit (R331); it ends ABORTED whatever it was stopping for (R309). -/
def abortIssued (s : State) (b : Nat) (i : Issued) : State :=
  let s0 := if i.op.isRelay then sendAborts s b i .aborted else s
  let w := stopWith false (haltAll s0 i .aborted) b { i with stopAs := none, noClose := true } .aborted
  setIssued w.1 b w.2

/-! ### Preemption points and progress (R325) -/

/-- Classes that stop only at instruction boundaries. -/
def boundaryOnly (o : Op) : Bool :=
  o == .reduce || o == .stats || o.isScale || o == .summary || o.isLoad || o.isRelay || o == .sliceWindow

/-- Elements of the first p positions of an engine's or slice's tile instruction. -/
def elementsDone (i : Issued) (p : Nat) : Nat := if i.total ≤ p then i.elements else i.firstOf p

/-- Progress is counted in elements of whole positions. -/
def countsTiles (i : Issued) : Bool := (i.op.isSe || i.op.isSlice) && i.tiled && !i.planes

/-- PROG and PROGHI of an instruction that stops. -/
def progOf (i : Issued) : BitVec 32 × BitVec 16 :=
  if i.op == .lapwait then (bitsAt i.target 0 32, bitsAt i.target 32 16)
  else if i.op.holdsQueue then (0, 0)
  else if countsTiles i then (wordOf 32 (elementsDone i i.pos), 0)
  else (wordOf 32 i.pos, 0)

/-- A converter's boundary: pairs and squares whole, row blocks whole where row sums are gathered or used. -/
def convPoint (i : Issued) (p : Nat) : Bool :=
  decide (p % i.groupSize = 0)
    && (!(i.hasRowSums || (i.op == .convRescale && bEns i.body)) || decide (p % tilesOf i.len = 0) || decide (p = i.total))

/-- The second source tile of a SHUFFLE's position is not written yet: it waits, and keeps the first (R94, R325). -/
def waitsMid (s : State) (i : Issued) : Bool :=
  (i.op.isSe || i.op.isSlice) && i.tiled && !i.planes && !i.allRead i.pos && (i.nextReads i.pos).any (fun x => fieldEmpty s i x.2)

/-- The instruction stands at a preemption point: between positions or waiting for a source tile, with nothing formed or held
by the feed for it. -/
def atPoint (s : State) (b : Nat) (i : Issued) : Bool :=
  !boundaryOnly i.op && (i.reads.isEmpty || waitsMid s i) && i.outs.isEmpty && i.stopAs.isNone && (!i.op.isConv || convPoint i i.pos)
    && !(i.op == .tableBuild && feedOwned (s.unit b) i)

/-- The progress that PROG names, the last whole position at or below it where it names none. -/
def progPos (i : Issued) (prog : Nat) : Nat :=
  if i.op.isConv || i.op == .tableBuild then min prog i.total
  else if i.op == .sample then min prog i.height
  else if i.op.holdsQueue || boundaryOnly i.op then 0
  else if countsTiles i then ((List.range i.total).filter (fun p => decide (elementsDone i (p + 1) ≤ prog))).length
  else min prog i.elements

/-- Progress that PROG stands for; none where it is no preemption point, or lies beyond the end (R326 check 3). -/
def posOf (i : Issued) (prog : Nat) : Option Nat :=
  let p := progPos i prog
  let ok := if i.op.isConv then decide (p = prog) && convPoint i prog
    else if i.op == .sample then decide (prog < i.height)
    else if i.op == .lapwait then true
    else if countsTiles i then decide (elementsDone i p = prog)
    else decide (p = prog) && (i.op.holdsQueue || boundaryOnly i.op || i.op == .tableBuild
      || decide (prog % 256 = 0) || decide (prog = i.elements))
  if ok then some p else none

/-! ### The preempted instruction of a queue (R325, R326, R329) -/

/-- What a SAMPLE's records so far say of NaN, infinity and empty sequences, how many hold a token, and the NaN logits of its
sequences so far (R388; DESIGN CHOICE: log entry 47). -/
def sampledSoFar (s : State) (i : Issued) (n : Nat) : Issued :=
  let recs := (List.range n).map (fun r => readBytes s.mem (addrKey (recordAddr i r)) 16)
  let any (k : Nat) : Bool := recs.any (fun x => bitAt (msgWord x 2) k)
  let nan := any 18
  let inf := any 19
  let nans := (List.range n).map (fun r => if logitsIn s i r then (logitsOf s i r).countP (fun x => (ofF32 x).isNan) else 0)
  { i with counts := { i.counts with nan := satOf 32 (nans.foldl (· + ·) 0) }, sawNan := nan, sawInf := inf, emptySeen := any 17
           summary := some { value := wordOf 64 (recs.filter (fun x => decide (msgWord x 0 ≠ 0xFFFFFFFF))).length, kind := 3
                             status := none, flags := sumFlags nan inf false false false } }

/-- Seed and lap of an instruction's issue, where a queue keeps them for its slots: a restored instruction draws the same
keyed words (R280, R329; DESIGN CHOICE: log entry 47). -/
def keptKey (s : State) (i : Issued) : BitVec 64 × BitVec 48 :=
  let crc := crc32c (slotBytes i.slots)
  let all := (s.queue i.queue).kept :: s.tables.queues.map (fun x => x.2.kept)
  (all.findSome? (fun k => k.filter (fun x => decide (x.1 = crc)))).elim (i.seed, i.lap) Prod.snd

/-- An instruction rebuilt from a restored block at its progress: its sources stand where RTAG says, its work done is that of
its positions so far, all of them taken as good (DESIGN CHOICE: log entry 47). -/
def Issued.restored (s : State) (i : Issued) (p : Nat) : Issued :=
  let j := if i.op == .sample then sampledSoFar s i p else i
  { j with seed := (keptKey s i).1, lap := (keptKey s i).2, pos := p, done := if boundaryOnly i.op then 0 else p
           serial := 0, rtags := (i.entries false).map (fun n => (n, (s.stream n).rtag - wordOf 16 p)) }

/-- The preempted instruction of a queue at the progress its block names, on the unit that the queue is bound to now. -/
def preemptedAt (s : State) (q : Nat) : Option Issued :=
  let x := s.queue q
  let space := if kindOf x.bib.toNat = some .sl then indexOf x.bib.toNat + 1 else 0
  (s.preempted q).map (fun i =>
    let p := progPos i x.prog.toNat
    { (if (s.leftParked q).isSome then { i with pos := p } else i.restored s p) with space := space })

/-- The preempted instruction of a queue takes one of its unit's places, in its own place of the queue. -/
def takePreempted (s : State) (b q : Nat) (i : Issued) : State :=
  (s.onQueue q (fun x => { x with
    parked := none, pre := false, next := x.head + wordOf 16 i.slots.length, owed := x.owed + 1 })).onUnit b (fun u =>
      { u with issued := u.issued ++ [i] })

/-- A preempted instruction aborted at once, by its unit, or by MG where the unit does not act (R331, R333). -/
def abortPreempted (s : State) (q : Nat) : State :=
  let b := (s.queue q).bib.toNat
  match preemptedAt s q with
  | none => s
  | some i => if unitActs s b then abortIssued (takePreempted s b q i) b i else abortParked s q

/-! ### Closing (R321, R330, R331) -/

/-- Issued, unfinished instructions of a queue. -/
def issuedOf (s : State) (q : Nat) : List Issued :=
  (s.unit (s.queue q).bib.toNat).issued.filter (fun i => decide (i.queue = q) && i.finished.isNone)

/-- A queue enters CLOSING: its preempted or stopped instruction and its FENCE or LAPWAIT are aborted at once. -/
def closeQueue (s : State) (q : Nat) : State :=
  let s0 := recallInbox s q
  let x := s0.queue q
  if x.st = .off ∨ x.st = .closing then s
  else
    let s1 := abortPreempted (s0.setQueue q { x with st := .closing }) q
    let s2 := ((issuedOf s1 q).filter (fun i => i.op.holdsQueue || i.paused)).foldl (fun t i => abortIssued t x.bib.toNat i) s1
    settleOwner (closeUnissued s2 q) q

/-- Queues that satisfy `p`, in the table. -/
def queuesWhere (s : State) (p : Nat → Queue → Bool) : List Nat :=
  (s.tables.queues.filter (fun x => p x.1 x.2)).map Prod.fst

/-- Queues of a context. -/
def queuesOfContext (s : State) (c : Nat) : List Nat := queuesWhere s (fun q _ => inRange (gQueues (s.grant c)) q)

/-- Queues bound to a unit. -/
def queuesOfUnit (s : State) (b : Nat) : List Nat := queuesWhere s (fun _ x => decide (x.bib.toNat = b))

/-- A context closes (R321): CTXCMD CLOSE, and REVOKE. -/
def closeContext (s : State) (c : Nat) : State :=
  let s1 := s.setContext c { s.context c with cstate := 3, force := false }
  settleContext ((queuesOfContext s1 c).foldl closeQueue s1) c

/-- The drain timer of a queue runs out: what is still issued is aborted (R330). -/
def drainQueue (s : State) (q : Nat) : State :=
  let x := s.queue q
  if x.st = .closing then (issuedOf s q).foldl (fun t i => abortIssued t x.bib.toNat i) s else s

/-- DRAIN_TIMEOUT (R330). -/
def execDrainTimeout (queue : BitVec 14) (s : State) : Host.Outcome State Fault Refusal := live s (drainQueue s queue.toNat)

/-- A CLOSING queue with nothing issued or preempted takes OFF (R321, R330 step 5). -/
def finishClosing (s : State) (q : Nat) : State :=
  let x := s.queue q
  if x.st = .closing ∧ x.owed = 0 ∧ !x.pre ∧ !closeHeld s x then
    let s1 := closeUnissued s q
    let y := s1.queue q
    settleOwner (s1.setQueue q { y with st := .off, head := y.tail, next := y.tail }) q
  else s

/-- QUEUE_CLOSED (R321). -/
def execQueueClosed (queue : BitVec 14) (s : State) : Host.Outcome State Fault Refusal := live s (finishClosing s queue.toNat)

/-! ### Waits that run out (R95, R168, R302) -/

/-- The instruction waits on a source (R95): the next block it reads is not written (R94), or its region is not marked
(R168). -/
def waitsOnSource (s : State) (b : Nat) (i : Issued) : Bool :=
  let lu := s.lastUse (bRegion i.body)
  (i.outs.isEmpty || i.op == .tableBuild) && i.stopAs.isNone && (
    if i.op.isConv then
      decide (i.pos < i.total) && ((i.fresh && bRgv i.body && lu.tied && decide (lu.st = 0))
        || (takesRowSums i && fieldEmpty s i 3) || awaitsF1 s i [])
    else if i.op == .tableBuild then buildReads (s.unit b) i && i.reads.isEmpty && fieldEmpty s i 1
    else if i.op.isRelay then
      let g := s.group b (rlGroup i.body)
      let taken := if ownSource i then gatherOver i g.nmem.toNat g.rank.toNat else reduceOver i g.nmem.toNat g.rank.toNat
      i.op != .relayReceive && !taken && !shareReady s i
    else if i.op == .stats then isStream (i.field 1) && decide (i.pos < i.statsTotal) && fieldEmpty s i 1
    else if i.op == .reduce then decide (i.len ≠ 0) && !i.reduceDone && (i.stepReads i.pos 0).any (fun x => fieldEmpty s i x.2)
    else if i.op == .sliceConvert || i.op == .sliceReepoch then decide (i.pos < i.total) && fieldEmpty s i 1
    else (i.op.isSe || i.op.isSlice) && i.tiled && !i.planes && decide (i.pos < i.total)
      && (i.nextReads i.pos).any (fun x => fieldEmpty s i x.2))

/-- The source position an instruction waits at. -/
def waitPos (i : Issued) : Nat :=
  if i.op.isConv || i.op == .tableBuild then i.pos + i.reads.length
  else if i.op.isRelay then (if ownSource i then i.transfer.nextGather else i.transfer.nextReduce)
  else i.pos

/-- The instruction ends with TIMEOUT at its present position, what is left of its destination written poisoned (R95,
R309). -/
def timeoutIssued (s : State) (b : Nat) (i : Issued) : State :=
  let j := i.fail .timeout (waitPos i)
  let w := stopWith true s b j j.endStatus
  setIssued w.1 b w.2

/-- STREAM_WAIT_TIMEOUT: a reader has waited beyond its context's limit (R95). -/
def execStreamWaitTimeout (bib : Bib) (queue : BitVec 14) (s : State) : Host.Outcome State Fault Refusal :=
  let b := bib.toNat
  live s (match (openOf (s.unit b) queue.toNat).head? with
    | some i => if unitActs s b && waitsOnSource s b i then timeoutIssued s b i else s
    | none => s)

/-- The last record of a queue is at or past a SEQ (R302). -/
def seqReached (s : State) (q : Nat) (w : BitVec 16) : Bool := decide (((s.queue q).seq - w).toNat < 32768)

/-- WQUEUE and WSEQ of a FENCE WAITSEQ. -/
def bWqueue (b : BitVec 128) : Nat := (bitsAt b 0 14).toNat
/-- WSEQ -/
def bWseq (b : BitVec 128) : BitVec 16 := bitsAt b 32 16

/-- FENCE_QUEUE completes once every earlier instruction of its queue has its record (R302). -/
def execFenceQueue (bib : Bib) (queue : BitVec 14) (s : State) : Host.Outcome State Fault Refusal :=
  let b := bib.toNat
  live s (workOn s b queue.toNat .fenceQueue (fun t i =>
    (t, if (oldestIssued (t.unit b) queue.toNat).any (fun x => decide (x.slot = i.slot))
            && (!isFar b || decide ((t.queue queue.toNat).head = i.slot)) then { i with finished := some .ok }
        else i)))

/-- FENCE_WAITSEQ completes once WQUEUE has written a record at or past WSEQ (R302). -/
def execFenceWaitseq (bib : Bib) (queue : BitVec 14) (s : State) : Host.Outcome State Fault Refusal :=
  live s (workOn s bib.toNat queue.toNat .fenceWaitseq (fun t i =>
    (t, if seqReached t (bWqueue i.body) (bWseq i.body) then { i with finished := some .ok } else i)))

/-- WAITSEQ_TIMEOUT (R302). -/
def execWaitseqTimeout (bib : Bib) (queue : BitVec 14) (s : State) : Host.Outcome State Fault Refusal :=
  live s (workOn s bib.toNat queue.toNat .fenceWaitseq (fun t i =>
    (t, if seqReached t (bWqueue i.body) (bWseq i.body) then i else { i with finished := some .timeout })))

/-! ### Readiness (R317, R318) -/

/-- The instruction that a unit has chosen to preempt and has not preempted yet (R319). -/
def chosenOf (u : UnitSt) : Option Issued :=
  u.chosen.bind (fun c => u.issued.find? (fun i => decide ((i.queue, i.slot) = c) && i.finished.isNone && i.stopAs.isNone))

/-- The unit issues nothing further from the queue: it waits to preempt that queue's instruction (R319). -/
def awaitsPreempt (u : UnitSt) (q : Nat) : Bool := (chosenOf u).any (fun i => decide (i.queue = q))

/-- A queue is ready: RUN, its preempted instruction or its next one wholly visible, with room for its record; nothing that
holds it back is issued (R302, R303, R317). -/
def queueReady (s : State) (b q : Nat) : Bool :=
  let x := s.queue q
  x.st == .run && visibleAt s x (if x.pre then x.head else x.next) && ringRoom x
    && !(s.unit b).issued.any (fun i => decide (i.queue = q) && i.op.holdsQueue) && !awaitsPreempt (s.unit b) q

/-! ### Preemption (R319) -/

/-- Priority of an issued instruction's queue. -/
def prioOf (s : State) (i : Issued) : Nat := (s.queue i.queue).prio.toNat

/-- It is the only issued instruction of its queue. -/
def soleOfQueue (u : UnitSt) (i : Issued) : Bool :=
  decide ((u.issued.filter (fun j => decide (j.queue = i.queue))).length = 1)

/-- A REDUCE or STATS that a forced SUSPEND stops: its queue suspends, and every tile source is at rest (R328). -/
def forcible (s : State) (b : Nat) (i : Issued) : Bool :=
  (i.op == .reduce || i.op == .stats) && i.finished.isNone && i.stopAs.isNone && !i.paused
    && (i.entries false).all (fun n => (s.stream n).rest)
    && (s.context i.ctx).force && (s.queue i.queue).st == .suspending && (s.unit b).issued.contains i

/-- A stopped instruction whose older ones have their records leaves its unit (R328). -/
def pausedOut (u : UnitSt) (i : Issued) : Bool := i.paused && i.finished.isNone && oldestIssued u i.queue == some i

/-- It stands at a preemption point, and alone in its queue (R319, R325). -/
def preemptible (s : State) (b : Nat) (i : Issued) : Bool := i.finished.isNone && atPoint s b i && soleOfQueue (s.unit b) i

/-- What a unit chooses to preempt: where four have issued and a ready queue has a higher priority than the lowest of them,
the lowest preemptible one, the last issued on a tie (R319). -/
def preemptChoice (s : State) (b : Nat) : Option Issued :=
  let u := s.unit b
  let open_ := u.issued.filter (fun i => i.finished.isNone && i.stopAs.isNone && !boundaryOnly i.op)
  let least := u.issued.foldl (fun m i => min m (prioOf s i)) 7
  let wanted := (queuesOfUnit s b).any (fun q => queueReady s b q && decide (least < (s.queue q).prio.toNat))
  if decide (4 ≤ u.issued.length) && wanted then
    let low := open_.foldl (fun m i => min m (prioOf s i)) 7
    (open_.filter (fun i => decide (prioOf s i = low))).getLast?
  else none

/-- What the unit is to preempt for priority: its standing choice, or the one it makes now (R319). -/
def preemptWish (s : State) (b : Nat) : Option Issued := (chosenOf (s.unit b)).or (preemptChoice s b)

/-- The instruction that a unit preempts now: one that a forced SUSPEND stops or has stopped, one whose queue suspends, or the
one that a queue of higher priority displaces. One that is preempted at a point stands there, and alone in its queue. -/
def preemptTarget (s : State) (b : Nat) : Option Issued :=
  let u := s.unit b
  match u.issued.find? (fun i => forcible s b i || pausedOut u i || (preemptible s b i && (s.queue i.queue).st == .suspending)) with
  | some i => some i
  | none => (preemptWish s b).filter (preemptible s b)

/-- An instruction leaves its unit with its progress recorded in its queue (R319, R325). -/
def parkInstr (s : State) (b : Nat) (i : Issued) (prog : BitVec 32 × BitVec 16) : State :=
  let s0 := recallInbox s i.queue
  let crc := crc32c (slotBytes i.slots)
  let s1 := s0.onUnit b (fun u => u.without i)
  let s2 := s1.onQueue i.queue (fun x => { x with
    parked := some i, pre := true, prog := prog.1, proghi := prog.2, dcrc := crc, bci := i.bci
    owed := x.owed - 1, kept := some (crc, i.seed, i.lap) })
  settleQueue s2 i.queue

/-- Progress cleared: the instruction starts again from its first element (R263, R328). -/
def Issued.restarted (i : Issued) : Issued :=
  { i with pos := 0, counts := {}, done := 0, amax := 0, capmax := 0, norm := 0, nonfin := false, satur := false
           failed := none, perm := false, emptySeen := false, overflow := false, sawNan := false, sawInf := false
           summary := none, rows := [], rowSrc := [], rowsBad := false, inputs := [], reads := [], outs := [] }

/-- An issued instruction that has done nothing yet goes back to its queue: what it opened stands as before. -/
def unissue (s : State) (b : Nat) (i : Issued) : State :=
  let s1 := s.onUnit b (fun u => u.without i)
  undoOpens (s1.onQueue i.queue (fun x => { x with next := i.slot, owed := x.owed - 1 })) i

/-- A forced stop (R328): what issued behind it in its queue, and has not begun, is taken back (DEDUCED: log entry 47). Behind an
older instruction, it keeps its place and does nothing more until that one has its record. -/
def forceStop (s : State) (b : Nat) (i : Issued) : State :=
  let mine := (s.unit b).issued.filter (fun j => decide (j.queue = i.queue))
  let behind := (mine.dropWhile (fun j => decide (j.slot ≠ i.slot))).drop 1
  let s1 := behind.reverse.foldl (fun t j => unissue t b j) (recallInbox s i.queue)
  let s2 := s1.each i.rtags (fun t p => t.onStream p.1 (fun e => { e with rtag := p.2 }))
  if oldestIssued (s.unit b) i.queue = some i then parkInstr s2 b i.restarted (0, 0)
  else setIssued s2 b { i.restarted with paused := true }

/-- An instruction preempted (R319, R325, R328). -/
def preemptInstr (s : State) (b : Nat) (i : Issued) : State :=
  if i.paused then parkInstr s b { i with paused := false } (0, 0)
  else if forcible s b i then forceStop s b i
  else parkInstr s b i (progOf i)

/-- PREEMPT (R319, R328): where the instruction to displace is not at a point or not alone, the choice stands
(log entry 41(j)). -/
def execPreempt (bib : Bib) (s : State) : Host.Outcome State Fault Refusal :=
  let b := bib.toNat
  live s (
    if !unitActs s b then s
    else match preemptTarget s b with
      | some i => preemptInstr s b i
      | none => match preemptWish s b with
        | some i => s.onUnit b (fun u => { u with chosen := some (i.queue, i.slot) })
        | none => s)

/-! ### Suspension (R321, R327 to R329) -/

/-- Units that hold a queue of a context. -/
def unitsOfContext (s : State) (c : Nat) : List Nat :=
  ((queuesOfContext s c).filter (fun q => (s.queue q).st != .off)).map (fun q => (s.queue q).bib.toNat)

/-- CTXCMD SUSPEND. -/
def suspendContext (s : State) (c : Nat) : State :=
  let x := s.context c
  if x.cstate = 3 then s
  else
    let units := if x.cstate = 0 then unitsOfContext s c else x.unitsAtSuspend
    let s1 := s.setContext c { x with cstate := 1, unitsAtSuspend := units, force := false }
    let qs := queuesOfContext s c
    let s2 := qs.foldl (fun t q =>
      if (t.queue q).st = .run then (recallInbox t q).onQueue q (fun y => { y with st := .suspending }) else t) s1
    settleContext (qs.foldl settleQueue s2) c

/-- CTXCMD SUSPEND with FORCE: the oldest of each queue's reductions that can stop does (R328). -/
def forceContext (s : State) (c : Nat) : State :=
  let s1 := suspendContext s c
  let stop (t : State) (q : Nat) : State :=
    let b := (t.queue q).bib.toNat
    match (t.unit b).issued.find? (fun i => decide (i.queue = q) && forcible t b i && unitActs t b) with
    | some i => forceStop t b i
    | none => t
  if (s.context c).cstate = 3 then s
  else (queuesOfContext s1 c).foldl stop (s1.setContext c { s1.context c with force := true })

/-- CTXCMD RESUME: units that newly take a queue of the context reseed their pacers (R329, R271). -/
def resumeContext (s : State) (c : Nat) : State :=
  let x := s.context c
  let qs := queuesOfContext s c
  let s1 := qs.foldl (fun t q => if (t.queue q).st = .suspended then t.onQueue q (fun y => { y with st := .run }) else t) s
  let waitsOn := qs.any (fun q => (s.queue q).st == .suspending)
  let fresh := (unitsOfContext s1 c).filter (fun b =>
    (kindOf b = some .cv || kindOf b = some .se) && !x.unitsAtSuspend.contains b)
  if x.cstate = 1 ∨ x.cstate = 2 ∨ qs.any (fun q => (s.queue q).st == .suspended) then
    fresh.foldl (fun t b => t.onUnit b (fun u => { u with reseed := some x.cseed }))
      (s1.setContext c (if waitsOn then { x with cstate := 1 } else { x with cstate := 0, force := false }))
  else s1

/-! ### The commands CTXCMD, QCMD and UCTL (R327, R450) -/

/-- Offsets of CTXCMD, QCMD in MG's global window (R440). -/
abbrev ctxcmdOffset : Nat := 0x44
abbrev qcmdOffset : Nat := 0x48

/-- A write of CTXCMD: ignored where the agent may not command the context (R327). -/
def ctxCommand (s : State) (a : Agent) (c : Nat) (t : State) : State :=
  if apertureOpen s && mayWrite s a c && gEn (s.grant c) then t else s

/-- A write of QCMD: ignored where the agent may not command the queue (R327). -/
def queueCommand (s : State) (a : Agent) (q : Nat) (t : State) : State :=
  if apertureOpen s && mayRing s a q then t else s

/-- CTX_SUSPEND (R321, R327). -/
def execCtxSuspend (agent : Agent) (ctx : BitVec 10) (s : State) : Host.Outcome State Fault Refusal :=
  access s (ctxCommand s agent ctx.toNat (suspendContext s ctx.toNat))

/-- CTX_SUSPEND_FORCE (R327, R328). -/
def execCtxSuspendForce (agent : Agent) (ctx : BitVec 10) (s : State) : Host.Outcome State Fault Refusal :=
  access s (ctxCommand s agent ctx.toNat (forceContext s ctx.toNat))

/-- CTX_RESUME (R321, R329). -/
def execCtxResume (agent : Agent) (ctx : BitVec 10) (s : State) : Host.Outcome State Fault Refusal :=
  access s (ctxCommand s agent ctx.toNat (resumeContext s ctx.toNat))

/-- CTX_CLOSE (R321, R330). -/
def execCtxClose (agent : Agent) (ctx : BitVec 10) (s : State) : Host.Outcome State Fault Refusal :=
  access s (ctxCommand s agent ctx.toNat (closeContext s ctx.toNat))

/-- A queue that an UPDATE closed still names the engine that is Coach's again (R23, R410 step 6). -/
def mustMove (s : State) (x : Queue) : Bool :=
  x.mustMove && decide (x.bib = 0x070) && (s.mg.mode == .coach || s.mg.mode == .updating)

/-- The queue's context may feed a unit: 0x070 is Coach's while MODE is COACH or UPDATING, and a queue of another context
without PRIV stays away from it (R23, R410). -/
def notCoachs (s : State) (q : Nat) (b : BitVec 12) : Bool :=
  !(decide (b = 0x070) && (s.mg.mode == .coach || s.mg.mode == .updating)
    && !((s.ownerOf q).any (fun c => gPriv (s.grant c))))

/-- A queue that a context which exists owns opens (R312, R321), unless it is still bound to the engine that Coach has taken
(R410 step 6). -/
def openQueue (s : State) (q : Nat) : State :=
  let x := s.queue q
  if x.st = .off ∧ (s.ownerOf q).isSome ∧ notCoachs s q x.bib ∧ !mustMove s x then
    settleOwner (s.setQueue q { x with st := .run, seq := 0, dberr := false, next := x.head, owed := 0 }) q
  else s

/-- A HALTED queue resumes (R320, R321). -/
def resumeQueue (s : State) (q : Nat) : State :=
  if (s.queue q).st = .halted then settleOwner (s.onQueue q (fun x => { x with st := .run })) q else s

/-- QUEUE_OPEN (R321). -/
def execQueueOpen (agent : Agent) (queue : BitVec 14) (s : State) : Host.Outcome State Fault Refusal :=
  access s (queueCommand s agent queue.toNat (openQueue s queue.toNat))

/-- QUEUE_RESUME (R320, R321). -/
def execQueueResume (agent : Agent) (queue : BitVec 14) (s : State) : Host.Outcome State Fault Refusal :=
  access s (queueCommand s agent queue.toNat (resumeQueue s queue.toNat))

/-- QUEUE_CLOSE (R321, R330). -/
def execQueueClose (agent : Agent) (queue : BitVec 14) (s : State) : Host.Outcome State Fault Refusal :=
  access s (queueCommand s agent queue.toNat (closeQueue s queue.toNat))

/-- QUIET of UCTL: every queue bound to the unit is OFF, and it holds no issued instruction (R450). -/
def unitQuiet (s : State) (b : Nat) : Bool :=
  (s.unit b).issued.isEmpty && (queuesOfUnit s b).all (fun q => (s.queue q).st == .off)

/-- UCTL written: CLOSE set closes every queue bound to the unit; cleared, it takes effect while QUIET (R450). -/
def writeUctl (s : State) (b : Nat) (close : Bool) : State :=
  if b = 0 ∨ kindOf b = none ∨ ¬ (s.unit b).held then s
  else if close then
    if (s.unit b).closing then s
    else (queuesOfUnit s b).foldl closeQueue (s.onUnit b (fun u => { u with closing := true }))
  else if unitQuiet s b then s.onUnit b (fun u => { u with closing := false })
  else s

/-- An agent's write of UCTL: on a far unit MG relays it and the unit acts on the MGMT (R439, R450). -/
def putUctl (s : State) (b : Nat) (close : Bool) : State :=
  if isFar b then (if (s.unit b).held then relayPlain s b 0x8 (if close then 1 else 0) else s) else writeUctl s b close

/-- UNIT_CLOSE (R450), class PRIVILEGED. -/
def execUnitClose (agent : Agent) (bib : Bib) (s : State) : Host.Outcome State Fault Refusal :=
  access s (guarded s agent (unitOffset bib.toNat 0x8) agent.manages (putUctl s bib.toNat true))

/-- UNIT_CLOSE_CLEAR (R450), class PRIVILEGED. -/
def execUnitCloseClear (agent : Agent) (bib : Bib) (s : State) : Host.Outcome State Fault Refusal :=
  access s (guarded s agent (unitOffset bib.toNat 0x8) agent.manages (putUctl s bib.toNat false))

end Sys2Proof.Machine
end

