-- ==== Sys2Proof/Machine/Issue.lean ====
section
/-!
DEFINITION. Issue (R304 to R307, R317, R318), what an instruction fixes as it issues (R199, R243, R375), DESC messages
(R355, R361), the resumption of preempted instructions (R326), and the work commands of the classes.
-/

namespace Sys2Proof.Machine

/-! ### The checks of R304 -/

/-- Check 3 of R304 beyond layout and stream descriptors: the FORMAT rules of the class. -/
def classFormat (s : State) (o : Offer) : Bool :=
  match o.op with
  | .convPlain | .convRescale | .convTranspose | .convReepoch | .rotate => convFormat o
  | .tableBuild => buildFormat s o
  | .stats => statsFormat o && (o.kind != some .sl || sliceFormat s o)
  | .scalePropose | .scaleAdopt | .scalePin => scaleFormat o
  | .sample => sampleFormat o
  | .relaySend | .relayReceive | .relayCollective => relayFormat s o
  | .sliceProgram | .sliceConvert | .sliceReepoch | .sliceWindow => sliceFormat s o
  | .tableCodebook | .tableChannel | .tableRescale | .tableProgram | .fenceQueue | .fenceWaitseq | .lapwait | .summary => true
  | _ => seFormat s o

/-- Check 4 of R304 beyond streams and trackers. -/
def classGranted (s : State) (o : Offer) : Bool :=
  match o.op with
  | .convPlain | .convRescale | .convTranspose | .convReepoch | .rotate => convGranted s o
  | .tableBuild => buildGranted s o
  | .tableCodebook | .tableChannel | .tableRescale | .tableProgram => loadGranted s o
  | .stats => statsGranted s o
  | .summary => summaryGranted s o
  | .relaySend | .relayReceive | .relayCollective => relayGranted s o
  | .sliceProgram | .sliceConvert | .sliceReepoch | .sliceWindow => sliceGranted s o
  | .fenceWaitseq => inRange (gQueues (s.grant o.ctx)) (bWqueue o.body)
  | _ => true

/-- Check 5 of R304 beyond streams and trackers. -/
def classReady (s : State) (o : Offer) : Bool :=
  (!o.posts || s.mailboxOk o.ctx) &&
  match o.op with
  | .convPlain | .convRescale | .convTranspose | .convReepoch | .rotate => convReady s o
  | .tableCodebook | .tableChannel | .tableRescale | .tableProgram => loadReady s o
  | .scalePropose | .scaleAdopt | .scalePin => scaleReady s o
  | .summary => summaryReady s o
  | .relaySend | .relayReceive | .relayCollective => relayReady s o
  | .sliceProgram | .sliceConvert | .sliceReepoch | .sliceWindow => sliceReady s o
  | _ => true

/-- The first check of R304 that fails. -/
def issueStatus (s : State) (o : Offer) : Option Status :=
  let u := s.unit o.b
  if u.closing || (s.queue o.queue).st == .closing then some .closed
  else if u.member = .falseStart then some .epoch
  else if !(layoutOk ((kindOf o.b).getD .mg) o.slots && streamsFormat s o && classFormat s o) then some .format
  else if !(streamsGranted s o && trackersGranted s o && classGranted s o) then some .denied
  else if !(streamsReady s o && trackersReady s o && classReady s o) then some .wrongState
  else none

/-! ### What an instruction fixes at issue -/

/-- Lap target of a LAPWAIT (R303). -/
def lapTarget (b : BitVec 128) (lap : BitVec 48) : BitVec 48 := if bRel b then lap + bTlap b else bTlap b

/-- The program that an offered instruction names. -/
def offerProgram (s : State) (o : Offer) : BitVec 1024 :=
  if (o.op == .element || o.op == .reduce || o.op == .sliceProgram) && bPv o.body then
    s.programOn o.b o.ctx (bProg o.body)
  else 0

/-- Number of a plane group's second program (R349). -/
def offerStage (s : State) (o : Offer) : Option (BitVec 8) :=
  let g := planeGroup s o.b (o.field 1)
  if isPlaneGroup o.op o.slots && gSecond g then some (wordOf 8 (gProg2 g)) else none

/-- An instruction with the programs it runs (R199, R243, R349). -/
def Issued.withPrograms (s : State) (o : Offer) (i : Issued) : Issued :=
  { i with prog := offerProgram s o, second := offerStage s o
           prog2 := (offerStage s o).elim 0 (fun k => s.programOn o.b o.ctx k.toNat) }

/-- An instruction as it issues on unit b (R199). -/
def mkIssued (s : State) (o : Offer) (slot : BitVec 16) : Issued :=
  { (bareIssued s o slot).withPrograms s o with
    target := if o.op == .lapwait then lapTarget o.body (s.lapOf o.b).1 else 0
    win := if o.op == .sliceWindow && !bWinClose o.body then openedWindow s o.b o.ctx (s.window o.b (bWin o.body)).regs else {} }

/-- The instruction takes one of its unit's places. -/
def placeIssued (s : State) (b : Nat) (i : Issued) : State :=
  let s1 := s.onUnit b (fun u => { u with issued := u.issued ++ [i], lastQueue := some i.queue })
  { s1 with tables := { s1.tables with serial := s1.tables.serial + 1 } }

/-- An instruction completes at issue with a status: only its record and summary follow (R304, R305). -/
def refuseIssue (s : State) (o : Offer) (slot : BitVec 16) (st : Status) : State :=
  placeIssued s o.b { mkIssued s o slot with atIssue := true, finished := some st }

/-- The unit keeps a copy of a program it fetched (R243). -/
def keepProgram (s : State) (o : Offer) (p : BitVec 1024) : State :=
  if (o.op == .element || o.op == .reduce) && bPv o.body then
    s.onUnit o.b (fun u => holdProgram u o.ctx (bProg o.body) p)
  else s

/-- An instruction that passes every check begins: entries opened, program held, a transfer begun. -/
def acceptIssue (s : State) (o : Offer) (slot : BitVec 16) : State :=
  let s1 := s.each o.streams (fun t n => openField t o.ctx (o.field n) (o.desc n) (o.fdi n))
  let i := mkIssued s o slot
  let j : Issued := { i with rtags := (i.entries false).map (fun n => (n, (s1.stream n).rtag))
                             undo := (openedBy o).map (fun n => (n, s.stream n)) }
  let s2 := keepProgram (placeIssued s1 o.b j) o i.prog
  if o.op.isRelay then beginTransfer s2 o.b j else s2

/-- What makes an instruction wait at issue: a reseeding unit whose pacers it draws from (R271), a slice that fetches its
program (R351). -/
def waitsAtIssue (s : State) (o : Offer) : Bool :=
  let u := s.unit o.b
  !u.closing && decide (u.member ≠ .falseStart)
    && ((u.reseed.isSome && drawsPacer o.op o.head (offerProgram s o))
      || (o.kind == some .sl && layoutOk .sl o.slots && decide (missingPrograms s o ≠ [])))

/-- A waiting slice instruction's programs asked for. -/
def askPrograms (s : State) (o : Offer) : State :=
  if o.kind == some .sl then s.each (missingPrograms s o) (fun t k => askProgram t o.b o.ctx k) else s

/-- The checks made and the instruction begun or completed. -/
def settleIssue (s : State) (o : Offer) (slot : BitVec 16) : State :=
  match issueStatus s o with
  | some st => refuseIssue s o slot st
  | none => acceptIssue s o slot

/-! ### ISSUE (R318) -/

/-- The offer of the next instruction of a queue. -/
def nextOffer (s : State) (b q : Nat) : Offer :=
  mkOffer s b q ((s.ownerOf q).getD 0) (ringInstr s (s.queue q) (s.queue q).next)

/-- The preempted instruction of a queue as unit b continues it: as it was left, or rebuilt from its slots with the programs
they name now, where software restored the block (R329). -/
def preemptedInstr (s : State) (b q : Nat) : Issued :=
  let i := (preemptedAt s q).getD (atHead s q)
  if (s.leftParked q).isSome then i
  else i.withPrograms s (mkOffer s b q ((s.ownerOf q).getD 0) i.slots)

/-- The queue's instruction draws pacer words, and its unit reseeds: it waits, and others go on (R271). -/
def reseedHolds (s : State) (b q : Nat) : Bool :=
  let o := nextOffer s b q
  let i := preemptedInstr s b q
  (s.unit b).reseed.isSome && (if (s.queue q).pre then drawsPacer i.op i.head i.prog else drawsPacer o.op o.head (offerProgram s o))

/-- The ready queue that wins: highest PRIO, then the first after the queue last issued from (R318). -/
def arbitrate (s : State) (b : Nat) : Option Nat :=
  let ready := (queuesOfUnit s b).filter (fun q => queueReady s b q && !reseedHolds s b q)
  let top := ready.foldl (fun m q => max m (s.queue q).prio.toNat) 0
  let best := ready.filter (fun q => decide ((s.queue q).prio.toNat = top))
  let after := ((s.unit b).lastQueue.getD 16383) + 1
  match best.filter (fun q => decide (after ≤ q)) with
  | q :: _ => some q
  | [] => best.head?

/-- The unit may issue: it acts, the complex is READY, no hold, a free place (R200, R304, R318, R394). -/
def mayIssue (s : State) (b : Nat) : Bool :=
  unitActs s b && s.mg.step == .ready && !heldBack s b && decide ((s.unit b).issued.length < 4)

/-- MG's count for an instruction taken from its queue (R317). -/
def takeSlots (s : State) (q n : Nat) : State :=
  s.onQueue q (fun x => { x with next := x.next + wordOf 16 n, owed := x.owed + 1 })

/-- An instruction refused at issue completes there and then: its summary, its halt, and its record once the older ones
of its queue have theirs (R302, R304, R310). On a tracker it waits for its turn (R313). -/
def completeRefused (s : State) (b : Nat) : State :=
  match (s.unit b).issued.getLast? with
  | some i =>
    match i.finished with
    | some st => if i.atIssue && i.ended.isNone && inTurn s b i then completeIssued s b i st else s
    | none => s
  | none => s

/-- A near unit takes the next instruction of a queue. -/
def issueNear (s : State) (b q : Nat) : State :=
  let o := nextOffer s b q
  if waitsAtIssue s o then s
  else completeRefused (takeSlots (settleIssue s o (s.queue q).next) q o.slots.length) b

/-- The DESC message of an instruction (R361). -/
def descMsg (q : Nat) (slot : BitVec 16) (sl : List SlotWord) : List Byte :=
  linkMsg 0x10 (wordOf 32 (q + 2 ^ 14 * (sl.length - 1)) ||| (slot.setWidth 32 <<< 16)) 0 0 (slotBytes sl)

/-- MG sends a far unit the next instruction of the queue that wins (R355). -/
def sendDesc (s : State) (b : Nat) : State :=
  let u := s.unit b
  match arbitrate s b with
  | some q =>
    if (s.queue q).pre || decide (4 ≤ u.issued.length + u.inbox.length) then s
    else
      let sl := ringInstr s (s.queue q) (s.queue q).next
      let slot := (s.queue q).next
      sendMsg (takeSlots (s.onUnit b (fun v => { v with lastQueue := some q })) q sl.length) true b (descMsg q slot sl)
  | none => s

/-- Offer of a received instruction. -/
def arrivedOffer (s : State) (b : Nat) (a : Arrived) : Offer := mkOffer s b a.queue ((s.ownerOf a.queue).getD 0) a.slots

/-- The received instruction that issues next: the first that nothing of its queue holds back, and that does not wait for
its program where another can go on (R351, R355). -/
def nextArrived (s : State) (b : Nat) : Option Arrived :=
  let u := s.unit b
  let ready := u.inbox.filter (fun a => decide (u.inbox.find? (fun x => decide (x.queue = a.queue)) = some a)
    && !(s.queue a.queue).pre && !u.issued.any (fun i => decide (i.queue = a.queue) && i.op.holdsQueue) && !awaitsPreempt u a.queue)
  match ready.find? (fun a => !waitsAtIssue s (arrivedOffer s b a)) with
  | some a => some a
  | none => ready.head?

/-- A far unit issues an instruction that it received. -/
def issueFar (s : State) (b : Nat) (a : Arrived) : State :=
  let o := arrivedOffer s b a
  if waitsAtIssue s o then askPrograms s o
  else
    completeRefused (settleIssue (s.onUnit b (fun u => { u with inbox := u.inbox.filter (fun x => decide (x ≠ a)) })) o a.slot) b

/-- A far unit issues what it can of what it received. -/
def issueReceived (s : State) (b : Nat) : State :=
  if mayIssue s b then
    match nextArrived s b with
    | some a => issueFar s b a
    | none => s
  else s

/-- ISSUE: the next instruction of the queue that wins issues; for a far unit, one it received issues, or MG sends it one
(R318, R355). -/
def execIssueNext (bib : Bib) (s : State) : Host.Outcome State Fault Refusal :=
  let b := bib.toNat
  live s (
    if isFar b then
      (if mayIssue s b && (nextArrived s b).isSome then issueReceived s b
       else if unitActs s b && s.mg.step == .ready then sendDesc s b else s)
    else if mayIssue s b then
      match arbitrate s b with
      | some q => if (s.queue q).pre then s else issueNear s b q
      | none => s
    else s)

/-- DESC: a far unit receives an instruction, and issues it where it can (R355, R361). -/
def execDescMessage (bib : Bib) (msg : List Byte) (s : State) : Host.Outcome State Fault Refusal :=
  let b := bib.toNat
  let w := msgWord msg 1
  let n := (bitsAt w 14 2).toNat + 1
  live s (
    if !isFar b || !(s.unit b).held || (s.unit b).health.resetting then s
    else if !linkMsgOk msg 0x10 (1 + 2 * n) 0xFFFFFFFF 0 0 then badMsg s b 0 msg
    else
      let sl := (chunksOf 32 n (msgRest msg)).map (wordLE 256)
      issueReceived (s.onUnit b (fun u => { u with inbox := u.inbox ++ [⟨(bitsAt w 0 14).toNat, bitsAt w 16 16, sl⟩] })) b)

/-! ### Resumption (R326) -/

/-- The first check of R326 that fails. -/
def resumeStatus (s : State) (q : Nat) (i : Issued) : Option Status :=
  let x := s.queue q
  if crc32c (slotBytes (ringInstr s x x.head)) ≠ x.dcrc then some .aborted
  else if x.bci ≠ s.baton.commits then some .epoch
  else if (posOf i x.prog.toNat).isNone then some .format
  else none

/-- A preempted instruction continues from PROG, or ends with its entries HALTED (R326). -/
def resumeInstr (s : State) (b q : Nat) : State :=
  let x := s.queue q
  let i : Issued := { preemptedInstr s b q with slot := x.head }
  let s1 := s.setQueue q { x with
    pre := false, parked := none, next := x.head + wordOf 16 i.slots.length, owed := x.owed + 1 }
  match resumeStatus s q i with
  | none =>
    let target : BitVec 48 := if i.op == .lapwait then x.prog.setWidth 48 ||| (x.proghi.setWidth 48 <<< 32) else i.target
    placeIssued s1 b { i with target := target }
  | some st =>
    let j := if decide (st = .aborted) || i.op == .sample then i else i.fail st i.pos
    let w := stopWith true (placeIssued s1 b j) b j st
    setIssued (haltAll w.1 i st) b { w.2 with noClose := true }

/-- RESUME_PREEMPTED: the preempted instruction of the queue that wins (R318, R326). -/
def execResumePreempted (bib : Bib) (s : State) : Host.Outcome State Fault Refusal :=
  let b := bib.toNat
  live s (if mayIssue s b then
      match arbitrate s b with
      | some q =>
        let i := preemptedInstr s b q
        if (s.queue q).pre && !((s.unit b).reseed.isSome && drawsPacer i.op i.head i.prog) then resumeInstr s b q else s
      | none => s
    else s)

/-! ### Work commands of the classes -/

/-- CONVERT_PLAIN (R63, R108 to R161). -/
def execConvertPlain (bib : Bib) (queue : BitVec 14) (steps : Nat) (arrived : List (List Byte)) (s : State) :
    Host.Outcome State Fault Refusal :=
  live s (workOn s bib.toNat queue.toNat .convPlain (fun t i => convRun bib.toNat steps t i arrived))

/-- CONVERT_RESCALE (R127). -/
def execConvertRescale (bib : Bib) (queue : BitVec 14) (steps : Nat) (arrived : List (List Byte)) (s : State) :
    Host.Outcome State Fault Refusal :=
  live s (workOn s bib.toNat queue.toNat .convRescale (fun t i => convRun bib.toNat steps t i arrived))

/-- CONVERT_TRANSPOSE (R160). -/
def execConvertTranspose (bib : Bib) (queue : BitVec 14) (steps : Nat) (arrived : List (List Byte)) (s : State) :
    Host.Outcome State Fault Refusal :=
  live s (workOn s bib.toNat queue.toNat .convTranspose (fun t i => convRun bib.toNat steps t i arrived))

/-- CONVERT_REEPOCH (R106). -/
def execConvertReepoch (bib : Bib) (queue : BitVec 14) (steps : Nat) (arrived : List (List Byte)) (s : State) :
    Host.Outcome State Fault Refusal :=
  live s (workOn s bib.toNat queue.toNat .convReepoch (fun t i => convRun bib.toNat steps t i arrived))

/-- ROTATE (R128 to R135, R290). -/
def execRotate (bib : Bib) (queue : BitVec 14) (steps : Nat) (arrived : List (List Byte)) (s : State) :
    Host.Outcome State Fault Refusal :=
  live s (workOn s bib.toNat queue.toNat .rotate (fun t i => convRun bib.toNat steps t i arrived))

/-- TABLE_BUILD (R149 to R155). -/
def execTableBuild (bib : Bib) (queue : BitVec 14) (steps : Nat) (s : State) : Host.Outcome State Fault Refusal :=
  live s (workOn s bib.toNat queue.toNat .tableBuild (buildRun bib.toNat steps))

/-- A load carried out; a codebook load that completes changes what a baton in staging carries (R209, R211). -/
def loadWork (s : State) (b q : Nat) (o : Op) : State :=
  workOn s b q o (fun t i =>
    let r := loadRun b t i
    if o == .tableCodebook && decide (r.2.finished = some .ok) then (restage r.1, r.2) else r)

/-- TABLE_CODEBOOK (R46). -/
def execTableCodebook (bib : Bib) (queue : BitVec 14) (s : State) : Host.Outcome State Fault Refusal :=
  live s (loadWork s bib.toNat queue.toNat .tableCodebook)

/-- TABLE_CHANNEL (R120). -/
def execTableChannel (bib : Bib) (queue : BitVec 14) (s : State) : Host.Outcome State Fault Refusal :=
  live s (loadWork s bib.toNat queue.toNat .tableChannel)

/-- TABLE_RESCALE (R120). -/
def execTableRescale (bib : Bib) (queue : BitVec 14) (s : State) : Host.Outcome State Fault Refusal :=
  live s (loadWork s bib.toNat queue.toNat .tableRescale)

/-- TABLE_PROGRAM (R243). -/
def execTableProgram (bib : Bib) (queue : BitVec 14) (s : State) : Host.Outcome State Fault Refusal :=
  live s (loadWork s bib.toNat queue.toNat .tableProgram)

/-- ELEMENT (R244). -/
def execElement (bib : Bib) (queue : BitVec 14) (steps : Nat) (s : State) : Host.Outcome State Fault Refusal :=
  live s (workOn s bib.toNat queue.toNat .element (seRun bib.toNat steps))

/-- REDUCE (R248 to R253). -/
def execReduce (bib : Bib) (queue : BitVec 14) (steps : Nat) (s : State) : Host.Outcome State Fault Refusal :=
  live s (workOn s bib.toNat queue.toNat .reduce (reduceRun bib.toNat steps))

/-- PERMUTE (R254). -/
def execPermute (bib : Bib) (queue : BitVec 14) (steps : Nat) (s : State) : Host.Outcome State Fault Refusal :=
  live s (workOn s bib.toNat queue.toNat .permute (seRun bib.toNat steps))

/-- SHUFFLE_INTERLEAVE (R255). -/
def execShuffleInterleave (bib : Bib) (queue : BitVec 14) (steps : Nat) (s : State) : Host.Outcome State Fault Refusal :=
  live s (workOn s bib.toNat queue.toNat .shufInterleave (seRun bib.toNat steps))

/-- SHUFFLE_EVEN (R255). -/
def execShuffleEven (bib : Bib) (queue : BitVec 14) (steps : Nat) (s : State) : Host.Outcome State Fault Refusal :=
  live s (workOn s bib.toNat queue.toNat .shufEven (seRun bib.toNat steps))

/-- SHUFFLE_ODD (R255). -/
def execShuffleOdd (bib : Bib) (queue : BitVec 14) (steps : Nat) (s : State) : Host.Outcome State Fault Refusal :=
  live s (workOn s bib.toNat queue.toNat .shufOdd (seRun bib.toNat steps))

/-- SHUFFLE_REVERSE (R255). -/
def execShuffleReverse (bib : Bib) (queue : BitVec 14) (steps : Nat) (s : State) : Host.Outcome State Fault Refusal :=
  live s (workOn s bib.toNat queue.toNat .shufReverse (seRun bib.toNat steps))

/-- SHUFFLE_ROTATE (R255). -/
def execShuffleRotate (bib : Bib) (queue : BitVec 14) (steps : Nat) (s : State) : Host.Outcome State Fault Refusal :=
  live s (workOn s bib.toNat queue.toNat .shufRotate (seRun bib.toNat steps))

/-- PACK (R256). -/
def execPack (bib : Bib) (queue : BitVec 14) (steps : Nat) (s : State) : Host.Outcome State Fault Refusal :=
  live s (workOn s bib.toNat queue.toNat .pack (seRun bib.toNat steps))

/-- UNPACK_CODES (R257). -/
def execUnpackCodes (bib : Bib) (queue : BitVec 14) (steps : Nat) (s : State) : Host.Outcome State Fault Refusal :=
  live s (workOn s bib.toNat queue.toNat .unpackCodes (seRun bib.toNat steps))

/-- UNPACK_SCALES (R257). -/
def execUnpackScales (bib : Bib) (queue : BitVec 14) (steps : Nat) (s : State) : Host.Outcome State Fault Refusal :=
  live s (workOn s bib.toNat queue.toNat .unpackScales (seRun bib.toNat steps))

/-- UNPACK_ZPOINTS (R257). -/
def execUnpackZpoints (bib : Bib) (queue : BitVec 14) (steps : Nat) (s : State) : Host.Outcome State Fault Refusal :=
  live s (workOn s bib.toNat queue.toNat .unpackZpoints (seRun bib.toNat steps))

/-- RANDOM_BITS (R278). -/
def execRandomBits (bib : Bib) (queue : BitVec 14) (steps : Nat) (s : State) : Host.Outcome State Fault Refusal :=
  live s (workOn s bib.toNat queue.toNat .randomBits (seRun bib.toNat steps))

/-- RANDOM_BERNOULLI (R278). -/
def execRandomBernoulli (bib : Bib) (queue : BitVec 14) (steps : Nat) (s : State) : Host.Outcome State Fault Refusal :=
  live s (workOn s bib.toNat queue.toNat .randomBernoulli (seRun bib.toNat steps))

/-- One progress unit of an instruction that reads tile streams. -/
def readerStep (s : State) (b : Nat) (i : Issued) (arrived : List (List Byte)) : State × Issued :=
  if i.op.isConv then convRun b 1 s i arrived
  else if i.op == .tableBuild then buildRun b 1 s i
  else if i.op == .stats then statsWork s b 1 i
  else if i.op == .reduce then reduceRun b 1 s i
  else if i.op.isSe then seRun b 1 s i
  else if i.op.isSlice then sliceRun b 1 s i
  else if i.op.isRelay then relayRun b 1 s i
  else (s, i)

/-- BLOCK_POSITION: a reader, the oldest unfinished instruction of its queue, takes one block position (R97, R98). -/
def execBlockPosition (bib : Bib) (queue : BitVec 14) (arrived : List (List Byte)) (s : State) :
    Host.Outcome State Fault Refusal :=
  let b := bib.toNat
  live s (
    if (s.unit b).held && !(s.unit b).health.resetting then
      match (openOf (s.unit b) queue.toNat).head? with
      | some i => if (streamFields i.slots).any (fun n => !isDest i.op n) then putBack b i (readerStep s b i arrived) else s
      | none => s
    else s)

end Sys2Proof.Machine
end

