-- ==== Sys2Proof/Machine/Marshal.lean ====
section
/-!
DEFINITION. Start-up (R393, R397), the Coach image (R403 to R408), Marshal's commands (R402, R410, R428, R446).
-/

namespace Sys2Proof.Machine

/-! ### Power-on and bib issue (R391, R393, R397) -/

/-- Every slice link in DETECT. -/
def startLinks : Tab Link :=
  (List.range 16).map (fun k => (k, { mg := { st := .detect }, sl := { st := .detect } }))

/-- Memory with a run of bytes at zero. -/
def clearBytes (m : Memory) (k n : Nat) : Memory := m.filter (fun c => decide (c.1 < k) || decide (k + n ≤ c.1))

/-- Step 4 of an UPDATE is under way: UPDATE_BEGIN is committed, context 0 has drained, and the store is not whole yet (R410). -/
def storeOpen (s : State) : Bool :=
  s.mg.begun && !s.mg.installed && (queuesOfContext s 0).all (fun q => (s.queue q).st == .off)

/-- The image store as power-on finds it: an UPDATE that was writing it leaves a part of the new image over the old one; how
much is free (R411; log entry 48). -/
def Storage.found (s : State) : Storage :=
  match s.mg.update with
  | some (a, n) =>
    if !storeOpen s then s.storage
    else { s.storage with image := writeBytes s.storage.image 0 (s.readSpad a.toNat (min n.toNat (Config.storedBytes s.freeCtr))) }
  | none => s.storage

/-- POWER_ON_RESET: everything at its reset value but the finish record, the image store and key storage; the stacks, the
bus pins and the commands that wait are not Teonuc's. The scratchpad starts at zero, and with it every program (R241;
DESIGN CHOICE: log entry 4). -/
def execPowerOnReset (s : State) : Host.Outcome State Fault Refusal :=
  .next { State.reset with
    pending := s.pending, freeCtr := s.freeCtr + 1, storage := Storage.found s, mem := clearBytes s.mem 0 (2 ^ 32), out := s.out
    finish := { slots := s.finish.slots }
    pace := { busLap := s.pace.busLap, busSplit := s.pace.busSplit, busPhase := s.pace.busPhase }
    links := startLinks }

/-- Bib issue is running on the compute die and the relays. -/
def issuingBibs (s : State) : Bool := s.mg.step == .reset || s.mg.step == .chain

/-- STEP after a chain position: SELFTEST once the last relay has been asked (R393, R395). -/
def chainStep (s : State) (b : Nat) : State := { s with mg := { s.mg with step := if b = 0x088 then .selftest else .chain } }

/-- The kind that a position answered is checked (R397). -/
def checkKind (s : State) (b : Nat) (kind : BitVec 4) : State :=
  if (kindOf b).any (fun k => decide (k.code = kind)) then s
  else fence (s.post 0 b .chain none (kind.setWidth 32) 0 0) b .kind

/-- BIB_ISSUE: the unit at a chain position takes its bib and answers; a slice does so once its link is ACTIVE. -/
def execBibIssue (bib : Bib) (kind : BitVec 4) (gen : BitVec 8) (s : State) : Host.Outcome State Fault Refusal :=
  let b := bib.toNat
  let _ := gen
  live s (match kindOf b with
    | none | some .mg => s
    | some .sl => if (s.linkEnd (indexOf b) true).st = .active then checkKind (issueSlice s b) b kind else s
    | some _ =>
      if issuingBibs s && !(s.unit b).held then
        checkKind ((chainStep s b).onUnit b (fun u => { u with held := true })) b kind
      else s)

/-- BIB_ANSWER_TIMEOUT: the bib is held by no unit, and the position counts as a fenced unit (R397). -/
def execBibAnswerTimeout (bib : Bib) (s : State) : Host.Outcome State Fault Refusal :=
  let b := bib.toNat
  live s (match kindOf b with
    | none | some .mg | some .sl => s
    | some _ => if issuingBibs s && !(s.unit b).held then fence (chainStep s b) b .absent else s)

/-- Positions held by no answering unit: ABSENT of MSTAT (R395). -/
def absentCount (s : State) : BitVec 8 :=
  satOf 8 (allBibs.filter (fun b =>
    (s.unit b).health.fenced && decide ((s.unit b).health.cause = Cause.absent.code))).length

/-- A unit whose self-test failed: it is fenced, a slice whose link is not up yet among them (R397, R428). -/
def failBist (s : State) (p : Nat × Nat) : State :=
  if ((s.unit p.1).held || kindOf p.1 == some .sl) && !(s.unit p.1).health.fenced && decide (0 < p.1) then
    fence (s.post 0 p.1 .bist none (wordOf 32 p.2) 0 0) p.1 .bist
  else s

/-- Every pacer seeded from a seed (R271). -/
def seedPacers (s : State) (seed : BitVec 64) : State :=
  s.each pacerUnits (fun t b => t.onUnit b (fun u =>
    { u with pacer0 := (pacerSeed seed).1, pacer1 := (pacerSeed seed).2 }))

/-- BIST_COLLECT at 300 µs; verification follows (R393). -/
def execBistCollect (failing : List (Nat × Nat)) (s : State) : Host.Outcome State Fault Refusal :=
  live s (
    if s.mg.step == .chain || s.mg.step == .selftest then
      let s1 := seedPacers (failing.foldl failBist s) s.mg.pacroot
      { s1 with mg := { s1.mg with step := .verify } }
    else s)

/-- LINKWAIT: every slice whose link is not ACTIVE is absent (R397). -/
def execLinkwait (s : State) : Host.Outcome State Fault Refusal :=
  let missing := (List.range 16).filter (fun k => decide ((s.linkEnd k true).st ≠ .active))
  live s (
    if s.mg.linkwait then s
    else
      let s1 := missing.foldl (fun t k => (fence t (sliceBib k) .absent).onUnit (sliceBib k) (fun u => { u with held := false })) s
      { s1 with mg := { s1.mg with linkwait := true } })

/-! ### The Coach image (R404) -/

/-- Field of a header: bits lo to lo + w − 1 of the word at an offset. -/
def hdrField (h : List Byte) (offset lo w : Nat) : Nat := (bitsAt (msgWord h (offset / 4)) lo w).toNat

/-- L -/
def imgLen (h : List Byte) : Nat := hdrField h 8 0 32
/-- NPROG -/
def imgNprog (h : List Byte) : Nat := hdrField h 0xC 0 9
/-- NSLOT -/
def imgNslot (h : List Byte) : Nat := hdrField h 0xC 16 16
/-- SPLEN -/
def imgSplen (h : List Byte) : Nat := hdrField h 0x10 0 32
/-- RSIZE -/
def imgRsize (h : List Byte) : Nat := hdrField h 0x14 0 4
/-- CSIZE -/
def imgCsize (h : List Byte) : Nat := hdrField h 0x14 4 4
/-- SVN -/
def imgSvn (h : List Byte) : Nat := hdrField h 4 24 8
/-- KEYSLOT -/
def imgKeyslot (h : List Byte) : Nat := hdrField h 4 16 8

/-- Bits set in a word. -/
def popcount (x : BitVec 64) : Nat := ((List.range 64).filter (fun i => bitAt x i)).length

/-- Check 1 of R406: MAGIC, HVER, reserved bytes, field ranges. -/
def imageForm (h : List Byte) : Bool :=
  let zero (l : List Byte) : Bool := l.all (fun b => decide (b = 0))
  decide (hdrField h 0 0 32 = 0x48435443) && decide (hdrField h 4 0 8 = 1) && decide (imgKeyslot h ≤ 3)
    && decide (imgSvn h ≤ 63) && decide (imgLen h % 64 = 0) && decide (imgLen h ≤ 2096896) && decide (imgNprog h ≤ 256)
    && decide (128 * imgNprog h ≤ imgLen h) && decide (hdrField h 0xC 9 7 = 0) && decide (imgRsize h ≤ 11)
    && decide (imgCsize h ≤ 11) && decide (1 ≤ imgNslot h) && decide (imgNslot h ≤ 2 ^ (imgRsize h + 4))
    && decide (imgSplen h % 64 = 0) && decide (1 ≤ hdrField h 0x14 8 8) && decide (hdrField h 0x14 8 8 ≤ 64)
    && decide (hdrField h 0x14 16 16 ≤ 4096) && decide (hdrField h 0x18 0 16 ≤ 1024)
    && decide (hdrField h 0x18 16 16 ≤ 256) && decide (hdrField h 0x1C 1 31 = 0) && decide (h.getD 0x20 0 = 4)
    && zero ((h.drop 0x81).take 7) && zero ((h.drop 0xE8).take 24)

/-- SHA-384 of the signed message: header bytes 0x00 to 0x87, then the body (R404). -/
def imageHash (h body : List Byte) : BitVec 384 := Config.sha384 (h.take 0x88 ++ body)

/-- VRES of R406: the first check that fails. -/
def verifyImage (s : State) (h body : List Byte) : BitVec 4 :=
  let pub := (h.drop 0x20).take 97
  let k := imgKeyslot h
  if !imageForm h then 1
  else if 1 < hdrField h 4 8 8 then 2
  else if bitAt s.storage.krev k || decide (Config.sha384 pub ≠ tget 0 s.storage.keyh k) then 3
  else if imgSvn h < popcount s.storage.svnfuse then 4
  else if Config.spReserve < imgSplen h + 32768 ∨ imgSplen h < imgLen h - 128 * imgNprog h then 5
  else if !Config.ecdsaP384 pub ((h.drop 0x88).take 48) ((h.drop 0xB8).take 48) (imageHash h body) then 6
  else 0

/-- Header and body in the image store (R403). -/
def storeBytes (s : State) (a n : Nat) : List Byte := (List.range n).map (fun i => tget 0 s.storage.image (a + i))

/-- The header in the image store. -/
def storeHeader (s : State) : List Byte := storeBytes s 0 256

/-- The body in the image store. -/
def storeBody (s : State) : List Byte := storeBytes s 256 (imgLen (storeHeader s))

/-- VRES and MEAS after a verification (R406, R407). -/
def setVerified (s : State) (vres : BitVec 4) (hash : BitVec 384) : State :=
  { s with mg := { s.mg with vres := vres, meas := if vres = 0 then hash else 0 } }

/-- First byte of Coach's scratchpad grant. -/
def coachBase (h : List Byte) : Nat := 64 * Config.spTop64 - imgSplen h

/-- Programs copied into the program store, the rest of the body into the grant, zeros behind it; no unit keeps a copy of an
earlier program (R243). -/
def copyImage (s : State) (h body : List Byte) : State :=
  let s1 := s.writeSpad (coachBase h - 32768) (body.take (128 * imgNprog h))
  let s2 := { s1 with mem := clearBytes s1.mem (spadKey (coachBase h)) (imgSplen h) }
  discardCopies (s2.writeSpad (coachBase h) (body.drop (128 * imgNprog h))) (fun _ _ => true)

/-- The image store verified. The hash pass, which follows checks 1 to 5, copies the image into the scratchpad, whatever the
signature then says (R393, R405 step 2). -/
def verifyStore (s : State) : State :=
  let h := storeHeader s
  let body := storeBody s
  let v := verifyImage s h body
  setVerified (if v = 0 ∨ v = 6 then copyImage s h body else s) v (imageHash h body)

/-- VERIFY_DONE (R406). -/
def execVerifyDone (s : State) : Host.Outcome State Fault Refusal :=
  live s (
    if s.mg.step == .verify && !s.mg.verified then
      let s1 := verifyStore s
      { s1 with mg := { s1.mg with verified := true } }
    else s)

/-! ### Starting Coach (R405) and minimal mode (R408) -/

/-- The grant record of context 0. -/
def coachGrant (h : List Byte) : BitVec 384 :=
  let put (w : BitVec 384) (lo n v : Nat) : BitVec 384 := putBits w lo (wordOf n v)
  let f := hdrField h
  put (put (put (put (put (put (put 3 46 15 (f 0x14 8 8)) 96 17 (f 0x14 16 16)) 142 15 (f 0x18 0 16)) 172 13 (f 0x18 16 16))
    288 32 (coachBase h)) 320 32 (imgSplen h)) 352 32 (coachBase h - 32768)

/-- Queue 0 bound to the reserved stream engine, opened, its ring visible. -/
def coachQueue (h : List Byte) : Queue :=
  { rbase := wordOf 32 (coachBase h), rsize := wordOf 4 (imgRsize h), bib := 0x070, prio := 7
    cbase := wordOf 32 (coachBase h + 32 * 2 ^ (imgRsize h + 4)), csize := wordOf 4 (imgCsize h)
    tail := wordOf 16 (imgNslot h), st := .run }

/-- Marshal sets Coach up (R405). -/
def startCoach (s : State) (h : List Byte) : State :=
  let s2 := s.setContext 0 { s.context 0 with grant := coachGrant h, cstate := 0 }
  let s3 := s2.setQueue 0 (coachQueue h)
  { s3 with mg := { s3.mg with mode := .coach } }

/-- MODE as MSTAT and the finish record show it (R395). -/
def Mode.code : Mode → BitVec 2
  | .none => 0 | .coach => 1 | .minimal => 2 | .updating => 3

/-- MODE changed. -/
def State.setMode (s : State) (m : Mode) : State := { s with mg := { s.mg with mode := m } }

/-- START with its CONT (R432). -/
def queueStart (s : State) (m : Mode) : State :=
  let w0 : BitVec 32 := s.mg.vres.setWidth 32 ||| (m.code.setWidth 32 <<< 4) ||| ((absentCount s).setWidth 32 <<< 6)
  let w1 : BitVec 32 := 0x1001 ||| (wordOf 32 (popcount s.storage.svnfuse % 64) <<< 16)
  queueRecord (queueRecord s 1 (bodyOf [w0, w1])) 2 s.mg.meas

/-- Verification has ended, the links are up or LINKWAIT has passed, and the head record is known (R393). -/
def readyToStart (s : State) : Bool :=
  s.mg.step == .verify && s.mg.verified && s.finish.scanned
    && (s.mg.linkwait || (List.range 16).all (fun k => decide ((s.linkEnd k true).st = .active)))

/-- STEP becomes READY and MG sends the first DEMAND (R393, R418). -/
def becomeReady (s : State) : State :=
  sendDemand { s with mg := { s.mg with step := .ready } } 1160 (bitsAt s.pace.lap 0 16)

/-- COACH_START (R405, R445). -/
def execCoachStart (s : State) : Host.Outcome State Fault Refusal :=
  live s (
    if readyToStart s && decide (s.mg.vres = 0) then
      let s1 := startCoach (queueStart s .coach) (storeHeader s)
      becomeReady { s1 with mg := { s1.mg with tabgrant := 0x40004000400 } }
    else s)

/-- Teonuc runs in minimal mode (R408). -/
def enterMinimal (s : State) : State := (s.setMode .minimal).postMg .minimal (s.mg.vres.setWidth 32) 0 0

/-- MINIMAL_MODE_ENTRY (R408). -/
def execMinimalModeEntry (s : State) : Host.Outcome State Fault Refusal :=
  live s (if readyToStart s && decide (s.mg.vres ≠ 0) then becomeReady (enterMinimal (queueStart s .minimal)) else s)

/-! ### Marshal commands (R402) -/

/-- Result of a command in MRES. -/
def setMres (s : State) (st : Status) : State :=
  { s with mg := { s.mg with mres := st.byte, mresVres := s.mg.vres } }

/-- A field of the argument block: bits from bit `lo` of the word at an offset. -/
def margField (s : State) (offset lo w : Nat) : Nat := (bitsAt s.mg.marg (8 * offset + lo) w).toNat

/-! #### GRANT (R322, R402, R446) -/

/-- Ranges of a grant record with the sizes of their tables, in one order for every record. -/
def grantRanges (g : BitVec 384) : List ((Nat × Nat) × Nat) :=
  [(gQueues g, 16384), (gStreams g, 65536), (gTracked g, 16384), (gWatches g, 4096), (gBooks g, 64), (gChannels g, 8192),
   (gRescales g, 8192), (gSpad g, 2 ^ 32), ((gPsbase g, 32768), 2 ^ 32)]

/-- Bits of a grant record that hold fields. -/
def grantMask : BitVec 384 :=
  wordLE 384 (([3, 0x1FFFFFFF, 0xFFFF, 0x1FFFF, 0x1FFFFFFF, 0x1FFFFFF, 0x1FFF, 0x7FFFFFF, 0x7FFFFFF, 0xFFFFFFFF, 0xFFFFFFFF,
    0xFFFFFFFF] : List (BitVec 32)).flatMap (bytesLE 4))

/-- The stack range that a GRANT sets. -/
def margStack (s : State) : Nat × Nat := (margField s 0x38 0 15, margField s 0x38 15 15)

/-- Slices whose stack grant a GRANT sets. -/
def margSlices (s : State) : List Nat := (List.range 16).filter (fun k => bitAt s.mg.marg (8 * 0x34 + 16 + k))

/-- FORMAT: ranges beyond their tables, reserved bits and values, a resource that its unit does not have. -/
def grantFormat (s : State) (g : BitVec 384) : Bool :=
  let rkind := margField s 0x30 8 8
  let rasg := bitAt s.mg.marg (8 * 0x30 + 3)
  let holder := kindOf (margField s 0x34 0 12)
  let fits := if rkind ≤ 2 then holder = some .sl else holder = some .rl
  (grantRanges g).any (fun r => decide (r.2 < r.1.1 + r.1.2)) || decide (g &&& ~~~grantMask ≠ 0)
    || decide (margField s 0x30 4 4 ≠ 0) || decide (margField s 0x30 24 8 ≠ 0) || decide (margField s 0x34 12 4 ≠ 0) || decide (margField s 0x38 30 2 ≠ 0)
    || decide (margField s 0x3C 10 22 ≠ 0) || decide (4 < rkind) || (rasg && decide (rkind = 0))
    || (rasg && !(decide fits && (s.unit (margField s 0x34 0 12)).held))
    || (decide (1 ≤ rkind) && decide (rkind ≤ 3) && decide (63 < margField s 0x30 16 8))
    || decide (24576 < (margStack s).1 + (margStack s).2)

/-- Enabled contexts other than one. -/
def otherContexts (s : State) (c : Nat) : List Nat :=
  (s.tables.contexts.filter (fun p => decide (p.1 ≠ c) && gEn p.2.grant)).map Prod.fst

/-- A grant meets a grant of another context: the same kind of range, or a program store and a scratchpad grant. -/
def grantsMeet (g h : BitVec 384) : Bool :=
  ((grantRanges g).zip (grantRanges h)).any (fun p => rangesMeet p.1.1 p.2.1)
    || rangesMeet (gPsbase g, 32768) (gSpad h) || rangesMeet (gSpad g) (gPsbase h, 32768)

/-- A SLICE WINDOW or SLICE PROGRAM that names window or group r has issued on unit b. -/
def sliceNames (s : State) (b : Nat) (windows : Bool) (r : Nat) : Bool :=
  (s.unit b).issued.any (fun i => i.active && if windows then i.op == .sliceWindow && decide (bWin i.body = r)
    else i.planes && decide ((bitsAt (fBase (i.field 1)) 0 6).toNat = r))

/-- A RELAY that names region r, or group r, has issued on unit b. -/
def relayNames (s : State) (b : Nat) (regions : Bool) (r : Nat) : Bool :=
  (s.unit b).issued.any (fun i => i.op.isRelay && i.active &&
    (if regions then (bResid i.body).1 && decide ((bResid i.body).2.1 = r) else decide (rlGroup i.body = r)))

/-- The resource of a GRANT is not CLOSED, or an instruction has issued on it. -/
def resourceBusy (s : State) : Bool :=
  let b := margField s 0x34 0 12
  let r := margField s 0x30 16 8
  match margField s 0x30 8 8 with
  | 1 => decide (wState (s.window b r).regs ≠ 0) || sliceNames s b true r
  | 2 => sliceNames s b false r
  | 3 => relayNames s b true r
  | _ => decide ((s.group b r).st ≠ .closed) || relayNames s b false r

/-- DENIED of a GRANT. -/
def grantDenied (s : State) (a : Agent) (c : Nat) (g : BitVec 384) : Bool :=
  decide (c = 0) || (decide (a ≠ .host) && (gPriv g || !(s.mg.mode == .coach)))
    || (otherContexts s c).any (fun n => grantsMeet g (s.grant n)) || rangesMeet (gPsbase g, 32768) (gSpad g)
    || (bitAt s.mg.marg (8 * 0x30 + 3) && resourceBusy s)
    || (margSlices s).any (fun k => (otherContexts s c).any (fun n =>
        let w := tget 0 (s.unit (sliceBib k)).slice.grants n
        rangesMeet (margStack s) ((bitsAt w 0 15).toNat, (bitsAt w 15 15).toNat)))

/-- TABGRANT after a GRANT moves the grants that TFLAGS names (R445, R446). -/
def moveTables (t : BitVec 64) (flags : BitVec 3) (c : Nat) : BitVec 64 :=
  let f (x : BitVec 64) (k lo : Nat) : BitVec 64 := if bitAt flags k then putBits x lo (wordOf 11 (1024 + c)) else x
  f (f (f t 0 0) 1 16) 2 32

/-- A resource's CTX field set by Marshal (R446). -/
def assignResource (s : State) (c : Nat) : State :=
  let b := margField s 0x34 0 12
  let r := margField s 0x30 16 8
  let ctx : BitVec 10 := wordOf 10 c
  match margField s 0x30 8 8 with
  | 1 => s.setWindow b r { s.window b r with regs := putBits (s.window b r).regs 0 ctx }
  | 2 => s.onUnit b (fun u => { u with slice := { u.slice with
      groups := tset 0 u.slice.groups r (putBits (tget 0 u.slice.groups r) 0 ctx) } })
  | 3 => s.onUnit b (fun u => { u with relay := { u.relay with
      resid := tset 0 u.relay.resid r (putBits (tget 0 u.relay.resid r) 0 ctx) } })
  | _ => s.setGroup b r { s.group b r with ctx := ctx }

/-- Stack grants of a context set in the slices that a GRANT names (R348, R446). -/
def setStackGrants (s : State) (c : Nat) : State :=
  let w : BitVec 30 := wordOf 30 ((margStack s).1 + 2 ^ 15 * (margStack s).2)
  s.each (margSlices s) (fun t k => t.onUnit (sliceBib k) (fun u =>
    { u with slice := { u.slice with grants := tset 0 u.slice.grants c w } }))

/-- A GRANT that passes its checks. -/
def writeGrant (s : State) (c : Nat) (g : BitVec 384) : State :=
  let s0 := if gPsbase g = gPsbase (s.grant c) then s else discardCopies s (fun x _ => x == c)
  let s1 := s0.setContext c { s0.context c with grant := g }
  let s2 := { s1 with mg := { s1.mg with tabgrant := moveTables s1.mg.tabgrant (bitsAt s1.mg.marg (8 * 0x30) 3) c } }
  let s3 := if bitAt s2.mg.marg (8 * 0x30 + 3) then assignResource s2 c else s2
  setStackGrants s3 c

/-- GRANT. -/
def grantCommand (s : State) (a : Agent) : State :=
  let g := bitsAt s.mg.marg 0 384
  let c := margField s 0x3C 0 10
  if grantFormat s g then setMres s .format
  else if grantDenied s a c g then setMres s .denied
  else if (queuesOfContext s c).any (fun q => (s.queue q).st != .off) then setMres s .wrongState
  else setMres (writeGrant s c g) .ok

/-! #### REVOKE -/

/-- REVOKE: the context closes; the command ends with REVOKE_CLEAR. -/
def revokeCommand (s : State) : State :=
  let c := margField s 0 0 10
  if c = 0 then setMres s .denied
  else
    let s1 := s.setContext c { s.context c with revoking := true }
    closeContext { s1 with mg := { s1.mg with mbusy := true } } c

/-- TABGRANT without the valid bits that name a context (R445). -/
def dropTables (t : BitVec 64) (c : Nat) : BitVec 64 :=
  let f (x : BitVec 64) (lo : Nat) : BitVec 64 :=
    if bitsAt x lo 11 = wordOf 11 (1024 + c) then x &&& ~~~(1#64 <<< (lo + 10)) else x
  f (f (f t 0) 16) 32

/-- REVOKE_CLEAR: every queue of a revoked context is OFF (R402, R445). -/
def execRevokeClear (ctx : BitVec 10) (s : State) : Host.Outcome State Fault Refusal :=
  let c := ctx.toNat
  live s (
    if (s.context c).revoking && (queuesOfContext s c).all (fun q => (s.queue q).st == .off) then
      let s1 := s.setContext c { s.context c with grant := 0, revoking := false }
      setMres { s1 with mg := { s1.mg with tabgrant := dropTables s1.mg.tabgrant c, mbusy := false } } .ok
    else s)

/-! #### UPDATE (R410, R411) -/

/-- Body of an UPDATE_BEGIN record (R432). -/
def beginBody (addr len : BitVec 32) (h : List Byte) : BitVec 384 := bodyOf [addr, len, wordOf 32 (imgSvn h)]

/-- Step 4 waits for UPDATE_BEGIN: where the record was left out or discarded, Marshal puts it up again (R410, R433, R435;
DEDUCED: log entry 32). -/
def beginAgain (s : State) (body : BitVec 384) : State :=
  if s.finish.waiting.any (fun r => decide (r.1 = 5)) || decide (32 ≤ s.finish.waiting.length) then s else queueRecord s 5 body

/-- Steps 1 to 3. The staged image is as long as its header says, at a 64-byte aligned address. -/
def updateCommand (s : State) (a : Agent) : State :=
  let addr := margField s 0 0 32
  let len := margField s 4 0 32
  let h := s.readSpad addr 256
  let body := s.readSpad (addr + 256) (imgLen h)
  if a ≠ .host then setMres s .denied
  else
    let vres := if addr % 64 = 0 ∧ len = 256 + imgLen h then verifyImage s h body else 1
    let s1 := setVerified s vres (imageHash h body)
    if vres ≠ 0 then setMres s1 .format
    else
      let s2 := queueRecord s1 5 (beginBody (wordOf 32 addr) (wordOf 32 len) h)
      closeContext { s2 with mg := { s2.mg with
        mbusy := true, updbusy := true, updint := true, mode := .updating, begun := false
        update := some (wordOf 32 addr, wordOf 32 len) } } 0

/-- UPDATE_END with its CONT, the UPDATE event and the end of the command. -/
def endUpdate (s : State) (svn : Nat) : State :=
  let w : BitVec 32 := s.mg.vres.setWidth 32 ||| (s.mg.mode.code.setWidth 32 <<< 4)
  let s1 := queueRecord (queueRecord s 6 (bodyOf [w])) 2 s.mg.meas
  let s2 := s1.postMg .update (s1.mg.vres.setWidth 32) (wordOf 32 svn) 0
  setMres { s2 with mg := { s2.mg with mbusy := false, updbusy := false, updint := false, update := none, installed := false, begun := false } }
    (if s2.mg.vres = 0 then .ok else .format)

/-- Fuses set from bit 0 up until `n` are (R410 step 6). -/
def burnFuses (f : BitVec 64) (n : Nat) : BitVec 64 :=
  (List.range 64).foldl (fun x i => if popcount x < n then x ||| (1#64 <<< i) else x) f

/-- Queues of other contexts bound to the reserved stream engine close (R410 step 6). -/
def closeReserved (s : State) : State :=
  (queuesWhere s (fun q x => decide (x.bib = 0x070) && decide (s.ownerOf q ≠ some 0))).foldl
    (fun t q => closeQueue (t.onQueue q (fun x => { x with mustMove := true })) q) s

/-- No queue of another context feeds the reserved stream engine. -/
def reservedQuiet (s : State) : Bool :=
  (queuesWhere s (fun q x => decide (x.bib = 0x070) && decide (s.ownerOf q ≠ some 0) && x.st != .off)).isEmpty

/-- The end of step 6: Coach starts. -/
def finishUpdate (s : State) : State :=
  let h := storeHeader s
  let s1 := startCoach s h
  let s2 := if hdrField h 0x1C 0 1 = 1 then
      { s1 with storage := { s1.storage with svnfuse := burnFuses s1.storage.svnfuse (imgSvn h) } } else s1
  endUpdate s2 (imgSvn h)

/-- Steps 4 to 6, once context 0 has drained: Coach starts when the queues that step 6 closes are OFF. -/
def installUpdate (s : State) (addr len : Nat) : State :=
  let s0 := s.setContext 0 { s.context 0 with grant := 0 }
  let s1 := verifyStore { s0 with storage := { s0.storage with image := writeBytes s0.storage.image 0 (s0.readSpad addr len) } }
  if s1.mg.vres ≠ 0 then endUpdate (enterMinimal s1) (imgSvn (storeHeader s1))
  else
    let s2 := closeReserved { s1 with mg := { s1.mg with installed := true } }
    if reservedQuiet s2 then finishUpdate s2 else s2

/-- UPDATE_INSTALL (R410). -/
def execUpdateInstall (s : State) : Host.Outcome State Fault Refusal :=
  live s (match s.mg.update with
    | some (a, n) =>
      if s.mg.installed then (if reservedQuiet s then finishUpdate s else s)
      else if !s.mg.begun then beginAgain s (beginBody a n (s.readSpad a.toNat 256))
      else if storeOpen s then installUpdate s a.toNat n.toNat
      else s
    | none => s)

/-! #### UNITRESET (R402, R428) -/

/-- UNITRESET; the link of a slice fenced with LINK restarts. -/
def unitresetCommand (s : State) : State :=
  let b := margField s 0 0 12
  let h := (s.unit b).health
  let absent := h.fenced && decide (h.cause = Cause.absent.code)
  if b = 0 ∨ (b = 0x070 ∧ s.mg.mode = .coach) ∨ ¬ (s.unit b).held ∨ absent then setMres s .denied
  else
    let s1 := (enterReset s b).onUnit b (fun u => { u with health := { u.health with ordered := true } })
    let s2 := if kindOf b = some .sl ∧ h.fenced ∧ h.cause = Cause.linkFail.code then restartLink s1 (indexOf b) else s1
    setMres s2 .ok

/-- A unit leaves reset with a self-test that passed: an EPOCH fence, and RESYNC. A fence by KIND stays, and so does a
fault fence that no UNITRESET addresses (R427, R428). -/
def leaveReset (s : State) (b : Nat) (h : Health) : State :=
  if h.fenced && !h.epochFence && (!h.ordered || decide (h.cause = Cause.kind.code)) then s
  else sendResync (setFence s b .falseStart) b

/-- UNIT_RESET_DONE (R392, R428). -/
def execUnitResetDone (bib : Bib) (pass : Bool) (s : State) : Host.Outcome State Fault Refusal :=
  let b := bib.toNat
  let h := (s.unit b).health
  live s (
    if h.resetting then
      let s1 := s.onUnit b (fun u => { u with health := { u.health with resetting := false, ordered := false, reload := true, reloadAt := s.now } })
      if pass then leaveReset s1 b h else fence s1 b .bist
    else s)

/-! #### MCMD -/

/-- MCMD written (R402): a command while BUSY is 1 is ignored. -/
def marshalCommand (s : State) (a : Agent) (op : Nat) : State :=
  if s.mg.mbusy then setMres s .wrongState
  else match op with
    | 1 => grantCommand s a
    | 2 => revokeCommand s
    | 3 => updateCommand s a
    | 4 => unitresetCommand s
    | _ => setMres s .format

/-- An agent's write of MCMD (R400, R402). -/
def writeMcmd (s : State) (a : Agent) (op : Nat) : State := guarded s a 0x60 a.manages (marshalCommand s a op)

/-- GRANT. -/
def execGrant (agent : Agent) (s : State) : Host.Outcome State Fault Refusal := access s (writeMcmd s agent 1)

/-- REVOKE. -/
def execRevoke (agent : Agent) (s : State) : Host.Outcome State Fault Refusal := access s (writeMcmd s agent 2)

/-- UPDATE. -/
def execUpdate (agent : Agent) (s : State) : Host.Outcome State Fault Refusal := access s (writeMcmd s agent 3)

/-- UNITRESET. -/
def execUnitreset (agent : Agent) (s : State) : Host.Outcome State Fault Refusal := access s (writeMcmd s agent 4)

/-- MARSHAL_COMMAND_RESERVED: any other OP ends with FORMAT. -/
def execMarshalCommandReserved (agent : Agent) (op : BitVec 8) (s : State) : Host.Outcome State Fault Refusal :=
  access s (writeMcmd s agent op.toNat)

end Sys2Proof.Machine
end

