-- ==== Sys2Proof/Machine/Errors.lean ====
section
/-!
DEFINITION. Background work on stored regions and links (R412 to R415) and internal errors (R426, R427, R457).
-/

namespace Sys2Proof.Machine

/-! ### Scrub (R413) -/

/-- What a mismatch leaves invalid in a unit's files (R48, R122). -/
def Files.spoil (f : Files) (cls region : Nat) (active : Bool) : Files :=
  match cls, active with
  | 1, true => { f with cbBadActive := List.range 64 }
  | 1, false => { f with cbBadStaged := List.range 64, cbFixed := f.cbFixed.map (fun x => (x.1, List.range 64)) }
  | 2, true => { f with chBadActive := withRange f.chBadActive (1024 * region) 1024 }
  | 2, false => { f with chBadNext := withRange f.chBadNext (1024 * region) 1024 }
  | 3, true => { f with rtBadActive := withRange f.rtBadActive (512 * region) 512 }
  | 3, false => { f with rtBadNext := withRange f.rtBadNext (512 * region) 512 }
  | _, _ => f

/-- The scrub noted for writes of its MCLK cycle (R451). -/
def noteScrub (s : State) (i region : Nat) : State :=
  { s with trackers := { s.trackers with
    scrubs := s.trackers.scrubs.filter (fun x => decide (x.2.2 / 9 = s.now / 9)) ++ [(i, region, s.now)] } }

/-- EN of every entry and watch of a tracker's region becomes 0. -/
def disableRegion (s : State) (b region : Nat) : State :=
  let i := indexOf b
  let off (t : Tracked) : Tracked := { t with cfg := { t.cfg with en := false } }
  let s1 := s.trackers.tracked.foldl (fun t p =>
    if p.1 / 4096 = i ∧ Config.regionTracked i region (p.1 % 4096) then t.setTracked p.1 (off p.2) else t) (noteScrub s i region)
  s1.trackers.watches.foldl (fun t p =>
    if p.1 / 1024 = i ∧ Config.regionWatch i region (p.1 % 1024) then t.setWatch p.1 { p.2 with en := false } else t) s1

/-- Entries of a table outside a region of 1,024 words. -/
def dropRegion (t : Tab (BitVec 32)) (region : Nat) : Tab (BitVec 32) := t.filter (fun p => decide (p.1 / 1024 ≠ region))

/-- A region of MG's format tables (0 to 63) or layer map (64 to 67) that is bad in both copies takes its reset value, and
every member of the baton set becomes a false start. -/
def loseRegion (s : State) (region : Nat) (active : Bool) : State :=
  let t := s.tables
  let t1 : Tables := if region < 64 then
      (if active then { t with ftActive := dropRegion t.ftActive region } else { t with ftStaged := dropRegion t.ftStaged region })
    else (if active then { t with lmActive := dropRegion t.lmActive (region - 64) }
      else { t with lmStaged := dropRegion t.lmStaged (region - 64) })
  let s1 := { s with tables := t1 }
  s1.members.foldl (fun v b => falseStart v b none) s1

/-- The unit holds regions of a scrub class. -/
def scrubs (b cls : Nat) : Bool :=
  match cls, kindOf b with
  | 1, some .cv | 1, some .pt | 2, some .cv | 3, some .cv | 4, some .mg | 5, some .tk => true
  | 4, _ => batonKind b
  | _, _ => false

/-- A mismatch in a region: what it brings about, and its event (R48, R122, R413). `copy` is 0 active, 1 next or staged;
in MG 2 and 3 are the same, bad in both of MG's copies. -/
def scrubMismatch (s : State) (b cls region copy : Nat) (ecc : Bool) : State :=
  if !scrubs b cls || !(s.unit b).held then s
  else
    let active := decide (copy % 2 = 0)
    let s1 := s.post b b .scrub none (wordOf 32 cls ||| ((bit ecc).setWidth 32 <<< 4)) (wordOf 32 region) (wordOf 32 (copy % 2))
    match cls with
    | 4 => if b = 0 then (if 2 ≤ copy then loseRegion s1 region active else s1) else falseStart s1 b none
    | 5 => disableRegion s1 b region
    | _ => s1.onUnit b (fun u => { u with files := u.files.spoil cls region active })

/-- The SCRUB that runs: the first one begun. -/
def runningScrub (s : State) : Option (BitVec 9 × BitVec 8 × BitVec 16) :=
  s.mg.background.find? (fun a => decide (a.2.1 = 4))

/-- A class ends: the action is over, or one of class 0 goes on with the next class; what it has done stays through an LB
(R412, R413). -/
def scrubEnds (s : State) (a : BitVec 9 × BitVec 8 × BitVec 16) (cls : Nat) : State :=
  if bitsAt a.2.2 0 4 = 0 ∧ cls < 5 then { s with mg := { s.mg with scrubNext := cls + 1 } }
  else { s with mg := { s.mg with
    background := s.mg.background.erase a, scrubNext := if bitsAt a.2.2 0 4 = 0 then 1 else s.mg.scrubNext } }

/-- SCRUB: a pass of one class ends, in an idle phase, with the mismatches it found: bib, region, copy; a SCRUB of class 0
passes through classes 1 to 5 (R412, R413). -/
def execScrub (cls : BitVec 4) (found : List (Nat × Nat × Nat)) (s : State) : Host.Outcome State Fault Refusal :=
  live s (match if workIdle s then runningScrub s else none with
    | some a =>
      if (bitsAt a.2.2 0 4 = cls ∧ cls ≠ 0) ∨ (bitsAt a.2.2 0 4 = 0 ∧ cls.toNat = s.mg.scrubNext) then
        found.foldl (fun t p => scrubMismatch t p.1 cls.toNat p.2.1 p.2.2 false) (scrubEnds s a cls.toNat)
      else s
    | none => s)

/-! ### Margins (R415) -/

/-- Lanes of a link's current mode. -/
def lanesInUse (e : LinkEnd) : List Nat :=
  let g := (modeGroup e.mode.toNat (e.lmask &&& e.partnerMask)).getD 0
  (List.range 16).filter (fun j => bitAt g j)

/-- The margins of one slice's link, and the retrain of lanes below MARGTH. A lane that is not listed has the widest
margin. -/
def measureLink (s : State) (found : List (Nat × Nat × Nat)) (k : Nat) : State :=
  let e := s.linkEnd k true
  if e.st = .active then
    let m (j : Nat) : Nat := ((found.find? (fun p => decide (p.1 = k) && decide (p.2.1 = j))).map (fun p => p.2.2)).getD 255
    let lanes := lanesInUse e
    let ms : Tab (BitVec 8) := (lanes.map (fun j => (j, satOf 8 (m j)))).filter (fun p => decide (p.2 ≠ 0))
    let s1 := s.setLink k { s.link k with margins := ms }
    if lanes.any (fun j => decide (m j < s.mg.margth.toNat)) then retrainLink s1 k false 2 else s1
  else s

/-- MARGIN: the named slices and their MG ports measure their lanes: stack, lane, margin (R415). -/
def execMargin (found : List (Nat × Nat × Nat)) (s : State) : Host.Outcome State Fault Refusal :=
  live s (match if workIdle s then takeAction s 5 else none with
    | some (a, t) => ((List.range 16).filter (fun k => bitAt a.2.2 k)).foldl (fun v k => measureLink v found k) t
    | none => s)

/-! ### Internal errors (R426, R427, R457) -/

/-- Arrays of a kind of unit (R457). -/
def hasArray (k : Kind) (array : BitVec 8) : Bool :=
  let tiles := [Kind.cv, .se, .pt, .sp, .sl, .rl].contains k
  match array.toNat with
  | 0x00 => true
  | 0x01 | 0x14 | 0x15 => tiles
  | 0x10 => k == .cv || k == .pt
  | 0x11 | 0x12 | 0x13 => k == .cv
  | 0x16 => k == .se || k == .sl
  | 0x20 | 0x21 | 0x22 | 0x23 => k == .tk
  | 0x30 => k == .sp
  | 0x40 | 0x41 | 0x42 => k == .sl
  | 0x43 => k == .sl || k == .mg
  | 0x50 | 0x51 | 0x52 => k == .rl
  | n => k == .mg && decide (0x60 ≤ n) && decide (n ≤ 0x66)

/-- The scrub class that covers an array. -/
def arrayClass (array : BitVec 8) : Option Nat :=
  match array.toNat with
  | 0x10 => some 1
  | 0x11 => some 2
  | 0x12 => some 3
  | 0x14 | 0x15 | 0x62 | 0x63 => some 4
  | 0x21 | 0x22 => some 5
  | _ => none

/-- The unit answers and has the array. -/
def arrayHeld (s : State) (b : Nat) (array : BitVec 8) : Bool :=
  (s.unit b).held && (kindOf b).any (fun k => hasArray k array)

/-- ERROR_SINGLE_BIT (R427). -/
def execErrorSingleBit (bib : Bib) (array : BitVec 8) (s : State) : Host.Outcome State Fault Refusal :=
  let b := bib.toNat
  live s (
    if arrayHeld s b array then
      let h := (s.unit b).health
      let n := satAdd h.cecnt 1
      let s1 := s.onUnit b (fun u => { u with health := { u.health with cecnt := n, corrected := true } })
      if h.corrected then s1 else s1.post b b .corrected none (array.setWidth 32) (n.setWidth 32) 0
    else s)

/-- CCLK cycles in one second. -/
def secondCclk : Nat := 1800000000

/-- A unit resets itself after an error: within 1 s of the previous such reset, MG fences it (R427). -/
def errorReset (s : State) (b : Nat) : State :=
  let again := (s.unit b).health.resetAt.any (fun t => decide (s.now < t + secondCclk))
  let s1 := (enterReset s b).onUnit b (fun u => { u with health := { u.health with ordered := false, resetAt := some s.now } })
  if again then fence s1 b .repeated else s1

/-- Every waiting record committed, or left out under the limit (R433). -/
def commitWaiting (s : State) : State := s.finish.waiting.foldl commitRecord s

/-- MG stops: MG_FATAL is accepted and committed, and the fault line is driven (R427). -/
def fatalStop (s : State) (array : BitVec 8) : State :=
  let e : Event := { bib := 0, cls := Ev.mgFatal.row.1, code := Ev.mgFatal.row.2.1, sev := Ev.mgFatal.row.2.2, loss := false
                     ctx := 0, ctxv := false, lap := s.pace.lap, par := s.pace.parity, rep := 0
                     arg0 := array.setWidth 32, arg1 := 0, arg2 := 0 }
  let s1 := if s.finish.scanned && s.finish.pfailAt.isNone then
      writeSlotRecord (commitWaiting s) 3 (wordLE 384 (e.bytes s.log.next)) true else s
  let s2 := acceptEvent s1 e
  { s2 with mg := { s2.mg with fatal := true }, finish := { s2.finish with waiting := [] } }

/-- MG_FATAL (R427). -/
def execMgFatal (array : BitVec 8) (s : State) : Host.Outcome State Fault Refusal :=
  live s (if hasArray .mg array then fatalStop s array else s)

/-- ERROR_UNCORRECTABLE: a region that a scrub class covers is treated as its mismatch, in MG of one copy or (2, 3) of
both; any other error resets the unit, and in MG stops the complex (R427). -/
def execErrorUncorrectable (bib : Bib) (array : BitVec 8) (region : Nat) (copy : BitVec 2) (s : State) :
    Host.Outcome State Fault Refusal :=
  let b := bib.toNat
  live s (
    if !arrayHeld s b array then s
    else match arrayClass array with
      | some c => scrubMismatch s b c region copy.toNat true
      | none =>
        if b = 0 then fatalStop s array
        else errorReset (s.post b b .uncorrected none (array.setWidth 32) 0 0) b)

/-- The instruction waits under R94, R155, R168, R271, R302 or R303. -/
def waiting (s : State) (b : Nat) (i : Issued) : Bool :=
  i.op.holdsQueue || waitsOnSource s b i || (i.op == .tableBuild && decide ((s.unit b).feed ≠ []))
    || ((s.unit b).reseed.isSome && drawsPacer i.op i.head i.prog)
    || (i.entries true).any (fun n => (s.stream n).writerWaits) || scalesOut s b i

/-- HANG: 10 ms without progress (R427). -/
def execHang (bib : Bib) (queue : BitVec 14) (s : State) : Host.Outcome State Fault Refusal :=
  let b := bib.toNat
  live s (match (openOf (s.unit b) queue.toNat).find? (fun i => !waiting s b i) with
    | some i =>
      if !(s.unit b).held then s
      else errorReset (s.post b b .hang (some i.ctx) (queue.setWidth 32) ((hOpcode i.head).setWidth 32) 0) b
    | none => s)

end Sys2Proof.Machine
end

