-- ==== Sys2Proof/Machine/Registers.lean ====
section
/-!
DEFINITION. Writes of the management aperture (R9 to R15, R400, R439 to R456): every register, by window and offset.
A word function answers none where no row lists the offset, else whether the class admits the agent, and the state
after the write.
-/

namespace Sys2Proof.Machine

/-! ### Words -/

/-- The bits of `v` that a mask admits, over the old word (R9: RSV and RO bits stay). -/
def merge (old mask v : BitVec 32) : BitVec 32 := (old &&& ~~~mask) ||| (v &&& mask)

/-- Word i of a record replaced. -/
def putWord {n : Nat} (x : BitVec n) (i : Nat) (v : BitVec 32) : BitVec n := putBits x (32 * i) v

/-- Word i of a record written through a mask. -/
def mergeWord {n : Nat} (x : BitVec n) (i : Nat) (mask v : BitVec 32) : BitVec n := putWord x i (merge (word32 x i) mask v)

/-! ### Commands of the global window (R316, R327) -/

/-- QDB written (R316). -/
def writeQdb (s : State) (a : Agent) (v : BitVec 32) : State :=
  let q := (bitsAt v 0 14).toNat
  let tail := bitsAt v 16 16
  if bitAt v 14 then stageBell s a q tail else ringBell s q tail a.code (mayRing s a q)

/-- CTXCMD written (R327). -/
def writeCtxcmd (s : State) (a : Agent) (v : BitVec 32) : State :=
  let c := (bitsAt v 0 10).toNat
  match (bitsAt v 10 2).toNat with
  | 0 => ctxCommand s a c (if bitAt v 12 then forceContext s c else suspendContext s c)
  | 1 => ctxCommand s a c (resumeContext s c)
  | 2 => ctxCommand s a c (closeContext s c)
  | _ => s

/-- QCMD written (R327). -/
def writeQcmd (s : State) (a : Agent) (v : BitVec 32) : State :=
  let q := (bitsAt v 0 14).toNat
  match (bitsAt v 14 2).toNat with
  | 0 => queueCommand s a q (resumeQueue s q)
  | 1 => queueCommand s a q (closeQueue s q)
  | 2 => queueCommand s a q (openQueue s q)
  | _ => s

/-! ### MG registers (R442) -/

/-- LAPCTL, low half (R224). -/
def writeLapctl (s : State) (v : BitVec 32) : State :=
  { s with baton := { s.baton with fbudget := bitsAt v 0 12, defermax := bitsAt v 12 4, clean := bitsAt v 16 16 } }

/-- LAPCTL, high half: BATREQ and FBCLR (R224). -/
def commandLapctl (s : State) (v : BitVec 32) : State :=
  let s1 := if bitAt v 1 then clearRequests s else s
  if bitAt v 0 then requestBaton s1 else s1

/-- PMASK as last written (R445). -/
def pmaskWritten (s : State) : BitVec 64 := s.baton.pmaskStaged.getD s.baton.pmask

/-- MG's own fields changed. -/
def State.onMg (s : State) (f : Mg → Mg) : State := { s with mg := f s.mg }

/-- A register of class PRIVILEGED at an offset of MG's window (R327, R402, R424, R445). -/
def privilegedWord (s : State) (a : Agent) (off : Nat) (v : BitVec 32) : Option State :=
  match off with
  | 0x4C => some (if bitsAt v 0 16 = 0 then s else s.onMg (fun m => { m with drainus := bitsAt v 0 16 }))
  | 0x50 => some (if v.toNat % 32 = 0 then { s with log := { s.log with evbase := v } } else s)
  | 0x54 => some (writeEvctl s v)
  | 0x58 => some s
  | 0x5C => some { s with log := { s.log with ack := bitsAt v 0 16 } }
  | 0x60 => some (marshalCommand s a (bitsAt v 0 8).toNat)
  | 0x64 | 0x70 | 0x74 | 0x90 => some s
  | 0x80 => some (s.onMg (fun m => { m with margth := bitsAt v 0 8 }))
  | 0x84 => some (if v.toNat % 64 = 0 then s.onMg (fun m => { m with telbase := v }) else s)
  | 0x88 => some (if (bitsAt v 0 13).toNat ≤ 4096 then s.onMg (fun m => { m with teln := bitsAt v 0 13 }) else s)
  | 0x8C => some (s.onMg (fun m => { m with demovr := bitsAt v 0 16 }))
  | _ =>
    if 0x100 ≤ off ∧ off < 0x140 then some (s.onMg (fun m => { m with marg := putWord m.marg ((off - 0x100) / 4) v }))
    else if 0x200 ≤ off ∧ off < 0x400 then
      let r := off % 0x20
      if r = 0 then some (writeLinkControl s ((off - 0x200) / 0x20) v) else if r = 0xC then none else some s
    else none

/-- A word of MG's own registers. -/
def mgWord (s : State) (a : Agent) (off : Nat) (v : BitVec 32) : Option (Bool × State) :=
  match off with
  | 0x00 | 0x04 | 0x20 | 0x24 => some (true, s)
  | 0x10 | 0x30 | 0x34 | 0x38 | 0x3C => some (false, s)
  | 0x18 => some (profileAgent s a, writeLapctl s v)
  | 0x1C => some (profileAgent s a, commandLapctl s v)
  | 0x28 => some (profileAgent s a, stagePmask s (putWord (pmaskWritten s) 0 v))
  | 0x2C => some (profileAgent s a, stagePmask s (putWord (pmaskWritten s) 1 v))
  | 0x40 => some (true, writeQdb s a v)
  | 0x44 => some (true, writeCtxcmd s a v)
  | 0x48 => some (true, writeQcmd s a v)
  | _ =>
    if 0xC0 ≤ off ∧ off < 0xF0 then some (false, s)
    else (privilegedWord s a off v).map (fun t => (a.manages, t))

/-! ### The rest of the global window (R441) -/

/-- The agent holds a table that TABGRANT grants, at bit `lo` (R445). -/
def tableAgent (s : State) (a : Agent) (lo : Nat) : Bool :=
  bitAt s.mg.tabgrant (lo + 10)
    && (a.manages || (match a.ctx? with | some c => decide (bitsAt s.mg.tabgrant lo 10 = wordOf 10 c) | none => false))

/-- Word j of a start-list entry (R201). -/
def startListWord (s : State) (i j : Nat) (v : BitVec 32) : State :=
  let t := s.tables.startList
  let e := tget 0 t i
  let act := (bitsAt v 8 8).toNat
  let mask : BitVec 32 := match j with | 0 => 0x00FFFF03 | 1 => 0xFFFFFFFF | 2 => 0x0000FFFF | _ => 0
  if j = 0 ∧ (act = 0 ∨ 7 < act) then s
  else { s with tables := { s.tables with startList := tset 0 t i (mergeWord e j mask v) } }

/-- Word j of a last-use entry (R166). -/
def lastUseWord (s : State) (q j : Nat) (v : BitVec 32) : State :=
  let e := s.lastUse q
  if e.st ≠ 0 then s
  else match j with
    | 0 => s.setLastUse q { e with tied := bitAt v 0, ctx := bitsAt v 16 10 }
    | 2 => s.setLastUse q { e with tensor := bitsAt v 0 24 }
    | _ => s

/-- The CCLK cycles `setAt` and `now` lie in one MCLK cycle: a W1C bit that hardware set in the MCLK cycle of the write that
clears it stays 1 (R10). -/
def sameMclk (setAt now : Nat) : Bool := decide (setAt / 9 = now / 9)

/-- A context register (R323). -/
def contextWord (s : State) (c r : Nat) (v : BitVec 32) : State :=
  let x := s.context c
  match r with
  | 0x40 => s.setContext c { x with cseed := putWord x.cseed 0 v }
  | 0x44 => s.setContext c { x with cseed := putWord x.cseed 1 v }
  | 0x48 => if v.toNat % 16 = 0 ∧ spanIn (gSpad x.grant) v.toNat 4096 then s.setContext c { x with sumbase := v } else s
  | 0x4C => s.setContext c { x with lapmb := bitsAt v 0 8 }
  | 0x50 => if bitsAt v 0 24 = 0 then s else s.setContext c { x with swait := bitsAt v 0 24 }
  | 0x54 => if bitAt v 0 && !sameMclk x.permrAt s.now then s.setContext c { x with permr := false } else s
  | _ => s

/-- A word of the global window (R441). -/
def globalWord (s : State) (a : Agent) (off : Nat) (v : BitVec 32) : Option (Bool × State) :=
  if off < 0x400 then mgWord s a off v
  else if off < 0x540 then some (false, s)
  else if 0x1000 ≤ off ∧ off < 0x5000 then
    let b := (off - 0x1000) / 4
    some (a.manages, if bitAt v 10 && !sameMclk (s.unit b).health.reloadAt s.now then
      s.onUnit b (fun u => { u with health := { u.health with reload := false } }) else s)
  else if 0x8000 ≤ off ∧ off < 0x9000 then
    some (tableAgent s a 16, startListWord s ((off - 0x8000) / 16) (off % 16 / 4) v)
  else if 0x9000 ≤ off ∧ off < 0xA000 then
    some (tableAgent s a 32, lastUseWord s ((off - 0x9000) / 16) (off % 16 / 4) v)
  else if 0x10000 ≤ off ∧ off < 0x14000 then
    some (s.profileCtx.isSome && profileAgent s a, restageWrite { s with tables := { s.tables with
      lmStaged := tset 0 s.tables.lmStaged ((off - 0x10000) / 4) (v &&& layerFields) } })
  else if 0x14000 ≤ off ∧ off < 0x18000 then some (profileAgent s a, s)
  else if 0x20000 ≤ off ∧ off < 0x40000 then
    let c := (off - 0x20000) / 0x80
    if off % 0x80 < 0x40 then some (false, s) else some (mayWrite s a c, contextWord s c (off % 0x80) v)
  else if 0x80000 ≤ off then some (false, s)
  else none

/-! ### Queue blocks (R314) -/

/-- Bytes of a queue's descriptor ring and of its completion ring. -/
def ringBytes (x : Queue) : Nat := 32 * 2 ^ (x.rsize.toNat + 4)
/-- Bytes of the completion ring. -/
def recordRingBytes (x : Queue) : Nat := 48 * 2 ^ (x.csize.toNat + 4)

/-- A ring lies in the scratchpad grant of the queue's owner. -/
def inOwnersGrant (s : State) (q a n : Nat) : Bool := match s.ownerOf q with
  | some c => spanIn (gSpad (s.grant c)) a n
  | none => false

/-- The queue's owner is privileged. -/
def ownerPriv (s : State) (q : Nat) : Bool := match s.ownerOf q with
  | some c => gPriv (s.grant c)
  | none => false

/-- A queue may be bound to a unit (R23, R314). -/
def mayBind (s : State) (q : Nat) (b : BitVec 12) : Bool :=
  decide (b ≠ 0) && (s.unit b.toNat).held && notCoachs s q b

/-- Fields that move only while a queue is OFF, HALTED or SUSPENDED. -/
def queueFree (x : Queue) : Bool := x.st == .off || x.st == .halted || x.st == .suspended

/-- Word 0x04 of a queue block: RSIZE, BIB, PRIO, HALTE. -/
def queueConfig (s : State) (q : Nat) (v : BitVec 32) : State :=
  let x := s.queue q
  let y := if queueFree x then { x with
      rsize := bitsAt v 0 4, bib := bitsAt v 4 12, mustMove := x.mustMove && decide (bitsAt v 4 12 = (0x070 : Bib)) } else x
  let z := { y with prio := bitsAt v 16 3, halte := bitAt v 19 }
  if decide (11 < z.rsize.toNat) || (decide (z.rsize ≠ x.rsize) && !inOwnersGrant s q z.rbase.toNat (ringBytes z))
      || (queueFree x && !mayBind s q z.bib) || (decide (z.prio = 7) && !ownerPriv s q) then s
  else s.setQueue q z

/-- HEAD written: the next instruction to issue is the one there. -/
def writeHead (s : State) (q : Nat) (h : BitVec 16) : State :=
  s.onQueue q (fun x => { x with head := h, next := if x.owed = 0 then h else x.next })

/-- PRE written: cleared, it drops the preempted instruction, and the instruction at HEAD is the next to issue. -/
def writePre (s : State) (q : Nat) (pre : Bool) : State :=
  let x := s.queue q
  if pre then s.setQueue q { x with pre := true }
  else match x.parked with
    | some i =>
      (s.setQueue q { x with pre := false, parked := none, next := if x.owed = 0 then x.head else x.next }).each i.allEntries
        settleEntry
    | none => s.setQueue q { x with pre := false }

/-- Word i of a queue block (R314). -/
def queueWord (s : State) (q i : Nat) (v : BitVec 32) : State :=
  let x := s.queue q
  let free := queueFree x
  match i with
  | 0 => if free && decide (v.toNat % 32 = 0) && inOwnersGrant s q v.toNat (ringBytes x) then s.setQueue q { x with rbase := v } else s
  | 1 => queueConfig s q v
  | 2 =>
    if free && decide (v.toNat % 16 = 0) && inOwnersGrant s q v.toNat (recordRingBytes x) then s.setQueue q { x with cbase := v }
    else s
  | 3 =>
    let y := { x with csize := bitsAt v 0 4 }
    if free && decide (y.csize.toNat ≤ 11) && (decide (y.csize = x.csize) || inOwnersGrant s q x.cbase.toNat (recordRingBytes y)) then
      s.setQueue q y else s
  | 4 => if free then writeHead s q (bitsAt v 0 16) else s
  | 5 => s.setQueue q { x with ctail := if free then bitsAt v 0 16 else x.ctail, chead := bitsAt v 16 16 }
  | 6 => s.setQueue q { x with stail := bitsAt v 0 16, seq := if free then bitsAt v 16 16 else x.seq }
  | 7 =>
    let s1 := if bitAt v 4 && !sameMclk x.dberrAt s.now then s.setQueue q { x with dberr := false } else s
    if free then writePre s1 q (bitAt v 3) else s1
  | 8 => if free then s.setQueue q { x with prog := v } else s
  | 9 => if free then s.setQueue q { x with proghi := bitsAt v 0 16 } else s
  | 10 => if free then s.setQueue q { x with dcrc := v } else s
  | 11 => if free then s.setQueue q { x with bci := v } else s
  | _ => s

/-- A word of the table region (R448). -/
def tableWord (s : State) (a : Agent) (off : Nat) (v : BitVec 32) : Option (Bool × State) :=
  if off < 0x200000 then
    let q := (off - 0x100000) / 0x40
    some (mayRing s a q, queueWord s q (off % 0x40 / 4) v)
  else if off < 0x240000 then
    let k := (off - 0x200000) / 4
    some (mayWrite s a (k / 64), restageWrite { s with tables := { s.tables with ftStaged := tset 0 s.tables.ftStaged k v } })
  else if off < 0x280000 then some (mayWrite s a ((off - 0x240000) / 256), s)
  else none

/-! ### Indirect ports (R451 to R453) -/

/-- Word j of a stream entry: its placement, while FREE (R453). -/
def placementWord (s : State) (n j : Nat) (v : BitVec 32) : State :=
  if (s.stream n).st ≠ .free then s
  else match j with
    | 4 => if v.toNat % 64 = 0 then s.onStream n (fun e => { e with pbase := v }) else s
    | 5 => if (bitsAt v 5 5).toNat ≤ 0x11 then
        s.onStream n (fun e => { e with pbasehi := bitsAt v 0 5, pspace := bitsAt v 5 5 }) else s
    | 6 => s.onStream n (fun e => { e with nblk := bitsAt v 0 16 })
    | _ => s

/-- Word j of a group record; CTX is Marshal's (R367). -/
def groupWord (s : State) (b gi j : Nat) (v : BitVec 32) : State :=
  let g := s.group b gi
  if g.st ≠ .closed ∧ g.st ≠ .failed then s
  else match j with
    | 0 => s.setGroup b gi { g with nmem := bitsAt v 16 7, rank := bitsAt v 23 6 }
    | 1 => s.setGroup b gi { g with gkey := v }
    | 2 => s.setGroup b gi { g with pallow := bitsAt v 0 16 }
    | 3 => s
    | _ => if j < 36 then
        let i := 2 * (j - 4)
        s.setGroup b gi { g with peers := tset 0 (tset 0 g.peers i (bitsAt v 0 16)) (i + 1) (bitsAt v 16 16) }
      else s

/-- DATA of a port written by its holder; another agent's write, or one while VALID is 0, is dropped (R451). -/
def portData (s : State) (a : Agent) (b p j : Nat) (v : BitVec 32) : State :=
  let x := s.port b p
  let n := (bitsAt x.sel 8 24).toNat
  if decide (x.holder ≠ some a) || !(portStatus s b x).1 then s
  else match kindOf b, (bitsAt x.sel 0 8).toNat with
    | some .tk, 0x10 => placementWord s n j v
    | some .tk, 0x11 => writeTracked s n j v
    | some .tk, 0x12 => if j < 2 then writeWatch s n j v else s
    | some .rl, 0x20 => groupWord s b n j v
    | _, _ => s

/-- A word of the indirect ports of a unit. -/
def portWord (s : State) (a : Agent) (b off : Nat) (v : BitVec 32) : State :=
  let p := (off - 0x1000) / 0x100
  let r := off % 0x100
  if r = 0 then selectPort s a b p v else if 0x40 ≤ r then portData s a b p ((r - 0x40) / 4) v else s

/-! ### Trackers (R454) -/

/-- SREL1 of an agent on a tracker. -/
def srel1Of (u : UnitSt) (a : Agent) : BitVec 32 := ((u.srel1.find? (fun p => decide (p.1 = a))).map Prod.snd).getD 0

/-- SREL1 written: each agent has its own copy. -/
def writeSrel1 (s : State) (a : Agent) (b : Nat) (v : BitVec 32) : State :=
  s.onUnit b (fun u => { u with srel1 := u.srel1.filter (fun p => decide (p.1 ≠ a)) ++ (if v = 0 then [] else [(a, v)]) })

/-- SREL0 may release the entry: HALTED or HCLOSE, a data entry, admitted by its grant. -/
def mayRelease (s : State) (a : Agent) (n : Nat) : Bool :=
  let e := s.stream n
  (e.st == .halted || e.st == .hclose) && decide (e.kind = 0) && mayWriteAt s a gStreams n

/-- SREL0 written on tracker b (R100, R454); it names an entry of this tracker. -/
def writeSrel0 (s : State) (a : Agent) (b : Nat) (v : BitVec 32) : Bool × State :=
  let n := (bitsAt v 0 16).toNat
  let r := srel1Of (s.unit b) a
  if tkOfStream n ≠ b then (true, s)
  else (mayRelease s a n, releaseStream s n (bitsAt v 16 16) (bitsAt r 0 16) (bitsAt r 16 16))

/-- A word of a tracker's own registers. -/
def trackerWord (s : State) (a : Agent) (b off : Nat) (v : BitVec 32) : Option (Bool × State) :=
  match off with
  | 0x100 => some (writeSrel0 s a b v)
  | 0x104 => some (true, writeSrel1 s a b v)
  | _ => none

/-- STREAM_RELEASE: a write of SREL0 (R454). -/
def execStreamRelease (agent : Agent) (tracker : BitVec 2) (value : BitVec 32) (s : State) :
    Host.Outcome State Fault Refusal :=
  let b := firstBib .tk + tracker.toNat
  let r := writeSrel0 s agent b value
  access s (if (s.unit b).held then guarded s agent (unitOffset b 0x100) r.1 r.2 else s)

/-! ### Slices (R338, R349, R455) -/

/-- Word j of a window; CTX is Marshal's, and nothing moves unless it is CLOSED (R338). -/
def windowWord (s : State) (b w j : Nat) (v : BitVec 32) : State :=
  let x := s.window b w
  let mask : BitVec 32 := match j with
    | 0 => 0x00FFFC00 | 1 | 2 => 0x00FFFFFF | 3 => 0x00003FFF | 4 => 0xFFFFFFC0 | 5 => 0x1F | 6 => 0x01FFFFFF | _ => 0
  if wState x.regs ≠ 0 then s else s.setWindow b w { x with regs := mergeWord x.regs j mask v }

/-- Word j of a plane group; CTX is Marshal's (R349). -/
def planeGroupWord (s : State) (b g j : Nat) (v : BitVec 32) : State :=
  let mask : BitVec 32 := if j < 4 then (match j with | 0 => 0x0007FC00 | 1 => 0x00FFFFFF | 2 => 0xFFFFFFFF | _ => 0x01FFFFFF)
    else if j < 36 then (match j % 4 with | 0 | 2 => 0xFFFFFFC0 | 1 => 0x000FFFFF | _ => 0x1F)
    else 0
  if sliceNames s b false g then s
  else s.onUnit b (fun u => { u with slice := { u.slice with
    groups := tset 0 u.slice.groups g (mergeWord (tget 0 u.slice.groups g) j mask v) } })

/-- ADDRMAP (R455). -/
def writeAddrmap (s : State) (b : Nat) (v : BitVec 32) : State :=
  let u := s.unit b
  if bitsAt v 0 2 = 3 ∨ u.slice.windows.any (fun p => decide (wState p.2.regs = 1))
      ∨ u.issued.any (fun i => (i.op.isSlice || i.op == .sliceWindow) && i.active) then s
  else s.onUnit b (fun x => { x with slice := { x.slice with addrmap := bitsAt v 0 2 } })

/-- A word of a slice's own registers (R455). -/
def sliceWord (s : State) (a : Agent) (b off : Nat) (v : BitVec 32) : Option (Bool × State) :=
  if off = 0x100 then some (a.manages, writeAddrmap s b v)
  else if 0x200 ≤ off ∧ off < 0xA00 then
    let w := (off - 0x200) / 0x20
    some (mayWrite s a (wCtx (s.window b w).regs).toNat, windowWord s b w (off % 0x20 / 4) v)
  else if 0x2000 ≤ off ∧ off < 0x6000 then
    let g := (off - 0x2000) / 0x100
    some (mayWrite s a (bitsAt (tget 0 (s.unit b).slice.groups g) 0 10).toNat, planeGroupWord s b g (off % 0x100 / 4) v)
  else if 0x8000 ≤ off ∧ off < 0xC000 then some (false, s)
  else none

/-! ### Relays (R367, R380, R456) -/

/-- A buffer of a residual region lies in its context's grant in its stack (R348, R380). -/
def bufferGranted (s : State) (w : BitVec 128) (base : Nat) : Bool :=
  let g := tget 0 (s.unit (sliceBib (bitsAt w 10 4).toNat)).slice.grants (bitsAt w 0 10).toNat
  let unit := 4 * 2 ^ 20
  let n := 8256 * (bitsAt w 96 17).toNat
  decide (n = 0) || spanIn (unit * (bitsAt g 0 15).toNat, unit * (bitsAt g 15 15).toNat) (64 * base) n

/-- Word j of a residual region; CTX is Marshal's, SEL and PEND are read only (R380). -/
def residualWord (s : State) (b r j : Nat) (v : BitVec 32) : State :=
  let mask : BitVec 32 := match j with | 0 => 0x3C00 | 1 | 2 => 0x7FFFFFFF | _ => 0x1FFFF
  let w := mergeWord (tget 0 (s.unit b).relay.resid r) j mask v
  if relayNames s b true r || !(bufferGranted s w (bitsAt w 32 31).toNat && bufferGranted s w (bitsAt w 64 31).toNat) then s
  else s.onUnit b (fun u => { u with relay := { u.relay with resid := tset 0 u.relay.resid r w } })

/-- A word of a relay's own registers (R456). -/
def relayWord (s : State) (a : Agent) (b off : Nat) (v : BitVec 32) : Option (Bool × State) :=
  let set (f : Relay → Relay) : Bool × State := (a.manages, s.onUnit b (fun u => { u with relay := f u.relay }))
  match off with
  | 0x100 =>
    let g := (bitsAt v 0 8).toNat
    some (mayCommand a (s.group b g).ctx.toNat, groupCommand s b g (bitsAt v 8 2).toNat)
  | 0x104 => some (set (fun r => if bitsAt v 0 16 = 0 then r else { r with rto := bitsAt v 0 16 }))
  | 0x108 => some (set (fun r => if bitsAt v 0 24 = 0 then r else { r with pto := bitsAt v 0 24 }))
  | 0x10C => some (set (fun r => if bitsAt v 0 24 = 0 then r else { r with hto := bitsAt v 0 24 }))
  | _ =>
    if 0x400 ≤ off ∧ off < 0x800 then
      let r := (off - 0x400) / 0x10
      some (mayWrite s a (bitsAt (tget 0 (s.unit b).relay.resid r) 0 10).toNat, residualWord s b r (off % 0x10 / 4) v)
    else none

/-! ### Unit windows (R13, R14, R449, R450) -/

/-- A word of the window of unit b, which holds its bib. -/
def unitWord (s : State) (a : Agent) (b off : Nat) (v : BitVec 32) : Option (Bool × State) :=
  match off with
  | 0 | 4 => some (true, s)
  | 8 => some (if b = 0 then (true, s) else (a.manages, writeUctl s b (bitAt v 0)))
  | _ =>
    if 0x1000 ≤ off ∧ off < 0x1400 then (if hasPorts b then some (true, portWord s a b off v) else none)
    else match kindOf b with
      | some .tk => trackerWord s a b off v
      | some .sl => sliceWord s a b off v
      | some .rl => relayWord s a b off v
      | _ => none

/-- A write admitted, refused or without a register: the state, and whether the class refused it. -/
def settleWrite (s : State) : Option (Bool × State) → State × Bool
  | none => (s, false)
  | some (true, t) => (t, false)
  | some (false, _) => (s, true)

/-! ### Relayed writes (R361, R439) -/

/-- What MG notes of a relayed write: the agent that selects at a port holds it (R451). -/
def noteHolder (s : State) (a : Agent) (b off : Nat) : State :=
  if hasPorts b ∧ 0x1000 ≤ off ∧ off < 0x1400 ∧ off % 0x100 = 0 then
    let p := (off - 0x1000) / 0x100
    let x := s.port b p
    s.onUnit b (fun u => { u with ports := tset {} u.ports p { x with holder := some a } })
  else s

/-- MG may relay the write: a DATA write of a port is its holder's (R451). -/
def relayable (s : State) (a : Agent) (b off : Nat) : Bool :=
  !(decide (0x1000 ≤ off) && decide (off < 0x1400) && decide (0x40 ≤ off % 0x100))
    || decide ((s.port b ((off - 0x1000) / 0x100)).holder = some a)

/-- MG judges a write to the window of a slice or relay by its class and relays it as a MGMT message; the register changes
when the message is taken there (R361, R439; log entry 29). -/
def relayWrite (s : State) (a : Agent) (b off : Nat) (wide : Bool) (lo hi : BitVec 32) : State × Bool :=
  let judged (o : Nat) (v : BitVec 32) : Option Bool := (unitWord s a b o v).map (fun r => r.1)
  let send (o : Nat) (w : Bool) (l h : BitVec 32) : State := if relayable s a b o then sendMgmt (noteHolder s a b o) b o true w l h else s
  if wide then
    match judged off lo, judged (off + 4) hi with
    | some true, some true => (send off true lo hi, false)
    | some true, h => (send off false lo 0, h == some false)
    | l, some true => (send (off + 4) false hi 0, l == some false)
    | l, h => (s, l == some false || h == some false)
  else match judged off lo with
    | some true => (send off false lo 0, false)
    | r => (s, r == some false)

/-- INDIRECT_SELECT: the port's SELECT word (R451). On a relay MG notes the holder and relays the word (R439). -/
def execIndirectSelect (agent : Agent) (bib : Bib) (port : BitVec 2) (value : BitVec 32) (s : State) :
    Host.Outcome State Fault Refusal :=
  let b := bib.toNat
  let off := 0x1000 + 0x100 * port.toNat
  access s (
    if !(apertureOpen s && hasPorts b && (s.unit b).held) then s
    else if isFar b then relayPlain (noteHolder s agent b off) b off value
    else selectPort s agent b port.toNat value)

/-- One aligned 32-bit write to the window of unit b: at once on the compute die, by a message beyond it. -/
def windowWrite (s : State) (a : Agent) (b off : Nat) (v : BitVec 32) : State × Bool :=
  if isFar b then relayWrite s a b off false v 0 else settleWrite s (unitWord s a b off v)

/-- A write into the broadcast window: every unit that holds a bib, is not fenced and implements the register; no port
(R14, R450). -/
def broadcastWord (s : State) (a : Agent) (off : Nat) (v : BitVec 32) : State × Bool :=
  if 0x1000 ≤ off ∧ off < 0x1400 then (s, false)
  else (allBibs.filter (fun b => s.serving b)).foldl (fun t b =>
    let r := windowWrite t.1 a b off v
    (r.1, t.2 || r.2)) (s, false)

/-- One aligned 32-bit write: the state, and whether the class refused it. -/
def tryWord (s : State) (a : Agent) (off : Nat) (v : BitVec 32) : State × Bool :=
  if off < 0x100000 then settleWrite s (globalWord s a off v)
  else if off < 0x1000000 then settleWrite s (tableWord s a off v)
  else
    let b := (off - 0x1000000) / 0x10000
    let r := off % 0x10000
    if b = 0xFFF then broadcastWord s a r v
    else if (s.unit b).held && (kindOf b).isSome then windowWrite s a b r v
    else (s, false)

/-- The aperture accepts the access (R11). -/
def accessOk (off width : Nat) : Bool :=
  (decide (width = 32) || decide (width = 64)) && decide (off % (width / 8) = 0) && decide (off + width / 8 ≤ 0x11000000)

/-- A 64-bit write in one cycle (R440): PMASK is staged once, and a start-list word that names a reserved ACTION stays
whole (R201); one to a slice or relay is relayed whole; any other is the write of both halves. -/
def tryWide (s : State) (a : Agent) (off : Nat) (v : BitVec 64) : State × Bool :=
  let act := (bitsAt v 8 8).toNat
  let b := (off - 0x1000000) / 0x10000
  if off = 0x28 then settleWrite s (some (profileAgent s a, stagePmask s v))
  else if 0x8000 ≤ off ∧ off < 0x9000 ∧ off % 16 = 0 ∧ (act = 0 ∨ 7 < act) then settleWrite s (some (tableAgent s a 16, s))
  else if 0x1000000 ≤ off ∧ isFar b ∧ (s.unit b).held then relayWrite s a b (off % 0x10000) true (bitsAt v 0 32) (bitsAt v 32 32)
  else
    let r := tryWord s a off (bitsAt v 0 32)
    let t := tryWord r.1 a (off + 4) (bitsAt v 32 32)
    (t.1, r.2 || t.2)

/-- A write of an agent at an offset of the aperture (R11, R394, R400). -/
def writeAperture (s : State) (a : Agent) (off width : Nat) (v : BitVec 64) : State :=
  if !apertureOpen s || !accessOk off width then s
  else
    let r := if width = 64 then tryWide s a off v else tryWord s a off (bitsAt v 0 32)
    if r.2 then accessEvent r.1 a off else r.1

/-- REGISTER_WRITE (R9). -/
def execRegisterWrite (agent : Agent) (offset : Nat) (width : Nat) (value : BitVec 64) (s : State) :
    Host.Outcome State Fault Refusal :=
  access s (writeAperture s agent offset width value)

end Sys2Proof.Machine
end

