-- ==== Sys2Proof/Machine/Reads.lean ====
section
/-!
DEFINITION. Reads of the management aperture (R9, R11, R394, R400, R439 to R456). The command table has no row for a
read by an agent (log entry 25): `readAperture` says what one returns. MGMT reads far units' windows with `unitRead`.
-/

namespace Sys2Proof.Machine

/-! ### MG registers -/

/-- STEP of MSTAT (R395). -/
def Step.code : Step → BitVec 3
  | .reset => 0 | .chain => 1 | .selftest => 2 | .verify => 3 | .ready => 4

/-- MSTAT (R395). -/
def mstat (s : State) : BitVec 32 :=
  let m := s.mg
  m.step.code.setWidth 32 ||| (m.mode.code.setWidth 32 <<< 3) ||| (m.vres.setWidth 32 <<< 5)
    ||| ((bit m.updbusy).setWidth 32 <<< 9) ||| ((bit m.updint).setWidth 32 <<< 10) ||| ((absentCount s).setWidth 32 <<< 11)

/-- LAPCTL (R224): its WO bits read 0. -/
def lapctl (s : State) : BitVec 64 :=
  let b := s.baton
  b.fbudget.setWidth 64 ||| (b.defermax.setWidth 64 <<< 12) ||| (b.clean.setWidth 64 <<< 16)

/-- LAPSTAT (R225). -/
def lapstat (s : State) : BitVec 64 :=
  let b := s.baton
  b.epoch.setWidth 64 ||| (b.committedSeq.setWidth 64 <<< 4) ||| (b.attempt.setWidth 64 <<< 12)
    ||| (b.cleanrun.setWidth 64 <<< 20) ||| ((bit b.stumble).setWidth 64 <<< 36) ||| ((bit b.pending).setWidth 64 <<< 37)
    ||| (b.st.code.setWidth 64 <<< 38) ||| (b.defcnt.setWidth 64 <<< 40)

/-- MRES (R402). -/
def mresWord (s : State) : BitVec 32 :=
  s.mg.mres.setWidth 32 ||| (s.mg.mresVres.setWidth 32 <<< 8) ||| ((bit s.mg.mbusy).setWidth 32 <<< 12)

/-- FRSTAT (R438). -/
def frstat (s : State) : BitVec 32 :=
  (s.finish.head.getD 0).setWidth 32 ||| ((bit s.finish.head.isSome).setWidth 32 <<< 13) ||| (s.finish.weak.setWidth 32 <<< 14)

/-- CAPST (R445). -/
def capst (s : State) : BitVec 32 :=
  s.power.cap.setWidth 32 ||| (s.power.capSeq.setWidth 32 <<< 16) ||| (s.power.duty.setWidth 32 <<< 24)

/-- A word of a link block (R447). -/
def linkRead (s : State) (k r : Nat) : Option (BitVec 32) :=
  if r = 0 then some 0
  else if r = 4 then some (linkWord s k)
  else if r = 8 then some (s.link k).feat
  else if 0x10 ≤ r then
    some (wordLE 32 ((List.range 4).map (fun j => tget 0 (s.link k).margins (r - 0x10 + j))))
  else none

/-- A word of MG's own registers, and whether the class admits the agent (R442). -/
def mgRead (s : State) (a : Agent) (off : Nat) : Option (Bool × BitVec 32) :=
  let m := s.mg
  match off with
  | 0x00 => some (true, 0x10017C31)
  | 0x04 => some (true, 0x0000001F)
  | 0x10 => some (a.manages, mstat s)
  | 0x18 | 0x1C => some (profileAgent s a, word32 (lapctl s) ((off - 0x18) / 4))
  | 0x20 | 0x24 => some (true, word32 (lapstat s) ((off - 0x20) / 4))
  | 0x28 | 0x2C => some (profileAgent s a, word32 (pmaskWritten s) ((off - 0x28) / 4))
  | 0x30 | 0x34 => some (a.manages, word32 m.tabgrant ((off - 0x30) / 4))
  | 0x38 | 0x3C => some (a.manages, word32 m.pacroot ((off - 0x38) / 4))
  | 0x40 | 0x44 | 0x48 => some (true, 0)
  | 0x4C => some (a.manages, m.drainus.setWidth 32)
  | 0x50 => some (a.manages, s.log.evbase)
  | 0x54 => some (a.manages, s.log.evn.setWidth 32 ||| ((bit s.log.evint).setWidth 32 <<< 14))
  | 0x58 => some (a.manages, s.log.next.setWidth 32 ||| (s.log.drop.setWidth 32 <<< 16))
  | 0x5C => some (a.manages, s.log.ack.setWidth 32)
  | 0x60 => some (a.manages, 0)
  | 0x64 => some (a.manages, mresWord s)
  | 0x70 => some (a.manages, frstat s)
  | 0x74 => some (a.manages, s.finish.rseq)
  | 0x80 => some (a.manages, m.margth.setWidth 32)
  | 0x84 => some (a.manages, m.telbase)
  | 0x88 => some (a.manages, m.teln.setWidth 32)
  | 0x8C => some (a.manages, m.demovr.setWidth 32)
  | 0x90 => some (a.manages, capst s)
  | _ =>
    if 0xC0 ≤ off ∧ off < 0xF0 then some (a.manages, word32 m.meas ((off - 0xC0) / 4))
    else if 0x100 ≤ off ∧ off < 0x140 then some (a.manages, word32 m.marg ((off - 0x100) / 4))
    else if 0x200 ≤ off ∧ off < 0x400 then (linkRead s ((off - 0x200) / 0x20) (off % 0x20)).map (fun w => (a.manages, w))
    else none

/-! ### The rest of the global window and the table region -/

/-- Key storage (R443). -/
def keyRead (s : State) (off : Nat) : BitVec 32 :=
  if off < 0x4C0 then word32 (tget 0 s.storage.keyh ((off - 0x400) / 0x30)) ((off - 0x400) % 0x30 / 4)
  else if off = 0x4C0 then s.storage.krev.setWidth 32
  else if off = 0x4C8 then word32 s.storage.svnfuse 0
  else if off = 0x4CC then word32 s.storage.svnfuse 1
  else if 0x500 ≤ off then word32 s.storage.pwrcal ((off - 0x500) / 4)
  else 0

/-- UNSTAT of a bib (R430). -/
def unstat (s : State) (b : Nat) : BitVec 32 :=
  let h := (s.unit b).health
  (bit h.fenced).setWidth 32 ||| ((bit h.epochFence).setWidth 32 <<< 1) ||| (h.cause.setWidth 32 <<< 2)
    ||| ((bit h.reload).setWidth 32 <<< 10) ||| ((bit h.resetting).setWidth 32 <<< 11) ||| (h.cecnt.setWidth 32 <<< 16)
    ||| (h.evlost.setWidth 32 <<< 24)

/-- A last-use entry as its register (R166). -/
def LastUse.bits (e : LastUse) : BitVec 128 :=
  (bit e.tied).setWidth 128 ||| (e.st.setWidth 128 <<< 1) ||| (e.uses.setWidth 128 <<< 8) ||| (e.ctx.setWidth 128 <<< 16)
    ||| (e.laplo.setWidth 128 <<< 32) ||| (e.tensor.setWidth 128 <<< 64)

/-- A layer map word as either copy reads: WIDTH and REQ are the committed ones (R204, R441). -/
def layerRead (s : State) (l : Nat) (staged : Bool) : BitVec 32 :=
  if staged then (tget 0 s.tables.lmStaged l &&& layerFields) ||| (s.layer l &&& 0x70000000) else s.layer l

/-- A context register (R323). -/
def contextRead (s : State) (c r : Nat) : BitVec 32 :=
  let x := s.context c
  match r with
  | 0x40 => word32 x.cseed 0
  | 0x44 => word32 x.cseed 1
  | 0x48 => x.sumbase
  | 0x4C => x.lapmb.setWidth 32
  | 0x50 => x.swait.setWidth 32
  | 0x54 => (bit x.permr).setWidth 32
  | 0x58 => x.cstate.setWidth 32
  | _ => 0

/-- A word of the global window (R441). -/
def globalRead (s : State) (a : Agent) (off : Nat) : Option (Bool × BitVec 32) :=
  if off < 0x400 then mgRead s a off
  else if off < 0x540 then some (a.manages, keyRead s off)
  else if 0x1000 ≤ off ∧ off < 0x5000 then some (true, unstat s ((off - 0x1000) / 4))
  else if 0x8000 ≤ off ∧ off < 0x9000 then
    some (a.manages || tableAgent s a 16, word32 (tget 0 s.tables.startList ((off - 0x8000) / 16)) (off % 16 / 4))
  else if 0x9000 ≤ off ∧ off < 0xA000 then
    some (a.manages || tableAgent s a 32, word32 (s.lastUse ((off - 0x9000) / 16)).bits (off % 16 / 4))
  else if 0x10000 ≤ off ∧ off < 0x14000 then some (profileAgent s a, layerRead s ((off - 0x10000) / 4) true)
  else if 0x14000 ≤ off ∧ off < 0x18000 then some (profileAgent s a, layerRead s ((off - 0x14000) / 4) false)
  else if 0x20000 ≤ off ∧ off < 0x40000 then
    let c := (off - 0x20000) / 0x80
    let r := off % 0x80
    if r < 0x40 then some (a.owns c, if r < 0x30 then word32 (s.grant c) (r / 4) else 0)
    else some (mayWrite s a c, contextRead s c r)
  else if 0x80000 ≤ off then
    some (a.manages, word32 (tget 0 s.finish.slots ((off - 0x80000) / 0x40)) (off % 0x40 / 4))
  else none

/-- STATE of a queue block (R314). -/
def QState.code : QState → BitVec 3
  | .off => 0 | .run => 1 | .halted => 2 | .suspended => 3 | .closing => 4 | .suspending => 5

/-- Word i of a queue block (R314). -/
def Queue.word (x : Queue) (i : Nat) : BitVec 32 :=
  match i with
  | 0 => x.rbase
  | 1 => x.rsize.setWidth 32 ||| (x.bib.setWidth 32 <<< 4) ||| (x.prio.setWidth 32 <<< 16) ||| ((bit x.halte).setWidth 32 <<< 19)
  | 2 => x.cbase
  | 3 => x.csize.setWidth 32
  | 4 => x.head.setWidth 32 ||| (x.tail.setWidth 32 <<< 16)
  | 5 => x.ctail.setWidth 32 ||| (x.chead.setWidth 32 <<< 16)
  | 6 => x.stail.setWidth 32 ||| (x.seq.setWidth 32 <<< 16)
  | 7 => x.st.code.setWidth 32 ||| ((bit x.pre).setWidth 32 <<< 3) ||| ((bit x.dberr).setWidth 32 <<< 4) ||| (x.hstat.setWidth 32 <<< 5)
  | 8 => x.prog
  | 9 => x.proghi.setWidth 32
  | 10 => x.dcrc
  | 11 => x.bci
  | _ => 0

/-- A word of the table region (R448). -/
def tableRead (s : State) (a : Agent) (off : Nat) : Option (Bool × BitVec 32) :=
  if off < 0x200000 then
    let q := (off - 0x100000) / 0x40
    some (mayRing s a q, (s.queue q).word (off % 0x40 / 4))
  else if off < 0x240000 then
    let k := (off - 0x200000) / 4
    some (mayWrite s a (k / 64), tget 0 s.tables.ftStaged k)
  else if off < 0x280000 then
    let k := (off - 0x240000) / 4
    some (mayWrite s a (k / 64), tget 0 s.tables.ftActive k)
  else none

/-! ### Records behind the indirect ports (R452) -/

/-- Word j of a stream entry and its placement (R90, R453). -/
def Stream.word (e : Stream) (j : Nat) : BitVec 32 :=
  match j with
  | 0 => e.word0
  | 1 => e.pair.setWidth 32 ||| (e.side.setWidth 32 <<< 16)
  | 2 => e.word2
  | 3 => e.tensor.setWidth 32 ||| (e.hstat.setWidth 32 <<< 24)
  | 4 => e.pbase
  | 5 => e.pbasehi.setWidth 32 ||| (e.pspace.setWidth 32 <<< 5)
  | 6 => e.nblk.setWidth 32
  | _ => 0

/-- Word j of a tracked entry's configuration (R171). -/
def TrackedCfg.word (c : TrackedCfg) (j : Nat) : BitVec 32 :=
  match j with
  | 0 => (bit c.en).setWidth 32 ||| ((bit c.auto).setWidth 32 <<< 1) ||| ((bit c.pinp).setWidth 32 <<< 2)
      ||| ((bit c.pow2).setWidth 32 <<< 3) ||| ((bit c.fben).setWidth 32 <<< 4) ||| (c.marg.setWidth 32 <<< 5)
      ||| (c.hlen.setWidth 32 <<< 8) ||| (c.ctx.setWidth 32 <<< 13)
  | 1 => c.tensor.setWidth 32
  | 2 => c.layer.setWidth 32 ||| (c.target.setWidth 32 <<< 16)
  | 3 => c.abase.setWidth 32 ||| (c.acount.setWidth 32 <<< 13)
  | 4 => c.flagth.setWidth 32
  | 5 => c.clipth
  | 6 => c.flushth
  | 7 => c.nanth
  | 8 => word32 c.cvmask 0
  | 9 => word32 c.cvmask 1
  | _ => 0

/-- Words 0 to 6 of a lap record (R180). -/
def Record.word (r : Record) (j : Nat) : BitVec 32 :=
  match j with
  | 0 => r.amax.setWidth 32 ||| (r.capmax.setWidth 32 <<< 16)
  | 1 => r.nan
  | 2 => r.clip
  | 3 => r.flush
  | 4 => r.overflow
  | 5 => r.flagged
  | 6 => r.otiles
  | _ => 0

/-- Word j of the DATA of a tracked entry: configuration, then state at 0x30 (R180, R452). -/
def Tracked.word (t : Tracked) (j : Nat) : BitVec 32 :=
  if j < 10 then t.cfg.word j
  else if 12 ≤ j ∧ j < 19 then t.cur.word (j - 12)
  else if 20 ≤ j ∧ j < 27 then t.last.word (j - 20)
  else if j = 28 then
    t.prop.setWidth 32 ||| ((bit t.pvalid).setWidth 32 <<< 16) ||| (t.psrc.setWidth 32 <<< 17) ||| (t.head.setWidth 32 <<< 19)
      ||| (t.fill.setWidth 32 <<< 24)
  else if j = 29 then t.adopted.setWidth 32
  else if 30 ≤ j ∧ j < 46 then
    (tget 0 t.ring (2 * (j - 30))).setWidth 32 ||| ((tget 0 t.ring (2 * (j - 30) + 1)).setWidth 32 <<< 16)
  else 0

/-- Word j of the DATA of a norm watch: configuration, then state at 0x10 (R188, R193, R452). -/
def Watch.word (w : Watch) (j : Nat) : BitVec 32 :=
  match j with
  | 0 => (bit w.en).setWidth 32 ||| ((bit w.stb).setWidth 32 <<< 1) ||| (w.alpha.setWidth 32 <<< 2) ||| (w.warm.setWidth 32 <<< 5)
      ||| (w.ctx.setWidth 32 <<< 13)
  | 1 => w.layer.setWidth 32 ||| (w.ratio.setWidth 32 <<< 16)
  | 14 => (bit w.cur.closed).setWidth 32 ||| ((bit w.cur.nonfin).setWidth 32 <<< 1) ||| ((bit w.cur.satur).setWidth 32 <<< 2)
      ||| ((bit w.cur.stumbled).setWidth 32 <<< 3)
  | 15 => w.cur.ncur
  | 16 => w.nlast
  | 17 => w.avg
  | 18 => w.laps.setWidth 32 ||| ((bit w.avalid).setWidth 32 <<< 8)
  | _ => if 4 ≤ j ∧ j < 14 then wordOf 32 (w.cur.sum / 2 ^ (32 * (j - 4))) else 0

/-- STATE of a group record (R367). -/
def GroupState.code : GroupState → BitVec 3
  | .closed => 0 | .negotiating => 1 | .opened => 2 | .failed => 3

/-- Word j of a group record (R367). -/
def Group.word (g : Group) (j : Nat) : BitVec 32 :=
  match j with
  | 0 => g.ctx.setWidth 32 ||| (g.nmem.setWidth 32 <<< 16) ||| (g.rank.setWidth 32 <<< 23) ||| (g.st.code.setWidth 32 <<< 29)
  | 1 => g.gkey
  | 2 => g.pallow.setWidth 32 ||| (g.pcommon.setWidth 32 <<< 16)
  | 3 => (if g.st = .opened then g.ver else 0).setWidth 32 ||| (g.cseq.setWidth 32 <<< 16)
  | _ => if j < 36 then (tget 0 g.peers (2 * (j - 4))).setWidth 32 ||| ((tget 0 g.peers (2 * (j - 4) + 1)).setWidth 32 <<< 16) else 0

/-- Word j of the record that a port of unit b shows (R452). -/
def portRead (s : State) (b p j : Nat) : BitVec 32 :=
  let x := s.port b p
  let n := (bitsAt x.sel 8 24).toNat
  let f := (s.unit b).files
  match kindOf b, (bitsAt x.sel 0 8).toNat with
  | some .tk, 0x10 => (s.stream n).word j
  | some .tk, 0x11 => (s.tracked n).word j
  | some .tk, 0x12 => (s.watch n).word j
  | some .rl, 0x20 => (s.group b n).word j
  | _, 0x01 => if j < 8 then word32 (tget 0 f.cbActive n) j else 0
  | _, 0x02 => if j < 8 then word32 (tget 0 f.cbStaged n) j else 0
  | _, 0x03 => if j = 0 then tget 0x3F80 f.chActive n else 0
  | _, 0x04 => if j = 0 then tget 0x3F80 f.chNext n else 0
  | _, 0x05 => if j < 2 then word32 (tget 0x3F800000 f.rtActive n) j else 0
  | _, 0x06 => if j < 2 then word32 (tget 0x3F800000 f.rtNext n) j else 0
  | _, _ => 0

/-! ### Unit windows -/

/-- UIDENT (R450). -/
def uident (b : Nat) : BitVec 32 := ((kindOf b).elim 0 Kind.code).setWidth 32 ||| 0x10010000

/-- POS (R398). The spec's worked example places the converter at 0x041 in column 12, row 5. -/
def posWord (b : Nat) : BitVec 32 :=
  let col : BitVec 6 := if b = 0x041 then 12 else Config.siteCol b
  let row : BitVec 6 := if b = 0x041 then 5 else Config.siteRow b
  ((kindOf b).elim 0 Kind.code).setWidth 32 ||| (wordOf 32 (indexOf b) <<< 4) ||| (wordOf 32 (dieOf b) <<< 10)
    ||| (col.setWidth 32 <<< 16) ||| (row.setWidth 32 <<< 22)

/-- A word of the port area of a unit, as the holder of a port sees it, or another agent (R451). -/
def portAreaRead (s : State) (b off : Nat) (holds : Option Agent → Bool) : BitVec 32 :=
  let p := (off - 0x1000) / 0x100
  let r := off % 0x100
  let x := s.port b p
  let st := portStatus s b x
  if r = 0 then x.sel
  else if r = 4 then (bit st.1).setWidth 32 ||| ((bit st.2).setWidth 32 <<< 1)
  else if 0x40 ≤ r ∧ holds x.holder ∧ st.1 then portRead s b p ((r - 0x40) / 4)
  else 0

/-- A word of the window of a far unit or of any unit's header: the context whose grant the class asks for, none where
every agent reads it, some none for class PRIVILEGED and MARSHAL; and the value. -/
def unitRead (s : State) (b off : Nat) : Option (Option (Option Nat) × BitVec 32) :=
  let u := s.unit b
  let own (c : BitVec 10) (w : BitVec 32) : Option (Option (Option Nat) × BitVec 32) := some (some (some c.toNat), w)
  match off, kindOf b with
  | 0, _ => some (none, uident b)
  | 4, _ => some (none, posWord b)
  | 8, some .mg => some (none, 0)
  | 8, _ => some (some none, (bit u.closing).setWidth 32 ||| ((bit (unitQuiet s b)).setWidth 32 <<< 1))
  | 0x100, some .tk | 0x100, some .rl => some (none, 0)
  | 0x104, some .rl => some (some none, u.relay.rto.setWidth 32)
  | 0x108, some .rl => some (some none, u.relay.pto.setWidth 32)
  | 0x10C, some .rl => some (some none, u.relay.hto.setWidth 32)
  | _, some .rl =>
    if 0x400 ≤ off ∧ off < 0x800 then
      let w := tget 0 u.relay.resid ((off - 0x400) / 0x10)
      own (bitsAt w 0 10) (word32 w (off % 0x10 / 4))
    else none
  | 0x100, some .sl => some (some none, u.slice.addrmap.setWidth 32)
  | _, some .sl =>
    if 0x200 ≤ off ∧ off < 0xA00 then
      let w := (s.window b ((off - 0x200) / 0x20)).regs
      own (wCtx w) (word32 w (off % 0x20 / 4))
    else if 0x2000 ≤ off ∧ off < 0x6000 then
      let w := tget 0 u.slice.groups ((off - 0x2000) / 0x100)
      own (bitsAt w 0 10) (word32 w (off % 0x100 / 4))
    else if 0x8000 ≤ off ∧ off < 0xC000 then
      let w := tget 0 u.slice.grants ((off - 0x8000) / 0x10)
      some (some none, match off % 0x10 with
        | 0 => (bitsAt w 0 15).setWidth 32
        | 4 => (bitsAt w 15 15).setWidth 32
        | _ => 0)
    else none
  | _, _ => none

/-- The agent reads a register of a class. -/
def mayRead (s : State) (a : Agent) : Option (Option Nat) → Bool
  | none => true
  | some none => a.manages
  | some (some c) => mayWrite s a c

/-- A word of a unit window read by an agent. -/
def windowRead (s : State) (a : Agent) (b off : Nat) : Option (Bool × BitVec 32) :=
  if 0x1000 ≤ off ∧ off < 0x1400 then
    (if hasPorts b then some (true, portAreaRead s b off (fun h => decide (h = some a))) else none)
  else if off = 0x104 ∧ kindOf b = some .tk then some (true, srel1Of (s.unit b) a)
  else (unitRead s b off).map (fun r => (mayRead s a r.1, r.2))

/-! ### The aperture (R11, R394) -/

/-- One aligned 32-bit read: its value, and whether the class refused it. -/
def readWord (s : State) (a : Agent) (off : Nat) : BitVec 32 × Bool :=
  let r : Option (Bool × BitVec 32) :=
    if off < 0x100000 then globalRead s a off
    else if off < 0x1000000 then tableRead s a off
    else
      let b := (off - 0x1000000) / 0x10000
      if (s.unit b).held && (kindOf b).isSome then windowRead s a b (off % 0x10000) else none
  match r with
  | some (true, w) => (w, false)
  | some (false, _) => (0, true)
  | none => (0, false)

/-- The low half of a 64-bit register (R224, R225, R323, R443, R445, R452). -/
def lowHalf (s : State) (off : Nat) : Bool :=
  let b := (off - 0x1000000) / 0x10000
  let r := off % 0x10000
  if off < 0x1000000 then
    [0x18, 0x20, 0x28, 0x30, 0x38, 0x4C8].contains off || (decide (0x20000 ≤ off) && decide (off < 0x40000) && decide (off % 0x80 = 0x40))
  else
    let t := (bitsAt (s.port b ((r - 0x1000) / 0x100)).sel 0 8).toNat
    decide (0x1000 ≤ r) && decide (r < 0x1400)
      && ((decide (r % 0x100 = 0x40) && (t == 5 || t == 6)) || (decide (r % 0x100 = 0x60) && t == 0x11))

/-- A forbidden read: 0, with an ACCESS event (R400). -/
def refuseRead (s : State) (a : Agent) (off : Nat) : State := s.post 0 0 .access a.ctx? (wordOf 32 off) (a.code.setWidth 32) 0

/-- The MGMT that asks a slice or relay for what it holds at an offset of its window, where MG's class check admits the read
(R361, R439): its answer brings the value that the read returns (log entry 29). -/
def asked (s : State) (a : Agent) (off : Nat) (wide : Bool) : State :=
  let b := (off - 0x1000000) / 0x10000
  let admits (o : Nat) : Bool := (windowRead s a b o).elim false Prod.fst
  let o := off % 0x10000
  if off < 0x1000000 ∨ ¬ isFar b ∨ ¬ (s.unit b).held then s
  else match admits o, wide && admits (o + 4) with
    | true, w => sendMgmt s b o false w 0 0
    | false, true => sendMgmt s b (o + 4) false false 0 0
    | false, false => s

/-- A read of an agent: its value, and the state after it (R11, R394, R400). The high half that a read of a low half latches is
one latch for all agents: it answers whichever agent reads the high half next, with no class check of that agent (log entry 53(a)). -/
def readAperture (s : State) (a : Agent) (off width : Nat) : BitVec 64 × State :=
  let bare := { s with mg := { s.mg with latch := none } }
  if s.mg.step ≠ .ready then
    (if accessOk off width ∧ off = 0x10 ∧ a.manages then ((mstat s).setWidth 64, bare) else (0, bare))
  else if !accessOk off width then (0, bare)
  else if width = 64 then
    let lo := readWord s a off
    let hi := readWord s a (off + 4)
    (lo.1.setWidth 64 ||| (hi.1.setWidth 64 <<< 32), if lo.2 || hi.2 then refuseRead (asked bare a off true) a off else asked bare a off true)
  else match s.mg.latch with
    | some (o, v) => if o = off then (v.setWidth 64, bare) else plain s bare a off
    | none => plain s bare a off
where
  /-- A 32-bit read that finds nothing latched; a low half latches its high half. -/
  plain (s bare : State) (a : Agent) (off : Nat) : BitVec 64 × State :=
    let r := readWord s a off
    let t := if r.2 then refuseRead bare a off else asked bare a off false
    (r.1.setWidth 64,
     if lowHalf s off && !r.2 then { t with mg := { t.mg with latch := some (off + 4, (readWord s a (off + 4)).1) } } else t)

end Sys2Proof.Machine
end

