-- ==== Sys2Proof/Machine/Flits.lean ====
section
/-!
DEFINITION. Management and scale messages (R354, R361), and what one end of a slice link does with a flit it receives
(R359, R360).
-/

namespace Sys2Proof.Machine

/-! ### Management messages (R361) -/

/-- What a far unit answers to a relayed access: status and data. -/
def mgmtAnswer (s : State) (b off : Nat) (wide : Bool) : BitVec 32 × BitVec 32 :=
  let word (o : Nat) : BitVec 32 :=
    if 0x1000 ≤ o ∧ o < 0x1400 then (if hasPorts b then portAreaRead s b o Option.isSome else 0)
    else ((unitRead s b o).map Prod.snd).getD 0
  (word off, if wide then word (off + 4) else 0)

/-- One word of a relayed write, whose class MG has judged (R400): Marshal's own fields stay, a port's holder writes its
record. -/
def mgmtWord (s : State) (b off : Nat) (v : BitVec 32) : State :=
  let holder := if 0x1000 ≤ off ∧ off < 0x1400 then (s.port b ((off - 0x1000) / 0x100)).holder else none
  (unitWord s (holder.getD .host) b off v).elim s (fun r => r.2)

/-- A relayed write. -/
def mgmtWrite (s : State) (b off : Nat) (wide : Bool) (lo hi : BitVec 32) : State :=
  let s1 := mgmtWord s b off lo
  if wide then mgmtWord s1 b (off + 4) hi else s1

/-- MGMTR of an access. -/
def mgmtReply (tid : BitVec 8) (st : Status) (data : BitVec 32 × BitVec 32) : List Byte :=
  linkMsg 0x1B (st.byte.setWidth 32 ||| (tid.setWidth 32 <<< 24)) data.1 data.2 []

/-- MGMT: a far unit performs an access and answers it; one that is not aligned to its width changes nothing. -/
def execMgmt (bib : Bib) (msg : List Byte) (s : State) : Host.Outcome State Fault Refusal :=
  let b := bib.toNat
  let w := msgWord msg 1
  let off := (bitsAt w 0 16).toNat
  let wide := bitAt w 17
  let tid := bitsAt w 24 8
  live s (
    if !isFar b || !(s.unit b).held then s
    else if !linkMsgOk msg 0x1A 1 0xFF03FFFF 0xFFFFFFFF 0xFFFFFFFF then badMsg s b 0 msg
    else if off % (if wide then 8 else 4) ≠ 0 then sendMsg s false b (mgmtReply tid .format (0, 0))
    else if bitAt w 16 then sendMsg (mgmtWrite s b off wide (msgWord msg 2) (msgWord msg 3)) false b (mgmtReply tid .ok (0, 0))
    else sendMsg s false b (mgmtReply tid .ok (mgmtAnswer s b off wide)))

/-- MGMTR: MG takes the result, which goes to the agent whose access it answers. -/
def execMgmtr (bib : Bib) (msg : List Byte) (s : State) : Host.Outcome State Fault Refusal :=
  live s (if mgmtrOk msg then s else badMsg s 0 bib.toNat msg)

/-! ### Scale blocks (R354) -/

/-- Stream and tag of a SCALE message. -/
def scaleKey (m : List Byte) : BitVec 16 × BitVec 16 := (bitsAt (msgWord m 1) 0 16, bitsAt (msgWord m 1) 16 16)

/-- The descriptor under which slice b uses a scale entry: that of an issued instruction which names it, else the active one. -/
def scaleDesc (s : State) (b num : Nat) : Desc :=
  let named := (s.unit b).issued.findSome? (fun i => (streamFields i.slots).findSome? (fun n =>
    if (entriesOf (i.field n) (i.desc n)).any (fun p => decide (p.1 = num)) then some (i.desc n) else none))
  let e := s.stream num
  named.getD (tget 0 s.tables.ftActive (64 * e.ctx.toNat + e.fdi.toNat))

/-- Bytes of the scale block that a SCALE message carries: those sent under its stream and tag, else those of the entry's
block. -/
def scaleSize (s : State) (b : Nat) (toUnit : Bool) (m : List Byte) : Nat :=
  let sl := (s.unit b).slice
  let sent := (if toUnit then sl.scaleAsked else sl.scaleOut).find? (fun x => decide (x.1 = scaleKey m))
  (sent.map Prod.snd).getD (16 + bodyBytes (scaleDesc s b (scaleKey m).1.toNat) 1)

/-- A SCALE message: its block in whole chunks behind its first (R361). -/
def scaleOk (s : State) (b : Nat) (toUnit : Bool) (m : List Byte) : Bool :=
  let n := 1 + ceilDiv (scaleSize s b toUnit m) 16
  decide (2 ≤ n) && decide (n ≤ 32) && linkMsgOk m 0x17 n 0xFFFFFFFF 0 0

/-- A scale block arrives at its slice, which asked for it. -/
def scaleArrives (s : State) (b : Nat) (m : List Byte) : State :=
  let key := scaleKey m
  if (s.unit b).slice.scaleAsked.any (fun x => decide (x.1 = key)) then
    s.onUnit b (fun u => { u with slice := { u.slice with
      scaleAsked := u.slice.scaleAsked.filter (fun x => decide (x.1 ≠ key))
      scaleIn := u.slice.scaleIn ++ [(key, (msgRest m).take (scaleSize s b true m))] } })
  else s

/-- A scale block that slice b wrote arrives at MG: written at its place in the scratchpad, it is the entry's next block. -/
def storeScale (s : State) (b : Nat) (m : List Byte) : State :=
  let key := scaleKey m
  let num := key.1.toNat
  let e := s.stream num
  let s1 := s.onUnit b (fun u => { u with slice := { u.slice with scaleOut := u.slice.scaleOut.filter (fun x => decide (x.1 ≠ key)) } })
  if e.pspace = 1 ∧ e.kind = 1 ∧ e.st ≠ .free then
    match blockKey e (scaleDesc s b num) 1 key.2 with
    | some k =>
      let s2 := { s1 with mem := writeBytes s1.mem k ((msgRest m).take (scaleSize s b false m)) }
      if key.2 = e.wtag then s2.setStream num { e with wtag := e.wtag + 1 } else s2
    | none => s1
  else s1

/-- SCALE_MESSAGE: toward MG the block is written; toward a slice it brings what the slice's conversion reads (R354). -/
def execScaleMessage (bib : Bib) (toUnit : Bool) (msg : List Byte) (s : State) : Host.Outcome State Fault Refusal :=
  let b := bib.toNat
  live s (
    if kindOf b ≠ some .sl then s
    else if !scaleOk s b toUnit msg then badMsg s (if toUnit then b else 0) (if toUnit then 0 else b) msg
    else if toUnit then scaleArrives s b msg else storeScale s b msg)

/-! ### Delivery of a message (R361) -/

/-- The state that a command's outcome leaves. -/
def after (s : State) : Host.Outcome State Fault Refusal → State
  | .next t => t
  | _ => s

/-- A message that has arrived whole: handled by its type and direction. -/
def deliver (s : State) (k : Nat) (mg : Bool) (m : List Byte) : State :=
  let b := sliceBib k
  let bib : Bib := wordOf 12 b
  match (bitsAt (msgWord m 0) 0 8).toNat, mg with
  | 0x10, false => after s (execDescMessage bib m s)
  | 0x11, true => after s (execCompl bib m s)
  | 0x12, true => after s (execSumm bib m s)
  | 0x13, true => after s (execStatsMessage bib m s)
  | 0x14, true => after s (execNorm bib m s)
  | 0x15, true => after s (execProgreq bib m s)
  | 0x16, false => after s (execProgMessage bib m s)
  | 0x17, _ => after s (execScaleMessage bib (!mg) m s)
  | 0x18, _ => after s (execBatonMessage bib (!mg) m s)
  | 0x19, true => after s (execEventMessage bib m s)
  | 0x1A, false => after s (execMgmt bib m s)
  | 0x1B, true => after s (execMgmtr bib m s)
  | _, _ => badMsg s (if mg then 0 else b) (if mg then b else 0) m

/-! ### Flits (R359, R360) -/

/-- SEQ, ACK, NAK, NCH and CREDIT of a flit. -/
def fSeq (f : BitVec 512) : BitVec 8 := bitsAt f 0 8
/-- ACK -/
def fAck (f : BitVec 512) : BitVec 8 := bitsAt f 8 8
/-- NAK -/
def fNak (f : BitVec 512) : Bool := bitAt f 16
/-- NCH -/
def fNch (f : BitVec 512) : Nat := (bitsAt f 17 2).toNat
/-- CREDIT -/
def fCredit (f : BitVec 512) : Nat := (bitsAt f 32 16).toNat

/-- The CRC of a flit matches. -/
def flitOk (f : BitVec 512) : Bool := decide (crc32c (bytesLE 60 (bitsAt f 0 480)) = bitsAt f 480 32)

/-- Flits up to ACK leave the replay buffer. -/
def LinkEnd.acked (e : LinkEnd) (ack : BitVec 8) : LinkEnd :=
  let first := e.seqSent - wordOf 8 e.replay.length
  let n := (ack - first).toNat
  if 0 < n ∧ n ≤ e.replay.length then { e with replay := e.replay.drop n, resends := 0 } else e

/-- An end sends its unacknowledged flits again; the sixteenth time in a row without ACK advancing retrains the link
(R360, R363). -/
def resendFlits (s : State) (k : Nat) (mg : Bool) : State :=
  let e := s.linkEnd k mg
  if e.st ≠ .active ∨ e.replay = [] then s
  else
    let s1 := s.setLinkEnd k mg { e with resends := e.resends + 1 }
    let s2 := e.replay.foldl (fun t f => t.emit (.flit (wordOf 4 k) mg f)) s1
    if 16 ≤ e.resends + 1 then retrainLink s2 k false 1 else s2

/-- A chunk joins the message being assembled; a message that is whole is delivered. -/
def joinChunk (s : State) (k : Nat) (mg : Bool) (c : List Byte) : State :=
  let e := s.linkEnd k mg
  let m := e.partialMsg ++ c
  let size := 16 * ((bitsAt (msgWord m 0) 8 5).toNat + 1)
  if m.length < size then s.setLinkEnd k mg { e with partialMsg := m }
  else deliver (s.setLinkEnd k mg { e with partialMsg := [] }) k mg m

/-- A received chunk. Amid another message, a chunk that is a BATON's first, with one behind it that is a baton message, is a
BATON sent ahead of the message's rest; else both belong to the message (R362; DEDUCED: log entry 22). -/
def takeChunk (s : State) (k : Nat) (mg : Bool) (c : List Byte) : State :=
  let e := s.linkEnd k mg
  match e.partialMsg, e.partialBaton with
  | [], [] => joinChunk s k mg c
  | _, [] => if c = linkMsg 0x118 0 0 0 [] then s.setLinkEnd k mg { e with partialBaton := c } else joinChunk s k mg c
  | _, h =>
    let s1 := s.setLinkEnd k mg { e with partialBaton := [] }
    if batonMsgOk (wordLE 128 c) then deliver s1 k mg (h ++ c) else joinChunk (joinChunk s1 k mg h) k mg c

/-- Chunks in use in a flit. -/
def flitChunks (f : BitVec 512) : List (List Byte) :=
  (List.range (fNch f)).map (fun i => bytesLE 16 (bitsAt f (64 + 128 * i) 128))

/-- The next flit in sequence: credit taken, its chunks delivered, waiting chunks sent, and at least one flit in answer. -/
def acceptFlit (s : State) (k : Nat) (mg : Bool) (f : BitVec 512) : State :=
  let e := s.linkEnd k mg
  let s1 := s.setLinkEnd k mg { e with seqGot := fSeq f, credit := e.credit + fCredit f, freed := e.freed + fNch f }
  let s3 := (flitChunks f).foldl (fun t c => takeChunk t k mg c) s1
  let sent := (s3.linkEnd k mg).seqSent
  let s4 := pumpFlits k mg 128 s3
  if (s4.linkEnd k mg).seqSent = sent then sendFlit s4 k mg false else s4

/-- A flit received by an end in ACTIVE: a bad CRC or a gap is answered with NAK, a flit taken before is ignored but for its
ACK and its NAK. -/
def takeFlit (s : State) (k : Nat) (mg : Bool) (f : BitVec 512) : State :=
  let e := s.linkEnd k mg
  if e.st ≠ .active then s
  else if !flitOk f then sendFlit s k mg true
  else
    let s0 := s.setLinkEnd k mg (e.acked (fAck f))
    let s1 := if fNak f then resendFlits s0 k mg else s0
    if fSeq f = e.seqGot + 1 then acceptFlit s1 k mg f
    else if (e.seqGot - fSeq f).toNat < 128 then s1
    else sendFlit s1 k mg true

/-- FLIT (R359, R360). -/
def execFlit (stack : BitVec 4) (mgEnd : Bool) (flit : BitVec 512) (s : State) : Host.Outcome State Fault Refusal :=
  live s (takeFlit s stack.toNat mgEnd flit)

/-- FLIT_RESEND_TIMEOUT: ACK has not advanced for 2 µs (R360). -/
def execFlitResendTimeout (stack : BitVec 4) (mgEnd : Bool) (s : State) : Host.Outcome State Fault Refusal :=
  live s (resendFlits s stack.toNat mgEnd)

end Sys2Proof.Machine
end

