-- ==== Sys2Proof/Machine/Dispatch.lean ====
section
/-!
DEFINITION. One arm per command: a direct call of its meaning, or a rejection by name.
-/

namespace Sys2Proof.Machine

/-- The effect of a command on everything but the queue of waiting commands. -/
def exec (i : Instr) (s : State) : Host.Outcome State Fault Refusal :=
  match i with
  | .powerOnReset => Sys2Proof.Machine.execPowerOnReset s
  | .bibIssue bib kind gen => Sys2Proof.Machine.execBibIssue bib kind gen s
  | .bibAnswerTimeout bib => Sys2Proof.Machine.execBibAnswerTimeout bib s
  | .headScanDone => Sys2Proof.Machine.execHeadScanDone s
  | .bistCollect failing => Sys2Proof.Machine.execBistCollect failing s
  | .linkwait => Sys2Proof.Machine.execLinkwait s
  | .verifyDone => Sys2Proof.Machine.execVerifyDone s
  | .coachStart => Sys2Proof.Machine.execCoachStart s
  | .minimalModeEntry => Sys2Proof.Machine.execMinimalModeEntry s
  | .pacerStep => Sys2Proof.Machine.execPacerStep s
  | .pacerReseed bib => Sys2Proof.Machine.execPacerReseed bib s
  | .splitBoundary split phase => Sys2Proof.Machine.execSplitBoundary split phase s
  | .announcement rpt => Sys2Proof.Machine.execAnnouncement rpt s
  | .issueHoldBegin => Sys2Proof.Machine.execIssueHoldBegin s
  | .issueHoldEnd => Sys2Proof.Machine.execIssueHoldEnd s
  | .commitPoint => Sys2Proof.Machine.execCommitPoint s
  | .lapBoundary lap phase => Sys2Proof.Machine.execLapBoundary lap phase s
  | .announcementLapse => Sys2Proof.Machine.execAnnouncementLapse s
  | .confirmTimeout => Sys2Proof.Machine.execConfirmTimeout s
  | .farIssueStop bib => Sys2Proof.Machine.execFarIssueStop bib s
  | .stage bib msg => Sys2Proof.Machine.execStage bib msg s
  | .ack msg => Sys2Proof.Machine.execAck msg s
  | .commit bib msg => Sys2Proof.Machine.execCommit bib msg s
  | .defer bib msg => Sys2Proof.Machine.execDefer bib msg s
  | .announce bib msg => Sys2Proof.Machine.execAnnounce bib msg s
  | .boundary bib msg => Sys2Proof.Machine.execBoundary bib msg s
  | .lapse bib msg => Sys2Proof.Machine.execLapse bib msg s
  | .doneReport msg => Sys2Proof.Machine.execDoneReport msg s
  | .resync bib msg => Sys2Proof.Machine.execResync bib msg s
  | .synced msg => Sys2Proof.Machine.execSynced msg s
  | .batonRequest agent => Sys2Proof.Machine.execBatonRequest agent s
  | .fallbackClear agent => Sys2Proof.Machine.execFallbackClear agent s
  | .pmaskWrite agent value => Sys2Proof.Machine.execPmaskWrite agent value s
  | .pmaskAck bib => Sys2Proof.Machine.execPmaskAck bib s
  | .formatTableWrite agent ctx index value => Sys2Proof.Machine.execFormatTableWrite agent ctx index value s
  | .layerMapWrite agent layer value => Sys2Proof.Machine.execLayerMapWrite agent layer value s
  | .issueNext bib => Sys2Proof.Machine.execIssueNext bib s
  | .convertPlain bib queue steps arrived => Sys2Proof.Machine.execConvertPlain bib queue steps arrived s
  | .convertRescale bib queue steps arrived => Sys2Proof.Machine.execConvertRescale bib queue steps arrived s
  | .convertTranspose bib queue steps arrived => Sys2Proof.Machine.execConvertTranspose bib queue steps arrived s
  | .convertReepoch bib queue steps arrived => Sys2Proof.Machine.execConvertReepoch bib queue steps arrived s
  | .rotate bib queue steps arrived => Sys2Proof.Machine.execRotate bib queue steps arrived s
  | .tableBuild bib queue steps => Sys2Proof.Machine.execTableBuild bib queue steps s
  | .tableCodebook bib queue => Sys2Proof.Machine.execTableCodebook bib queue s
  | .tableChannel bib queue => Sys2Proof.Machine.execTableChannel bib queue s
  | .tableRescale bib queue => Sys2Proof.Machine.execTableRescale bib queue s
  | .tableProgram bib queue => Sys2Proof.Machine.execTableProgram bib queue s
  | .stats bib queue steps => Sys2Proof.Machine.execStats bib queue steps s
  | .scalePropose bib queue => Sys2Proof.Machine.execScalePropose bib queue s
  | .scaleAdopt bib queue => Sys2Proof.Machine.execScaleAdopt bib queue s
  | .scalePin bib queue => Sys2Proof.Machine.execScalePin bib queue s
  | .adoptAck entry cv => Sys2Proof.Machine.execAdoptAck entry cv s
  | .element bib queue steps => Sys2Proof.Machine.execElement bib queue steps s
  | .reduce bib queue steps => Sys2Proof.Machine.execReduce bib queue steps s
  | .permute bib queue steps => Sys2Proof.Machine.execPermute bib queue steps s
  | .shuffleInterleave bib queue steps => Sys2Proof.Machine.execShuffleInterleave bib queue steps s
  | .shuffleEven bib queue steps => Sys2Proof.Machine.execShuffleEven bib queue steps s
  | .shuffleOdd bib queue steps => Sys2Proof.Machine.execShuffleOdd bib queue steps s
  | .shuffleReverse bib queue steps => Sys2Proof.Machine.execShuffleReverse bib queue steps s
  | .shuffleRotate bib queue steps => Sys2Proof.Machine.execShuffleRotate bib queue steps s
  | .pack bib queue steps => Sys2Proof.Machine.execPack bib queue steps s
  | .unpackCodes bib queue steps => Sys2Proof.Machine.execUnpackCodes bib queue steps s
  | .unpackScales bib queue steps => Sys2Proof.Machine.execUnpackScales bib queue steps s
  | .unpackZpoints bib queue steps => Sys2Proof.Machine.execUnpackZpoints bib queue steps s
  | .randomBits bib queue steps => Sys2Proof.Machine.execRandomBits bib queue steps s
  | .randomBernoulli bib queue steps => Sys2Proof.Machine.execRandomBernoulli bib queue steps s
  | .sample bib queue steps => Sys2Proof.Machine.execSample bib queue steps s
  | .relaySend bib queue steps => Sys2Proof.Machine.execRelaySend bib queue steps s
  | .relayReceive bib queue steps => Sys2Proof.Machine.execRelayReceive bib queue steps s
  | .relayCollective bib queue steps => Sys2Proof.Machine.execRelayCollective bib queue steps s
  | .sliceProgram bib queue steps => Sys2Proof.Machine.execSliceProgram bib queue steps s
  | .sliceConvert bib queue steps => Sys2Proof.Machine.execSliceConvert bib queue steps s
  | .sliceReepoch bib queue steps => Sys2Proof.Machine.execSliceReepoch bib queue steps s
  | .windowOpen bib queue => Sys2Proof.Machine.execWindowOpen bib queue s
  | .windowClose bib queue => Sys2Proof.Machine.execWindowClose bib queue s
  | .fenceQueue bib queue => Sys2Proof.Machine.execFenceQueue bib queue s
  | .fenceWaitseq bib queue => Sys2Proof.Machine.execFenceWaitseq bib queue s
  | .lapwait bib queue => Sys2Proof.Machine.execLapwait bib queue s
  | .summary bib queue => Sys2Proof.Machine.execSummary bib queue s
  | .blockPosition bib queue arrived => Sys2Proof.Machine.execBlockPosition bib queue arrived s
  | .streamWaitTimeout bib queue => Sys2Proof.Machine.execStreamWaitTimeout bib queue s
  | .feedBeat bib => Sys2Proof.Machine.execFeedBeat bib s
  | .instructionComplete bib queue => Sys2Proof.Machine.execInstructionComplete bib queue s
  | .preempt bib => Sys2Proof.Machine.execPreempt bib s
  | .resumePreempted bib => Sys2Proof.Machine.execResumePreempted bib s
  | .reportMerge => Sys2Proof.Machine.execReportMerge s
  | .normPartial => Sys2Proof.Machine.execNormPartial s
  | .settleWindowEnd => Sys2Proof.Machine.execSettleWindowEnd s
  | .closeScanDone => Sys2Proof.Machine.execCloseScanDone s
  | .trackedEntryWrite agent entry word value => Sys2Proof.Machine.execTrackedEntryWrite agent entry word value s
  | .watchWrite agent watch word value => Sys2Proof.Machine.execWatchWrite agent watch word value s
  | .indirectSelect agent bib port value => Sys2Proof.Machine.execIndirectSelect agent bib port value s
  | .streamRelease agent tracker value => Sys2Proof.Machine.execStreamRelease agent tracker value s
  | .lastuse msg => Sys2Proof.Machine.execLastuse msg s
  | .doorbell agent queue tail => Sys2Proof.Machine.execDoorbell agent queue tail s
  | .doorbellStage agent queue tail => Sys2Proof.Machine.execDoorbellStage agent queue tail s
  | .ctxSuspend agent ctx => Sys2Proof.Machine.execCtxSuspend agent ctx s
  | .ctxSuspendForce agent ctx => Sys2Proof.Machine.execCtxSuspendForce agent ctx s
  | .ctxResume agent ctx => Sys2Proof.Machine.execCtxResume agent ctx s
  | .ctxClose agent ctx => Sys2Proof.Machine.execCtxClose agent ctx s
  | .queueOpen agent queue => Sys2Proof.Machine.execQueueOpen agent queue s
  | .queueResume agent queue => Sys2Proof.Machine.execQueueResume agent queue s
  | .queueClose agent queue => Sys2Proof.Machine.execQueueClose agent queue s
  | .drainTimeout queue => Sys2Proof.Machine.execDrainTimeout queue s
  | .queueClosed queue => Sys2Proof.Machine.execQueueClosed queue s
  | .unitClose agent bib => Sys2Proof.Machine.execUnitClose agent bib s
  | .unitCloseClear agent bib => Sys2Proof.Machine.execUnitCloseClear agent bib s
  | .grant agent => Sys2Proof.Machine.execGrant agent s
  | .revoke agent => Sys2Proof.Machine.execRevoke agent s
  | .revokeClear ctx => Sys2Proof.Machine.execRevokeClear ctx s
  | .update agent => Sys2Proof.Machine.execUpdate agent s
  | .updateInstall => Sys2Proof.Machine.execUpdateInstall s
  | .unitreset agent => Sys2Proof.Machine.execUnitreset agent s
  | .unitResetDone bib pass => Sys2Proof.Machine.execUnitResetDone bib pass s
  | .marshalCommandReserved agent op => Sys2Proof.Machine.execMarshalCommandReserved agent op s
  | .eventAccept => Sys2Proof.Machine.execEventAccept s
  | .evctlWrite agent value => Sys2Proof.Machine.execEvctlWrite agent value s
  | .recordCommit readback => Sys2Proof.Machine.execRecordCommit readback s
  | .pfail => Sys2Proof.Machine.execPfail s
  | .powerOk => Sys2Proof.Machine.execPowerOk s
  | .cap msg => Sys2Proof.Machine.execCap msg s
  | .governorWindow => Sys2Proof.Machine.execGovernorWindow s
  | .scrub cls found => Sys2Proof.Machine.execScrub cls found s
  | .margin found => Sys2Proof.Machine.execMargin found s
  | .wear weak => Sys2Proof.Machine.execWear weak s
  | .errorSingleBit bib array => Sys2Proof.Machine.execErrorSingleBit bib array s
  | .errorUncorrectable bib array region copy => Sys2Proof.Machine.execErrorUncorrectable bib array region copy s
  | .mgFatal array => Sys2Proof.Machine.execMgFatal array s
  | .hang bib queue => Sys2Proof.Machine.execHang bib queue s
  | .viewWrite stack sideband col data => Sys2Proof.Machine.execViewWrite stack sideband col data s
  | .viewRead stack sideband col => Sys2Proof.Machine.execViewRead stack sideband col s
  | .directAccess stack sideband col write data => Sys2Proof.Machine.execDirectAccess stack sideband col write data s
  | .hostRefresh stack => Sys2Proof.Machine.execHostRefresh stack s
  | .detectDone stack mgEnd lanes => Sys2Proof.Machine.execDetectDone stack mgEnd lanes s
  | .trainingSet stack mgEnd set => Sys2Proof.Machine.execTrainingSet stack mgEnd set s
  | .advertiseTimeout stack mgEnd => Sys2Proof.Machine.execAdvertiseTimeout stack mgEnd s
  | .trainDone stack mgEnd good => Sys2Proof.Machine.execTrainDone stack mgEnd good s
  | .linkActive stack mgEnd set => Sys2Proof.Machine.execLinkActive stack mgEnd set s
  | .linkDown stack => Sys2Proof.Machine.execLinkDown stack s
  | .retrain agent stack => Sys2Proof.Machine.execRetrain agent stack s
  | .retrainUp agent stack => Sys2Proof.Machine.execRetrainUp agent stack s
  | .restart agent stack => Sys2Proof.Machine.execRestart agent stack s
  | .flit stack mgEnd flit => Sys2Proof.Machine.execFlit stack mgEnd flit s
  | .flitResendTimeout stack mgEnd => Sys2Proof.Machine.execFlitResendTimeout stack mgEnd s
  | .descMessage bib msg => Sys2Proof.Machine.execDescMessage bib msg s
  | .compl bib msg => Sys2Proof.Machine.execCompl bib msg s
  | .summ bib msg => Sys2Proof.Machine.execSumm bib msg s
  | .statsMessage bib msg => Sys2Proof.Machine.execStatsMessage bib msg s
  | .norm bib msg => Sys2Proof.Machine.execNorm bib msg s
  | .progreq bib msg => Sys2Proof.Machine.execProgreq bib msg s
  | .progMessage bib msg => Sys2Proof.Machine.execProgMessage bib msg s
  | .scaleMessage bib toUnit msg => Sys2Proof.Machine.execScaleMessage bib toUnit msg s
  | .batonMessage bib toUnit msg => Sys2Proof.Machine.execBatonMessage bib toUnit msg s
  | .eventMessage bib msg => Sys2Proof.Machine.execEventMessage bib msg s
  | .mgmt bib msg => Sys2Proof.Machine.execMgmt bib msg s
  | .mgmtr bib msg => Sys2Proof.Machine.execMgmtr bib msg s
  | .groupOpen agent bib group => Sys2Proof.Machine.execGroupOpen agent bib group s
  | .groupClose agent bib group => Sys2Proof.Machine.execGroupClose agent bib group s
  | .hello bib peer msg => Sys2Proof.Machine.execHello bib peer msg s
  | .helloRepeat bib group => Sys2Proof.Machine.execHelloRepeat bib group s
  | .agree bib peer msg => Sys2Proof.Machine.execAgree bib peer msg s
  | .refuse bib peer msg => Sys2Proof.Machine.execRefuse bib peer msg s
  | .negotiationTimeout bib group => Sys2Proof.Machine.execNegotiationTimeout bib group s
  | .relayStart bib peer msg => Sys2Proof.Machine.execRelayStart bib peer msg s
  | .relayData bib peer msg => Sys2Proof.Machine.execRelayData bib peer msg s
  | .dack bib peer msg => Sys2Proof.Machine.execDack bib peer msg s
  | .relayNak bib peer msg => Sys2Proof.Machine.execRelayNak bib peer msg s
  | .relayAbort bib peer msg => Sys2Proof.Machine.execRelayAbort bib peer msg s
  | .resendTimeout bib group rank => Sys2Proof.Machine.execResendTimeout bib group rank s
  | .peerTimeout bib queue rank => Sys2Proof.Machine.execPeerTimeout bib queue rank s
  | .lossOfLink bib => Sys2Proof.Machine.execLossOfLink bib s
  | .residualExchange bib region => Sys2Proof.Machine.execResidualExchange bib region s
  | .registerWrite agent offset width value => Sys2Proof.Machine.execRegisterWrite agent offset width value s
  | .paceBusChange lap split phase => Sys2Proof.Machine.execPaceBusChange lap split phase s
  | .waitseqTimeout bib queue => Sys2Proof.Machine.execWaitseqTimeout bib queue s
  | .startMismatchTimeout bib group cseq => Sys2Proof.Machine.execStartMismatchTimeout bib group cseq s

end Sys2Proof.Machine
end

