-- ==== Sys2Proof/Safety.lean ====
section
/-!
DEFINITION. What claims speak of: a state whose memory or tables are in canonical form, a baton in step with the
announcement, a machine that has not stopped on MG_FATAL, what an access leaves of a state, which instruction a work command
works on, and one rounding of an exact value to binary32.
-/

namespace Sys2Proof

open Sys2Proof.Machine

/-- Memory lists its cells with strictly rising addresses, none of them zero. -/
def Safe (s : State) : Prop := Memory.wf s.mem = true

/-- The module fault line is not driven (R427). -/
def Running (s : State) : Prop := s.mg.fatal = false

/-- The management aperture serves writes: the complex is READY and MG runs (R394, R427). -/
def Serving (s : State) : Prop := s.mg.fatal = false ∧ s.mg.step = .ready

/-- The tables of units, queues, contexts, stream entries, tracked entries and watches list what differs from its reset value,
each number once and in rising order. -/
def TablesOk (s : State) : Prop :=
  twf {} s.units = true ∧ twf {} s.tables.queues = true ∧ twf {} s.tables.contexts = true ∧
    twf {} s.trackers.streams = true ∧ twf {} s.trackers.tracked = true ∧ twf {} s.trackers.watches = true

/-- BSTATE keeps step with the announcement (R198, R211): MG stages only while one stands and before its commit point, a baton
is armed only while one stands, and only the commit point of one that stands can have passed. -/
def BatonOk (s : State) : Prop :=
  (s.baton.st = .staging → s.pace.ann.isSome = true ∧ s.pace.passed = false) ∧
    (s.baton.st = .armed → s.pace.ann.isSome = true) ∧ (s.pace.passed = true → s.pace.ann.isSome = true)

/-- What an access leaves beside its effect: no latched high half (R11). -/
def unlatched (s : State) : State := { s with mg := { s.mg with latch := none } }

/-- The commands that are a write of the management aperture (R394, R400). -/
def isApertureWrite : Instr → Bool
  | .registerWrite .. | .batonRequest .. | .fallbackClear .. | .pmaskWrite .. | .formatTableWrite .. | .layerMapWrite ..
  | .trackedEntryWrite .. | .watchWrite .. | .indirectSelect .. | .streamRelease .. | .doorbell .. | .doorbellStage ..
  | .ctxSuspend .. | .ctxSuspendForce .. | .ctxResume .. | .ctxClose .. | .queueOpen .. | .queueResume .. | .queueClose ..
  | .unitClose .. | .unitCloseClear .. | .grant .. | .revoke .. | .update .. | .unitreset .. | .marshalCommandReserved ..
  | .evctlWrite .. | .retrain .. | .retrainUp .. | .restart .. | .groupOpen .. | .groupClose .. => true
  | _ => false

/-- Unit b answers and is not in reset, and i is its oldest unfinished instruction of queue q. -/
structure Works (s : State) (b : Bib) (q : BitVec 14) (i : Issued) : Prop where
  running : s.mg.fatal = false
  held : (s.unit b.toNat).held = true
  awake : (s.unit b.toNat).health.resetting = false
  first : (openOf (s.unit b.toNat) q.toNat).head? = some i

/-- The issued instruction of unit b that has i's queue and slot. -/
def placed (s : State) (b : Bib) (i : Issued) : Option Issued :=
  (s.unit b.toNat).issued.find? (fun j => decide (j.queue = i.queue) && decide (j.slot = i.slot))

/-- Memory byte a lies in a block that a destination field of i names, wherever its tag places it (R453). -/
def InBlocks (s : State) (i : Issued) (a : Nat) : Prop :=
  ∃ n, isDest i.op n = true ∧ isStream (i.field n) = true ∧ ∃ p ∈ entriesOf (i.field n) (i.desc n),
    ∃ tag k, blockKey (s.stream p.1) (i.desc n) p.2 tag = some k ∧ k ≤ a ∧ a < k + 16 + bodyBytes (i.desc n) p.2

/-- Memory byte a lies in an element of the plain destination of i (R228, R231). -/
def InElements (i : Issued) (a : Nat) : Prop :=
  isPlain (i.field 4) = true ∧ ∃ r k, r < i.height ∧ k < i.len ∧
    plainKey i.space (destAddr i r k) ≤ a ∧ a < plainKey i.space (destAddr i r k) + plainBits (fFmt (i.field 4)) / 8

/-- What the work of an instruction of unit b may change at most: memory, its unit, the slice whose scratchpad serves it (R354),
stream entries that it names, what the complex drives out, the sticky PERM_RANGE bits, the model's free-value counter and, of a
slice, the link. -/
def WorkFrame (s t : State) (b : Bib) (i : Issued) : Prop :=
  (∀ n, n ≠ b.toNat → (i.space = 0 ∨ n ≠ i.slice) → t.unit n = s.unit n) ∧
  (∀ n, n ∉ i.allEntries → t.stream n = s.stream n) ∧
  { t.trackers with streams := s.trackers.streams } = s.trackers ∧ t.tables.queues = s.tables.queues ∧
  (i.space = 0 → t.links = s.links) ∧
  { t with units := s.units, trackers := s.trackers, tables := s.tables, mem := s.mem, out := s.out, freeCtr := s.freeCtr, links := s.links } = s

/-- Relay b answers and takes the message m of a type, which fits its group gi, whose record is g (R370). -/
structure Hears (s : State) (b : Bib) (type : Nat) (m : List Byte) (gi : Nat) (g : Group) : Prop where
  running : s.mg.fatal = false
  relay : kindOf b.toNat = some .rl
  held : (s.unit b.toNat).held = true
  awake : (s.unit b.toNat).health.resetting = false
  trusted : (s.unit b.toNat).health.fenced = false
  formed : relayMsgOk m = true
  typed : rmType m = type
  fits : groupOf s b.toNat m = some (gi, g)
  recorded : s.group b.toNat gi = g
  version : type = 1 ∨ rmVer m = g.wireVer

/-- The acknowledgement of the numbered message m to its sender (R371). -/
def dackOf (b : Bib) (g : Group) (m : List Byte) : Out :=
  .relay b (tget 0 g.peers (rmSrank m))
    (relayMsg 0x11 g.wireVer g.rank.toNat (rmSrank m) g.gkey (msgWord m 2) (msgWord m 3) 0 0 0 [])

/-- Word w is x rounded once to binary32 under RNE with SAT 0 and FTZ 0 (R66, R70, R75): a zero x gives the zero of sign `neg`. -/
def Rounds32 (w : BitVec 32) (x : ℝ) (neg : Bool) : Prop :=
  (x = 0 → w = if neg then 0x80000000 else 0) ∧
  (0 < x → 2 ^ 128 - 2 ^ 103 ≤ x → w = 0x7F800000) ∧ (x < 0 → x ≤ -(2 ^ 128 - 2 ^ 103) → w = 0xFF800000) ∧
  (x ≠ 0 → |x| < 2 ^ 128 - 2 ^ 103 → (bitAt w 31 = true ↔ x < 0) ∧ ∃ r n, ofF32 w = .fin r n ∧
    ∀ v p m, ofF32 v = .fin p m → |(r : ℝ) - x| ≤ |(p : ℝ) - x| ∧
      (p ≠ r → |(r : ℝ) - x| = |(p : ℝ) - x| → w.toNat % 2 = 0))

end Sys2Proof
end

