-- ==== Sys2Proof/Certificates/Slice0/Obligations.lean ====
section
/-!
DEFINITION. The statements for the provers. Each says what the rules it names give a command, and what the command leaves
alone. `Running` and `Serving` are the conditions under which MG takes commands and accesses.
-/

open Sys2Proof Sys2Proof.Machine

/-- A step takes the command at the front of the queue and runs it on the state with the rest of the queue. -/
def Obligations.StepRunsFrontCommand : Prop :=
  ∀ (c : Instr) (rest : List Instr) (s : State), s.pending = c :: rest →
    Sys2Proof.Machine.step s = Sys2Proof.Machine.exec c { s with pending := rest }

/-- Every step keeps the memory in canonical form. -/
def Obligations.EveryStepKeepsMemoryCanonical : Prop :=
  ∀ s t : State, Safe s → Sys2Proof.Machine.step s = .next t → Safe t

/-- The state after reset has its memory and tables in canonical form, no baton under way, no command waiting and MG
running. -/
def Obligations.ResetStateIsCanonical : Prop :=
  Safe State.reset ∧ TablesOk State.reset ∧ BatonOk State.reset ∧ Running State.reset ∧ State.reset.pending = []

/-- What reset leaves: the values the spec gives for status, baton, trackers, contexts, queues, units and relay
registers (R395, R225, R171, R188, R206, R314, R323, R456). -/
def Obligations.ResetValues : Prop :=
  let s := State.reset
  (s.mg.step = .reset ∧ s.mg.mode = .none ∧ s.mg.vres = 0 ∧ s.mg.updbusy = false ∧ s.mg.updint = false) ∧
  (s.baton.fbudget = 8 ∧ s.baton.defermax = 4 ∧ s.baton.clean = 0x40 ∧ s.baton.epoch = 0 ∧ s.baton.st = .idle ∧
    s.baton.pending = false ∧ s.baton.pmask = 0 ∧ s.mg.drainus = 0x64) ∧
  (∀ n, (s.stream n).st = .free ∧ (s.tracked n).cfg.hlen = 0xF ∧ (s.tracked n).cfg.target = 0x43E0 ∧
    (s.tracked n).cfg.flagth = 0 ∧ (s.tracked n).cfg.clipth = 0xFFFFFFFF ∧ (s.tracked n).cfg.flushth = 0xFFFFFFFF ∧
    (s.tracked n).cfg.nanth = 0xFFFFFFFF ∧ (s.watch n).alpha = 2 ∧ (s.watch n).warm = 0x10 ∧ (s.watch n).ratio = 0x4000) ∧
  (∀ n, (s.queue n).st = .off ∧ (s.context n).swait = 0x3E8) ∧
  (∀ b, (s.unit b).health.fenced = false ∧ (s.unit b).epoch = 0 ∧ ((s.unit b).held = true ↔ b = 0) ∧
    (s.unit b).relay.rto = 0x14 ∧ (s.unit b).relay.pto = 0x3E8 ∧ (s.unit b).relay.hto = 0x2710)

/-- Every command answers a next state in every state, but a direct column access at or above 96 GiB, which faults
(R335, R337, R427). -/
def Obligations.CommandsAnswerNextButAboveTheStack : Prop :=
  ∀ (c : Instr) (s : State),
    (∃ t, exec c s = .next t) ∨
    (exec c s = .fault .stackAddress ∧ Running s ∧
      ∃ (stack : BitVec 4) (sb : BitVec 8) (col : Column), sidebandOk sb = true ∧ bitAt sb 0 = false ∧
        96 * 2 ^ 30 ≤ columnAddress (s.unit (0x089 + stack.toNat)).slice.addrmap col ∧
        ((∃ data, c = .viewWrite stack sb col data) ∨ c = .viewRead stack sb col ∨
          ∃ write data, c = .directAccess stack sb col write data))

/-- After MG_FATAL no command but POWER_ON_RESET and the clock step of the pacers has an effect (R427, R391, R267). -/
def Obligations.AfterMgFatalOnlyResetActs : Prop :=
  ∀ (c : Instr) (s : State), s.mg.fatal = true → c ≠ .powerOnReset → c ≠ .pacerStep → exec c s = .next s

/-- POWER_ON_RESET returns every unit and MG to reset and preserves the finish record, the image store and the key
storage (R391, R393, R411, R241). That the whole scratchpad, and not only the programs, reads zero is the model's choice
(log entry 4). -/
def Obligations.PowerOnResetPreserves : Prop :=
  ∀ s : State, ∃ t, exec .powerOnReset s = .next t ∧
    { t.storage with image := s.storage.image } = s.storage ∧
    ((s.mg.update = none ∨ s.mg.installed = true) → t.storage = s.storage) ∧ t.finish.slots = s.finish.slots ∧
    (∀ k, 2 ^ 32 ≤ k → readByte t.mem k = readByte s.mem k) ∧ (∀ k < 2 ^ 32, readByte t.mem k = 0) ∧
    t.mg = State.reset.mg ∧ t.baton = State.reset.baton ∧ t.tables = State.reset.tables ∧
    t.trackers = State.reset.trackers ∧ t.units = State.reset.units ∧ t.power = State.reset.power ∧ t.log = State.reset.log ∧
    (∀ k < 16, (t.linkEnd k true).st = .detect ∧ (t.linkEnd k false).st = .detect)

/-- BIB_ISSUE gives a unit its bib; without an answer the position is fenced ABSENT (R396, R397, R428). STEP behind a
BIB_ISSUE is the model's choice (log entries 14 and 33(r)). -/
def Obligations.BibsAreIssuedOrCountedAbsent : Prop :=
  ∀ (s : State) (b : Bib) (k : Kind) (gen : BitVec 8), Running s → (s.mg.step = .reset ∨ s.mg.step = .chain) →
    kindOf b.toNat = some k → k ≠ .mg → k ≠ .sl → (s.unit b.toNat).held = false → (s.unit b.toNat).health.fenced = false →
    (∃ t, exec (.bibIssue b k.code gen) s = .next t ∧ t.unit b.toNat = { s.unit b.toNat with held := true } ∧
      (∀ n, n ≠ b.toNat → t.unit n = s.unit n) ∧
      t.mg = { s.mg with step := if b = 0x088 then .selftest else .chain } ∧
      { t with units := s.units, mg := s.mg } = s) ∧
    (∀ code : BitVec 4, code ≠ k.code → ∃ t, exec (.bibIssue b code gen) s = .next t ∧ (t.unit b.toNat).held = true ∧
      (t.unit b.toNat).health.fenced = true ∧ (t.unit b.toNat).health.cause = 2) ∧
    ∃ t, exec (.bibAnswerTimeout b) s = .next t ∧ (t.unit b.toNat).held = false ∧
      (t.unit b.toNat).health.fenced = true ∧ (t.unit b.toNat).health.cause = 3

/-- HEAD_SCAN_DONE, BIST_COLLECT and LINKWAIT: the head record taken, the pacers seeded, failing units and absent slices
fenced (R393, R271, R397, R428, R436). STEP VERIFY at BIST_COLLECT is the model's choice (log entries 14 and 33(r)),
that a KIND fence stays its reading (log entry 33(t)). -/
def Obligations.StartUpReachesVerify : Prop :=
  ∀ s : State, Running s →
    (s.finish.scanned = false → s.mg.step ≠ .ready → ∃ t, exec .headScanDone s = .next t ∧ t.finish.scanned = true ∧
      t.finish.head = (findHead s.finish.slots).map (fun h => wordOf 13 h.1) ∧
      t.finish.rseq = (findHead s.finish.slots).elim 0 (fun h => slotSeq h.2) ∧ t.finish.slots = s.finish.slots ∧
      { t with finish := s.finish, mg := s.mg } = s) ∧
    ((s.mg.step = .chain ∨ s.mg.step = .selftest) → ∃ t, exec (.bistCollect []) s = .next t ∧ t.mg = { s.mg with step := .verify } ∧
      (∀ b ∈ pacerUnits, t.unit b = { s.unit b with pacer0 := (pacerSeed s.mg.pacroot).1, pacer1 := (pacerSeed s.mg.pacroot).2 }) ∧
      (∀ b, b ∉ pacerUnits → t.unit b = s.unit b) ∧ { t with units := s.units, mg := s.mg } = s) ∧
    (∀ b r, (s.mg.step = .chain ∨ s.mg.step = .selftest) → 0 < b → (s.unit b).held = true → (s.unit b).health.fenced = false →
      ∃ t, exec (.bistCollect [(b, r)]) s = .next t ∧ t.mg.step = .verify ∧ (t.unit b).health.fenced = true ∧
        (t.unit b).health.cause = 1 ∧ (t.unit b).health.epochFence = false) ∧
    (s.mg.linkwait = false → ∃ t, exec .linkwait s = .next t ∧ t.mg.linkwait = true ∧
      ∀ k < 16, if (s.linkEnd k true).st = .active then (t.unit (sliceBib k)).health.fenced = (s.unit (sliceBib k)).health.fenced
        else (t.unit (sliceBib k)).health.fenced = true ∧ (t.unit (sliceBib k)).held = false ∧
          ((s.unit (sliceBib k)).health.fenced = false ∨ (s.unit (sliceBib k)).health.cause ≠ 2 →
            (t.unit (sliceBib k)).health.cause = 3))

/-- VERIFY_DONE sets VRES; COACH_START enters MODE COACH, MINIMAL_MODE_ENTRY enters MODE MINIMAL, both make STEP READY
and put the START records up (R393, R405, R406, R407, R408, R418, R437). That the image is copied for VRES 0 and 6 is
the model's reading (log entry 32(h)). -/
def Obligations.VerificationDecidesTheMode : Prop :=
  ∀ s : State, Running s → s.mg.step = .verify →
    (s.mg.verified = false → let v := verifyImage s (storeHeader s) (storeBody s)
      ∃ t, exec .verifyDone s = .next t ∧
      t.mg = { s.mg with
        verified := true, vres := v, meas := if v = 0 then imageHash (storeHeader s) (storeBody s) else 0 } ∧
      { t with mg := s.mg, mem := s.mem, units := s.units } = s ∧
      (∀ b, { t.unit b with programs := (s.unit b).programs } = s.unit b) ∧
      (v ≠ 0 → v ≠ 6 → t.mem = s.mem ∧ t.units = s.units)) ∧
    (s.mg.verified = true → s.finish.scanned = true → s.mg.linkwait = true →
      (s.mg.vres = 0 → ∃ t, exec .coachStart s = .next t ∧
        t.mg = { s.mg with step := .ready, mode := .coach, tabgrant := 0x40004000400 } ∧
        gEn (t.grant 0) = true ∧ gPriv (t.grant 0) = true ∧ (t.queue 0).bib = 0x070 ∧ (t.queue 0).st = .run ∧
        t.power.demand = 1160 ∧ t.finish = (queueStart s .coach).finish ∧
        (s.finish.waiting.length ≤ 30 → t.finish.waiting.map Prod.fst = s.finish.waiting.map Prod.fst ++ [1, 2])) ∧
      (s.mg.vres ≠ 0 → ∃ t, exec .minimalModeEntry s = .next t ∧
        t.mg = { s.mg with step := .ready, mode := .minimal } ∧ t.power.demand = 1160 ∧
        t.finish = (queueStart s .minimal).finish))

/-- PACER_STEP advances every pacer of a converter and a stream engine by the recurrence of R267; PACER_RESEED loads a
waiting seed (R267, R270, R271). How far a use has drawn ahead of the present cycle is the model's own (log entry 16).
-/
def Obligations.PacersStepEveryCycleAndReseed : Prop :=
  ∀ s : State,
    (∃ t, exec .pacerStep s = .next t ∧ t.now = s.now + 1 ∧
      (∀ b, kindOf b = some .cv ∨ kindOf b = some .se → t.unit b =
        (let u := s.unit b
         let x := u.pacer0 ^^^ u.pacer1
         { u with
           pacer0 := rotl64 u.pacer0 24 ^^^ x ^^^ (x <<< 16), pacer1 := rotl64 x 37
           drawnRound := u.drawnRound - 1, drawnReal := u.drawnReal - 1, drawnBits := u.drawnBits - 1 })) ∧
      (∀ b, kindOf b ≠ some .cv → kindOf b ≠ some .se → t.unit b = s.unit b) ∧ { t with units := s.units, now := s.now } = s) ∧
    (∀ (b : Bib) (seed : BitVec 64), Running s → (s.unit b.toNat).reseed = some seed →
      (s.unit b.toNat).issued.all (fun i => i.finished.isSome || !drawsPacer i.op i.head i.prog) = true →
      exec (.pacerReseed b) s = .next (s.setUnit b.toNat { s.unit b.toNat with
        pacer0 := pacerFold (seed ^^^ 0x51D30A8B27E4C6F1), pacer1 := pacerFold (seed ^^^ 0xE92C47B10D853A6F), reseed := none
        drawnRound := 0, drawnReal := 0, drawnBits := 0 }))

/-- SPLIT_BOUNDARY takes SPLIT and PHASE, applies an acknowledged partition and keeps the lap (R195, R206, R202, R215,
R303). -/
def Obligations.SplitBoundaryTakesTheBus : Prop :=
  ∀ (s : State) (split : BitVec 8) (phase : BitVec 2), Running s →
    (∃ t, exec (.splitBoundary split phase) s = .next t ∧
      t.pace = { s.pace with split := split, phase := phase, busSplit := split, busPhase := phase } ∧
      t.baton.epoch = s.baton.epoch ∧ t.baton.st = s.baton.st ∧
      (∀ v c, s.baton.pmaskStaged = some v → s.baton.pmaskWait = [] → s.baton.pmaskLast = some c → c + 64 ≤ s.now →
        t.baton.pmask = v ∧ t.baton.pmaskStaged = none) ∧
      (∀ v c, s.baton.pmaskStaged = some v → s.baton.pmaskLast = some c → s.now < c + 64 →
        t.baton.pmask = s.baton.pmask ∧ t.baton.pmaskStaged = some v) ∧
      (s.baton.pmaskStaged = none ∨ s.baton.pmaskWait ≠ [] →
        t.baton.pmask = s.baton.pmask ∧ t.baton.pmaskStaged = s.baton.pmaskStaged)) ∧
    (s.baton.pmaskStaged = none → s.mg.waiting = [] → (∀ b, (s.unit b).health.syncedAt = none) →
      (∀ p ∈ s.tables.startList, bitAt p.2 0 = false ∨ bitsAt p.2 16 8 ≠ split) →
      (split ≠ 0 ∨ (s.mg.mode ≠ .minimal ∧ s.mg.mode ≠ .updating)) →
      (∀ b, ∀ i ∈ (s.unit b).issued, i.op ≠ .lapwait) →
      exec (.splitBoundary split phase) s = .next
        { s with pace := { s.pace with split := split, phase := phase, busSplit := split, busPhase := phase } })

/-- ANNOUNCEMENT stages a baton that is due, only announces one that is not, and is a pace fault where it comes early
(R198, R208, R210, R211, R418). -/
def Obligations.AnnouncementStagesADueBaton : Prop :=
  ∀ (s : State) (rpt : Bool), Running s → s.baton.st = .idle →
    (∀ c, s.pace.lastLb = some c → s.now < c + 4096 → ∃ t, exec (.announcement rpt) s = .next t ∧
      t.pace = { s.pace with ann := some (s.now, rpt), passed := false } ∧ t.baton = { s.baton with barred := true } ∧
      t.tables = s.tables ∧ t.trackers = s.trackers ∧ t.mem = s.mem ∧
      (rpt = false → s.farUnits = [] → t = announceDemand { s.postMg .paceFault 4 (bitsAt s.pace.busLap 0 32) 0 with
        pace := t.pace, baton := t.baton })) ∧
    ((∀ c, s.pace.lastLb = some c → c + 4096 ≤ s.now) →
    (∃ t, exec (.announcement rpt) s = .next t ∧ t.pace = { s.pace with ann := some (s.now, rpt), passed := false } ∧
      t.tables = s.tables ∧ t.trackers = s.trackers ∧ t.mem = s.mem ∧
      (batonDue s rpt = true →
        t.baton = { s.baton with
          barred := false, st := .staging, seq := nextSeq s.baton.seq, ftab := s.tables.ftStaged
          lmap := stagedMap s (widthsFor s rpt), widths := widthsFor s rpt
          taken := if rpt then reqLayers s else [], members := s.members, acks := [], pendingNext := false } ∧
        ∀ b ∈ s.members, isFar b = false →
          (t.unit b).ftabStaged = s.tables.ftStaged ∧ (t.unit b).lmapStaged = stagedMap s (widthsFor s rpt) ∧
          Out.baton true (wordOf 12 b) (batonMsg 0x20 (nextSeq s.baton.seq) (s.baton.epoch + 1) b
            (if rpt then s.pace.lap else s.pace.lap + 1) rpt false
            (digestOf b s.tables.ftStaged (stagedMap s (widthsFor s rpt)) (s.unit b).files.cbStaged)) ∈ t.out) ∧
      (batonDue s rpt = false → t.baton = { s.baton with barred := false })) ∧
    (batonDue s rpt = false → s.farUnits = [] →
      let quiet : State := { s with
        pace := { s.pace with ann := some (s.now, rpt), passed := false }, baton := { s.baton with barred := false } }
      (rpt = false → exec (.announcement rpt) s = .next (announceDemand quiet)) ∧
      (rpt = true → allWide s = false → exec (.announcement rpt) s = .next quiet)))

/-- ISSUE_HOLD_BEGIN holds the compute-die units while an announcement is outstanding, ISSUE_HOLD_END releases them;
ANNOUNCEMENT_LAPSE ends the announcement and defers an armed baton; PACE_BUS_CHANGE is only an event (R198, R200, R211,
R304, R330, R425). -/
def Obligations.HoldLapseAndBusChange : Prop :=
  (∀ s : State, Running s →
    exec .issueHoldBegin s = .next { s with pace := { s.pace with hold := s.pace.hold || s.pace.ann.isSome } } ∧
    exec .issueHoldEnd s = .next (answerClosing { s with pace := { s.pace with hold := false } } (fun b => !isFar b)) ∧
    ((∀ x ∈ s.tables.queues, x.2.st = .closing → isFar x.2.bib.toNat = true) →
      exec .issueHoldEnd s = .next { s with pace := { s.pace with hold := false } })) ∧
  (∀ s : State, Running s → s.pace.ann.isSome = true → s.pace.passed = true →
    ∃ t, exec .announcementLapse s = .next t ∧ t.pace = { s.pace with ann := none, passed := false, hold := false } ∧
      t.baton = { s.baton with
        st := if s.baton.st = .armed then .idle else s.baton.st, barred := false
        pendingNext := if s.baton.st = .armed then false else s.baton.pendingNext } ∧
      ((∀ x ∈ s.tables.queues, x.2.st = .closing → isFar x.2.bib.toNat = true) →
        t.tables = s.tables ∧ t.trackers = s.trackers ∧ t.mem = s.mem) ∧
      (s.baton.st = .armed → ∀ b ∈ s.members, isFar b = false → Out.baton true (wordOf 12 b)
        (batonMsg 0x24 s.baton.seq s.baton.epoch b (lapAfter s) (annRpt s) false 0) ∈ t.out)) ∧
  (∀ (s : State) (lap : BitVec 48) (split : BitVec 8) (phase : BitVec 2), Running s →
    (lap ≠ s.pace.busLap ∨ split ≠ s.pace.busSplit ∨ phase ≠ s.pace.busPhase) →
    exec (.paceBusChange lap split phase) s = .next
      { s.postMg .paceFault 5 (bitsAt lap 0 32) 0 with
        pace := { s.pace with busLap := lap, busSplit := split, busPhase := phase } })

/-- COMMIT_POINT commits a baton that every member acknowledged, withdraws one no longer due, and defers one that misses
an ACK; the deferral that reaches DEFERMAX fences the units whose ACK is missing (R209, R211, R213, R428, R429). -/
def Obligations.CommitPointArmsOrDefers : Prop :=
  (∀ s : State, Running s → s.pace.ann.isSome = true → s.pace.passed = false → s.baton.st = .staging → s.baton.barred = false →
    ∃ t, exec .commitPoint s = .next t ∧ t.pace = { s.pace with passed := true } ∧
      (batonDue s (annRpt s) = true → (∀ b ∈ s.members, b ∈ s.baton.members → b ∈ s.baton.acks) →
        t.baton = { s.baton with st := .armed } ∧ t.units = s.units ∧ t.tables = s.tables ∧ t.mem = s.mem ∧
        ∀ b ∈ s.members, b ∈ s.baton.acks → isFar b = false → Out.baton true (wordOf 12 b)
          (batonMsg 0x23 s.baton.seq (s.baton.epoch + 1) b (lapAfter s) (annRpt s) false 0) ∈ t.out) ∧
      (batonDue s (annRpt s) = true → (∃ b ∈ s.members, b ∈ s.baton.members ∧ b ∉ s.baton.acks) →
        (s.baton.defermax = 0 ∨ satAdd s.baton.defcnt 1 ≠ s.baton.defermax) →
        t.baton = { s.baton with st := .idle, defcnt := satAdd s.baton.defcnt 1 } ∧ t.tables = s.tables ∧ t.mem = s.mem ∧
        ∀ b ∈ s.members, isFar b = false → Out.baton true (wordOf 12 b)
          (batonMsg 0x24 s.baton.seq s.baton.epoch b (lapAfter s) (annRpt s) false 0) ∈ t.out) ∧
      (batonDue s (annRpt s) = false → t.baton = { s.baton with st := .idle } ∧ t.units = s.units ∧ t.tables = s.tables ∧ t.mem = s.mem)) ∧
  (∀ (s : State) (b : Nat), Running s → s.pace.ann.isSome = true → s.pace.passed = false → s.baton.st = .staging →
    s.baton.barred = false → batonDue s (annRpt s) = true → s.baton.defermax ≠ 0 → s.baton.defcnt ≠ s.baton.defermax →
    satAdd s.baton.defcnt 1 = s.baton.defermax → b ∈ s.members → b ∈ s.baton.members → b ∉ s.baton.acks →
    ∃ t, exec .commitPoint s = .next t ∧ (t.unit b).health.fenced = true ∧ (t.unit b).health.cause = 6)

/-- LAP_BOUNDARY takes the new lap, toggles the run parity, and commits an armed baton at the announced boundary (R195,
R197, R207, R211, R212). Which LB counts as announced where the sender drives no ticks is the model's choice (log entry
2). -/
def Obligations.LapBoundaryTurnsTheLap : Prop :=
  ∀ (s : State) (lap : BitVec 48) (phase : BitVec 2), Running s →
    ∃ t, exec (.lapBoundary lap phase) s = .next t ∧ t.pace.lap = lap ∧ t.pace.split = 0 ∧ t.pace.phase = phase ∧
      t.pace.parity = !s.pace.parity ∧ t.pace.lastLb = some s.now ∧
      t.baton.attempt = (if lap = s.pace.lap then satAdd s.baton.attempt 1 else 1) ∧
      (isAnnounced s = true → s.baton.st = .armed →
        t.baton.epoch = s.baton.epoch + 1 ∧ t.baton.commits = s.baton.commits + 1 ∧ t.baton.st = .confirming ∧
        t.tables.ftActive = s.baton.ftab) ∧
      (isAnnounced s = true →
        ∀ b ∈ allBibs, batonKind b = true → isFar b = false → (s.unit b).member = .armed →
          (t.unit b).epoch = (s.unit b).epoch + 1 ∧ (t.unit b).member = .steady) ∧
      (isAnnounced s = false → t.baton.epoch = s.baton.epoch ∧ t.tables.ftActive = s.tables.ftActive)

/-- CONFIRM_TIMEOUT ends the confirmation window; a member that sent no matching DONE is fenced as a false start. A
false start takes RESYNC and answers SYNCED; a matching SYNCED lets the next SB lift its fence, a third mismatch fences
it (R211, R212, R214, R215, R428). That trackers take RESYNC, and its SEQ, are the model's reading (log entries 33(d)
and 38(a)). -/
def Obligations.FalseStartsAreFencedAndResynchronised : Prop :=
  (∀ s : State, Running s → s.baton.st = .confirming →
    ∃ t, exec .confirmTimeout s = .next t ∧ t.baton.st = .idle ∧ t.baton.epoch = s.baton.epoch ∧
      (∀ b ∈ s.baton.members, b ≠ 0 → s.serving b = true → b ∉ s.baton.dones →
        (t.unit b).health.fenced = true ∧ (t.unit b).health.cause = 9 ∧ (t.unit b).health.epochFence = true ∧
        (t.unit b).member = .falseStart) ∧
      (∀ b, (b ∉ s.baton.members ∨ s.serving b = false ∨ b ∈ s.baton.dones) →
        (t.unit b).health.fenced = (s.unit b).health.fenced ∧ (t.unit b).member = (s.unit b).member) ∧
      ((∀ b ∈ s.baton.members, s.serving b = true → b ∈ s.baton.dones) → t.units = s.units ∧ t.mem = s.mem ∧ t.out = s.out)) ∧
  (∀ (s : State) (b : Bib) (m : BitVec 128), Running s → (s.unit b.toNat).held = true → b ≠ 0 → b.toNat < 0x099 →
    mBib m = b.toNat → batonMsgOk m = true →
    let u := s.unit b.toNat
    let d := digestOf b.toNat s.tables.ftActive (committedMap s) u.files.cbActive
    let books := if mSeq m ≠ 0 ∧ u.ackSeq = mSeq m then u.files.commitBooks else u.files
    let synced := if batonKind b.toNat then
      { u with ftab := s.tables.ftActive, lmap := committedMap s, files := books }.withEpoch (mEpoch m) else u
    let reply := batonMsg 0x29 (mSeq m) (mEpoch m) b.toNat (mLap m) false false
      (digestOf b.toNat s.tables.ftActive (committedMap s) books.cbActive)
    (mType m = 0x28 → u.member = .falseStart →
      (isFar b.toNat = false →
        exec (.resync b m) s = .next ((s.setUnit b.toNat synced).emit (.baton false (wordOf 12 b.toNat) reply))) ∧
      (isFar b.toNat = true → ∃ t, exec (.resync b m) s = .next t ∧
        { t with units := s.units, out := s.out, links := s.links } = s ∧ t.unit b.toNat = synced ∧
        (∀ n, n ≠ b.toNat → t.unit n = s.unit n) ∧
        Out.message false (wordOf 12 b.toNat) (linkMsg 0x18 0 0 0 (bytesLE 16 reply)) ∈ t.out)) ∧
    (mType m = 0x28 → u.member ≠ .falseStart → exec (.resync b m) s = .next s) ∧
    (mType m = 0x29 → u.health.fenced = true → u.health.epochFence = true →
      (mVal m = d → mEpoch m = s.baton.epoch → exec (.synced m) s = .next (s.setUnit b.toNat { u with
        health := { u.health with syncedAt := some s.now, mismatches := 0 } })) ∧
      ((mVal m ≠ d ∨ mEpoch m ≠ s.baton.epoch) → u.health.mismatches < 2 →
        ∃ t, exec (.synced m) s = .next t ∧ (t.unit b.toNat).health = { u.health with mismatches := u.health.mismatches + 1 } ∧
          { t with units := s.units, out := s.out, links := s.links } = s ∧
          (u.health.resetting = false → isFar b.toNat = false → Out.baton true (wordOf 12 b.toNat)
            (batonMsg 0x28 s.baton.boundarySeq s.baton.epoch b.toNat s.pace.lap false false
              (digestOf b.toNat s.tables.ftActive (committedMap s)
                (if s.baton.boundarySeq ≠ 0 ∧ u.ackSeq = s.baton.boundarySeq then u.files.commitBooks else u.files).cbActive)) ∈ t.out)) ∧
      ((mVal m ≠ d ∨ mEpoch m ≠ s.baton.epoch) → u.health.mismatches = 2 → u.health.cause = 9 →
        ∃ t, exec (.synced m) s = .next t ∧ (t.unit b.toNat).health.fenced = true ∧ (t.unit b.toNat).health.cause = 7 ∧
          (t.unit b.toNat).health.epochFence = false)) ∧
    (∀ (c : Nat) (split : BitVec 8) (phase : BitVec 2), u.health.syncedAt = some c → c < s.now →
      ∃ t, exec (.splitBoundary split phase) s = .next t ∧ (t.unit b.toNat).health.fenced = false ∧
        (t.unit b.toNat).member = .steady))

/-- A member digests and acknowledges STAGE, arms on COMMIT with the SEQ it acknowledged, and disarms on DEFER; MG
counts a current ACK with its own digest before the commit point, and leaves CONFIRMING with the last DONE (R210, R211,
R212). -/
def Obligations.MembersAndMgExchangeBatonMessages : Prop :=
  (∀ (s : State) (b : Bib) (m : BitVec 128), Running s → (s.unit b.toNat).held = true → batonKind b.toNat = true →
    batonMsgOk m = true → mBib m = b.toNat →
    let u := s.unit b.toNat
    (mType m = 0x20 → (u.member = .steady ∨ u.member = .staged) →
      ∃ t, exec (.stage b m) s = .next t ∧ { t with units := s.units, out := s.out, links := s.links } = s ∧
        t.unit b.toNat = { u with
          member := .staged, ackSeq := mSeq m
          files := { u.files with
            cbFixed := if hasBooks b.toNat then some (u.files.cbStaged, u.files.cbBadStaged) else none } } ∧
        (∀ n, n ≠ b.toNat → t.unit n = s.unit n) ∧
        (let reply := batonMsg 0x21 (mSeq m) u.epoch b.toNat (mLap m) (mRpt m) false
          (digestOf b.toNat u.ftabStaged u.lmapStaged u.files.cbStaged)
         (if isFar b.toNat then Out.message false (wordOf 12 b.toNat) (linkMsg 0x18 0 0 0 (bytesLE 16 reply))
          else Out.baton false (wordOf 12 b.toNat) reply) ∈ t.out)) ∧
    (mType m = 0x23 → u.member = .staged → u.ackSeq = mSeq m →
      exec (.commit b m) s = .next (s.setUnit b.toNat { u with member := .armed, armSeq := mSeq m })) ∧
    (mType m = 0x23 → (u.member ≠ .staged ∨ u.ackSeq ≠ mSeq m) → exec (.commit b m) s = .next s) ∧
    (mType m = 0x24 → (u.member = .staged ∨ u.member = .armed) →
      exec (.defer b m) s = .next (s.setUnit b.toNat { u with member := .steady })) ∧
    (mType m = 0x24 → (u.member = .steady ∨ u.member = .falseStart) → exec (.defer b m) s = .next s)) ∧
  (∀ (s : State) (m : BitVec 128), Running s → batonMsgOk m = true →
    (mType m = 0x21 → s.baton.st = .staging → s.pace.passed = false →
      (mSeq m = s.baton.seq → mVal m = stagedDigest s (mBib m) → mBib m ∈ s.members → mBib m ∉ s.baton.acks →
        exec (.ack m) s = .next { s with baton := { s.baton with acks := s.baton.acks ++ [mBib m] } }) ∧
      ((mSeq m ≠ s.baton.seq ∨ mVal m ≠ stagedDigest s (mBib m) ∨ mBib m ∉ s.members) → exec (.ack m) s = .next s)) ∧
    (mType m = 0x27 → s.baton.st = .confirming → mBib m ∈ s.baton.members →
      (mEpoch m = s.baton.epoch → (∃ b ∈ s.baton.members, b ≠ mBib m ∧ b ∉ s.baton.dones ∧ s.serving b = true) →
        exec (.doneReport m) s = .next { s with baton := { s.baton with dones := s.baton.dones ++ [mBib m] } }) ∧
      (mEpoch m = s.baton.epoch → (∀ b ∈ s.baton.members, b = mBib m ∨ b ∈ s.baton.dones ∨ s.serving b = false) →
        ∃ t, exec (.doneReport m) s = .next t ∧ t.baton.st = .idle ∧ { t with baton := s.baton } = s) ∧
      (mEpoch m ≠ s.baton.epoch → ∃ t, exec (.doneReport m) s = .next t ∧ t.baton.st = .confirming ∧
        t.baton.dones = s.baton.dones ∧ { t with baton := s.baton } = s)))

/-- ANNOUNCE starts a far unit's count, FAR_ISSUE_STOP stops its issue, BOUNDARY gives it the lap, LAPSE disarms it
(R197, R200, R212). That the stop ends with the first BOUNDARY or LAPSE at which the announcement no longer stands is
the model's choice (log entry 2). -/
def Obligations.FarUnitsFollowMg : Prop :=
  ∀ (s : State) (b : Bib) (m : BitVec 128), Running s → (s.unit b.toNat).held = true → isFar b.toNat = true →
    batonMsgOk m = true → mBib m = b.toNat →
    let u := s.unit b.toNat
    (mType m = 0x22 → exec (.announce b m) s = .next (s.setUnit b.toNat { u with
      farStopAt := some (s.now + ((mVal m).toNat - 264)), announced := mLap m, farAnn := s.pace.ann.map Prod.fst })) ∧
    (u.farStopAt.isSome = true → ∃ t, exec (.farIssueStop b) s = .next t ∧
      (t.unit b.toNat).farStopped = true ∧ (t.unit b.toNat).farStopAt = none ∧
      (kindOf b.toNat = some .rl → t = s.setUnit b.toNat { u with farStopped := true, farStopAt := none })) ∧
    (mType m = 0x25 → ∃ t, exec (.boundary b m) s = .next t ∧ (t.unit b.toNat).farLap = mLap m ∧
      (t.unit b.toNat).farPar = mPar m ∧
      (farResumes s u = true → (t.unit b.toNat).farStopped = false ∧ (t.unit b.toNat).farStopAt = none) ∧
      (farResumes s u = false → (t.unit b.toNat).farStopped = u.farStopped ∧ (t.unit b.toNat).farStopAt = u.farStopAt) ∧
      ((∀ x ∈ s.tables.queues, x.2.st = .closing → x.2.bib ≠ b) →
        t.mem = s.mem ∧ t.tables = s.tables ∧ t.trackers = s.trackers) ∧
      (u.member = .armed → mSeq m ≠ 0 → u.armSeq = mSeq m → mEpoch m = u.epoch + 1 →
        (t.unit b.toNat).member = .steady ∧ (t.unit b.toNat).epoch = u.epoch + 1 ∧ (t.unit b.toNat).ftab = u.ftabStaged ∧
          (t.unit b.toNat).lmap = u.lmapStaged) ∧
      (u.member ≠ .armed → u.member ≠ .falseStart → mEpoch m = u.epoch →
        (t.unit b.toNat).member = u.member ∧ (t.unit b.toNat).epoch = u.epoch) ∧
      (u.member ≠ .armed → mEpoch m ≠ u.epoch →
        (t.unit b.toNat).member = .falseStart ∧ (t.unit b.toNat).epoch = u.epoch)) ∧
    (mType m = 0x26 →
      let t := s.setUnit b.toNat { u.resumeFar s with member := if u.member = .armed then .steady else u.member }
      exec (.lapse b m) s = .next (answerClosing t (fun n => n == b.toNat)) ∧
      ((∀ x ∈ s.tables.queues, x.2.st = .closing → x.2.bib ≠ b) → exec (.lapse b m) s = .next t))

/-- BATON_REQUEST sets the pending request, FALLBACK_CLEAR clears every REQ bit, PMASK_WRITE stages the partition and
sends it to every unfenced converter; PMASK_ACK takes one acknowledgement (R206, R208, R224, R400). With no converter to
await, the 64 cycles count from the write (log entry 46). -/
def Obligations.BatonAndPartitionRequests : Prop :=
  (∀ (s : State) (a : Agent), Serving s →
    (profileAgent s a = true →
      exec (.batonRequest a) s = .next (unlatched { s with
        baton := { s.baton with
          pending := true, pendingNext := if s.baton.st = .armed then true else s.baton.pendingNext } }) ∧
      ∃ t, exec (.fallbackClear a) s = .next t ∧ (∀ l < 4096, t.layer l = s.layer l &&& ~~~0x40000000#32) ∧
        t.tables.lmStaged = s.tables.lmStaged ∧ t.tables.ftActive = s.tables.ftActive ∧ t.pace = s.pace ∧
        t.trackers = s.trackers ∧ t.mem = s.mem) ∧
    (profileAgent s a = false →
      exec (.batonRequest a) s = .next (unlatched (accessEvent s a 0x18)) ∧
      exec (.fallbackClear a) s = .next (unlatched (accessEvent s a 0x18)))) ∧
  (∀ s : State, Serving s →
    (∀ (a : Agent) (v : BitVec 64), profileAgent s a = true →
      let cvs := (bibsOf .cv).filter (fun b => s.serving b)
      exec (.pmaskWrite a v) s = .next (unlatched { s with
        baton := { s.baton with
          pmaskStaged := some v, pmaskWait := cvs, pmaskLast := if cvs = [] then some s.now else none }
        out := s.out ++ cvs.map (fun b => Out.pmask (wordOf 12 b) v) })) ∧
    (∀ b : Bib, b.toNat ∈ s.baton.pmaskWait →
      exec (.pmaskAck b) s = .next { s with baton := { s.baton with
        pmaskWait := s.baton.pmaskWait.erase b.toNat
        pmaskLast := if s.baton.pmaskWait.erase b.toNat = [] then some s.now else s.baton.pmaskLast } }))

/-- FORMAT_TABLE_WRITE and LAYER_MAP_WRITE change the staged copy alone; a write while a baton is staging makes MG stage
again (R57, R204, R209, R211, R448). -/
def Obligations.TableWritesReachTheStagedCopy : Prop :=
  ∀ (s : State) (a : Agent) (v : BitVec 32), Serving s →
    let late : Prop := ∃ p, s.pace.ann = some p ∧ (p.1 + 4096) / 9 ≤ s.now / 9
    (∀ (c : BitVec 10) (i : BitVec 6), mayWrite s a c.toNat = true →
      let new := tset 0 s.tables.ftStaged (64 * c.toNat + i.toNat) v
      (s.baton.st ≠ .staging ∨ s.pace.passed = true ∨ late →
        exec (.formatTableWrite a c i v) s = .next (unlatched { s with tables := { s.tables with ftStaged := new } })) ∧
      (s.baton.st = .staging → s.pace.passed = false → ¬ late → ∃ t, exec (.formatTableWrite a c i v) s = .next t ∧
        t.tables = { s.tables with ftStaged := new } ∧ t.baton.seq = nextSeq s.baton.seq ∧ t.baton.ftab = new ∧
        t.baton.acks = [] ∧ t.baton.st = .staging ∧ t.mem = s.mem ∧ t.trackers = s.trackers)) ∧
    (∀ l : BitVec 12, s.profileCtx.isSome = true → profileAgent s a = true →
      let new := tset 0 s.tables.lmStaged l.toNat (v &&& 0x01FFFFFF)
      (s.baton.st ≠ .staging ∨ s.pace.passed = true ∨ late →
        exec (.layerMapWrite a l v) s = .next (unlatched { s with tables := { s.tables with lmStaged := new } })) ∧
      (s.baton.st = .staging → s.pace.passed = false → ¬ late → ∃ t, exec (.layerMapWrite a l v) s = .next t ∧
        t.tables = { s.tables with lmStaged := new } ∧ t.baton.seq = nextSeq s.baton.seq ∧ t.baton.acks = [] ∧
        t.baton.st = .staging ∧ t.mem = s.mem ∧ t.trackers = s.trackers))

/-- ISSUE_NEXT on a compute-die unit issues the next instruction of the queue that wins, or completes it at issue (R304,
R305, R317, R318). -/
def Obligations.IssueTakesTheNextInstruction : Prop :=
  ∀ (s : State) (b : Bib) (q : Nat), Running s → isFar b.toNat = false → mayIssue s b.toNat = true →
    arbitrate s b.toNat = some q → (s.queue q).pre = false → waitsAtIssue s (nextOffer s b.toNat q) = false →
    let x := s.queue q
    let o := nextOffer s b.toNat q
    let len := wordOf 16 o.slots.length
    (issueStatus s o = none → ∃ t j, exec (.issueNext b) s = .next t ∧
      (t.unit b.toNat).issued = (s.unit b.toNat).issued ++ [j] ∧
      (j.queue = q ∧ j.slot = x.next ∧ j.slots = o.slots ∧ j.ctx = o.ctx ∧ j.epoch = (s.unit b.toNat).epoch ∧
        j.lap = s.pace.lap ∧ j.pos = 0 ∧ j.finished = none) ∧
      t.queue q = { x with next := x.next + len, owed := x.owed + 1 } ∧ (∀ p, p ≠ q → t.queue p = s.queue p) ∧
      (∀ n, n ≠ b.toNat → t.unit n = s.unit n) ∧ t.mem = s.mem ∧
      (∀ n ∈ openedBy o, (t.stream n).st = .opened ∧ (t.stream n).ctx = wordOf 10 o.ctx ∧
        (t.stream n).wtag = (t.stream n).rtag) ∧
      (∀ n, n ∉ openedBy o → t.stream n = s.stream n)) ∧
    (∀ st, issueStatus s o = some st → (∀ i ∈ (s.unit b.toNat).issued, i.queue ≠ q) →
      let halts := st.halting && x.halte
      let bs := recordBytes o.head b.toNat st 0xFFFFFFFF 0 {} s.pace.lap s.pace.parity
      let posted := if o.posts && s.mailboxOk o.ctx then writeSlot s o.ctx (hSumslot o.head)
        (summaryBytes 0 st (kindPosted (mkIssued s o x.next)) 0 0 (wordOf 16 q)) else s
      ∃ t, exec (.issueNext b) s = .next t ∧ (t.unit b.toNat).issued = (s.unit b.toNat).issued ∧
        t.queue q = { x with
          next := x.next + len, head := x.head + len, seq := x.seq + 1, ctail := x.ctail + 1
          st := if halts then .halted else x.st, hstat := if halts then st.byte else x.hstat } ∧
        (∀ p, p ≠ q → t.queue p = s.queue p) ∧ t.trackers = s.trackers ∧
        t.mem = writeBytes posted.mem (spadKey (x.cbase.toNat + 48 * (x.ctail.toNat % 2 ^ (x.csize.toNat + 4))))
          (bs.take 4 ++ bytesLE 2 (x.seq + 1) ++ bs.drop 6))

/-- PREEMPT parks an instruction with its progress in its queue, RESUME_PREEMPTED continues it from PROG or ends it
ABORTED (R319, R325, R326, R328). What a forced stop takes back, and when the choice of R319 is made, are the model's
reading (log entries 41(b), 41(j) and 47(d)). -/
def Obligations.PreemptionAndResumption : Prop :=
  ∀ (s : State) (b : Bib), Running s →
    (∀ i, preemptTarget s b.toNat = some i → unitActs s b.toNat = true → forcible s b.toNat i = false → i.paused = false →
      (s.queue i.queue).bib = b → (∀ a ∈ (s.unit b.toNat).inbox, a.queue ≠ i.queue) →
      let x := s.queue i.queue
      ∃ t, exec (.preempt b) s = .next t ∧
        t.unit b.toNat = (s.unit b.toNat).without i ∧
        t.queue i.queue = { x with
          parked := some i, pre := true, prog := (progOf i).1, proghi := (progOf i).2, dcrc := crc32c (slotBytes i.slots)
          bci := i.bci, owed := x.owed - 1, kept := some (crc32c (slotBytes i.slots), i.seed, i.lap)
          st := if x.st = .suspending ∧ x.owed ≤ 1 then .suspended else x.st } ∧
        (∀ p, p ≠ i.queue → t.queue p = s.queue p) ∧ (∀ n, n ≠ b.toNat → t.unit n = s.unit n) ∧
        { t with units := s.units, tables := s.tables } = s) ∧
    (∀ i, preemptTarget s b.toNat = some i → unitActs s b.toNat = true → forcible s b.toNat i = true →
      oldestIssued (s.unit b.toNat) i.queue = some i → ∃ t, exec (.preempt b) s = .next t ∧ (∀ j ∈ (t.unit b.toNat).issued, j.queue ≠ i.queue) ∧
        (t.queue i.queue).parked = some i.restarted ∧ (t.queue i.queue).pre = true ∧ (t.queue i.queue).prog = 0 ∧
        (t.queue i.queue).proghi = 0 ∧ t.mem = s.mem) ∧
    (∀ i, preemptTarget s b.toNat = some i → unitActs s b.toNat = true → forcible s b.toNat i = true →
      oldestIssued (s.unit b.toNat) i.queue ≠ some i →
      (s.unit b.toNat).issued.filter (fun j => decide (j.queue = i.queue) && decide (j.slot = i.slot)) = [i] →
      ∃ t, exec (.preempt b) s = .next t ∧ placed t b i = some { i.restarted with paused := true } ∧
        (t.queue i.queue).parked = (s.queue i.queue).parked ∧ (t.queue i.queue).pre = (s.queue i.queue).pre ∧
        (t.queue i.queue).st = (s.queue i.queue).st ∧ t.mem = s.mem) ∧
    (∀ i, preemptTarget s b.toNat = some i → unitActs s b.toNat = true → i.paused = true →
      ∃ t, exec (.preempt b) s = .next t ∧ (t.unit b.toNat).issued = ((s.unit b.toNat).without i).issued ∧
        (t.queue i.queue).parked = some { i with paused := false } ∧ (t.queue i.queue).pre = true ∧
        (t.queue i.queue).prog = 0 ∧ (t.queue i.queue).proghi = 0 ∧ t.mem = s.mem) ∧
    (preemptTarget s b.toNat = none → unitActs s b.toNat = true →
      (∀ i, preemptWish s b.toNat = some i → ∃ t, exec (.preempt b) s = .next t ∧
        t = s.setUnit b.toNat { s.unit b.toNat with chosen := some (i.queue, i.slot) } ∧
        queueReady t b.toNat i.queue = false) ∧
      (preemptWish s b.toNat = none → exec (.preempt b) s = .next s)) ∧
    (∀ q, mayIssue s b.toNat = true → arbitrate s b.toNat = some q → (s.queue q).pre = true →
      (s.unit b.toNat).reseed = none →
      let x := s.queue q
      let i := preemptedInstr s b.toNat q
      (resumeStatus s q i = none → ∃ t j, exec (.resumePreempted b) s = .next t ∧
        (t.unit b.toNat).issued = (s.unit b.toNat).issued ++ [j] ∧
        (j.slots = i.slots ∧ j.queue = i.queue ∧ j.slot = x.head ∧ j.epoch = i.epoch ∧ posOf i x.prog.toNat = some j.pos) ∧
        t.queue q = { x with
          pre := false, parked := none, next := x.head + wordOf 16 i.slots.length, owed := x.owed + 1 } ∧
        t.mem = s.mem ∧ t.trackers = s.trackers) ∧
      (crc32c (slotBytes (ringInstr s x x.head)) ≠ x.dcrc → ∃ t, exec (.resumePreempted b) s = .next t ∧ (t.queue q).pre = false ∧
        (∃ j ∈ (t.unit b.toNat).issued, j.slot = x.head ∧ j.noClose = true ∧
          (j.finished = some .aborted ∨ j.stopAs = some .aborted)) ∧
        ∀ n ∈ i.allEntries, (t.stream n).st = .free ∨ (t.stream n).st = .halted ∨ (t.stream n).st = .hclose))

/-- FENCE QUEUE, FENCE WAITSEQ and LAPWAIT end OK when what they wait for has come, and stay as they are before;
STREAM_WAIT_TIMEOUT ends a reader that has waited beyond its limit with TIMEOUT (R95, R99, R302, R303, R309). -/
def Obligations.WaitingInstructionsEnd : Prop :=
  (∀ (s : State) (b : Bib) (q : BitVec 14) (i : Issued), Works s b q i →
    let ends (st : Status) : State := setIssued s b.toNat { i with finished := some st }
    let reached := ((s.queue (bWqueue i.body)).seq - bWseq i.body).toNat < 32768
    (i.op = .fenceQueue →
      ((s.unit b.toNat).issued.find? (fun j => decide (j.queue = q.toNat)) = some i →
        (isFar b.toNat = true → (s.queue q.toNat).head = i.slot) →
        exec (.fenceQueue b q) s = .next (ends .ok)) ∧
      ((∃ j, (s.unit b.toNat).issued.find? (fun j => decide (j.queue = q.toNat)) = some j ∧ j.slot ≠ i.slot) ∨
        (isFar b.toNat = true ∧ (s.queue q.toNat).head ≠ i.slot) →
        exec (.fenceQueue b q) s = .next s)) ∧
    (i.op = .fenceWaitseq →
      (reached → exec (.fenceWaitseq b q) s = .next (ends .ok)) ∧
      (¬ reached → exec (.waitseqTimeout b q) s = .next (ends .timeout)) ∧
      (¬ reached → exec (.fenceWaitseq b q) s = .next s) ∧
      (reached → exec (.waitseqTimeout b q) s = .next s)) ∧
    (i.op = .lapwait →
      (lapwaitMet s b.toNat i = true → exec (.lapwait b q) s = .next (ends .ok)) ∧
      (lapwaitMet s b.toNat i = false → exec (.lapwait b q) s = .next s))) ∧
  (∀ (s : State) (b : Bib) (q : BitVec 14) (i : Issued), Running s → unitActs s b.toNat = true →
    (openOf (s.unit b.toNat) q.toNat).head? = some i → waitsOnSource s b.toNat i = true →
    ∃ t j, exec (.streamWaitTimeout b q) s = .next t ∧ placed t b i = some j ∧
      (i.failed = none → (j.finished = some .timeout ∨ j.stopAs = some .timeout) ∧ j.failed = some (.timeout, waitPos i)) ∧
      (∀ p, i.failed = some p → (j.finished = some p.1 ∨ j.stopAs = some p.1) ∧ j.failed = some p) ∧
      t.tables.queues = s.tables.queues ∧ (∀ n, n ≠ b.toNat → (i.space = 0 ∨ n ≠ i.slice) → t.unit n = s.unit n))

/-- INSTRUCTION_COMPLETE of the only issued instruction of a running queue writes its record and takes it off its unit
(R173, R310, R311, R320, R307). -/
def Obligations.CompletionWritesTheRecord : Prop :=
  ∀ (s : State) (b : Bib) (q : BitVec 14) (i : Issued) (st : Status), Running s → isFar b.toNat = false → i.space = 0 →
    scalesOut s b.toNat i = false →
    (s.unit b.toNat).issued.filter (fun j => decide (j.queue = q.toNat)) = [i] → i.finished = some st → i.ended = none →
    i.atIssue = false → (s.queue q.toNat).st = .run →
    let x := s.queue q.toNat
    let halts := st.halting && x.halte
    let void := st = .wrongState
    let bs := if void then recordBytes i.head b.toNat st 0xFFFFFFFF 0 {} i.lap s.pace.parity
      else recordBytes i.head (recordBib b.toNat i) st (i.failed.elim 0xFFFFFFFF (fun p => wordOf 32 p.2)) (wordOf 32 i.done)
      i.counts i.lap s.pace.parity
    let posted := if i.postsSummary then writeSlot s i.ctx (hSumslot i.head) (summaryOf s { i with atIssue := decide void } st) else s
    let c : Counts := if st = .ok then i.counts else {}
    ∃ t, exec (.instructionComplete b q) s = .next t ∧
      t.queue q.toNat = { x with
        head := x.head + wordOf 16 i.slots.length, seq := x.seq + 1, ctail := x.ctail + 1, owed := x.owed - 1
        st := if halts then .halted else .run, hstat := if halts then st.byte else x.hstat } ∧
      (∀ p, p ≠ q.toNat → t.queue p = s.queue p) ∧
      t.mem = writeBytes posted.mem (spadKey (x.cbase.toNat + 48 * (x.ctail.toNat % 2 ^ (x.csize.toNat + 4))))
        (bs.take 4 ++ bytesLE 2 (x.seq + 1) ++ bs.drop 6) ∧
      (t.unit b.toNat).issued = (s.unit b.toNat).issued.filter (fun j => decide (j.queue ≠ q.toNat)) ∧
      (t.unit b.toNat).instr = satAdd (s.unit b.toNat).instr 1 ∧ (∀ n, n ≠ b.toNat → t.unit n = s.unit n) ∧
      t.trackers.reports = s.trackers.reports ++
        (if !decide void && reportsFrom b.toNat && !(s.unit b.toNat).health.fenced && hTen i.head then
          [{ entry := wordOf 14 (hTrk i.head), lap8 := bitsAt s.pace.lap 0 8, par := s.pace.parity
             data := { amax := i.amax, capmax := i.capmax, nan := c.nan, clip := c.clip, flush := c.flush
                       overflow := c.ovfl, flagged := c.flagged, otiles := c.otiles } }] else [])

/-- DOORBELL sets TAIL, of a CLOSING queue too, DOORBELL_STAGE sets STAIL; an invalid or forbidden doorbell sets DBERR
and posts DOORBELL (R316, R330, R400). -/
def Obligations.DoorbellsMoveTheTail : Prop :=
  ∀ (s : State) (a : Agent) (q : BitVec 14) (tail : BitVec 16), Serving s →
    let x := s.queue q.toNat
    let discarded : State := (s.setQueue q.toNat { x with dberr := true, dberrAt := s.now }).post 0 0 .doorbell (s.ownerOf q.toNat)
      (wordOf 32 q.toNat) (tail.setWidth 32) (a.code.setWidth 32)
    (mayRing s a q.toNat = true → x.st ≠ .off → x.st ≠ .closing → bellValid x tail = true →
      exec (.doorbell a q tail) s = .next (unlatched (s.setQueue q.toNat { x with tail := tail }))) ∧
    (mayRing s a q.toNat = true → x.st = .closing → bellValid x tail = true →
      let t := s.setQueue q.toNat { x with tail := tail }
      exec (.doorbell a q tail) s = .next (unlatched (closeUnissued t q.toNat)) ∧
      (x.owed ≠ 0 ∨ x.pre = true ∨ nextVisible s { x with tail := tail } = false →
        exec (.doorbell a q tail) s = .next (unlatched t)) ∧
      (∀ n, n ≠ q.toNat → (closeUnissued t q.toNat).queue n = s.queue n) ∧ ((closeUnissued t q.toNat).queue q.toNat).tail = tail ∧
      (closeUnissued t q.toNat).units = s.units) ∧
    (mayRing s a q.toNat = true → x.st ≠ .off →
      exec (.doorbellStage a q tail) s = .next (unlatched (s.setQueue q.toNat { x with stail := tail }))) ∧
    ((mayRing s a q.toNat = false ∨ x.st = .off ∨ bellValid x tail = false) →
      exec (.doorbell a q tail) s = .next (unlatched discarded)) ∧
    ((mayRing s a q.toNat = false ∨ x.st = .off) →
      exec (.doorbellStage a q tail) s = .next (unlatched discarded))

/-- QUEUE_OPEN, QUEUE_RESUME and QUEUE_CLOSE move STATE as R321 says; DRAIN_TIMEOUT aborts what is left; QUEUE_CLOSED
ends in OFF (R320, R321, R330). The CSTATE that follows is the model's reading (log entry 41(c)). -/
def Obligations.QueueCommandsMoveItsState : Prop :=
  ∀ (s : State) (a : Agent) (q : BitVec 14), Serving s → mayRing s a q.toNat = true →
    let x := s.queue q.toNat
    let u := s.unit x.bib.toNat
    (x.st = .off → (s.ownerOf q.toNat).isSome = true → notCoachs s q.toNat x.bib = true → mustMove s x = false →
      exec (.queueOpen a q) s = .next (unlatched (settleOwner (s.setQueue q.toNat
        { x with st := .run, seq := 0, dberr := false, next := x.head, owed := 0 }) q.toNat))) ∧
    (x.st = .halted → exec (.queueResume a q) s = .next (unlatched (settleOwner (s.setQueue q.toNat { x with st := .run }) q.toNat))) ∧
    (x.st ≠ .halted → exec (.queueResume a q) s = .next (unlatched s)) ∧
    (x.st ≠ .off → x.st ≠ .closing →
      (∃ t, exec (.queueClose a q) s = .next t ∧ (t.queue q.toNat).st = .closing ∧ (t.queue q.toNat).pre = false) ∧
      (x.pre = false → (∀ e ∈ u.inbox, e.queue ≠ q.toNat) → (∀ i ∈ u.issued, i.queue = q.toNat → i.op.holdsQueue = false ∧ i.paused = false) →
        (x.owed ≠ 0 ∨ nextVisible s x = false) →
        exec (.queueClose a q) s = .next (unlatched (settleOwner (s.setQueue q.toNat { x with st := .closing }) q.toNat)))) ∧
    (∀ i, x.st = .closing → issuedOf s q.toNat = [i] →
      ∃ t j, exec (.drainTimeout q) s = .next t ∧ placed t x.bib i = some j ∧ j.noClose = true ∧
        (j.finished = some .aborted ∨ j.stopAs = some .aborted)) ∧
    (x.st = .closing → x.owed = 0 → x.pre = false → nextVisible s x = false →
      ∃ t, exec (.queueClosed q) s = .next t ∧ t.queue q.toNat = { x with st := .off, head := x.tail, next := x.tail } ∧
        (∀ p, p ≠ q.toNat → t.queue p = s.queue p) ∧ { t with tables := s.tables } = s) ∧
    (x.owed ≠ 0 ∨ closeHeld s x = true → exec (.queueClosed q) s = .next s)

/-- CTX_SUSPEND, CTX_SUSPEND_FORCE, CTX_RESUME and CTX_CLOSE act on every queue of the context (R321, R323, R327, R328).
The CSTATE that follows RESUME is the model's reading (log entry 41(c)). -/
def Obligations.ContextCommandsMoveEveryQueue : Prop :=
  ∀ (s : State) (a : Agent) (c : BitVec 10), Serving s → mayWrite s a c.toNat = true → gEn (s.grant c.toNat) = true →
    (∀ n, ∀ e ∈ (s.unit n).inbox, inRange (gQueues (s.grant c.toNat)) e.queue = false) →
    let cs := (s.context c.toNat).cstate
    let mine (q : Nat) : Prop := inRange (gQueues (s.grant c.toNat)) q = true
    let rests (x : Queue) : Bool := x.st == .suspended || x.st == .halted || x.st == .off
    (cs ≠ 3 → ∃ t, exec (.ctxSuspend a c) s = .next t ∧ t.mem = s.mem ∧ t.units = s.units ∧
      (∀ q, mine q → (t.queue q).st = (match (s.queue q).st with
        | .run | .suspending => if (s.queue q).owed = 0 then .suspended else .suspending
        | x => x)) ∧
      (∀ q, ¬ mine q → t.queue q = s.queue q) ∧
      (t.context c.toNat).cstate = if queuesAll t c.toNat rests then 2 else 1) ∧
    (∀ q i, cs ≠ 3 → mine q → (s.queue q).st = .run → (s.queue q).owed ≠ 0 →
      let u := s.unit (s.queue q).bib.toNat
      oldestIssued u q = some i → i.ctx = c.toNat → (i.op = .reduce ∨ i.op = .stats) →
      i.finished = none → i.stopAs = none → i.paused = false → (∀ n ∈ i.entries false, (s.stream n).rest = true) →
      (∀ n, ∀ j ∈ (s.unit n).issued, mine j.queue → j.queue ≠ q → j.op ≠ .reduce ∧ j.op ≠ .stats) →
      unitActs s (s.queue q).bib.toNat = true →
      ∃ t, exec (.ctxSuspendForce a c) s = .next t ∧
        (t.unit (s.queue q).bib.toNat).issued = u.issued.filter (fun j => decide (j.queue ≠ q)) ∧
        (t.queue q).st = (if (s.queue q).owed ≤ (u.issued.filter (fun j => decide (j.queue = q))).length then .suspended
          else .suspending) ∧ (t.queue q).pre = true ∧ (t.queue q).prog = 0 ∧
        (t.queue q).parked = some i.restarted ∧ t.mem = s.mem) ∧
    (∃ t, exec (.ctxResume a c) s = .next t ∧ t.mem = s.mem ∧
      (∀ q, mine q → (t.queue q).st = if (s.queue q).st = .suspended then .run else (s.queue q).st) ∧
      (cs = 1 ∨ cs = 2 → (t.context c.toNat).cstate =
        if (queuesOfContext s c.toNat).any (fun q => (s.queue q).st == .suspending) then 1 else 0)) ∧
    (∃ t, exec (.ctxClose a c) s = .next t ∧
      (∀ q, mine q → (t.queue q).st = if (s.queue q).st = .off then .off else .closing) ∧
      (t.context c.toNat).cstate = if queuesAll t c.toNat (fun x => x.st == .off) then 0 else 3)

/-- UNIT_CLOSE closes every queue bound to the unit, UNIT_CLOSE_CLEAR takes effect while the unit is quiet; to a far
unit the write is relayed (R400, R439, R450). -/
def Obligations.UnitCloseClosesItsQueues : Prop :=
  ∀ (s : State) (a : Agent) (b : Bib), Serving s →
    let u := s.unit b.toNat
    (a.manages = true → b ≠ 0 → (kindOf b.toNat).isSome = true → u.held = true → isFar b.toNat = false →
      (u.closing = false → ∃ t, exec (.unitClose a b) s = .next t ∧ (t.unit b.toNat).closing = true ∧
        ∀ q, (s.queue q).bib = b → (t.queue q).st = if (s.queue q).st = .off then .off else .closing) ∧
      (u.closing = true → exec (.unitClose a b) s = .next (unlatched s)) ∧
      (unitQuiet s b.toNat = true →
        exec (.unitCloseClear a b) s = .next (unlatched (s.setUnit b.toNat { u with closing := false }))) ∧
      (unitQuiet s b.toNat = false → exec (.unitCloseClear a b) s = .next (unlatched s))) ∧
    (a.manages = true → u.held = true → isFar b.toNat = true →
      exec (.unitClose a b) s = .next (unlatched (relayPlain s b.toNat 8 1)) ∧
      exec (.unitCloseClear a b) s = .next (unlatched (relayPlain s b.toNat 8 0))) ∧
    (a.manages = false →
      exec (.unitClose a b) s = .next (unlatched (accessEvent s a (unitOffset b.toNat 8))) ∧
      exec (.unitCloseClear a b) s = .next (unlatched (accessEvent s a (unitOffset b.toNat 8))))

/-- The four TABLE loads take their source from the scratchpad and write the copies R46, R120 and R243 name; a source
that fails its check gives FORMAT (R46, R120, R121, R243, R209, R211, R460). The 512 bytes of a step of an IMMEDIATE
load are the model's choice (log entry 53(h)). -/
def Obligations.TableLoadsWriteTheirEntries : Prop :=
  ∀ (s : State) (b : Bib) (q : BitVec 14) (i : Issued), Works s b q i →
    let u := s.unit b.toNat
    let bs := loadSource s i
    let imm := loadImmediate i.op i.body
    let ends (t : State) (st : Status) : State := setIssued t b.toNat { i with finished := some st }
    let files (f : Files) : State := s.setUnit b.toNat { u with files := f }
    let run (c : Instr) : Prop :=
      (i.loaded = [] → loadWaits s b.toNat i = false → loadSourceOk i bs = false → exec c s = .next (ends s .format)) ∧
      (i.loaded = [] → loadWaits s b.toNat i = true → exec c s = .next s)
    let good : Prop := i.loaded = [] ∧ loadWaits s b.toNat i = false ∧ loadSourceOk i bs = true
    let left := if i.loaded = [] then bs else i.loaded
    let n := if imm then min 512 left.length else left.length
    let at_ (w : Nat) : Nat := bFirst i.body + (bCount i.body - left.length / w)
    let part (f : Files) : State := setIssued (files f) b.toNat
      { i with loaded := left.drop n, finished := if left.length ≤ n then some .ok else none }
    let late : Prop := ∃ p, s.pace.ann = some p ∧ p.1 + 4096 ≤ s.now
    (i.op = .tableCodebook → run (.tableCodebook b q) ∧ (good → (s.baton.st ≠ .staging ∨ s.pace.passed = true ∨ late) →
      exec (.tableCodebook b q) s = .next (ends (files (u.files.loadBook imm (bSlot i.body) (wordLE 256 bs))) .ok)) ∧
      (good → s.baton.st = .staging → s.pace.passed = false → ¬ late → ∃ t, exec (.tableCodebook b q) s = .next t ∧
        (t.unit b.toNat).files = u.files.loadBook imm (bSlot i.body) (wordLE 256 bs) ∧
        placed t b i = some { i with finished := some .ok } ∧ t.baton.seq = nextSeq s.baton.seq ∧ t.baton.acks = [] ∧
        t.baton.st = .staging ∧ t.mem = s.mem ∧ t.tables = s.tables ∧ t.trackers = s.trackers)) ∧
    (i.op = .tableChannel → run (.tableChannel b q) ∧ (good → (imm = false ∨ bs.length ≤ 512) → exec (.tableChannel b q) s =
      .next (ends (files (u.files.loadChannel s.now imm (bFirst i.body) ((wordsOf 4 (bCount i.body) bs).map (wordOf 32)))) .ok)) ∧
      (good ∨ i.loaded ≠ [] → exec (.tableChannel b q) s =
        .next (part (u.files.loadChannel s.now imm (at_ 4) ((wordsOf 4 (n / 4) left).map (wordOf 32)))))) ∧
    (i.op = .tableRescale → run (.tableRescale b q) ∧ (good → (imm = false ∨ bs.length ≤ 512) → exec (.tableRescale b q) s =
      .next (ends (files (u.files.loadRescale s.now imm (bFirst i.body) ((wordsOf 8 (bCount i.body) bs).map (wordOf 64)))) .ok)) ∧
      (good ∨ i.loaded ≠ [] → exec (.tableRescale b q) s =
        .next (part (u.files.loadRescale s.now imm (at_ 8) ((wordsOf 8 (n / 8) left).map (wordOf 64)))))) ∧
    (i.op = .tableProgram → run (.tableProgram b q) ∧ (good → ∃ t, exec (.tableProgram b q) s = .next t ∧
      t.mem = writeBytes s.mem (spadKey (s.programAt i.ctx (bProg i.body))) bs ∧
      placed t b i = some { i with finished := some .ok } ∧
      (∀ n ∈ allBibs, heldProgram (t.unit n) i.ctx (bProg i.body) = none) ∧
      { t with units := s.units, mem := s.mem } = s))

/-- TABLE_BUILD turns a position into beats when its feed is empty and reads one ahead, and FEED_BEAT drives the beats
out one by one (R149, R151, R152, R153, R154, R155, R199). -/
def Obligations.TableBuildFeedsItsArray : Prop :=
  ∀ (s : State) (b : Bib),
    (∀ (q : BitVec 14) (i : Issued), Works s b q i → i.op = .tableBuild → isStream (i.field 1) = true →
      ((entriesOf (i.field 1) (i.desc 1)).map Prod.fst).Nodup →
      let u := s.unit b.toNat
      let p := readPosition s i 1 []
      let f := liveFormats u i
      let k := buildK f
      let pl := i.place i.pos
      (i.reads = [] → i.stopAs = none → (s.unit b.toNat).feed = [] → i.pos < i.total →
        (∀ p ∈ entriesOf (i.field 1) (i.desc 1), (s.stream p.1).readerWaits = false) →
        ∃ t j, exec (.tableBuild b q 1) s = .next t ∧ placed t b i = some j ∧ i.pos < j.pos ∧ j.finished = none ∧
          (t.unit b.toNat).feed ≠ [] ∧ t.mem = s.mem ∧ WorkFrame s t b i ∧
          (buildStatus u (i.desc 1) f p = none → (t.unit b.toNat).feed = tableBeats k i.epoch i.ctx p.d.tag p.d.tensor
            ((tableInputs f (rowsIn i.height pl.1) pl.2 p).map (fun x =>
              (tableEntries ((List.range (2 ^ k)).map (weightValue u f.wdesc)) x).1))) ∧
          (t.stream (fStream (i.field 1))).rtag = (s.stream (fStream (i.field 1))).rtag + 1 ∧
          (∀ st, buildStatus u (i.desc 1) f p = some st → (∀ x ∈ (t.unit b.toNat).feed, bitAt x.control 2 = true) ∧
            (t.unit b.toNat).feed.length = if st = .skew then i.total - i.pos else 1)) ∧
      (i.reads = [] → i.stopAs = none → feedOwned (s.unit b.toNat) i = true → i.pos < i.total →
        (∀ p ∈ entriesOf (i.field 1) (i.desc 1), (s.stream p.1).readerWaits = false) →
        ∃ t j, exec (.tableBuild b q 1) s = .next t ∧ placed t b i = some j ∧ j.pos = i.pos ∧ j.finished = none ∧
          j.reads = [((1, i.pos), readPosition s i 1 [])] ∧ (t.unit b.toNat).feed = (s.unit b.toNat).feed ∧
          t.mem = s.mem ∧ WorkFrame s t b i) ∧
      ((s.unit b.toNat).feed = [] → i.total ≤ i.pos →
        let k := settleBlock (s.unit b.toNat) i
        exec (.tableBuild b q 1) s = .next (setIssued s b.toNat { k with finished := some (k.stopAs.getD k.endStatus) })) ∧
      (feedOwned (s.unit b.toNat) i = true → i.reads ≠ [] → exec (.tableBuild b q 1) s = .next s)) ∧
    (Running s → kindOf b.toNat = some .pt → ∀ x xs, (s.unit b.toNat).feed = x :: xs →
      exec (.feedBeat b) s = .next ({ s with out := s.out ++ [Out.beat b x.control x.lanes] }.setUnit b.toNat
        { s.unit b.toNat with feed := xs })) ∧
    (∀ (k : Nat) (e : BitVec 4) (c : Nat) (tag : BitVec 16) (tensor : BitVec 24) (es : List (List (BitVec 32))),
      (k = 1 ∨ k = 2 ∨ k = 3 ∨ k = 4) → es.length = 4096 → (∀ x ∈ es, x.length = 2 ^ k) → c < 1024 →
      let beats := tableBeats k e c tag tensor es
      let a := if k = 4 then 64 else if k = 3 then 128 else 256
      beats.length = (if k = 4 then 64 else if k = 3 then 32 else 16) ∧
      ∀ n v, n < 4096 → v < 2 ^ k → ∃ x, beats[n / a]? = some x ∧ x.lanes.length = 1024 ∧
        x.lanes[2 ^ k * (n % a) + v]? = (es.getD n [])[v]? ∧ (∀ l, 2 ^ k * a ≤ l → l < 1024 → x.lanes[l]? = some 0) ∧
        bitAt x.control 0 = decide (n / a = 0) ∧ bitAt x.control 1 = decide (n / a + 1 = beats.length) ∧
        bitAt x.control 2 = false ∧ (bitsAt x.control 3 2).toNat = k - 1 ∧ bitsAt x.control 8 4 = e ∧
        (bitsAt x.control 12 10).toNat = c ∧ bitsAt x.control 32 16 = tag ∧ bitsAt x.control 64 24 = tensor ∧
        bitsAt x.control 5 3 = 0 ∧ bitsAt x.control 22 10 = 0 ∧ bitsAt x.control 48 16 = 0 ∧ bitsAt x.control 88 8 = 0) ∧
    (∀ vs : List XVal, (tableEntries vs none).1 = vs.map (fun _ => 0) ∧
      ∀ x : XVal, x.isNan = true → tableEntries vs (some x) = (vs.map (fun _ => 0x7FC00000#32), .nan))

/-- Every form of CONVERT and ROTATE that does not wait takes its next positions and writes only its destination blocks;
BLOCK_POSITION is one unit of it (R63, R93, R97, R127, R160, R106). -/
def Obligations.ConvertersMakeProgress : Prop :=
  ∀ (s : State) (b : Bib) (q : BitVec 14) (steps : Nat) (arrived : List (List Byte)) (i : Issued), Works s b q i →
    0 < steps → layoutOk .cv i.slots = true → (i.hasRowSums = true → dElem (i.desc 3) = 1) → i.pos < i.total →
    i.outs = [] → i.stopAs = none → convWaits s i arrived = false →
    ¬ (i.fresh = true ∧ bRgv i.body = true ∧ (s.lastUse (bRegion i.body)).tied = true ∧ (s.lastUse (bRegion i.body)).st = 2) →
    ∀ c, (match i.op with
      | .convPlain => some (.convertPlain b q steps arrived) | .convRescale => some (.convertRescale b q steps arrived)
      | .convTranspose => some (.convertTranspose b q steps arrived) | .convReepoch => some (.convertReepoch b q steps arrived)
      | .rotate => some (.rotate b q steps arrived) | _ => none) = some c →
    (∃ t j, exec c s = .next t ∧ placed t b i = some j ∧
      (i.pos < j.pos ∨ i.reads.length < j.reads.length ∨ j.outs ≠ []) ∧ (j.finished = none ∨ i.total ≤ j.pos) ∧
      WorkFrame s t b i ∧ t.tables = s.tables ∧
      ∀ a, ¬ InBlocks s i a → readByte t.mem a = readByte s.mem a) ∧
    (steps = 1 → exec (.blockPosition b q arrived) s = exec c s)

/-- One position of a CONVERT PLAIN gives one destination block with its header; a poisoned or stale source gives a
poisoned block (R63, R82, R98, R101). -/
def Obligations.ConvertWritesItsDestinationBlock : Prop :=
  ∀ (s : State) (b : Bib) (q : BitVec 14) (i : Issued) (key : Nat), Works s b q i → i.op = .convPlain →
    layoutOk .cv i.slots = true → bRsum i.body = false → bRgv i.body = false → bDfeed i.body = 0 → i.groupSize = 1 →
    i.pos < i.total → i.outs = [] → i.reads = [] → i.stopAs = none → i.space = 0 → convWaits s i [] = false →
    dSfmt (i.desc 2) = 0 → dOcap (i.desc 2) = 0 →
    fStream (i.field 1) ≠ fStream (i.field 2) → inPlace s i 2 (fStream (i.field 2)) 0 i.pos = false →
    (s.stream (fStream (i.field 1))).pspace ≠ 0 →
    (∀ p ∈ entriesOf (i.field 1) (i.desc 1), p.1 ≠ fStream (i.field 2) ∧
      (i.rtags.find? (fun x => decide (x.1 = p.1))).isSome = true) →
    ((entriesOf (i.field 1) (i.desc 1)).map Prod.fst).Nodup →
    let e := s.stream (fStream (i.field 2))
    blockKey e (i.desc 2) 0 e.wtag = some key →
    let pl := i.place i.pos
    let p := readPosition s i 1 []
    let st := convStatus (s.unit b.toNat) i pl.1 pl.2 p
    st ≠ some .skew →
    ∃ t j ovf body, exec (.convertPlain b q 1 []) s = .next t ∧ placed t b i = some j ∧ j.pos = i.pos + 1 ∧
      t.mem = writeBytes s.mem key (blockBytes (fTensor (i.field 2)) (i.fdis.getD 1 0) st.isSome ovf e.wtag i.epoch
        (wordOf 10 i.ctx) 0 (128 * rowsIn i.height pl.1) body) ∧
      (∀ x, st = some x → body = List.replicate (bodyBytes (i.desc 2) 0) 0 ∧ ovf = false ∧
        (i.failed = none → j.failed = some (x, i.pos))) ∧
      (st = none → j.failed = i.failed ∧ j.done = i.done + 1 ∧
        let xs := (chunksOf 128 32 (decodeSource (s.unit b.toNat) i pl.1 p)).flatMap (rotateStep i (128 * pl.2))
        ∃ g, (formConverted s b.toNat i i.pos 0 pl.1 pl.2 xs).1.good = some g ∧ body = g.body ∧ ovf = g.ovf) ∧
      (t.stream (fStream (i.field 2))).wtag = e.wtag + 1 ∧
      (t.stream (fStream (i.field 1))).rtag = (s.stream (fStream (i.field 1))).rtag + 1

/-- Every element class of a stream engine that does not wait takes its next elements and writes only its destination
(R235, R244, R248, R254, R255, R256, R257, R278). -/
def Obligations.StreamEnginesMakeProgress : Prop :=
  ∀ (s : State) (b : Bib) (q : BitVec 14) (steps : Nat) (i : Issued), Works s b q i → 0 < steps →
    layoutOk .se i.slots = true → i.space = 0 → i.outs = [] → i.stopAs = none →
    (isMove i = true → isStream (i.field 1) = true ∧ i.desc 1 = i.desc 4) →
    (i.op = .reduce → 5 ≤ bRop i.body → isPlain (i.field 4) = true → fFmt (i.field 4) = 1) →
    (i.op = .randomBernoulli → (fBase (i.field 4)).toNat + i.elements ≤ 2 ^ 32) →
    let left : Bool := if i.op = .reduce then !i.reduceDone else !i.seDone
    ∀ c, (match i.op with
      | .element => some (.element b q steps) | .reduce => some (.reduce b q steps) | .permute => some (.permute b q steps)
      | .shufInterleave => some (.shuffleInterleave b q steps) | .shufEven => some (.shuffleEven b q steps)
      | .shufOdd => some (.shuffleOdd b q steps) | .shufReverse => some (.shuffleReverse b q steps)
      | .shufRotate => some (.shuffleRotate b q steps) | .pack => some (.pack b q steps)
      | .unpackCodes => some (.unpackCodes b q steps) | .unpackScales => some (.unpackScales b q steps)
      | .unpackZpoints => some (.unpackZpoints b q steps) | .randomBits => some (.randomBits b q steps)
      | .randomBernoulli => some (.randomBernoulli b q steps) | _ => none) = some c →
    (left = false → exec c s = .next (setIssued s b.toNat { i with finished := some i.endStatus })) ∧
    (left = true → (if i.op = .reduce then reduceWaits s i else i.tiled && seWaits s i i.pos) = false →
      ∃ t j, exec c s = .next t ∧ placed t b i = some j ∧
        (i.pos < j.pos ∨ i.reads.length < j.reads.length ∨ j.outs ≠ [] ∨ j.finished.isSome = true) ∧ WorkFrame s t b i ∧
        (i.op ≠ .randomBernoulli → ∀ a, ¬ InBlocks s i a → ¬ InElements i a → readByte t.mem a = readByte s.mem a) ∧
        (i.op = .randomBernoulli → ∀ a, a < (fBase (i.field 4)).toNat ∨
          (fBase (i.field 4)).toNat + ceilDiv i.elements 8 ≤ a → readByte t.mem a = readByte s.mem a))

/-- SHUFFLE writes to every destination element the bits of the element R255 names; PERMUTE gathers by index, and takes
+0 beyond SN; ELEMENT writes the result of its program, or source A, converted (R35, R244, R254, R255). -/
def Obligations.ShuffleAndPermuteMoveElements : Prop :=
  (∀ (s : State) (b : Bib) (q : BitVec 14) (i : Issued), Works s b q i → isPlain (i.field 4) = true → i.field 5 = 0 →
    i.pos = 0 → 0 < i.elements → i.elements ≤ 256 → i.space = 0 → i.tiled = false → i.op.isShuffle = true →
    i.outs = [] → copiesBits i.op i.slots i.descs = true →
    (∀ g ∈ i.laneGroups 0 i.elements, groupDenied s i g.1 = false) →
    let bits := plainBits (fFmt (i.field 4))
    let from_ (k : Nat) : Nat × Nat := match i.op with
      | .shufInterleave => if k % 2 = 0 then (1, k / 2) else (2, (k - 1) / 2)
      | .shufEven => (1, 2 * k)
      | .shufOdd => (1, 2 * k + 1)
      | .shufReverse => (1, k ^^^ (2 ^ bP i.body - 1))
      | _ => (1, (k - k % 2 ^ bP i.body) + (k + bSh i.body) % 2 ^ bP i.body)
    let dest (r k : Nat) : Nat := addrKey (plainAddr (i.field 4) bits r k)
    let source (r k : Nat) : Int := plainAddr (i.field (from_ k).1) bits r (from_ k).2
    (∀ r k r' k', r < i.height → r' < i.height → k < i.len → k' < i.len → (r, k) ≠ (r', k') →
      dest r k + bits / 8 ≤ dest r' k' ∨ dest r' k' + bits / 8 ≤ dest r k) →
    (∀ r k r' k', r < i.height → r' < i.height → k < i.len → k' < i.len →
      dest r k + bits / 8 ≤ addrKey (source r' k') ∨ addrKey (source r' k') + bits / 8 ≤ dest r k) →
    ∀ c, (match i.op with
      | .shufInterleave => some (.shuffleInterleave b q 1) | .shufEven => some (.shuffleEven b q 1)
      | .shufOdd => some (.shuffleOdd b q 1) | .shufReverse => some (.shuffleReverse b q 1)
      | .shufRotate => some (.shuffleRotate b q 1) | _ => none) = some c →
    ∃ t j, exec c s = .next t ∧ placed t b i = some j ∧ j.finished = some j.endStatus ∧ j.done = i.done + i.elements ∧
      ∀ r k, r < i.height → k < i.len → readBytes t.mem (dest r k) (bits / 8) =
        leBytes (bits / 8) (copyCode (fFmt (i.field 4)) (plainCode s 0 (source r k) bits))) ∧
  (∀ (s : State) (b : Nat) (i : Issued) (p r k : Nat), isPlain (i.field 4) = true → i.field 5 = 0 → i.op = .permute →
    let f := i.field 1
    let w := plainBits (fFmt f)
    let j := plainCode s i.space (plainAddr (i.field 2) 32 r k) 32
    let code := plainCode s i.space ((fBase f).toNat + sInt (fSk f) * j * w / 8) w
    let v := codeVal (plainDesc (fFmt f)) 0 [] code
    let out := if j < bSn i.body then
        (encodeElem (plainDesc (fFmt (i.field 4))) 0 [] (seRound (s.unit b) b s.freeCtr i p r k) v.1 v.2).1
      else plainZero s (fFmt (i.field 4))
    let bytes := leBytes (plainBits (fFmt (i.field 4)) / 8) out
    (elemStep s b i [] p r k).st = { s with mem := writeBytes s.mem (plainKey i.space (destAddr i r k)) bytes }) ∧
  (∀ (s : State) (b : Bib) (q : BitVec 14) (i : Issued), Works s b q i → i.op = .element → isPlain (i.field 4) = true →
    i.field 5 = 0 → i.pos = 0 → 0 < i.elements → i.elements ≤ 256 → i.space = 0 → i.tiled = false → i.outs = [] →
    let reads (n : Nat) : Bool := if bPv i.body then programReads i.prog n else n == 1
    (∀ n ∈ [1, 2, 3], reads n = true → isPlain (i.field n) = true) →
    (∀ g ∈ i.laneGroups 0 i.elements, groupDenied s i g.1 = false) →
    let u := s.unit b.toNat
    let bits (n : Nat) : Nat := plainBits (fFmt (i.field n))
    let place (n r k : Nat) : Nat := addrKey (plainAddr (i.field n) (bits n) r k)
    (∀ r k r' k', r < i.height → r' < i.height → k < i.len → k' < i.len → (r, k) ≠ (r', k') →
      place 4 r k + bits 4 / 8 ≤ place 4 r' k' ∨ place 4 r' k' + bits 4 / 8 ≤ place 4 r k) →
    (∀ n ∈ [1, 2, 3], reads n = true → ∀ r k r' k', r < i.height → r' < i.height → k < i.len → k' < i.len →
      place 4 r k + bits 4 / 8 ≤ place n r' k' ∨ place n r' k' + bits n / 8 ≤ place 4 r k) →
    let elem (n r k : Nat) : XVal × Bool :=
      codeVal (plainDesc (fFmt (i.field n))) 0 [] (plainCode s 0 (plainAddr (i.field n) (bits n) r k) (bits n))
    let word (n r k : Nat) : BitVec 32 := if programReads i.prog n then toF32 (elem n r k).1 else 0
    let value (r k : Nat) : XVal × Bool :=
      if bPv i.body then (ofF32 (runProgram i.prog [word 1 r k, word 2 r k, word 3 r k]
        (fun j md => rndWord u b.toNat s.freeCtr i (i.len * r + k) r k j md)), false)
      else elem 1 r k
    ∃ t j, exec (.element b q 1) s = .next t ∧ placed t b i = some j ∧ j.finished = some j.endStatus ∧
      j.done = i.done + i.elements ∧ ∀ r k, r < i.height → k < i.len →
        readBytes t.mem (place 4 r k) (bits 4 / 8) = leBytes (bits 4 / 8) (encodeElem (plainDesc (fFmt (i.field 4))) 0 []
          (seRound u b.toNat s.freeCtr i (i.len * r + k) r k) (value r k).1 (value r k).2).1)

/-- RANDOM with GEN 1 writes the keyed words: BITS one 32-bit word an element, BERNOULLI one bit an element (R268, R278,
R279). -/
def Obligations.RandomWritesItsKeyedWords : Prop :=
  ∀ (s : State) (b : Bib) (q : BitVec 14) (i : Issued), Works s b q i → isPlain (i.field 4) = true → i.field 5 = 0 →
    [1, 2, 3].all (fun n => i.field n == 0) = true → i.pos = 0 → 0 < i.elements → i.elements ≤ 256 → i.space = 0 →
    i.outs = [] → hGen i.head = 1 →
    let key (purpose : BitVec 8) : Key :=
      ⟨i.seed, fTensor (i.field 6), if hLapk i.head then i.lap else 0, purpose, hDraw i.head⟩
    let word (purpose : BitVec 8) (r k : Nat) : BitVec 64 :=
      keyed (key purpose) (fBase (i.field 6) + wordOf 32 r) (fSk (i.field 6) + wordOf 32 k)
    (i.op = .randomBits → plainBits (fFmt (i.field 4)) = 32 →
      (∀ g ∈ i.laneGroups 0 i.elements, groupDenied s i g.1 = false) →
      let dest (r k : Nat) : Nat := addrKey (plainAddr (i.field 4) 32 r k)
      (∀ r k r' k', r < i.height → r' < i.height → k < i.len → k' < i.len → (r, k) ≠ (r', k') →
        dest r k + 4 ≤ dest r' k' ∨ dest r' k' + 4 ≤ dest r k) →
      ∃ t j, exec (.randomBits b q 1) s = .next t ∧ placed t b i = some j ∧ j.finished = some j.endStatus ∧
        ∀ r k, r < i.height → k < i.len →
          readBytes t.mem (dest r k) 4 = leBytes 4 (bitsAt (word 0x05 r k) 32 32).toNat) ∧
    (i.op = .randomBernoulli → bProb i.body ≤ 2 ^ 24 →
      spanIn (gSpad (s.grant i.ctx)) (fBase (i.field 4)).toNat (ceilDiv i.elements 8) = true →
      ∃ t j, exec (.randomBernoulli b q 1) s = .next t ∧ placed t b i = some j ∧ j.finished = some j.endStatus ∧
        ∀ r k, r < i.height → k < i.len →
          let n := i.len * r + k
          bitAt (readByte t.mem ((fBase (i.field 4)).toNat + n / 8)) (n % 8) =
            decide ((bitsAt (word 0x04 r k) 40 24).toNat < bProb i.body))

/-- STATS reads without writing memory, SAMPLE writes one record a sequence, SUMMARY posts the item it names (R174,
R299, R388, R389). -/
def Obligations.StatsSampleAndSummaryReport : Prop :=
  ∀ (s : State) (b : Bib) (q : BitVec 14) (steps : Nat) (i : Issued), Works s b q i → 0 < steps →
    (i.op = .stats → (kindOf b.toNat = some .sl → scalesDue s i = [] ∧ (i.pos < i.statsTotal → positionGranted s b.toNat i = true)) →
      (isStream (i.field 1) = true ∨ isPlain (i.field 1) = true) →
      (i.statsTotal ≤ i.pos → exec (.stats b q steps) s = .next (setIssued s b.toNat
        { i with finished := some i.endStatus, summary := some (statsSummary i) })) ∧
      (i.pos < i.statsTotal → (isStream (i.field 1) = true →
          ∀ p ∈ entriesOf (i.field 1) (i.desc 1), (s.stream p.1).readerWaits = false) →
        ∃ t j, exec (.stats b q steps) s = .next t ∧ placed t b i = some j ∧ i.pos < j.pos ∧ WorkFrame s t b i ∧
          t.mem = s.mem ∧ (kindOf b.toNat ≠ some .sl → t.out = s.out) ∧ t.tables = s.tables ∧
          (j.finished = none ∨ (j.finished = some j.endStatus ∧ j.summary = some (statsSummary j))))) ∧
    (i.op = .sample → i.pos < i.height →
      let a := recordAddr i i.pos
      let here := addrIn (gSpad (s.grant i.ctx)) a 16
      let row := sampleRow i.body (i.keyedWord 0x06 (hDraw i.head) i.pos 0) (logitsOf s i i.pos)
      let poisoned : Token := { token := 0xFFFFFFFF, prob := 0, nnuc := 0, flags := 1, lmax := 0 }
      ∃ t j, exec (.sample b q 1) s = .next t ∧ placed t b i = some j ∧
        { t with units := s.units, mem := s.mem } = s ∧ (∀ n, n ≠ b.toNat → t.unit n = s.unit n) ∧
        (here = true → logitsIn s i i.pos = true →
          t.mem = writeBytes s.mem (addrKey a) row.bytes ∧ j.pos = i.pos + 1 ∧ j.done = i.done + 1) ∧
        (here = true → logitsIn s i i.pos = false → t.mem = writeBytes s.mem (addrKey a) poisoned.bytes ∧
          j.finished.isSome = true ∧ (i.failed = none → j.finished = some .denied ∧ j.failed = some (.denied, i.pos))) ∧
        (here = false → t.mem = s.mem ∧ (i.failed = none → j.finished = some .denied))) ∧
    (i.op = .summary → (s.unit (executor i)).health.fenced = true →
      exec (.summary b q) s = .next (setIssued s b.toNat { i with finished := some .wrongState })) ∧
    (i.op = .summary → (s.unit (executor i)).health.fenced = false →
      let n := sumIndex i.body
      let e := s.tracked n
      ∃ v : BitVec 64, exec (.summary b q) s = .next (setIssued s b.toNat { i with
          finished := some .ok, summary := some { value := v, kind := 5, status := none, flags := 0 } }) ∧
        let lo := bitsAt v 0 32
        let hi := bitsAt v 32 32
        (sumItem i.body = 0 → bitsAt v 0 16 = e.cur.amax ∧ bitsAt v 16 16 = e.cur.capmax ∧ bitsAt v 32 16 = e.prop ∧
          bitAt v 48 = e.pvalid ∧ bitsAt v 49 15 = 0) ∧
        (sumItem i.body = 1 → lo = e.cur.nan ∧ hi = e.cur.clip) ∧
        (sumItem i.body = 2 → lo = e.cur.flush ∧ hi = e.cur.overflow) ∧
        (sumItem i.body = 3 → lo = e.cur.flagged ∧ hi = e.cur.otiles) ∧
        (sumItem i.body = 4 → lo = (s.watch n).cur.ncur ∧ hi = (s.watch n).avg))

/-- SCALE forms act on their tracked entry alone and post PROP, PVALID and PSRC; ADOPT_ACK completes a staged value
(R181, R182, R183, R299). -/
def Obligations.ScaleProposesAdoptsAndPins : Prop :=
  (∀ (s : State) (b : Bib) (q : BitVec 14) (i : Issued), Works s b q i →
    let n := hTrk i.head
    let e := s.tracked n
    let sel := (bitsAt i.body 0 2).toNat
    let ends (x : Tracked) (empty : Bool) : State :=
      let value := x.prop.setWidth 64 ||| ((bit x.pvalid).setWidth 64 <<< 16) ||| (x.psrc.setWidth 64 <<< 17)
      let sum : Summary := { value := value, kind := 5, status := if empty || !x.pvalid then some .empty else none, flags := 0 }
      setIssued (s.setTracked n x) b.toNat { i with finished := some .ok, summary := some sum }
    let fenced := (s.unit (executor i)).health.fenced
    (∀ c, (match i.op with
      | .scalePropose => some (.scalePropose b q) | .scalePin => some (.scalePin b q)
      | .scaleAdopt => some (.scaleAdopt b q) | _ => none) = some c → fenced = true →
      exec c s = .next (setIssued s b.toNat { i with finished := some .wrongState })) ∧
    (i.op = .scalePropose → fenced = false →
      (sel = 2 → exec (.scalePropose b q) s =
        .next (ends { e with prop := bitsAt i.body 16 16, pvalid := true, psrc := 3 } false)) ∧
      (sel = 1 → e.cfg.pinp = false → e.cur.amax ≠ 0 → exec (.scalePropose b q) s =
        .next (ends { e with prop := proposalOf e.cfg e.cur.amax, pvalid := true, psrc := 2 } false)) ∧
      (sel = 0 → e.cfg.pinp = false → e.historyMax ≠ 0 → exec (.scalePropose b q) s =
        .next (ends { e with prop := proposalOf e.cfg e.historyMax, pvalid := true, psrc := 1 } false)) ∧
      (sel = 1 → e.cur.amax = 0 → exec (.scalePropose b q) s = .next (ends e true)) ∧
      (sel = 0 → e.historyMax = 0 → exec (.scalePropose b q) s = .next (ends e true))) ∧
    (i.op = .scalePin → fenced = false → exec (.scalePin b q) s =
      .next (ends { e with cfg := { e.cfg with pinp := bitAt i.body 2 } } false)) ∧
    (i.op = .scaleAdopt → fenced = false → ∃ g : Staging, exec (.scaleAdopt b q) s = .next (ends { e with staged := some g } false) ∧
      g.value = e.prop ∧ g.base = e.cfg.abase ∧ g.count = e.cfg.acount ∧ g.got = 0 ∧
      ∀ c < 64, bitAt g.need c = (bitAt e.cfg.cvmask c && s.serving (0x011 + c)))) ∧
  (∀ (s : State) (n : BitVec 14) (cv : BitVec 6) (g : Staging), Running s → (s.tracked n.toNat).staged = some g →
    bitAt g.need cv.toNat = true → s.serving (0x011 + cv.toNat) = true → g.complete = none →
    ∃ t g', exec (.adoptAck n cv) s = .next t ∧ (t.tracked n.toNat).staged = some g' ∧
      g'.got = g.got ||| (1#64 <<< cv.toNat) ∧ g'.value = g.value ∧ g'.need = g.need ∧
      ((∀ c < 64, bitAt g.need c = true → s.serving (0x011 + c) = true → bitAt g'.got c = true) →
        g'.complete = some s.now) ∧
      ((∃ c < 64, bitAt g.need c = true ∧ s.serving (0x011 + c) = true ∧ bitAt g'.got c = false) → g'.complete = none) ∧
      t.mem = s.mem ∧ t.units = s.units)

/-- A RELAY instruction starts the tile it owns the start of, sends it, and ends once both phases are over (R373, R375,
R376). -/
def Obligations.RelayInstructionsMoveTiles : Prop :=
  ∀ (s : State) (b : Bib) (q : BitVec 14) (i : Issued), Works s b q i → i.op.isRelay = true → i.stopAs = none →
    ((bResid i.body).1 = false ∨ bitAt (tget 0 (s.unit b.toNat).relay.resid (bResid i.body).2.1) 15 = false) →
    let gi := rlGroup i.body
    let g := s.group b.toNat gi
    let n := g.nmem.toNat
    let rank := g.rank.toNat
    let r := i.transfer.nextReduce
    let k := i.transfer.nextGather
    let sent (t : State) : Prop :=
      ((t.group b.toNat gi).peer g.next).nextSend = (g.peer g.next).nextSend + 1 ∧
        ∃ m, Out.relay b (tget 0 g.peers g.next) m ∈ t.out ∧ rmType m = 0x10
    ∀ c, (match i.op with
      | .relaySend => some (.relaySend b q 1) | .relayReceive => some (.relayReceive b q 1)
      | .relayCollective => some (.relayCollective b q 1) | _ => none) = some c →
    (relayDone g i = true → exec c s = .next (setIssued s b.toNat { i with
      transfer := { i.transfer with started := true }, finished := some i.endStatus })) ∧
    (reduceOver i n rank = false → reduceRole i n rank r = .start → shareReady s i = true → sendReady g = true →
      ∃ t j, exec c s = .next t ∧ placed t b i = some j ∧ j.transfer.nextReduce = r + 1 ∧ j.transfer.nextGather = k ∧
        sent t ∧ t.tables = s.tables ∧ { t.trackers with streams := s.trackers.streams } = s.trackers ∧
        ∀ m, m ≠ b.toNat → t.unit m = s.unit m) ∧
    (gatherOver i n rank = false → gatherRole i n rank k = .own → destReady s i = true → sendReady g = true →
      (ownSource i = true → shareReady s i = true) → (ownSource i = false → k < r) →
      (reduceOver i n rank = true ∨ reduceRole i n rank r ≠ .start) →
      ∃ t j, exec c s = .next t ∧ placed t b i = some j ∧ j.transfer.nextGather = k + 1 ∧ j.transfer.nextReduce = r ∧
        sent t ∧ t.tables = s.tables ∧ ∀ m, m ≠ b.toNat → t.unit m = s.unit m)

/-- SLICE PROGRAM, CONVERT and REEPOCH take their next elements and write only their destination; a plane group writes
what OMAP names; a WINDOW form opens or closes its window (R341, R346, R349, R350, R351, R354). How a slice comes by a
scale block behind its link, and that a plane's PSR alone decides its rounding, are the model's readings (log entries 29
and 45). -/
def Obligations.SlicesMakeProgress : Prop :=
  ∀ (s : State) (b : Bib) (q : BitVec 14) (steps : Nat) (i : Issued), Works s b q i → 0 < steps →
    layoutOk .sl i.slots = true → (i.planes = true → i.tiled = false) →
    (isStream (i.field 4) = true → (dRot (i.desc 4) ≠ 0 ∨ dOcap (i.desc 4) ≠ 0) →
      isStream (i.field 1) = true ∧ i.desc 1 = i.desc 4) →
    let g := planeGroup s b.toNat (i.field 1)
    let first := 128 * (fSk (i.field 1)).toNat
    let inPlane (a : Nat) : Prop := i.planes = true ∧ ∃ p ∈ planesWritten g,
      let w := gPlane g p
      let d := planeDesc w
      let e := stackKey (indexOf b.toNat) (pBase w + plainBits (pFmt w) / 8 * first)
      let x := stackKey (indexOf b.toNat) (pScaleBase w + scaleBytes (dSfmt d) * (first / dGroup d))
      (e ≤ a ∧ a < e + plainBits (pFmt w) / 8 * i.elements) ∨
        (dSfmt d ≠ 0 ∧ x ≤ a ∧ a < x + scaleBytes (dSfmt d) * (i.elements / dGroup d + 1))
    (∀ c, (match i.op with
      | .sliceProgram => some (.sliceProgram b q steps) | .sliceConvert => some (.sliceConvert b q steps)
      | .sliceReepoch => some (.sliceReepoch b q steps) | _ => none) = some c →
      (i.sliceDone = true → exec c s = .next (setIssued s b.toNat { i with finished := some i.endStatus })) ∧
      (i.sliceDone = false → i.outs = [] → i.stopAs = none → sliceWaits s i = false → scalesDue s i = [] →
        ∃ t j, exec c s = .next t ∧ placed t b i = some j ∧
          (i.pos < j.pos ∨ i.reads.length < j.reads.length ∨ j.outs ≠ [] ∨ j.finished.isSome = true) ∧ WorkFrame s t b i ∧
          ∀ a, ¬ InBlocks s i a → ¬ InElements i a → ¬ inPlane a → readByte t.mem a = readByte s.mem a) ∧
      (i.sliceDone = false → i.outs = [] → sliceWaits s i = false → scalesDue s i ≠ [] → ∃ t, exec c s = .next t ∧
        placed t b i = some i ∧ t.mem = s.mem ∧ t.tables = s.tables ∧ t.trackers = s.trackers)) ∧
    (i.op = .sliceProgram → i.planes = true → i.pos = 0 → 0 < i.elements → i.elements ≤ 2048 → i.outs = [] →
      scalesDue s i = [] → planesIn s b.toNat i g first i.elements = true →
      ∀ p, planesWritten g = [p] → dSfmt (planeDesc (gPlane g p)) = 0 → dGroup (planeDesc (gPlane g p)) = 0 →
      let w := gPlane g p
      let bytes := plainBits (pFmt w) / 8
      let st := indexOf b.toNat
      let m := gOut g p
      let temps (k : Nat) := (planeEval s st i g (first + k) (s.freeCtr + 16 * k)).2
      let value (k : Nat) : XVal := ofF32 (if m < 8 then (temps k).2.getD m 0 else (temps k).1.getD (m - 8) 0)
      let round (k : Nat) : Round :=
        if pPsr w then .sr (bitsAt (planeWord (planeKey i g 0x02 ((hDraw i.head &&& 0xF8) ||| wordOf 8 p)) (first + k)) 0 16) else .rne
      ∃ t j, exec (.sliceProgram b q 1) s = .next t ∧ placed t b i = some j ∧ j.finished = some j.endStatus ∧
        t.mem = writeBytes s.mem (stackKey st (pBase w + bytes * first)) ((List.range i.elements).flatMap (fun k =>
          leBytes bytes (encodeElem (planeDesc w) 0 [] (round k) (value k) false).1))) ∧
    (i.op = .sliceWindow →
      let w := bWin i.body
      let v := s.window b.toNat w
      let fin : Issued := { i with finished := some .ok }
      (bWinClose i.body = false → wState v.regs = 0 → regionFree s b.toNat w i.win.region = true →
        exec (.windowOpen b q) s = .next (setIssued (s.setWindow b.toNat w i.win) b.toNat fin)) ∧
      (bWinClose i.body = true → wState v.regs = 1 → ∃ t, exec (.windowClose b q) s = .next t ∧ placed t b i = some fin ∧
        t.window b.toNat w = { regs := putBits v.regs 30 (0 : BitVec 2) } ∧
        (∀ x ∈ (t.unit b.toNat).slice.staging, x.win ≠ wordOf 6 w) ∧ (∀ x ∈ (t.unit b.toNat).slice.cache, x.win ≠ wordOf 6 w) ∧
        (wTen v.regs = false → t.out = s.out) ∧
        (wTen v.regs = true → isFar b.toNat = true →
          let stamp := windowStamp (s.unit b.toNat)
          Out.message false b (statsMsg {
            entry := wordOf 14 (wTrk v.regs), lap8 := stamp.1, par := stamp.2,
            data := { amax := v.amax, nan := v.counts.nan, clip := v.counts.clip, flush := v.counts.flush } }) ∈ t.out) ∧
        t.mem = s.mem ∧ t.tables = s.tables))

/-- A report and a partial merge into the record their stamp matches; the settle window ends; the close scan commits or
discards the record (R175, R176, R177, R178, R181, R187). -/
def Obligations.TrackersMergeReportsAndClose : Prop :=
  (∀ (s : State) (r : Report) (rest : List Report), Running s → s.trackers.reports = r :: rest →
    let n := r.entry.toNat
    let e := s.tracked n
    let s0 : State := { s with trackers := { s.trackers with reports := rest } }
    let now : Prop := r.lap8 = bitsAt s.pace.lap 0 8 ∧ r.par = s.pace.parity
    let before : Prop := (∃ at_ rerun, s.trackers.settle = .settling at_ rerun) ∧
      r.lap8 = s.trackers.prevLap8 ∧ r.par = s.trackers.prevPar
    (s.unit (0x071 + n / 4096)).health.fenced = false → e.cfg.en = true →
    (now → exec .reportMerge s = .next (s0.setTracked n { e with cur := e.cur.merge r.data })) ∧
    (¬ now → before → exec .reportMerge s = .next (s0.setTracked n { e with prev := e.prev.merge r.data })) ∧
    (¬ now → ¬ before → exec .reportMerge s = .next (s0.post (0x071 + n / 4096) (0x071 + n / 4096) .statsLate
      (some e.cfg.ctx.toNat) (wordOf 32 n) (r.lap8.setWidth 32 ||| ((bit r.par).setWidth 32 <<< 8)) 0))) ∧
  (∀ a d : Record, let m := a.merge d
    m.amax = maxBf a.amax d.amax ∧ m.capmax = maxBf a.capmax d.capmax ∧ m.nan = satAdd a.nan d.nan ∧
    m.clip = satAdd a.clip d.clip ∧ m.flush = satAdd a.flush d.flush ∧ m.overflow = satAdd a.overflow d.overflow ∧
    m.flagged = satAdd a.flagged d.flagged ∧ m.otiles = satAdd a.otiles d.otiles) ∧
  (∀ (s : State) (p : Partial) (rest : List Partial), Running s → s.trackers.partials = p :: rest →
    let n := p.watch.toNat
    let w := s.watch n
    let s0 : State := { s with trackers := { s.trackers with partials := rest } }
    let plus (r : WatchRec) : WatchRec :=
      { r with sum := min (r.sum + p.sum) (2 ^ 320 - 1), nonfin := r.nonfin || p.nonfin,
               satur := r.satur || p.satur || decide (2 ^ 320 ≤ r.sum + p.sum) }
    let now : Prop := p.lap8 = bitsAt s.pace.lap 0 8 ∧ p.par = s.pace.parity
    let before : Prop := (∃ at_ rerun, s.trackers.settle = .settling at_ rerun) ∧
      p.lap8 = s.trackers.prevLap8 ∧ p.par = s.trackers.prevPar
    (s.unit (0x071 + n / 1024)).health.fenced = false → w.en = true →
    (now → w.cur.closed = false →
      let t := s0.setWatch n { w with cur := plus w.cur }
      exec .normPartial s = .next (if p.close then closeWatch t n false else t)) ∧
    (¬ now → before → w.prev.closed = false →
      let t := s0.setWatch n { w with prev := plus w.prev }
      exec .normPartial s = .next (if p.close then closeWatch t n true else t))) ∧
  (∀ (s : State) (start : Nat) (rerun : Bool), Running s → s.trackers.settle = .settling start rerun →
    exec .settleWindowEnd s = .next { s with trackers := { s.trackers with settle := .scanning start rerun } }) ∧
  (∀ (s : State) (start : Nat) (rerun : Bool), Running s → s.trackers.settle = .scanning start rerun →
    (s.trackers.tracked.map Prod.fst).Nodup → (∀ w, (s.watch w).stb = false) →
    ∃ t, exec .closeScanDone s = .next t ∧ t.trackers.settle = .idle ∧ t.pace = s.pace ∧
      ∀ n, (rerun = true → t.tracked n = { s.tracked n with prev := {} }) ∧
        (rerun = false → (s.tracked n).cfg.en = false → t.tracked n = { s.tracked n with prev := {} }) ∧
        (rerun = false → (s.tracked n).cfg.en = true → (s.unit (0x071 + n / 4096)).health.fenced = false →
          let e := s.tracked n
          let e' := t.tracked n
          let top := (List.range (min (e.cfg.hlen.toNat + 1) e'.fill.toNat)).foldl
            (fun m j => maxBf m (tget 0 e'.ring ((e'.head.toNat + 31 - j) % 32))) 0
          e'.prev = {} ∧ e'.cur = e.cur ∧ e'.cfg = e.cfg ∧ e'.adopted = e.adopted ∧
          e'.last = { e.prev with requested := false } ∧ e'.head = e.head + 1 ∧
          (∀ j, tget 0 e'.ring j = if j = e.head.toNat then e.prev.amax else tget 0 e.ring j) ∧
          e'.fill = (if e.fill.toNat < 32 then e.fill + 1 else e.fill) ∧
          (e.cfg.pinp = false → top ≠ 0 → e'.prop = proposalOf e.cfg top ∧ e'.pvalid = true ∧ e'.psrc = 1) ∧
          (e.cfg.pinp = true ∨ top = 0 → e'.prop = e.prop ∧ e'.pvalid = e.pvalid ∧ e'.psrc = e.psrc)))

/-- At the close a watch finds a stumble exactly when STB is 1 and N is infinite or exceeds AVG times RATIO after the
warm laps (R190). -/
def Obligations.AWatchFindsAStumble : Prop :=
  ∀ (s : State) (p : Partial) (rest : List Partial), Running s → s.trackers.partials = p :: rest → p.close = true →
    p.lap8 = bitsAt s.pace.lap 0 8 → p.par = s.pace.parity →
    let w := s.watch p.watch.toNat
    (s.unit (0x071 + p.watch.toNat / 1024)).health.fenced = false → w.en = true → w.cur.closed = false →
    ∃ t, exec .normPartial s = .next t ∧
      let r := (t.watch p.watch.toNat).cur
      r.closed = true ∧ r.ncur = normOf (w.cur.add p) ∧
      (r.stumbled = true ↔ w.stb = true ∧ (r.ncur = 0x7F800000 ∨
        (w.avalid = true ∧ w.warm.toNat ≤ w.laps.toNat ∧
          (ofF32 w.avg).rat * (ofBf16 w.ratio).rat < (ofF32 r.ncur).rat)))

/-- Writes of a tracked entry, a watch, a port selection and a release change the fields their rules open, and nothing
else (R11, R100, R171, R172, R188, R439, R451, R454). -/
def Obligations.TrackerAndPortWrites : Prop :=
  (∀ (s : State) (a : Agent) (n : BitVec 14) (w : BitVec 4) (v : BitVec 32), Serving s →
    portShows s a (0x071 + n.toNat / 4096) 0x11 n.toNat = true →
    let scrubbed : Prop := ∃ x ∈ s.trackers.scrubs, x.1 = n.toNat / 4096 ∧
      Config.regionTracked (n.toNat / 4096) x.2.1 (n.toNat % 4096) = true ∧ x.2.2 / 9 = s.now / 9
    let e := s.tracked n.toNat
    let c := e.cfg
    let becomes (e' : Tracked) : Prop :=
      exec (.trackedEntryWrite a n w v) s = .next ((unlatched s).setTracked n.toNat e')
    let all : TrackedCfg := { c with
      en := bitAt v 0, auto := bitAt v 1, pinp := bitAt v 2, pow2 := bitAt v 3, fben := bitAt v 4, marg := bitsAt v 5 3,
      hlen := bitsAt v 8 5, ctx := bitsAt v 13 10 }
    (w = 0 → c.en = true → ¬ scrubbed → becomes { e with cfg := { c with en := bitAt v 0, auto := bitAt v 1, fben := bitAt v 4 } }) ∧
    (w = 0 → c.en = false → bitAt v 0 = false → becomes { e with cfg := all }) ∧
    (w = 0 → c.en = false → bitAt v 0 = true → ¬ scrubbed → becomes { cfg := all, staged := e.staged }) ∧
    (w = 0 → c.en = false → scrubbed → becomes { e with cfg := { all with en := false } }) ∧
    (w = 1 → c.en = false → becomes { e with cfg := { c with tensor := bitsAt v 0 24 } }) ∧
    (w = 2 → c.en = false → (scaleVal 2 (bitsAt v 16 16).toNat).isSome = true →
      becomes { e with cfg := { c with layer := bitsAt v 0 12, target := bitsAt v 16 16 } }) ∧
    (w = 2 → (scaleVal 2 (bitsAt v 16 16).toNat).isSome = false → becomes e) ∧
    (w = 3 → c.en = false → (bitsAt v 0 13).toNat + (bitsAt v 13 14).toNat ≤ 8192 →
      becomes { e with cfg := { c with abase := bitsAt v 0 13, acount := bitsAt v 13 14 } }) ∧
    (w = 3 → 8192 < (bitsAt v 0 13).toNat + (bitsAt v 13 14).toNat → becomes e) ∧
    (w = 4 → becomes { e with cfg := { c with flagth := bitsAt v 0 16 } }) ∧
    (w = 5 → becomes { e with cfg := { c with clipth := v } }) ∧
    (w = 6 → becomes { e with cfg := { c with flushth := v } }) ∧
    (w = 7 → becomes { e with cfg := { c with nanth := v } }) ∧
    (w = 8 → c.en = false → becomes { e with cfg := { c with cvmask := putBits c.cvmask 0 v } }) ∧
    (w = 9 → c.en = false → becomes { e with cfg := { c with cvmask := putBits c.cvmask 32 v } }) ∧
    (w = 1 ∨ w = 2 ∨ w = 3 ∨ w = 8 ∨ w = 9 → c.en = true → becomes e)) ∧
  (∀ (s : State) (a : Agent) (n : BitVec 12) (w : BitVec 1) (v : BitVec 32), Serving s →
    portShows s a (0x071 + n.toNat / 1024) 0x12 n.toNat = true →
    let scrubbed : Prop := ∃ r ∈ s.trackers.scrubs, r.1 = n.toNat / 1024 ∧
      Config.regionWatch (n.toNat / 1024) r.2.1 (n.toNat % 1024) = true ∧ r.2.2 / 9 = s.now / 9
    let x := s.watch n.toNat
    let becomes (x' : Watch) : Prop := exec (.watchWrite a n w v) s = .next ((unlatched s).setWatch n.toNat x')
    let all : Watch := { x with
      en := bitAt v 0, stb := bitAt v 1, alpha := bitsAt v 2 3, warm := bitsAt v 5 8, ctx := bitsAt v 13 10 }
    let valid : Prop := 0x3F80 < (bitsAt v 16 16).toNat ∧ (bitsAt v 16 16).toNat < 0x7F80
    (w = 0 → x.en = true → ¬ scrubbed → becomes { x with en := bitAt v 0, stb := bitAt v 1 }) ∧
    (w = 0 → x.en = false → bitAt v 0 = false → becomes all) ∧
    (w = 0 → x.en = false → bitAt v 0 = true → ¬ scrubbed →
      becomes { all with cur := {}, prev := {}, nlast := 0, avg := 0, laps := 0, avalid := false }) ∧
    (w = 1 → valid → x.en = false → becomes { x with ratio := bitsAt v 16 16, layer := bitsAt v 0 12 }) ∧
    (w = 1 → valid → x.en = true → becomes { x with ratio := bitsAt v 16 16 }) ∧
    (w = 1 → ¬ valid → becomes x)) ∧
  (∀ (s : State) (a : Agent) (b : Bib) (p : BitVec 2) (v : BitVec 32), Serving s → (s.unit b.toNat).held = true →
    (kindOf b.toNat = some .rl →
      let off := 0x1000 + 0x100 * p.toNat
      exec (.indirectSelect a b p v) s = .next (unlatched (relayPlain (noteHolder s a b.toNat off) b.toNat off v))) ∧
    (kindOf b.toNat = some .cv ∨ kindOf b.toNat = some .pt ∨ kindOf b.toNat = some .tk →
    ∃ t, exec (.indirectSelect a b p v) s = .next t ∧
      (∀ m k, t.port m k = if m = b.toNat ∧ k = p.toNat then { sel := v, holder := some a } else s.port m k) ∧
      { t.unit b.toNat with ports := (s.unit b.toNat).ports } = s.unit b.toNat ∧
      { t with units := s.units } = unlatched s)) ∧
  (∀ (s : State) (a : Agent) (k : BitVec 2) (v : BitVec 32), Serving s →
    let b := 0x071 + k.toNat
    let n := (bitsAt v 0 16).toNat
    let e := s.stream n
    let low := srel1Of (s.unit b) a
    let released (x : Stream) (tag : BitVec 16) : Stream :=
      if x.st = .halted then { x with st := .opened, rtag := tag } else x
    (s.unit b).held = true → n / 16384 = k.toNat → e.st = .halted → e.kind = 0 →
    (a.manages = true ∨ ∃ c, a = .ctx c ∧ gEn (s.grant c.toNat) = true ∧ inRange (gStreams (s.grant c.toNat)) n = true) →
    (e.paired = true → e.pair.toNat ≠ n) → (e.sided = true → e.side.toNat ≠ n) →
    (e.paired = true → e.sided = true → e.pair ≠ e.side) →
    ∃ t, exec (.streamRelease a k v) s = .next t ∧ { t with trackers := s.trackers } = unlatched s ∧
      { t.trackers with streams := s.trackers.streams } = s.trackers ∧
      t.stream n = { e with st := .opened, rtag := bitsAt v 16 16 } ∧
      (e.paired = true → t.stream e.pair.toNat = released (s.stream e.pair.toNat) (bitsAt low 0 16) ∨
        (s.stream e.pair.toNat).st = .hclose) ∧
      (e.sided = true → t.stream e.side.toNat = released (s.stream e.side.toNat) (bitsAt low 16 16) ∨
        (s.stream e.side.toNat).st = .hclose) ∧
      ∀ m, m ≠ n → (e.paired = true → m ≠ e.pair.toNat) → (e.sided = true → m ≠ e.side.toNat) → t.stream m = s.stream m)

/-- REGISTER_WRITE changes the field its row lists; one that its class forbids posts ACCESS; before READY every write of
the aperture is dropped, and every read returns 0 but one of MSTAT (R394; the fields and classes at READY: R11, R224,
R323, R400, R424, R440). That an access not accepted discards the latched half is the model's reading (log entry 33(s)).
-/
def Obligations.RegisterWritesReachTheirFields : Prop :=
  (∀ (s : State) (c : Instr), Running s → s.mg.step ≠ .ready → isApertureWrite c = true → exec c s = .next (unlatched s)) ∧
  (∀ (s : State) (a : Agent) (off w : Nat), s.mg.step ≠ .ready →
    readAperture s a off w =
      (if accessOk off w = true ∧ off = 0x10 ∧ a.manages = true then (mstat s).setWidth 64 else 0, unlatched s)) ∧
  (∀ (s : State) (a : Agent) (off w : Nat) (v : BitVec 64), Running s → accessOk off w = false →
    exec (.registerWrite a off w v) s = .next (unlatched s)) ∧
  (∀ (s : State) (a : Agent) (off : Nat) (v : BitVec 64), Serving s → off ∈ [0x0C, 0x14, 0x68, 0x6C, 0x78, 0x7C, 0x94, 0x140, 0x1FC, 0x540] →
    exec (.registerWrite a off 32 v) s = .next (unlatched s)) ∧
  (∀ (s : State) (a : Agent) (off : Nat) (v : BitVec 64), Serving s → a.manages = false →
    off ∈ [0x4C, 0x50, 0x5C, 0x80, 0x84, 0x88, 0x8C] →
    exec (.registerWrite a off 32 v) s =
      .next (unlatched (s.post 0 0 .access a.ctx? (wordOf 32 off) (a.code.setWidth 32 ||| 0x800) 0))) ∧
  (∀ (s : State) (a : Agent) (v : BitVec 64), Serving s → a.manages = true →
    let low := bitsAt v 0 32
    let u := unlatched s
    exec (.registerWrite a 0x80 32 v) s = .next { u with mg := { u.mg with margth := bitsAt low 0 8 } } ∧
    exec (.registerWrite a 0x8C 32 v) s = .next { u with mg := { u.mg with demovr := bitsAt low 0 16 } } ∧
    exec (.registerWrite a 0x5C 32 v) s = .next { u with log := { u.log with ack := bitsAt low 0 16 } } ∧
    exec (.registerWrite a 0x50 32 v) s =
      .next (if low.toNat % 32 = 0 then { u with log := { u.log with evbase := low } } else u) ∧
    exec (.registerWrite a 0x4C 32 v) s =
      .next (if bitsAt low 0 16 = 0 then u else { u with mg := { u.mg with drainus := bitsAt low 0 16 } }) ∧
    exec (.registerWrite a 0x18 32 v) s = .next { u with baton := { u.baton with
      fbudget := bitsAt low 0 12, defermax := bitsAt low 12 4, clean := bitsAt low 16 16 } }) ∧
  (∀ (s : State) (a : Agent) (c : BitVec 10) (v : BitVec 64), Serving s →
    (a.manages = true ∨ a = .ctx c ∧ gEn (s.grant c.toNat) = true) →
    let at_ (r : Nat) : Nat := 0x20000 + 0x80 * c.toNat + r
    let x := s.context c.toNat
    let becomes (off w : Nat) (x' : Context) : Prop :=
      ∃ t, exec (.registerWrite a off w v) s = .next t ∧ { t with tables := s.tables } = unlatched s ∧
        { t.tables with contexts := s.tables.contexts } = s.tables ∧
        ∀ n, t.context n = if n = c.toNat then x' else s.context n
    becomes (at_ 0x40) 64 { x with cseed := v } ∧
    becomes (at_ 0x40) 32 { x with cseed := putBits x.cseed 0 (bitsAt v 0 32) } ∧
    becomes (at_ 0x44) 32 { x with cseed := putBits x.cseed 32 (bitsAt v 0 32) } ∧
    (bitsAt v 0 24 ≠ 0 → becomes (at_ 0x50) 32 { x with swait := bitsAt v 0 24 }) ∧
    (bitsAt v 0 24 = 0 → becomes (at_ 0x50) 32 x))

/-- EVENT_ACCEPT serves the next poster in increasing bib after the last served: its oldest record is accepted with the
next SEQ (R422, R423, R424). That a far unit takes its turn twice, to send its record and to have it accepted, and that
MG merges what the unit still holds, is the model's choice (log entry 21). -/
def Obligations.EventsAreAcceptedInRounds : Prop :=
  (∀ (s : State) (b : Nat), Running s → b ≤ 0x098 → s.log.lastBib ≤ 0x098 →
    let ready (m : Nat) : Prop := (nextRecord (s.unit m) m).isSome = true ∨ sendsEvent s m = true
    ready b → (∀ m, m ≤ 0x098 → ready m →
      (b + 0x098 - s.log.lastBib) % 0x099 ≤ (m + 0x098 - s.log.lastBib) % 0x099) →
    let accepts (record : Event) (u : UnitSt) : Prop := ∃ t, exec .eventAccept s = .next t ∧ t.log.lastBib = b ∧
      t.unit b = u ∧ (∀ m, m ≠ b → t.unit m = s.unit m) ∧
      (¬ (s.log.evn = 0 ∧ 256 ≤ s.log.backlog.length) →
        t.log.next = s.log.next + 1 ∧
        (s.log.evn = 0 → t.mem = s.mem ∧ t.log.backlog = s.log.backlog ++ [wordLE 256 (record.bytes s.log.next)]) ∧
        (s.log.evn ≠ 0 → t.log.backlog = s.log.backlog ∧
          t.mem = writeBytes s.mem (spadKey (s.log.evbase.toNat + 32 * (s.log.next.toNat % s.log.evn.toNat)))
            (record.bytes s.log.next)))
    (∀ e rest, isFar b = false → (s.unit b).events = e :: rest →
      accepts { e with loss := (s.unit b).lossNext } { s.unit b with events := rest, lossNext := false }) ∧
    (∀ e rest, isFar b = true → (s.unit b).evArrived = e :: rest → (s.unit b).evSent = false →
      accepts e { s.unit b with evArrived := rest }) ∧
    (∀ e rest, isFar b = true → (s.unit b).evArrived = e :: rest → (s.unit b).evSent = true →
      accepts { e with loss := e.loss || (s.unit b).lossNext, rep := ((s.unit b).events.headD e).rep }
        { s.unit b with evArrived := rest, events := (s.unit b).events.tail, evSent := false, lossNext := false }) ∧
    (∀ e rest, isFar b = true → (s.unit b).evArrived = [] → (s.unit b).events = e :: rest → (s.unit b).evSent = false →
      ∃ t more, exec .eventAccept s = .next t ∧ t.log = s.log ∧ t.mem = s.mem ∧
        t.unit b = { s.unit b with evSent := true } ∧ (∀ m, m ≠ b → t.unit m = s.unit m) ∧
        t.out = s.out ++ .message false (wordOf 12 b) (eventMsg { e with loss := (s.unit b).lossNext }) :: more)) ∧
  (∀ (s : State) (b : Bib) (msg : List Byte), Running s →
    eventMsgOk msg = true →
    exec (.eventMessage b msg) s = .next (s.setUnit b.toNat { s.unit b.toNat with
      evArrived := (s.unit b.toNat).evArrived ++ [eventOf (msgRest msg)] }))

/-- EVCTL opens the log and empties the backlog into it; a commit, PFAIL and POWER_OK move the finish record as R434 and
R435 say (R424, R431, R433, R432, R434, R435). The unit of TIME, where the 64 are counted, the free value and the place
of POWER_OK are the model's readings (log entry 39 b, e, g, h). -/
def Obligations.TheLogAndTheFinishRecord : Prop :=
  (∀ (s : State) (a : Agent) (v : BitVec 32), Serving s → a.manages = true →
    (8192 < (bitsAt v 0 14).toNat → exec (.evctlWrite a v) s = .next (unlatched s)) ∧
    ((bitsAt v 0 14).toNat ≤ 8192 →
      let n := bitsAt v 0 14
      let key (w : BitVec 256) : Nat := spadKey (s.log.evbase.toNat + 32 * ((bitsAt w 48 16).toNat % n.toNat))
      let log : Log := { s.log with evn := n, evint := bitAt v 14 }
      (n = 0 → exec (.evctlWrite a v) s = .next { unlatched s with log := log }) ∧
      (n ≠ 0 → exec (.evctlWrite a v) s = .next { unlatched s with
        log := { log with backlog := [] },
        mem := s.log.backlog.foldl (fun m w => writeBytes m (key w) (bytesLE 32 w)) s.mem }))) ∧
  (∀ (s : State) (good : Bool) (rtype : BitVec 8) (body : BitVec 384) (rest : List (BitVec 8 × BitVec 384)), Running s →
    s.finish.waiting = (rtype, body) :: rest → s.finish.scanned = true → s.finish.pfailAt = none →
    let f := s.finish
    let slot : BitVec 13 := match f.head with | some h => h + 1 | none => 0
    let boot := if rtype = 1 then f.boot + 1 else f.boot
    (rtype = 3 → 64 ≤ f.inLap → exec (.recordCommit good) s = .next { s with finish := { f with
      waiting := rest, lost := satAdd f.lost 1 } }) ∧
    ((rtype ≠ 3 ∨ f.inLap < 64) → ∃ t, exec (.recordCommit good) s = .next t ∧ { t with finish := s.finish, freeCtr := s.freeCtr, mg := s.mg } = s ∧
      t.mg = { s.mg with begun := s.mg.begun || good && decide (rtype = 5) } ∧ t.finish.head = some slot ∧ t.finish.rseq = f.rseq + 1 ∧
      (∀ n, n ≠ slot.toNat → tget 0 t.finish.slots n = tget 0 f.slots n) ∧
      (good = true → t.finish.waiting = rest ∧ t.finish.boot = boot ∧
        t.finish.inLap = (if rtype = 3 then f.inLap + 1 else f.inLap) ∧
        tget 0 t.finish.slots slot.toNat = slotRecord rtype boot (f.rseq + 1) body (satOf 32 (s.now / 9 / 2 ^ 20))) ∧
      (good = false → t.finish.waiting = f.waiting ∧ t.finish.boot = f.boot))) ∧
  (∀ (s : State), Running s → s.finish.pfailAt = none → s.finish.scanned = true →
    let slot : BitVec 13 := match s.finish.head with | some h => h + 1 | none => 0
    ∃ t, exec .pfail s = .next t ∧ { t with finish := s.finish } = s ∧ t.finish.waiting = [] ∧
      t.finish.pfailAt = some s.now ∧ t.finish.head = some slot ∧ t.finish.rseq = s.finish.rseq + 1 ∧
      tget 0 t.finish.slots slot.toNat =
        slotRecord 7 s.finish.boot (s.finish.rseq + 1) (powerLossBody s) (satOf 32 (s.now / 9 / 2 ^ 20))) ∧
  (∀ (s : State) (since : Nat), Running s → s.finish.pfailAt = some since →
    exec .powerOk s = .next { s with finish := { s.finish with
      pfailAt := none,
      waiting := (8, bodyOf [satOf 32 ((s.now - since) / 9)]) :: s.finish.waiting } })

/-- CAP waits for the second governor window; a window sets the duty; SCRUB, MARGIN and WEAR end the action that runs
and apply what it found (R48, R122, R412, R413, R415, R419, R420, R437). The order of a class 0 scrub, a lane without a
measurement, and which action a command ends are the model's readings (log entries 33(q), 33(p), 38(f)). -/
def Obligations.PowerAndBackgroundWork : Prop :=
  (∀ (s : State) (msg : BitVec 64), Running s → bitsAt msg 0 8 = 2 → bitsAt msg 16 16 = 0 →
    let left := match s.power.pendingCap with | some p => p.2.2 | none => 2
    exec (.cap msg) s = .next { s with power := { s.power with pendingCap := some (bitsAt msg 32 16, bitsAt msg 8 8, left) } }) ∧
  (∀ s : State, Running s →
    let fixed := Config.drawFixed s.storage.pwrcal s.freeCtr
    let full : ℚ := (Config.drawIssue s.storage.pwrcal s.freeCtr : ℚ) * 16 / s.power.duty.toNat
    ∃ t, exec .governorWindow s = .next t ∧ t.mem = s.mem ∧ t.tables = s.tables ∧ t.pace = s.pace ∧
      (∀ m, m ≠ 0 → t.unit m = s.unit m) ∧
      (s.power.pendingCap = none → t.power.cap = s.power.cap ∧ t.power.pendingCap = none ∧ t.out = s.out) ∧
      (∀ w q n, s.power.pendingCap = some (w, q, n) → n ≤ 1 →
        t.power.cap = w ∧ t.power.capSeq = q ∧ t.power.pendingCap = none ∧ t.out = s.out ++ [.budget (budgetMsg 3 q w 0)]) ∧
      (∀ w q n, s.power.pendingCap = some (w, q, n) → 1 < n →
        t.power.cap = s.power.cap ∧ t.power.pendingCap = some (w, q, n - 1) ∧ t.out = s.out) ∧
      let d := t.power.duty.toNat
      let cap : ℚ := (t.power.cap.toNat : ℚ)
      (t.power.cap = 0xFFFF → d = 16) ∧ 1 ≤ d ∧ d ≤ 16 ∧
      (t.power.cap ≠ 0xFFFF → (∀ x, d < x → x ≤ 16 → cap < fixed + (x : ℚ) * full / 16) ∧
        (1 < d → (fixed : ℚ) + (d : ℚ) * full / 16 ≤ cap))) ∧
  (∀ (s : State) (act : BitVec 9 × BitVec 8 × BitVec 16), Running s → s.pace.phase = 0 →
    s.mg.background.find? (fun x => decide (x.2.1 = 4)) = some act →
    let s0 : State := { s with mg := { s.mg with background := s.mg.background.erase act } }
    let cls := bitsAt act.2.2 0 4
    (cls = 0 → 1 ≤ s.mg.scrubNext → s.mg.scrubNext < 5 → exec (.scrub (wordOf 4 s.mg.scrubNext) []) s =
      .next { s with mg := { s.mg with scrubNext := s.mg.scrubNext + 1 } }) ∧
    (cls = 0 → s.mg.scrubNext = 5 → exec (.scrub 5 []) s = .next { s with mg := { s0.mg with scrubNext := 1 } }) ∧
    (cls ≠ 0 → exec (.scrub cls []) s = .next s0) ∧
    ∀ b region copy, cls ≠ 0 → (s.unit b).held = true → copy < 2 →
      let s1 := s0.post b b .scrub none (cls.setWidth 32) (wordOf 32 region) (wordOf 32 copy)
      let spoiled (f : Files → Files) : Prop :=
        exec (.scrub cls [(b, region, copy)]) s = .next (s1.onUnit b (fun u => { u with files := f u.files }))
      (cls = 1 → (kindOf b = some .cv ∨ kindOf b = some .pt) → spoiled (fun f =>
        if copy = 0 then { f with cbBadActive := List.range 64 }
        else { f with cbBadStaged := List.range 64, cbFixed := f.cbFixed.map (fun x => (x.1, List.range 64)) })) ∧
      (cls = 2 → kindOf b = some .cv → spoiled (fun f =>
        if copy = 0 then { f with chBadActive := withRange f.chBadActive (1024 * region) 1024 }
        else { f with chBadNext := withRange f.chBadNext (1024 * region) 1024 })) ∧
      (cls = 3 → kindOf b = some .cv → spoiled (fun f =>
        if copy = 0 then { f with rtBadActive := withRange f.rtBadActive (512 * region) 512 }
        else { f with rtBadNext := withRange f.rtBadNext (512 * region) 512 }))) ∧
  (∀ (s : State) (act : BitVec 9 × BitVec 8 × BitVec 16) (k : Nat) (found : List (Nat × Nat × Nat)), Running s → s.pace.phase = 0 →
    s.mg.background.find? (fun x => decide (x.2.1 = 5)) = some act → k < 16 →
    (∀ j, j < 16 → bitAt act.2.2 j = decide (j = k)) → (s.linkEnd k true).st = .active → (s.linkEnd k false).st = .active →
    let lanes := lanesInUse (s.linkEnd k true)
    let margin (j : Nat) : Nat := ((found.find? (fun p => decide (p.1 = k) && decide (p.2.1 = j))).map (fun p => p.2.2)).getD 255
    ∃ t, exec (.margin found) s = .next t ∧ t.mg = { s.mg with background := s.mg.background.erase act } ∧
      t.units = s.units ∧ t.mem = s.mem ∧
      (∀ j, tget 0 (t.link k).margins j = if j ∈ lanes then satOf 8 (margin j) else 0) ∧
      ((∀ j ∈ lanes, s.mg.margth.toNat ≤ margin j) → t.out = s.out ∧ t.linkEnd k true = s.linkEnd k true) ∧
      ((∃ j ∈ lanes, margin j < s.mg.margth.toNat) →
        (t.linkEnd k true).st = .advertise ∧ (t.linkEnd k true).retraining = true ∧ (t.linkEnd k true).cause = 2 ∧
        (t.linkEnd k false).st = .advertise ∧ (t.linkEnd k false).retraining = true ∧ (t.linkEnd k false).cause = 2)) ∧
  (∀ (s : State) (act : BitVec 9 × BitVec 8 × BitVec 16) (weak : List (Nat × Bool)), Running s → s.pace.phase = 0 →
    s.mg.background.find? (fun x => decide (x.2.1 = 6)) = some act →
    let f := s.finish
    let bad := (weak.filter (fun p =>
      decide ((p.1 + 8192 - f.wearPos.toNat) % 8192 < 64) && slotValid (tget 0 f.slots p.1) && p.2)).length
    exec (.wear weak) s = .next { s with
      mg := { s.mg with background := s.mg.background.erase act },
      finish := { f with weak := satOf 10 (f.weak.toNat + bad), wearPos := f.wearPos + 64 } })

/-- A single-bit error is counted; an uncorrectable one spoils its region, resets the unit or stops the complex; a hang
resets the unit (R48, R392, R413, R427, R428, R457). That REPEAT counts error resets only, that a KIND fence stays, and
that waiting records are committed before MG_FATAL are the model's readings (log entry 33 e, t, f). -/
def Obligations.ErrorsAreHandledAsTheTableSays : Prop :=
  (∀ (s : State) (b : Bib) (array : BitVec 8) (k : Kind), Running s → (s.unit b.toNat).held = true →
    kindOf b.toNat = some k → hasArray k array = true →
    let h := (s.unit b.toNat).health
    let n := satAdd h.cecnt 1
    let s1 := s.onUnit b.toNat (fun u => { u with health := { u.health with cecnt := n, corrected := true } })
    exec (.errorSingleBit b array) s = .next
      (if h.corrected then s1 else s1.post b.toNat b.toNat .corrected none (array.setWidth 32) (n.setWidth 32) 0)) ∧
  (∀ (s : State) (b : Bib) (region : Nat) (copy : BitVec 2), Running s → (s.unit b.toNat).held = true →
    (kindOf b.toNat = some .cv ∨ kindOf b.toNat = some .pt) →
    let s1 := s.post b.toNat b.toNat .scrub none 0x11 (wordOf 32 region) (wordOf 32 (copy.toNat % 2))
    exec (.errorUncorrectable b 0x10 region copy) s = .next (s1.onUnit b.toNat (fun u => { u with files :=
      if copy.toNat % 2 = 0 then { u.files with cbBadActive := List.range 64 }
      else { u.files with
        cbBadStaged := List.range 64, cbFixed := u.files.cbFixed.map (fun x => (x.1, List.range 64)) } }))) ∧
  (∀ (s : State) (b : Bib) (region : Nat) (copy : BitVec 2) (k : Kind), Running s → (s.unit b.toNat).held = true →
    b ≠ 0 → kindOf b.toNat = some k → hasArray k 0x14 = true → (s.unit b.toNat).health.fenced = false →
    ∃ t, exec (.errorUncorrectable b 0x14 region copy) s = .next t ∧
      (t.unit b.toNat).member = .falseStart ∧ (t.unit b.toNat).health.fenced = true ∧
      (t.unit b.toNat).health.epochFence = true ∧ (t.unit b.toNat).health.cause = 9 ∧ t.mem = s.mem) ∧
  (∀ (s : State) (b : Bib) (array : BitVec 8) (region : Nat) (copy : BitVec 2) (k : Kind), Running s →
    (s.unit b.toNat).held = true → b ≠ 0 → kindOf b.toNat = some k → hasArray k array = true → arrayClass array = none →
    let again : Prop := ∃ since, (s.unit b.toNat).health.resetAt = some since ∧ s.now < since + 1800000000
    ∃ t, exec (.errorUncorrectable b array region copy) s = .next t ∧
      let u := t.unit b.toNat
      u.held = true ∧ u.health.resetting = true ∧ u.health.resetAt = some s.now ∧ u.issued = [] ∧ u.inbox = [] ∧
      u.files = {} ∧ u.pacer0 = (s.unit b.toNat).pacer0 ∧ u.pacer1 = (s.unit b.toNat).pacer1 ∧ t.mg = s.mg ∧
      (again → u.health.fenced = true ∧
        ((s.unit b.toNat).health.fenced = false ∨ (s.unit b.toNat).health.cause ≠ 2 → u.health.cause = 8)) ∧
      (¬ again → u.health.fenced = (s.unit b.toNat).health.fenced ∧ u.health.cause = (s.unit b.toNat).health.cause)) ∧
  (∀ (s : State) (b : Bib) (q : BitVec 14) (i : Issued), Running s → (s.unit b.toNat).held = true → b ≠ 0 →
    (openOf (s.unit b.toNat) q.toNat).find? (fun j => !waiting s b.toNat j) = some i →
    ∃ t, exec (.hang b q) s = .next t ∧ (t.unit b.toNat).health.resetting = true ∧
      (t.unit b.toNat).health.resetAt = some s.now ∧ (t.unit b.toNat).issued = [] ∧ t.mg = s.mg) ∧
  (∀ (s : State) (array : BitVec 8) (region : Nat) (copy : BitVec 2), Running s → (s.unit 0).held = true →
    hasArray .mg array = true →
    let stops (c : Instr) : Prop := ∃ t, exec c s = .next t ∧ { t.mg with begun := s.mg.begun } = { s.mg with fatal := true } ∧ t.units = s.units ∧
      t.tables = s.tables ∧ t.finish.waiting = [] ∧
      (s.finish.scanned = true → s.finish.pfailAt = none → ∃ h, t.finish.head = some h ∧
        bitsAt (tget 0 t.finish.slots h.toNat) 0 8 = 3)
    stops (.mgFatal array) ∧ (arrayClass array = none → stops (.errorUncorrectable 0 array region copy)))

/-- GRANT, REVOKE, UPDATE and UNITRESET have the effects R402 lists; others take FORMAT; LASTUSE marks its region (R168,
R322, R391, R392, R402, R406, R407, R410, R428, R446). The order of GRANT's checks, BUSY through the drain, FORMAT at
step 5 and Coach's wait are the model's readings (log entry 32 d, a, h, m). -/
def Obligations.MarshalCommands : Prop :=
  (∀ (s : State) (a : Agent), Serving s → a.manages = true → s.mg.mbusy = false →
    let ends (t : State) (st : Status) : State := unlatched { t with mg := { t.mg with mres := st.byte, mresVres := t.mg.vres } }
    let g := bitsAt s.mg.marg 0 384
    let c := margField s 0x3C 0 10
    let r := margField s 0 0 10
    let b := margField s 0 0 12
    let busy : Prop := ∃ q ∈ queuesOfContext s c, (s.queue q).st ≠ .off
    (grantFormat s g = true → exec (.grant a) s = .next (ends s .format)) ∧
    (grantFormat s g = false → grantDenied s a c g = true → exec (.grant a) s = .next (ends s .denied)) ∧
    (grantFormat s g = false → grantDenied s a c g = false → busy → exec (.grant a) s = .next (ends s .wrongState)) ∧
    (grantFormat s g = false → grantDenied s a c g = false → ¬ busy →
      ∃ t, exec (.grant a) s = .next t ∧ t.mg.mres = 0 ∧ t.mem = s.mem ∧ t.tables.queues = s.tables.queues ∧
        t.trackers = s.trackers ∧ t.mg.tabgrant = moveTables s.mg.tabgrant (bitsAt s.mg.marg (8 * 0x30) 3) c ∧
        ∀ n, t.context n = if n = c then { s.context c with grant := g } else s.context n) ∧
    (r = 0 → exec (.revoke a) s = .next (ends s .denied)) ∧
    (r ≠ 0 → let s1 := s.setContext r { s.context r with revoking := true }
      exec (.revoke a) s = .next (unlatched (closeContext { s1 with mg := { s1.mg with mbusy := true } } r))) ∧
    (∀ op : BitVec 8, op ∉ [1, 2, 3, 4] → exec (.marshalCommandReserved a op) s = .next (ends s .format)) ∧
    (b ≠ 0 → (s.unit b).held = true → ¬ (b = 0x070 ∧ s.mg.mode = .coach) →
      ¬ ((s.unit b).health.fenced = true ∧ (s.unit b).health.cause = 3) →
      ∃ t, exec (.unitreset a) s = .next t ∧ t.mg.mres = 0 ∧
        let u := t.unit b
        u.held = true ∧ u.health.resetting = true ∧ u.health.ordered = true ∧ u.issued = [] ∧ u.files = {} ∧
        u.member = .falseStart ∧ u.pacer0 = (s.unit b).pacer0 ∧ u.pacer1 = (s.unit b).pacer1)) ∧
  (∀ (s : State) (c : BitVec 10), Running s → (s.context c.toNat).revoking = true →
    (∀ q ∈ queuesOfContext s c.toNat, (s.queue q).st = .off) →
    let s1 := s.setContext c.toNat { s.context c.toNat with grant := 0, revoking := false }
    exec (.revokeClear c) s = .next { s1 with mg := { s1.mg with
      tabgrant := dropTables s.mg.tabgrant c.toNat, mbusy := false, mres := 0, mresVres := s.mg.vres } }) ∧
  (∀ s : State, Serving s → s.mg.mbusy = false →
    let addr := margField s 0 0 32
    let h := s.readSpad addr 256
    let body := s.readSpad (addr + 256) (imgLen h)
    let hash := Config.sha384 (h.take 0x88 ++ body)
    addr % 64 = 0 → margField s 4 0 32 = 256 + imgLen h →
    (verifyImage s h body ≠ 0 → exec (.update .host) s = .next (unlatched { s with mg := { s.mg with
      vres := verifyImage s h body, meas := 0, mres := Status.format.byte, mresVres := verifyImage s h body } })) ∧
    (verifyImage s h body = 0 → ∃ t, exec (.update .host) s = .next t ∧ t.mg.vres = 0 ∧ t.mg.meas = hash ∧
      t.mg.mode = .updating ∧ t.mg.mbusy = true ∧ t.mg.updbusy = true ∧
      t.mg.update = some (wordOf 32 addr, wordOf 32 (256 + imgLen h)) ∧ t.mg.begun = false ∧ t.storage = s.storage ∧
      (∀ q ∈ queuesOfContext s 0, (t.queue q).st = .off ∨ (t.queue q).st = .closing) ∧
      (t.context 0).cstate = if queuesAll t 0 (fun x => x.st == .off) then 0 else 3)) ∧
  (∀ (s : State) (addr len : BitVec 32), Running s → s.mg.update = some (addr, len) → s.mg.installed = false → s.mg.begun = true →
    (∀ q ∈ queuesOfContext s 0, (s.queue q).st = .off) →
    let quiet : Prop := ∀ q, (s.queue q).bib = 0x070 → (s.queue q).st = .off
    let image := writeBytes s.storage.image 0 (s.readSpad addr.toNat len.toNat)
    let s' : State := { s with storage := { s.storage with image := image } }
    let v := verifyImage s' (storeHeader s') (storeBody s')
    (v = 0 → ¬ quiet → ∃ t, exec .updateInstall s = .next t ∧ t.storage.image = image ∧ t.mg.vres = 0 ∧
      t.mg.installed = true ∧ t.mg.mode = s.mg.mode ∧ t.mg.update = s.mg.update ∧ t.mg.mbusy = s.mg.mbusy ∧
      ∀ q, (s.queue q).bib = 0x070 → (t.queue q).st = (if (s.queue q).st = .off then .off else .closing) ∧
        (t.queue q).mustMove = true) ∧
    (v ≠ 0 ∨ quiet → ∃ t, exec .updateInstall s = .next t ∧ t.storage.image = image ∧ t.mg.vres = v ∧
      t.mg.meas = (if v = 0 then imageHash (storeHeader s') (storeBody s') else 0) ∧
      t.mg.mode = (if v = 0 then .coach else .minimal) ∧ t.mg.mbusy = false ∧ t.mg.updbusy = false ∧ t.mg.updint = false ∧
      t.mg.update = none ∧ t.mg.mres = (if v = 0 then 0 else Status.format.byte))) ∧
  (∀ (s : State) (p : BitVec 32 × BitVec 32), Running s → s.mg.update = some p → s.mg.installed = true → s.mg.vres = 0 →
    ((∀ q, (s.queue q).bib = 0x070 → (s.queue q).st = .off) → ∃ t, exec .updateInstall s = .next t ∧
      t.mg.mode = .coach ∧ t.mg.mbusy = false ∧ t.mg.updbusy = false ∧ t.mg.updint = false ∧ t.mg.update = none ∧
      t.mg.installed = false ∧ t.mg.mres = 0 ∧ t.storage.image = s.storage.image) ∧
    ((∃ q, (s.queue q).bib = 0x070 ∧ (s.queue q).st ≠ .off ∧ s.ownerOf q ≠ some 0) →
      exec .updateInstall s = .next s)) ∧
  (∀ (s : State) (b : Bib) (pass : Bool), Running s → (s.unit b.toNat).health.resetting = true →
    (s.unit b.toNat).health.fenced = false →
    ∃ t, exec (.unitResetDone b pass) s = .next t ∧
      let h := (t.unit b.toNat).health
      h.resetting = false ∧ h.reload = true ∧ h.fenced = true ∧
      (pass = true → h.epochFence = true ∧ h.cause = 9 ∧ (t.unit b.toNat).member = .falseStart) ∧
      (pass = false → h.epochFence = false ∧ h.cause = 1)) ∧
  (∀ (s : State) (msg : BitVec 128), Running s → lastuseOk msg = true →
    let q := (bitsAt msg 8 8).toNat
    let e := s.lastUse q
    (e.st = 0 → bitsAt msg 64 48 = s.pace.lap → bitsAt msg 32 24 = e.tensor →
      exec (.lastuse msg) s = .next (s.setLastUse q { e with st := 1, uses := bitsAt msg 16 8, laplo := bitsAt msg 64 32 })) ∧
    (¬ (e.st = 0 ∧ bitsAt msg 64 48 = s.pace.lap ∧ bitsAt msg 32 24 = e.tensor) →
      exec (.lastuse msg) s = .next (s.post 0 0 .lastuseDiscard (if e.tied then some e.ctx.toNat else none)
        (wordOf 32 (q + 256 * e.st.toNat)) (bitsAt msg 64 32) ((bitsAt msg 32 24).setWidth 32))))

/-- A column command reads or writes its stack, or a slot of an open window; a view outside one, or a bad side band,
writes nothing and reads zeros (R335, R336, R337, R339, R342, R343, R344, R345, R455). The stop at 96 GiB and the
aligned 32 bytes are the model's readings (log entries 31 and 40(e)). -/
def Obligations.ColumnCommandsReachTheStackOrAWindow : Prop :=
  (∀ (s : State) (k : BitVec 4), Running s → exec (.hostRefresh k) s = .next s) ∧
  (∀ (s : State) (k : BitVec 4) (sb : BitVec 8) (col : Column) (data : BitVec 256), Running s →
    let b := 0x089 + k.toNat
    let a := columnAddress (s.unit b).slice.addrmap col
    let w := (bitsAt sb 1 6).toNat
    let v := s.window b w
    let slot := a / wideSlot v.wdesc
    let n := a % wideSlot v.wdesc / 32
    let key := narrowKey b v slot
    let units := ceilDiv (16 + bodyBytes v.wdesc 0) 32
    let size := 16 + bodyBytes v.ndesc 0 + (if dSfmt v.ndesc = 0 then 0 else 16 + bodyBytes v.ndesc 1)
    let writes (t : State) : Prop :=
      exec (.viewWrite k sb col data) s = .next t ∧ exec (.directAccess k sb col true data) s = .next t
    let reads (t : State) (x : BitVec 256) : Prop :=
      exec (.viewRead k sb col) s = .next (t.emit (.hostData k x)) ∧
      exec (.directAccess k sb col false data) s = .next (t.emit (.hostData k x))
    let staged (t : State) : List Staged :=
      (t.unit b).slice.staging.filter (fun x => decide (x.win = wordOf 6 w) && decide (x.slot = slot))
    (sidebandOk sb = false → writes (sidebandEvent s b col) ∧ reads (sidebandEvent s b col) 0) ∧
    (sidebandOk sb = true → bitAt sb 0 = false →
      (a < 96 * 2 ^ 30 → writes { s with mem := writeBytes s.mem (stackKey k.toNat (a / 32 * 32)) (bytesLE 32 data) } ∧
        reads s (wordLE 256 (readBytes s.mem (stackKey k.toNat (a / 32 * 32)) 32))) ∧
      (96 * 2 ^ 30 ≤ a → ∀ write, exec (.directAccess k sb col write data) s = .fault .stackAddress ∧
        exec (.viewWrite k sb col data) s = .fault .stackAddress ∧ exec (.viewRead k sb col) s = .fault .stackAddress)) ∧
    (sidebandOk sb = true → bitAt sb 0 = true → (windowOpen s b w = false ∨ wNslots v.regs ≤ slot) →
      let t := s.post b b .viewRange (some (wCtx v.regs).toNat) (wordOf 32 w) (wordOf 32 a) (wordOf 32 (a / 2 ^ 32))
      writes t ∧ reads t 0) ∧
    (sidebandOk sb = true → bitAt sb 0 = true → windowOpen s b w = true → slot < wNslots v.regs →
      (∃ t x, reads t x ∧ t.mem = s.mem ∧ t.tables = s.tables ∧ (∀ m, m ≠ b → t.unit m = s.unit m) ∧
        ∃ c ∈ (t.unit b).slice.cache, c.win = wordOf 6 w ∧ c.slot = slot ∧ x = wordLE 256 ((c.bytes.drop (n * 32)).take 32)) ∧
      (units ≤ n → writes s) ∧
      (n ≠ 0 → n < units → (staged s ≠ [] ∨ (s.unit b).slice.staging.length < 64) →
        ∃ t y, writes t ∧ t.mem = s.mem ∧ t.out = s.out ∧ (∀ m, m ≠ b → t.unit m = s.unit m) ∧
          staged t = [y] ∧ tget 0 y.units n = data ∧ n ∈ y.fresh ∧
          ∀ x, (staged s).head? = some x → (∀ j, j ≠ n → tget 0 y.units j = tget 0 x.units j) ∧ ∀ j ∈ x.fresh, j ∈ y.fresh) ∧
      (∀ x, n = 0 → (staged s).head? = some x →
        ((∀ j, 0 < j → j < units → j ∈ x.fresh) →
          ∃ t, writes t ∧ staged t = [] ∧ (∀ m, m ≠ b → t.unit m = s.unit m) ∧
            (∀ c ∈ (t.unit b).slice.cache, ¬ (c.win = wordOf 6 w ∧ c.slot = slot)) ∧
            ∀ q, (q < key ∨ key + size ≤ q) → readByte t.mem q = readByte s.mem q) ∧
        ((∃ j, 0 < j ∧ j < units ∧ j ∉ x.fresh) →
          let zeros (kind : Nat) : List Byte := List.replicate (bodyBytes v.ndesc kind) 0
          ∃ t, writes t ∧ staged t = [] ∧ t.mem = writeBytes s.mem key (narrowBytes v (s.unit b).epoch slot
            (parseBlock 0 (bytesLE 32 data)).count true (zeros 0) (zeros 1))))))

/-- An end of a slice link moves through the states of R358 on the commands that complete them, and takes flits in
sequence (R357, R358, R359, R360, R363, R364, R428, R447). What resets the count of sets, that both ends retrain and go
down together, that RESTART keeps FIRST, and that a slice holds its bib from its link's ACTIVE are the model's readings
(log entry 34 a, e, f, h, i). -/
def Obligations.SliceLinksTrainAndCarryFlits : Prop :=
  ∀ (s : State) (k : BitVec 4) (mg : Bool), Running s →
    let e := s.linkEnd k.toNat mg
    let put (x : LinkEnd) : State := s.setLinkEnd k.toNat mg x
    (e.st = .detect → ∀ lanes, exec (.detectDone k mg lanes) s =
      .next (sendSet (put { e with st := .advertise, lmask := lanes, sets := 0 }) k.toNat mg 0)) ∧
    (e.st = .advertise → ∀ t,
      let heard : LinkEnd := { e with
        sets := e.sets + 1, partnerMask := bitsAt t 32 16, partnerRates := bitsAt t 16 3, partnerVmax := bitsAt t 12 4, partnerFeat := bitsAt t 64 32, partnerStack := bitsAt t 136 4 }
      (setOk t = false → exec (.trainingSet k mg t) s = .next (put { e with sets := 0 })) ∧
      (setOk t = true → e.sets < 7 → exec (.trainingSet k mg t) s = .next (put heard)) ∧
      (setOk t = true → 7 ≤ e.sets → ∀ m, (heard.modes 1).head? = some m →
        ∃ u, exec (.trainingSet k mg t) s = .next u ∧ u.linkEnd k.toNat mg =
          { heard with st := .select, mode := wordOf 4 m, ver := 1, confirmed := false })) ∧
    (e.st = .advertise → (e.fails < 2 → exec (.advertiseTimeout k mg) s =
        .next (put { e with st := .detect, fails := e.fails + 1, sets := 0 })) ∧
      (2 ≤ e.fails → ∃ u, exec (.advertiseTimeout k mg) s = .next u ∧ (u.linkEnd k.toNat mg).st = .down)) ∧
    (e.st = .select → ∀ t, setOk t = true → setStep t = 1 →
      (setMode t = e.mode → setVer t = e.ver →
        exec (.trainingSet k mg t) s = .next (put { e with st := .train, confirmed := false })) ∧
      (¬ (setMode t = e.mode ∧ setVer t = e.ver) → e.mismatches = 0 →
        ∃ u, exec (.trainingSet k mg t) s = .next u ∧
          u.linkEnd k.toNat mg = { e with st := .advertise, mismatches := 1, sets := 0 }) ∧
      (¬ (setMode t = e.mode ∧ setVer t = e.ver) → 0 < e.mismatches →
        ∃ u, exec (.trainingSet k mg t) s = .next u ∧ (u.linkEnd k.toNat mg).st = .down)) ∧
    (e.st = .train → e.confirmed = false →
      exec (.trainDone k mg true) s = .next (sendSet (put { e with confirmed := true }) k.toNat mg 2) ∧
      (∀ m, (e.modes (e.mode.toNat + 1)).head? = some m → ∃ u, exec (.trainDone k mg false) s = .next u ∧
        (u.linkEnd k.toNat mg).st = .select ∧ (u.linkEnd k.toNat mg).mode = wordOf 4 m) ∧
      (e.modes (e.mode.toNat + 1) = [] → ∃ u, exec (.trainDone k mg false) s = .next u ∧
        (u.linkEnd k.toNat mg).st = .down)) ∧
    (e.st = .train → e.confirmed = true → ∀ t, setOk t = true → setStep t = 2 →
      ∃ u, exec (.linkActive k mg t) s = .next u ∧ exec (.trainingSet k mg t) s = .next u ∧
        (u.linkEnd k.toNat mg).st = .active ∧ (u.linkEnd k.toNat mg).mode = e.mode ∧
        (u.linkEnd k.toNat mg).retraining = false ∧ (mg = true → (u.unit (0x089 + k.toNat)).held = true)) ∧
    (e.st = .down → ∃ u, exec (.linkDown k) s = .next u ∧ (u.linkEnd k.toNat true).st = .down ∧
      (u.linkEnd k.toNat false).st = .down ∧ ((s.linkEnd k.toNat true).st ≠ .down →
        (u.unit (0x089 + k.toNat)).health.fenced = true ∧
          ((s.unit (0x089 + k.toNat)).health.fenced = false → (u.unit (0x089 + k.toNat)).health.cause = 4))) ∧
    (s.mg.step = .ready → ∀ a : Agent, a.manages = true →
      (e.st = .active → (s.linkEnd k.toNat true).st = .active →
        let again (u : State) (st : LinkState) (least : BitVec 4) : Prop :=
          (u.linkEnd k.toNat mg) = { e with
            retraining := true, fails := 0, mismatches := 0, sets := 0, resends := 0, confirmed := false, cause := 3,
            least := least, st := st }
        (∃ u, exec (.retrain a k) s = .next u ∧ again u .advertise e.mode) ∧
        (∃ u, exec (.retrainUp a k) s = .next u ∧ again u .detect 1)) ∧
      ((s.linkEnd k.toNat true).st = .down → ∃ u, exec (.restart a k) s = .next u ∧
        u.linkEnd k.toNat mg = { st := .detect, first := e.first } ∧ { u with links := s.links, units := s.units } = unlatched s ∧
        ∀ n, n ≠ 0x089 + k.toNat → u.unit n = s.unit n)) ∧
    (e.st = .active → ∀ f,
      let heard := e.acked (fAck f)
      (flitOk f = false → exec (.flit k mg f) s = .next (sendFlit s k.toNat mg true)) ∧
      let past : Prop := fSeq f ≠ e.seqGot + 1 ∧ (e.seqGot - fSeq f).toNat < 128
      (flitOk f = true → past → fNak f = false → exec (.flit k mg f) s = .next (put heard)) ∧
      (flitOk f = true → past → fNak f = true → heard.replay ≠ [] → heard.resends < 15 →
        ∃ u, exec (.flit k mg f) s = .next u ∧ u.linkEnd k.toNat mg = { heard with resends := heard.resends + 1 } ∧
          u.out = s.out ++ heard.replay.map (fun x => .flit k mg x)) ∧
      (flitOk f = true → fSeq f ≠ e.seqGot + 1 → 128 ≤ (e.seqGot - fSeq f).toNat → fNak f = false →
        exec (.flit k mg f) s = .next (sendFlit (put heard) k.toNat mg true)) ∧
      (flitOk f = true → fSeq f = e.seqGot + 1 → fNch f = 0 →
        ∃ u, exec (.flit k mg f) s = .next u ∧ (u.linkEnd k.toNat mg).seqGot = fSeq f ∧
          (u.linkEnd k.toNat mg).partialMsg = e.partialMsg ∧ u.mem = s.mem ∧ u.units = s.units ∧ u.tables = s.tables)) ∧
    (e.st = .active → e.replay ≠ [] →
      (e.resends < 15 → exec (.flitResendTimeout k mg) s = .next
        { put { e with resends := e.resends + 1 } with out := s.out ++ e.replay.map (fun f => .flit k mg f) }) ∧
      (15 ≤ e.resends → ∃ u, exec (.flitResendTimeout k mg) s = .next u ∧ (u.linkEnd k.toNat mg).st = .advertise ∧
        (u.linkEnd k.toNat mg).retraining = true ∧ (u.linkEnd k.toNat mg).cause = 1))

/-- A slice-link message of the right form brings what its type carries; one of a wrong form is discarded with MALFORMED
(R16, R311, R346, R354, R355, R361, R362, R425). How MGMT and SCALE travel, and that an unasked SCALE is dropped, is the
model's reading (log entry 29). -/
def Obligations.MessagesAreTakenByTheirType : Prop :=
  ∀ (s : State) (b : Bib) (m : List Byte), Running s →
    let w (i : Nat) : BitVec 32 := msgWord m i
    let body := msgRest m
    let bad (receiver sender : Nat) : State := s.post receiver receiver .malformed none 3 (w 0) (wordOf 32 sender)
    (isFar b.toNat = true → (s.unit b.toNat).held = true → (s.unit b.toNat).health.resetting = false →
      let n := (bitsAt (w 1) 14 2).toNat + 1
      let item : Arrived := ⟨(bitsAt (w 1) 0 14).toNat, bitsAt (w 1) 16 16, (chunksOf 32 n body).map (wordLE 256)⟩
      let s1 := s.onUnit b.toNat (fun u => { u with inbox := u.inbox ++ [item] })
      (linkMsgOk m 0x10 (1 + 2 * n) 0xFFFFFFFF 0 0 = true → exec (.descMessage b m) s =
        .next (if mayIssue s1 b.toNat then issueReceived s1 b.toNat else s1)) ∧
      (linkMsgOk m 0x10 (1 + 2 * n) 0xFFFFFFFF 0 0 = false → exec (.descMessage b m) s = .next (bad b.toNat 0))) ∧
    (let q := (bitsAt (w 1) 0 14).toNat
      let x := s.queue q
      complOk m = true → x.bib = b → 0 < x.owed → x.st = .run →
      (x.halte = false ∨ (statusOf (body.getD 3 0)).halting = false) →
      ∃ t, exec (.compl b m) s = .next t ∧ t.units = s.units ∧
        t.queue q = { x with
          seq := x.seq + 1, ctail := x.ctail + 1, owed := x.owed - 1, head := x.head + wordOf 16 (ringInstr s x x.head).length } ∧
        t.mem = writeBytes s.mem (spadKey (x.cbase.toNat + 48 * (x.ctail.toNat % 2 ^ (x.csize.toNat + 4))))
          (body.take 4 ++ bytesLE 2 (x.seq + 1) ++ body.drop 6)) ∧
    (complOk m = false → exec (.compl b m) s = .next (bad 0 b.toNat)) ∧
    (summOk m = false → exec (.summ b m) s = .next (bad 0 b.toNat)) ∧
    (summOk m = true →
      exec (.summ b m) s = .next (writeSlot s (bitsAt (w 1) 0 10).toNat (bitsAt (w 1) 16 8).toNat body)) ∧
    (linkMsgOk m 0x13 3 0x01FF3FFF 0xFFFFFFFF 0 = true → w 10 = 0 → w 11 = 0 →
      let report : Report := {
        entry := bitsAt (w 1) 0 14, lap8 := bitsAt (w 1) 16 8, par := bitAt (w 1) 24,
        data := { amax := bitsAt (w 2) 0 16, capmax := bitsAt (w 2) 16 16, nan := w 4, clip := w 5, flush := w 6,
                  overflow := w 7, flagged := w 8, otiles := w 9 } }
      exec (.statsMessage b m) s =
        .next { s with trackers := { s.trackers with reports := s.trackers.reports ++ [report] } }) ∧
    (linkMsgOk m 0x14 4 0x01FF3FFF 0 0 = true → w 14 = 0 → w 15 = 0 →
      let part : Partial := {
        watch := bitsAt (w 1) 0 12, sum := leNat (body.take 40), nonfin := bitAt (w 1) 12, satur := bitAt (w 1) 13,
        close := false, lap8 := bitsAt (w 1) 16 8, par := bitAt (w 1) 24, bare := false }
      exec (.norm b m) s = .next { s with trackers := { s.trackers with partials := s.trackers.partials ++ [part] } }) ∧
    (let c := (bitsAt (w 1) 0 10).toNat
      let k := (bitsAt (w 1) 16 8).toNat
      (linkMsgOk m 0x15 1 0x00FF03FF 0 0 = true →
        exec (.progreq b m) s = .next (sendMsg s true b.toNat (linkMsg 0x16 (w 1) 0 0 (bytesLE 128 (s.program c k))))) ∧
      (linkMsgOk m 0x16 9 0x00FF03FF 0 0 = true → (c, k) ∈ (s.unit b.toNat).asked →
        ∃ t, exec (.progMessage b m) s = .next t ∧ (c, k, wordLE 1024 body) ∈ (t.unit b.toNat).programs ∧
          (t.unit b.toNat).asked = (s.unit b.toNat).asked.erase (c, k) ∧ (∀ n, n ≠ b.toNat → t.unit n = s.unit n) ∧
          { t with units := s.units } = s)) ∧
    (kindOf b.toNat = some .sl →
      let num := (bitsAt (w 1) 0 16).toNat
      let tag := bitsAt (w 1) 16 16
      let asked : Prop := ∃ n, ((bitsAt (w 1) 0 16, tag), n) ∈ (s.unit b.toNat).slice.scaleAsked
      let e := s.stream num
      (scaleOk s b.toNat true m = true → asked → ∃ t, exec (.scaleMessage b true m) s = .next t ∧
        { t with units := s.units } = s ∧ (∀ n, n ≠ b.toNat → t.unit n = s.unit n) ∧
        (t.unit b.toNat).slice.scaleIn = (s.unit b.toNat).slice.scaleIn ++
          [((bitsAt (w 1) 0 16, tag), body.take (scaleSize s b.toNat true m))]) ∧
      (scaleOk s b.toNat true m = true → ¬ asked → exec (.scaleMessage b true m) s = .next s) ∧
      (∀ key, scaleOk s b.toNat false m = true → e.pspace = 1 → e.kind = 1 → e.st ≠ .free →
        blockKey e (scaleDesc s b.toNat num) 1 tag = some key → ∃ t, exec (.scaleMessage b false m) s = .next t ∧
          t.mem = writeBytes s.mem key (body.take (scaleSize s b.toNat false m)) ∧
          t.stream num = (if tag = e.wtag then { e with wtag := e.wtag + 1 } else e) ∧
          (∀ n, n ≠ num → t.stream n = s.stream n) ∧ ∀ n, n ≠ b.toNat → t.unit n = s.unit n) ∧
      (scaleOk s b.toNat true m = false → exec (.scaleMessage b true m) s = .next (bad b.toNat 0)) ∧
      (scaleOk s b.toNat false m = false → exec (.scaleMessage b false m) s = .next (bad 0 b.toNat))) ∧
    (linkMsgOk m 0x18 2 0 0 0 = true → batonMsgOk (wordLE 128 body) = true →
      exec (.batonMessage b true m) s = .next (settleFar (unitTakes s b.toNat (wordLE 128 body)) b.toNat) ∧
      exec (.batonMessage b false m) s = .next (mgTakes s (wordLE 128 body))) ∧
    (isFar b.toNat = true → (s.unit b.toNat).held = true → linkMsgOk m 0x1A 1 0xFF03FFFF 0xFFFFFFFF 0xFFFFFFFF = true →
      let off := (bitsAt (w 1) 0 16).toNat
      let wide := bitAt (w 1) 17
      let reply (st : Status) (d : BitVec 32 × BitVec 32) : List Byte :=
        linkMsg 0x1B (st.byte.setWidth 32 ||| ((bitsAt (w 1) 24 8).setWidth 32 <<< 24)) d.1 d.2 []
      (off % (if wide then 8 else 4) ≠ 0 → exec (.mgmt b m) s = .next (sendMsg s false b.toNat (reply .format (0, 0)))) ∧
      (off % (if wide then 8 else 4) = 0 → bitAt (w 1) 16 = false →
        exec (.mgmt b m) s = .next (sendMsg s false b.toNat (reply .ok (mgmtAnswer s b.toNat off wide)))) ∧
      (off % (if wide then 8 else 4) = 0 → bitAt (w 1) 16 = true →
        exec (.mgmt b m) s =
          .next (sendMsg (mgmtWrite s b.toNat off wide (w 2) (w 3)) false b.toNat (reply .ok (0, 0))))) ∧
    (mgmtrOk m = true → exec (.mgmtr b m) s = .next s) ∧
    (mgmtrOk m = false → exec (.mgmtr b m) s = .next (bad 0 b.toNat)) ∧
    (eventMsgOk m = false → exec (.eventMessage b m) s = .next (bad 0 b.toNat))

/-- Groups open, agree, refuse, time out and close as R372 says; relay messages are acted on in order, acknowledged,
resent and ended (R367, R370, R371, R372, R375, R376, R377, R378, R381, R439). A message not yet actable, PEER_TIMEOUT's
ABORTs, a late START and who may write GCMD are the model's readings (log entry 35 e, j, l, n). -/
def Obligations.RelayGroupsNegotiateAndMove : Prop :=
  (∀ (s : State) (a : Agent) (b : Bib) (gi : BitVec 8), Serving s → kindOf b.toNat = some .rl →
    (s.unit b.toNat).held = true → mayCommand a (s.group b.toNat gi.toNat).ctx.toNat = true →
    let g := s.group b.toNat gi.toNat
    let g1 : Group := { g with st := .negotiating, ver := 0, pcommon := 0, links := [], starts := [], doomed := [] }
    let v (op : Nat) : BitVec 32 := wordOf 32 (gi.toNat + 256 * op)
    exec (.groupOpen a b gi) s = .next (unlatched (relayPlain s b.toNat 0x100 (v 0))) ∧
    exec (.groupClose a b gi) s = .next (unlatched (relayPlain s b.toNat 0x100 (v 1))) ∧
    (g.st = .closed ∨ g.st = .failed →
      mgmtWrite s b.toNat 0x100 false (v 0) 0 = sendHellos (s.setGroup b.toNat gi.toNat g1) b.toNat g1) ∧
    ((∀ i ∈ (s.unit b.toNat).issued, i.op.isRelay = true → i.active = true → rlGroup i.body ≠ gi.toNat) →
      mgmtWrite s b.toNat 0x100 false (v 1) 0 = s.setGroup b.toNat gi.toNat { g with st := .closed, ver := 0 })) ∧
  (∀ (s : State) (b : Bib) (gi : BitVec 8), Running s → (s.group b.toNat gi.toNat).st = .negotiating →
    let g := s.group b.toNat gi.toNat
    exec (.helloRepeat b gi) s = .next (sendHellos s b.toNat g) ∧
    ∃ t, exec (.negotiationTimeout b gi) s = .next t ∧ t.group b.toNat gi.toNat = { g with st := .failed, ver := 0 } ∧
      ∀ m, m ≠ b.toNat → t.unit m = s.unit m) ∧
  (∀ (s : State) (b : Bib) (peer : BitVec 16) (m : List Byte) (gi : Nat) (g : Group), Hears s b 0x01 m gi g →
    g.st = .negotiating →
    let r := rmSrank m
    let g1 := g.onPeer r (fun p => { p with hello := some (bitsAt (msgWord m 4) 0 4, bitsAt (msgWord m 4) 16 16) })
    (bitsAt (msgWord m 5) 0 7 = g.nmem → tget 0 g.peers r = peer → g1.heardAll = false →
      exec (.hello b peer m) s = .next (s.setGroup b.toNat gi g1)) ∧
    (bitsAt (msgWord m 5) 0 7 ≠ g.nmem ∨ tget 0 g.peers r ≠ peer → ∃ t, exec (.hello b peer m) s = .next t ∧
      t.group b.toNat gi = { g with st := .failed, ver := 0 })) ∧
  (∀ (s : State) (b : Bib) (peer : BitVec 16) (m : List Byte) (gi : Nat) (g : Group), Hears s b 0x02 m gi g →
    g.st = .negotiating → g.heardAll = true →
    let said : BitVec 4 × BitVec 16 := (bitsAt (msgWord m 4) 0 4, bitsAt (msgWord m 4) 16 16)
    let g1 := g.onPeer (rmSrank m) (fun p => { p with agree := some said })
    ((∀ r ∈ g.others, (g1.peer r).agree = some (g.ver, g.pcommon)) → exec (.agree b peer m) s = .next
      (s.setGroup b.toNat gi { g1 with st := .opened, cseq := 0, links := [], starts := [], doomed := [] })) ∧
    (said ≠ (g.ver, g.pcommon) → ∃ t, exec (.agree b peer m) s = .next t ∧ (t.group b.toNat gi).st = .failed)) ∧
  (∀ (s : State) (b : Bib) (peer : BitVec 16) (m : List Byte) (gi : Nat) (g : Group), Hears s b 0x03 m gi g →
    g.st = .negotiating → ∃ t, exec (.refuse b peer m) s = .next t ∧ t.group b.toNat gi = { g with st := .failed, ver := 0 }) ∧
  (∀ (s : State) (b : Bib) (peer : BitVec 16) (m : List Byte) (gi : Nat) (g : Group), g.st = .opened →
    let r := rmSrank m
    let old := (g.peer r).unacked
    let out (l : List Unacked) : List Out := l.map (fun x => .relay b (tget 0 g.peers r) x.bytes)
    (Hears s b 0x11 m gi g → old.length ≤ 64 → exec (.dack b peer m) s = .next (s.setGroup b.toNat gi
      (g.onPeer r (fun p => { p with unacked := old.filter (fun x => decide (x.mseq ≠ msgWord m 2)) })))) ∧
    (Hears s b 0x12 m gi g → exec (.relayNak b peer m) s = .next { s with
      out := s.out ++ out ((old.take 64).filter (fun x => decide ((x.mseq - msgWord m 2).toNat < 2 ^ 31))) }) ∧
    (∀ type c, Hears s b type m gi g →
      (match type with
        | 0x10 => some (.relayData b peer m) | 0x20 => some (.relayStart b peer m) | 0x21 => some (.relayAbort b peer m)
        | _ => none) = some c →
      (msgWord m 2 ≠ (g.peer r).nextRecv → ((g.peer r).nextRecv - msgWord m 2).toNat < 2 ^ 31 →
        exec c s = .next (s.emit (dackOf b g m))) ∧
      (msgWord m 2 ≠ (g.peer r).nextRecv → 2 ^ 31 ≤ ((g.peer r).nextRecv - msgWord m 2).toNat →
        exec c s = .next (s.emit (.relay b (tget 0 g.peers r)
          (relayMsg 0x12 g.wireVer g.rank.toNat r g.gkey (g.peer r).nextRecv (msgWord m 3) 0 0 0 []))))) ∧
    (msgWord m 2 = (g.peer r).nextRecv →
      let next (h : Group) : State := s.setGroup b.toNat gi (h.onPeer r (fun p => { p with nextRecv := p.nextRecv + 1 }))
      let start : EarlyStart :=
        ⟨rmCseq m, msgWord m 4, bitsAt (msgWord m 5) 0 4, bitsAt (msgWord m 6) 0 16, bitsAt (msgWord m 6) 16 16, bitsAt (msgWord m 3) 16 4⟩
      (Hears s b 0x20 m gi g → transferAt s b.toNat gi (rmCseq m) = none → (rmCseq m - g.cseq).toNat < 2 ^ 15 →
        ∃ t, exec (.relayStart b peer m) s = .next t ∧ t.group b.toNat gi =
          ({ g with starts := g.starts ++ [start] } : Group).onPeer r (fun p => { p with nextRecv := p.nextRecv + 1 }) ∧
          t.out = s.out ++ [dackOf b g m]) ∧
      (∀ i, Hears s b 0x20 m gi g → transferAt s b.toNat gi (rmCseq m) = some i → startDiffers i start = false →
        exec (.relayStart b peer m) s = .next ((next g).emit (dackOf b g m))) ∧
      (∀ i, Hears s b 0x21 m gi g → transferAt s b.toNat gi (rmCseq m) = some i → placed s b i = some i →
        ∃ t j, exec (.relayAbort b peer m) s = .next t ∧ placed t b i = some j ∧ j.stopAs = some .timeout ∧
          (j.finished = none ∨ j.finished = some .timeout) ∧ dackOf b g m ∈ t.out) ∧
      (Hears s b 0x21 m gi g → transferAt s b.toNat gi (rmCseq m) = none → (rmCseq m - g.cseq).toNat < 2 ^ 15 →
        (∀ x ∈ g.doomed, x.1 ≠ rmCseq m) → ∃ t, exec (.relayAbort b peer m) s = .next t ∧ dackOf b g m ∈ t.out ∧
          (t.group b.toNat gi).doomed = g.doomed ++ [(rmCseq m, .timeout)]) ∧
      (∀ i, Hears s b 0x10 m gi g → transferAt s b.toNat gi (rmCseq m) = some i → placed s b i = some i →
        rlChan i.body = rmChan m → rlSvc i.body = rmSvc m → i.transfer.started = true → msgWord m 4 = i.transfer.wdesc →
        r = g.prev →
        let tile := (bitsAt (msgWord m 5) 0 24).toNat
        let n := g.nmem.toNat
        let rank := g.rank.toNat
        let moves (f : Transfer → Nat) : Prop := ∃ t j, exec (.relayData b peer m) s = .next t ∧ placed t b i = some j ∧
          f j.transfer = tile + 1 ∧ dackOf b g m ∈ t.out
        tile < i.total →
        (bitAt (msgWord m 5) 24 = false → i.transfer.nextReduce = tile → reduceRole i n rank tile = .hop →
          shareReady s i = true → sendReady g = true → moves Transfer.nextReduce) ∧
        (bitAt (msgWord m 5) 24 = false → i.transfer.nextReduce = tile → reduceRole i n rank tile = .own →
          (i.op = .relayReceive ∨ shareReady s i = true) → (gatherRole i n rank tile ≠ .none ∨ destReady s i = true) →
          moves Transfer.nextReduce) ∧
        (bitAt (msgWord m 5) 24 = true → i.transfer.nextGather = tile → gatherRole i n rank tile = .hop →
          destReady s i = true → sendReady g = true → moves Transfer.nextGather)))) ∧
  (∀ (s : State) (b : Bib) (gi : BitVec 8) (rank : BitVec 6), Running s → (s.group b.toNat gi.toNat).st = .opened →
    let g := s.group b.toNat gi.toNat
    exec (.resendTimeout b gi rank) s = .next { s with
      out := s.out ++ ((g.peer rank.toNat).unacked.take 64).map (fun x => .relay b (tget 0 g.peers rank.toNat) x.bytes) }) ∧
  (∀ (s : State) (b : Bib) (q : BitVec 14) (rank : BitVec 6) (i : Issued), Running s → (s.unit b.toNat).held = true →
    (s.unit b.toNat).health.resetting = false →
    (openOf (s.unit b.toNat) q.toNat).find? (fun j => j.op.isRelay && j.stopAs.isNone) = some i →
    let g := s.group b.toNat (rlGroup i.body)
    g.st = .opened → (rank.toNat = g.prev ∨ rank.toNat = g.next) →
    ((s.unit b.toNat).issued.map (fun j => (j.queue, j.slot))).Nodup →
    ∃ t, exec (.peerTimeout b q rank) s = .next t ∧ (t.group b.toNat (rlGroup i.body)).st = .failed ∧
      transfersOf t b.toNat (rlGroup i.body) = []) ∧
  (∀ (s : State) (b : Bib), Running s → kindOf b.toNat = some .rl → (s.unit b.toNat).held = true →
    ((s.unit b.toNat).issued.map (fun j => (j.queue, j.slot))).Nodup →
    ∃ t, exec (.lossOfLink b) s = .next t ∧ ∀ gi, (s.group b.toNat gi).st = .opened →
      (t.group b.toNat gi).st = .failed ∧ transfersOf t b.toNat gi = []) ∧
  (∀ (s : State) (b : Bib) (region : BitVec 6), Running s →
    let w := tget 0 (s.unit b.toNat).relay.resid region.toNat
    bitAt w 15 = true → regionBusy (s.unit b.toNat) region.toNat = false →
    ∃ t, exec (.residualExchange b region) s = .next t ∧ { t with units := s.units } = s ∧
      (∀ m, m ≠ b.toNat → t.unit m = s.unit m) ∧
      ∀ n, tget 0 (t.unit b.toNat).relay.resid n = if n = region.toNat then (w ^^^ 0x4000) &&& ~~~0x8000#128
        else tget 0 (s.unit b.toNat).relay.resid n) ∧
  (∀ (s : State) (b : Bib) (gi : BitVec 8) (c : BitVec 16), Running s →
    let g := s.group b.toNat gi.toNat
    g.st = .opened → (∃ x ∈ g.starts, x.cseq = c) →
    ∃ t, exec (.startMismatchTimeout b gi c) s = .next t ∧
      (t.group b.toNat gi.toNat).starts = g.starts.filter (fun x => decide (x.cseq ≠ c)) ∧
      (∃ st, (c, st) ∈ (t.group b.toNat gi.toNat).doomed ∧ ((∀ x ∈ g.doomed, x.1 ≠ c) → st = .format)) ∧
      ∀ r ∈ g.others, ((t.group b.toNat gi.toNat).peer r).nextSend = (g.peer r).nextSend + 1)

/-- Every step keeps the tables of units, queues, contexts, streams, tracked entries and watches in canonical form. -/
def Obligations.EveryStepKeepsTablesCanonical : Prop :=
  ∀ s t : State, TablesOk s → Sys2Proof.Machine.step s = .next t → TablesOk t

/-- Every step keeps BSTATE in step with the announcement: STAGING only before a commit point, ARMED only while an
announcement stands (R198, R200, R211). -/
def Obligations.EveryStepKeepsBatonAndAnnouncement : Prop :=
  ∀ s t : State, BatonOk s → Sys2Proof.Machine.step s = .next t → BatonOk t

/-- A floating destination takes the grid point that RNE, RTZ or SR names, with overflow, FTZ, zeros, infinities and NaN
as R69 to R78 say (R34, R35, R63, R65, R66, R67, R68, R69, R70, R73, R74, R78). -/
def Obligations.FloatConversionRoundsOnce : Prop :=
  ∀ f ∈ [f32, f16, bf16, e4m3, e5m2, e3m2, e2m3, e2m1],
    let mag (c : Nat) : ℚ := f.magnitude c
    let code (neg : Bool) (c : Nat) : Nat := if neg then c + 2 ^ (f.eBits + f.mBits) else c
    let small : Bool := decide (f.width ≤ 6)
    let inf (s : Bool) : Nat := if f = e4m3 then 0x7F else if small then code s f.maxCode else code s (f.maxCode + 1)
    (∀ c, mag c = if c / 2 ^ f.mBits = 0 then (c : ℚ) * (2 : ℚ) ^ (1 - f.bias - f.mBits)
      else (1 + ((c % 2 ^ f.mBits : Nat) : ℚ) / (2 : ℚ) ^ f.mBits) * (2 : ℚ) ^ (((c / 2 ^ f.mBits : Nat) : Int) - f.bias)) ∧
    (∀ c neg, c ≤ f.maxCode → f.decode (code neg c) = .fin (if neg then -mag c else mag c) neg ∧
      ∀ m sat, f.encode m sat false (f.decode (code neg c)) false = (code neg c, .none)) ∧
    (∀ q : ℚ, q ≠ 0 →
      let y := |q|
      let n := f.roundCode .rne q
      let a := f.roundCode .rtz q
      (∀ c, |mag n - y| ≤ |mag c - y| ∧ (c ≠ n → |mag n - y| = |mag c - y| → n % 2 = 0)) ∧
      mag a ≤ y ∧ y < mag (a + 1) ∧
      ∀ w : BitVec 16, f.roundCode (.sr w) q =
        if 65536 ≤ ⌊(y - mag a) / (mag (a + 1) - mag a) * 65536⌋ + (w.toNat : Int) then a + 1 else a) ∧
    (∀ (m : Round) (sat ftz dz : Bool) (q : ℚ), q ≠ 0 →
      let s := decide (q < 0)
      let c := f.roundCode m q
      let beyond : Prop := f.maxCode < c ∨ (m = .rtz ∧ mag f.maxCode < |q|)
      (beyond → m = .rtz ∨ sat = true → f.encode m sat ftz (.fin q s) dz = (code s f.maxCode, .clip)) ∧
      (beyond → m ≠ .rtz → sat = false → f.encode m sat ftz (.fin q s) dz = (inf s, .clip)) ∧
      (¬ beyond → c = 0 ∨ (ftz = true ∧ c < 2 ^ f.mBits) → f.encode m sat ftz (.fin q s) dz = (code s 0, .flush)) ∧
      (¬ beyond → c ≠ 0 → ftz = false ∨ 2 ^ f.mBits ≤ c → f.encode m sat ftz (.fin q s) dz = (code s c, .none))) ∧
    (∀ (m : Round) (sat ftz dz s : Bool),
      f.encode m sat ftz (.nan s) dz =
        (if small then code s f.maxCode else if f = e4m3 then 0x7F else f.maxCode + 1 + 2 ^ (f.mBits - 1), .nan) ∧
      f.encode m sat ftz (.inf s) dz = (if sat then code s f.maxCode else inf s,
        if sat || decide (f = e4m3) || small then .clip else .none) ∧
      f.encode m sat ftz (.fin 0 s) dz = (code s 0, if dz then .flush else .none))

/-- Integer and codebook elements: the value of a code, the rounding and limits of a result, the nearest entry, and what
is counted (R39, R41, R50, R51, R63, R66, R68, R71, R72, R73, R78, R116). What a UINT destination without groups counts
on a side whose limit is 0 is the model's reading (log entry 51). -/
def Obligations.IntegerAndCodebookConversion : Prop :=
  (∀ q : ℚ,
    let n := roundInt .rne q
    let z := roundInt .rtz q
    |q - n| ≤ 1 / 2 ∧ (|q - n| = 1 / 2 → n % 2 = 0) ∧
    |(z : ℚ)| ≤ |q| ∧ |q| < |(z : ℚ)| + 1 ∧ 0 ≤ (z : ℚ) * q ∧
    ∀ w : BitVec 16, roundInt (.sr w) q =
      if 65536 ≤ ⌊(abs q - abs (z : ℚ)) * 65536⌋ + (w.toNat : Int) then (if q < 0 then z - 1 else z + 1) else z) ∧
  (∀ (d : Desc) (w z : Nat) (book : List Nat), elemOf (dElem d) = some (.int w) →
    let hi : Int := 2 ^ (w - 1) - 1
    let lo : Int := -(2 ^ (w - 1)) + (if dSym d then 1 else 0)
    let bits (n : Int) : Nat := (n % 2 ^ w).toNat
    (∀ c, c < 2 ^ w → codeVal d z book c = (xint (if c < 2 ^ (w - 1) then c else (c : Int) - 2 ^ w), false)) ∧
    (∀ (m : Round) (q : ℚ) (s dz : Bool),
      let n := roundInt m q
      encodeElem d z book m (.fin q s) dz = (bits (max lo (min hi n)),
        if n < lo ∨ hi < n ∨ (m = .rtz ∧ (q < lo ∨ (hi : ℚ) < q)) then .clip
        else if n = 0 ∧ (q ≠ 0 ∨ dz = true) then .flush else .none)) ∧
    (∀ m s dz, encodeElem d z book m (.nan s) dz = (bits (if s then lo else hi), .nan) ∧
      encodeElem d z book m (.inf s) dz = (bits (if s then lo else hi), .clip))) ∧
  (∀ (d : Desc) (w z : Nat) (book : List Nat), elemOf (dElem d) = some (.uint w) →
    let hi : Int := 2 ^ w - 1
    (∀ c, codeVal d z book c = (xint ((c : Int) - z), false)) ∧
    (∀ (m : Round) (q : ℚ) (s dz : Bool),
      let n := roundInt m q
      let noSide : Prop := dZpm d = 1 ∧ dSfmt d ≠ 0 ∧ ((q < 0 ∧ z = 0) ∨ (0 < q ∧ z + 1 = 2 ^ w))
      (noSide → encodeElem d z book m (.fin q s) dz = (z, .clip)) ∧
      (¬ noSide → encodeElem d z book m (.fin q s) dz = ((max 0 (min hi (n + z))).toNat,
        if n + z < 0 ∨ hi < n + z ∨ (m = .rtz ∧ (q < -(z : ℚ) ∨ (hi : ℚ) - z < q)) then .clip
        else if n = 0 ∧ (q ≠ 0 ∨ dz = true) then .flush else .none))) ∧
    (∀ m s dz, encodeElem d z book m (.nan s) dz = (if s then 0 else hi.toNat, .nan) ∧
      encodeElem d z book m (.inf s) dz = (if s then 0 else hi.toNat, .clip))) ∧
  (∀ (d : Desc) (k z : Nat) (book : List Nat) (m : Round), elemOf (dElem d) = some (.code k) →
    let e (c : Nat) : ℚ := (bookVals d book).getD c 0
    (∀ (q : ℚ) (s dz : Bool),
      let r := encodeElem d z book m (.fin q s) dz
      r.1 < 2 ^ k ∧ (∀ c, c < 2 ^ k → |q - e r.1| ≤ |q - e c| ∧ (c < r.1 → |q - e r.1| < |q - e c|)) ∧
      ((∀ c, c < 2 ^ k → e c < q) ∨ (∀ c, c < 2 ^ k → q < e c) → r.2 = .clip) ∧
      (¬ ((∀ c, c < 2 ^ k → e c < q) ∨ (∀ c, c < 2 ^ k → q < e c)) →
        r.2 = if e r.1 = 0 ∧ (q ≠ 0 ∨ dz = true) then .flush else .none)) ∧
    (∀ s dz,
      let r := encodeElem d z book m (.nan s) dz
      encodeElem d z book m (.inf s) dz = (r.1, .clip) ∧ r.2 = .nan ∧ r.1 < 2 ^ k ∧
      ∀ c, c < 2 ^ k → (s = false → e c ≤ e r.1 ∧ (c < r.1 → e c < e r.1)) ∧
        (s = true → e r.1 ≤ e c ∧ (c < r.1 → e r.1 < e c)))) ∧
  (∀ (d : Desc) (z : Nat) (book codes : List Nat), decodeGroup d none z book codes = codes.map (fun c => ⟨.nan false, false, c⟩)) ∧
  (∀ (d : Desc) (z c : Nat) (book : List Nat) (v x : ℚ) (n dz : Bool), 0 < v → codeVal d z book c = (.fin x n, dz) →
    (x ≠ 0 → n = decide (x < 0)) →
    decodeGroup d (some v) z book [c] =
      [⟨.fin (x * (if dElem d = 0x10 ∧ dSfmt d = 1 then v / 64 else v)) n, dz, c⟩])

/-- Under FIT the scale of a group is the least valid one that is at least A / Q, clamped at both ends, and then every
number fits Q (R113). -/
def Obligations.FitScaleIsTheLeastThatHolds : Prop :=
  ∀ (d : Desc) (zc : Nat) (book : List Nat) (us : List ℚ) (A : ℚ), (dSfmt d = 1 ∨ dSfmt d = 2 ∨ dSfmt d = 3) →
    dIsUint d = false → 0 < A → (∀ u ∈ us, |u| ≤ A) → (∃ u ∈ us, |u| = A) →
    let Q := targetMag d book
    let valid (x : ℚ) : Prop := ∃ c, c < 2 ^ (8 * scaleBytes (dSfmt d)) ∧ scaleVal (dSfmt d) c = some x
    0 < Q → ∃ S, scaleVal (dSfmt d) (chooseScale d false zc book us).1 = some S ∧ valid S ∧
      ((∃ x, valid x ∧ A / Q ≤ x) → A / Q ≤ S ∧ (∀ x, valid x → A / Q ≤ x → S ≤ x) ∧ ∀ u ∈ us, |u / S| ≤ Q) ∧
      ((∀ x, valid x → x < A / Q) → ∀ x, valid x → x ≤ S) ∧
      (dSfmt d = 1 → S = (2 : ℚ) ^ max (-127) (min 127 (Int.clog 2 (A / Q)))) ∧
      (dSfmt d = 2 → (2 : ℚ) ^ (-126 : Int) ≤ S ∧ S ≤ (2 - (2 : ℚ) ^ (-7 : Int)) * 2 ^ 127) ∧
      (dSfmt d = 3 → (2 : ℚ) ^ (-9 : Int) ≤ S ∧ S ≤ 448)

/-- Every micro-op gives its exact result rounded once to binary32, with the NaN, order and edge rules of R246 and R247;
a program applies them in order (R244, R246, R247). -/
def Obligations.MicroOpsRoundOnce : Prop :=
  (∀ (rel : Nat) (a b c : BitVec 32) (v : BitVec 24),
    let r (op : Nat) : BitVec 32 := evalOp op rel a b c v
    (∀ p q s t, ofF32 a = .fin p s → ofF32 b = .fin q t →
      Rounds32 (r 0x02) ((p + q : ℚ) : ℝ) (s && t) ∧ Rounds32 (r 0x03) ((p - q : ℚ) : ℝ) (s && !t) ∧
      Rounds32 (r 0x04) ((p * q : ℚ) : ℝ) (s ^^ t) ∧ (q ≠ 0 → Rounds32 (r 0x06) ((p / q : ℚ) : ℝ) (s ^^ t)) ∧
      (∀ x u, ofF32 c = .fin x u → Rounds32 (r 0x05) ((p * q + x : ℚ) : ℝ) ((s ^^ t) && u)) ∧
      (rel < 4 → r 0x12 = if (rel = 0 ∧ p = q) ∨ (rel = 1 ∧ p < q) ∨ (rel = 2 ∧ p ≤ q) ∨ (rel = 3 ∧ p ≠ q)
        then 0x3F800000 else 0)) ∧
    (∀ p s, ofF32 a = .fin p s →
      (p ≠ 0 → Rounds32 (r 0x0B) ((1 / p : ℚ) : ℝ) s) ∧ (0 < p → Rounds32 (r 0x0C) (Real.sqrt p) false) ∧
      (0 < p → Rounds32 (r 0x0D) (1 / Real.sqrt p) false) ∧ Rounds32 (r 0x10) (⌊p⌋ : ℝ) s ∧
      (∃ n : Int, |p - n| ≤ 1 / 2 ∧ (|p - n| = 1 / 2 → n % 2 = 0) ∧ Rounds32 (r 0x11) (n : ℝ) s) ∧
      (∀ n : Int, p = n → Rounds32 (r 0x0E) ((2 : ℝ) ^ n) false) ∧
      (∀ n : Int, p = (2 : ℚ) ^ n → Rounds32 (r 0x0F) (n : ℝ) false) ∧
      (p < 0 → r 0x0C = 0x7FC00000 ∧ r 0x0D = 0x7FC00000 ∧ r 0x0F = 0x7FC00000)) ∧
    (∀ op n, uArity op = some n → op ≠ 0x12 → op ≠ 0x13 →
      (0 < n ∧ (ofF32 a).isNan = true ∨ 1 < n ∧ (ofF32 b).isNan = true ∨ 2 < n ∧ (ofF32 c).isNan = true) → r op = 0x7FC00000) ∧
    ((ofF32 a).isNan = true ∨ (ofF32 b).isNan = true → r 0x12 = if rel < 3 then 0 else 0x3F800000) ∧
    r 0x13 = (if a = 0 ∨ a = 0x80000000 then c else b) ∧
    ((ofF32 a).isNan = false → r 0x01 = a ∧ r 0x09 = a &&& 0x7FFFFFFF ∧ r 0x0A = a ^^^ 0x80000000) ∧
    ((ofF32 a).isNan = false → (ofF32 b).isNan = false →
      (r 0x07 = a ∨ r 0x07 = b) ∧ ordLt (ofF32 a) (ofF32 (r 0x07)) = false ∧ ordLt (ofF32 b) (ofF32 (r 0x07)) = false ∧
      (r 0x08 = a ∨ r 0x08 = b) ∧ ordLt (ofF32 (r 0x08)) (ofF32 a) = false ∧ ordLt (ofF32 (r 0x08)) (ofF32 b) = false ∧
      r 0x14 = evalOp 0x07 rel (r 0x08) c c v) ∧
    ofF32 (r 0x15) = .fin ((v.toNat : ℚ) / 2 ^ 24) false ∧
    (a = 0 → r 0x0B = 0x7F800000 ∧ r 0x0C = 0 ∧ r 0x0D = 0x7F800000 ∧ r 0x0F = 0xFF800000) ∧
    (a = 0x80000000 → r 0x0B = 0xFF800000 ∧ r 0x0C = 0x80000000 ∧ r 0x0D = 0xFF800000 ∧ r 0x0F = 0xFF800000) ∧
    (a = 0x7F800000 → r 0x0B = 0 ∧ r 0x0C = 0x7F800000 ∧ r 0x0D = 0 ∧ r 0x0E = 0x7F800000 ∧ r 0x0F = 0x7F800000 ∧
      r 0x10 = a ∧ r 0x11 = a) ∧
    (a = 0xFF800000 → r 0x0B = 0x80000000 ∧ r 0x0C = 0x7FC00000 ∧ r 0x0D = 0x7FC00000 ∧ r 0x0E = 0 ∧ r 0x0F = 0x7FC00000 ∧
      r 0x10 = a ∧ r 0x11 = a) ∧
    (∀ p s q t, ofF32 a = .fin p s → p ≠ 0 → ofF32 b = .fin q t → q = 0 → r 0x06 = if s = t then 0x7F800000 else 0xFF800000) ∧
    (∀ s t x y, ofF32 a = .fin x s → x = 0 → ofF32 b = .fin y t → y = 0 → r 0x06 = 0x7FC00000) ∧
    (∀ s t, ofF32 a = .inf s → ofF32 b = .inf t → r 0x06 = 0x7FC00000 ∧
      r 0x02 = (if s = t then a else 0x7FC00000) ∧ r 0x03 = (if s = t then 0x7FC00000 else a)) ∧
    (∀ s q t, ofF32 a = .inf s → ofF32 b = .fin q t → q = 0 → r 0x04 = 0x7FC00000 ∧ r 0x05 = 0x7FC00000)) ∧
  (∀ (p : BitVec 1024) (srcs : List (BitVec 32)) (rnd : Nat → Nat → BitVec 24), 0 < pLen p →
    ∃ (T : Nat → List (BitVec 32)) (R : Nat → BitVec 32), T 0 = List.replicate 8 0 ∧ runProgram p srcs rnd = R (pLen p - 1) ∧
      ∀ j, j < pLen p →
        let w := pOp p j
        let x (k : Nat) : BitVec 32 :=
          let n := uSel w k
          if n < 8 then (T j).getD n 0 else if n < 11 then srcs.getD (n - 8) 0 else pConst p (n - 11)
        R j = evalOp (uOp w) (uMod w) (x 0) (x 1) (x 2) (rnd j (uMod w)) ∧ T (j + 1) = (T j).set (uDst w) (R j))

/-- REDUCE: the exact SUM, the extremes, their indices, COUNT, the pairwise order, accumulator records, and the result a
WHOLE reduction writes and posts (R248, R249, R250, R251, R253, R260). -/
def Obligations.ReductionsFoldAsTheirRulesSay : Prop :=
  (∀ (m : Nat) (ins : List (Nat × XVal)), ins ≠ [] →
    let f := foldInputs 0 true m ins
    let has (p : XVal → Bool) : Prop := ∃ x ∈ ins, p x.2 = true
    let total : ℚ := (ins.map (fun x => x.2.rat)).sum
    (∀ x ∈ ins, ∃ z : Int, x.2.rat = z * (2 : ℚ) ^ (-149 : Int)) →
    f.empty = false ∧
    (has XVal.isNan ∨ (XVal.inf false ∈ ins.map Prod.snd ∧ XVal.inf true ∈ ins.map Prod.snd) → f.v = .nan false) ∧
    (¬ has XVal.isNan → ∀ s, XVal.inf s ∈ ins.map Prod.snd → XVal.inf (!s) ∉ ins.map Prod.snd → f.v = .inf s) ∧
    ((∀ x ∈ ins, x.2.isFin = true) →
      (total ≠ 0 → |total| < 2 ^ 170 → f.v = .fin total (decide (total < 0)) ∧ f.acc.satur = false) ∧
      (total = 0 → f.v = .fin 0 (decide (∀ x ∈ ins, x.2 = .fin 0 true))) ∧
      (2 ^ 170 ≤ |total| → f.v = .inf (decide (total < 0)) ∧ f.acc.satur = true))) ∧
  (∀ (exact : Bool) (m : Nat) (ins : List (Nat × XVal)), ins ≠ [] →
    let v (rop : Nat) : XVal := (foldInputs rop exact m ins).v
    let word (rop : Nat) : BitVec 32 := (foldInputs rop exact m ins).word
    ((∃ x ∈ ins, x.2.isNan = true) → v 2 = .nan false ∧ v 3 = .nan false ∧ v 4 = .nan false) ∧
    ((∀ x ∈ ins, x.2.isNan = false) →
      (v 2 ∈ ins.map Prod.snd ∧ ∀ x ∈ ins, ordLt (v 2) x.2 = false) ∧
      (v 3 ∈ ins.map Prod.snd ∧ ∀ x ∈ ins, ordLt x.2 (v 3) = false) ∧
      (v 4 ∈ ins.map (fun x => x.2.abs) ∧ ∀ x ∈ ins, ordLt (v 4) x.2.abs = false)) ∧
    ((∀ x ∈ ins, x.2.isNan = true) → word 5 = 0xFFFFFFFF ∧ word 6 = 0xFFFFFFFF) ∧
    ((∃ x ∈ ins, x.2.isNan = false) →
      (∃ x ∈ ins, word 5 = wordOf 32 x.1 ∧ v 5 = x.2 ∧ x.2.isNan = false ∧
        ∀ y ∈ ins, y.2.isNan = false → ordLt x.2 y.2 = false ∧ (ordLt y.2 x.2 = false → x.1 ≤ y.1)) ∧
      (∃ x ∈ ins, word 6 = wordOf 32 x.1 ∧ v 6 = x.2 ∧ x.2.isNan = false ∧
        ∀ y ∈ ins, y.2.isNan = false → ordLt y.2 x.2 = false ∧ (ordLt x.2 y.2 = false → x.1 ≤ y.1))) ∧
    word 7 = wordOf 32 (ins.countP (fun x => decide (x.2 ≠ .fin 0 false) && decide (x.2 ≠ .fin 0 true)))) ∧
  (∀ (rop m : Nat) (exact : Bool),
    let f := foldInputs rop exact m []
    f.empty = true ∧ (rop < 7 → rop ≠ 5 → rop ≠ 6 → f.v = match rop with
      | 1 => .fin 1 false | 2 => .inf true | 3 => .inf false | _ => .fin 0 false) ∧
    (rop = 5 ∨ rop = 6 → f.word = 0xFFFFFFFF) ∧ (rop = 7 → f.word = 0)) ∧
  (∀ (prod : Bool) (l : List (Option Part)),
    foldLevel prod l = (List.range ((l.length + 1) / 2)).map (fun j =>
      match (l[2 * j]?).join, (l[2 * j + 1]?).join with
      | none, y => y
      | x, none => x
      | some x, some y => some (foldOp prod x y)) ∧
    (∀ n x, foldTree prod n [x] = x) ∧
    (∀ n, 2 ≤ l.length → l.length ≤ 2 ^ (n + 1) → foldTree prod (n + 1) l = foldTree prod n (foldLevel prod l))) ∧
  (∀ a : Acc, 0 < a.nact → a.nact < 2 ^ 32 → -(2 : Int) ^ 319 ≤ a.sum → a.sum < 2 ^ 319 → accRead a.bytes = some a) ∧
  (∀ (m : Nat) (parts : List (List (Nat × XVal))),
    (∀ l ∈ parts, (foldInputs 0 true m l).acc.satur = false) →
    (foldRecords (parts.map (fun l => (foldInputs 0 true m l).acc))).v = (foldInputs 0 true m parts.flatten).v) ∧
  (∀ (s : State) (b : Bib) (q : BitVec 14) (i : Issued), Works s b q i → i.op = .reduce → bShape i.body = false →
    bPv i.body = false → i.rop < 5 → isPlain (i.field 1) = true → fFmt (i.field 1) ≠ 0 → isPlain (i.field 4) = true →
    fFmt (i.field 4) ≠ 0 → i.field 5 = 0 → i.tiled = false → i.space = 0 → i.pos = 0 → 0 < i.elements → i.outs = [] →
    i.inputs = [] → i.failed = none → i.stopAs = none →
    (∀ g ∈ i.laneGroups 0 i.elements, groupDenied s i g.1 = false) → reduceDestOk s i = true →
    let w := plainBits (fFmt (i.field 1))
    let ins := (List.range i.elements).map (fun p => (p,
      (codeVal (plainDesc (fFmt (i.field 1))) 0 []
        (plainCode s 0 (plainAddr (i.field 1) w (p / i.len) (p % i.len)) w)).1))
    let f := foldInputs i.rop i.exact i.elements ins
    let bits := plainBits (fFmt (i.field 4))
    ∃ t j, exec (.reduce b q 1) s = .next t ∧ placed t b i = some j ∧ j.finished = some j.endStatus ∧
      t.mem = writeBytes s.mem (addrKey (plainAddr (i.field 4) bits 0 0))
        (leBytes (bits / 8) (encodeElem (plainDesc (fFmt (i.field 4))) 0 [] (reduceRound i) f.v false).1) ∧
      ∃ y, j.summary = some y ∧ y.kind = 1 ∧
        y.value = wordOf 64 (f32.encode (reduceRound i) false false f.v false).1)
end

