-- ==== Sys2Proof/Laws/State.lean ====
section
/-!
SUPPORT. Reading State after an update: one lemma per update and field it leaves alone, and what tables give back.
-/

namespace Sys2Proof.Machine

/-! ### Fields that an update leaves alone -/

@[simp] theorem State.setUnit_pending (s : State) (b : Nat) (u : UnitSt) : (s.setUnit b u).pending = s.pending := rfl
@[simp] theorem State.setUnit_now (s : State) (b : Nat) (u : UnitSt) : (s.setUnit b u).now = s.now := rfl
@[simp] theorem State.setUnit_freeCtr (s : State) (b : Nat) (u : UnitSt) : (s.setUnit b u).freeCtr = s.freeCtr := rfl
@[simp] theorem State.setUnit_pace (s : State) (b : Nat) (u : UnitSt) : (s.setUnit b u).pace = s.pace := rfl
@[simp] theorem State.setUnit_mg (s : State) (b : Nat) (u : UnitSt) : (s.setUnit b u).mg = s.mg := rfl
@[simp] theorem State.setUnit_baton (s : State) (b : Nat) (u : UnitSt) : (s.setUnit b u).baton = s.baton := rfl
@[simp] theorem State.setUnit_power (s : State) (b : Nat) (u : UnitSt) : (s.setUnit b u).power = s.power := rfl
@[simp] theorem State.setUnit_log (s : State) (b : Nat) (u : UnitSt) : (s.setUnit b u).log = s.log := rfl
@[simp] theorem State.setUnit_finish (s : State) (b : Nat) (u : UnitSt) : (s.setUnit b u).finish = s.finish := rfl
@[simp] theorem State.setUnit_storage (s : State) (b : Nat) (u : UnitSt) : (s.setUnit b u).storage = s.storage := rfl
@[simp] theorem State.setUnit_tables (s : State) (b : Nat) (u : UnitSt) : (s.setUnit b u).tables = s.tables := rfl
@[simp] theorem State.setUnit_trackers (s : State) (b : Nat) (u : UnitSt) : (s.setUnit b u).trackers = s.trackers := rfl
@[simp] theorem State.setUnit_links (s : State) (b : Nat) (u : UnitSt) : (s.setUnit b u).links = s.links := rfl
@[simp] theorem State.setUnit_mem (s : State) (b : Nat) (u : UnitSt) : (s.setUnit b u).mem = s.mem := rfl
@[simp] theorem State.setUnit_out (s : State) (b : Nat) (u : UnitSt) : (s.setUnit b u).out = s.out := rfl

@[simp] theorem State.onUnit_pending (s : State) (b : Nat) (f : UnitSt → UnitSt) : (s.onUnit b f).pending = s.pending := rfl
@[simp] theorem State.onUnit_now (s : State) (b : Nat) (f : UnitSt → UnitSt) : (s.onUnit b f).now = s.now := rfl
@[simp] theorem State.onUnit_freeCtr (s : State) (b : Nat) (f : UnitSt → UnitSt) : (s.onUnit b f).freeCtr = s.freeCtr := rfl
@[simp] theorem State.onUnit_pace (s : State) (b : Nat) (f : UnitSt → UnitSt) : (s.onUnit b f).pace = s.pace := rfl
@[simp] theorem State.onUnit_mg (s : State) (b : Nat) (f : UnitSt → UnitSt) : (s.onUnit b f).mg = s.mg := rfl
@[simp] theorem State.onUnit_baton (s : State) (b : Nat) (f : UnitSt → UnitSt) : (s.onUnit b f).baton = s.baton := rfl
@[simp] theorem State.onUnit_power (s : State) (b : Nat) (f : UnitSt → UnitSt) : (s.onUnit b f).power = s.power := rfl
@[simp] theorem State.onUnit_log (s : State) (b : Nat) (f : UnitSt → UnitSt) : (s.onUnit b f).log = s.log := rfl
@[simp] theorem State.onUnit_finish (s : State) (b : Nat) (f : UnitSt → UnitSt) : (s.onUnit b f).finish = s.finish := rfl
@[simp] theorem State.onUnit_storage (s : State) (b : Nat) (f : UnitSt → UnitSt) : (s.onUnit b f).storage = s.storage := rfl
@[simp] theorem State.onUnit_tables (s : State) (b : Nat) (f : UnitSt → UnitSt) : (s.onUnit b f).tables = s.tables := rfl
@[simp] theorem State.onUnit_trackers (s : State) (b : Nat) (f : UnitSt → UnitSt) : (s.onUnit b f).trackers = s.trackers := rfl
@[simp] theorem State.onUnit_links (s : State) (b : Nat) (f : UnitSt → UnitSt) : (s.onUnit b f).links = s.links := rfl
@[simp] theorem State.onUnit_mem (s : State) (b : Nat) (f : UnitSt → UnitSt) : (s.onUnit b f).mem = s.mem := rfl
@[simp] theorem State.onUnit_out (s : State) (b : Nat) (f : UnitSt → UnitSt) : (s.onUnit b f).out = s.out := rfl

@[simp] theorem State.setQueue_pending (s : State) (q : Nat) (v : Queue) : (s.setQueue q v).pending = s.pending := rfl
@[simp] theorem State.setQueue_now (s : State) (q : Nat) (v : Queue) : (s.setQueue q v).now = s.now := rfl
@[simp] theorem State.setQueue_freeCtr (s : State) (q : Nat) (v : Queue) : (s.setQueue q v).freeCtr = s.freeCtr := rfl
@[simp] theorem State.setQueue_pace (s : State) (q : Nat) (v : Queue) : (s.setQueue q v).pace = s.pace := rfl
@[simp] theorem State.setQueue_mg (s : State) (q : Nat) (v : Queue) : (s.setQueue q v).mg = s.mg := rfl
@[simp] theorem State.setQueue_baton (s : State) (q : Nat) (v : Queue) : (s.setQueue q v).baton = s.baton := rfl
@[simp] theorem State.setQueue_power (s : State) (q : Nat) (v : Queue) : (s.setQueue q v).power = s.power := rfl
@[simp] theorem State.setQueue_log (s : State) (q : Nat) (v : Queue) : (s.setQueue q v).log = s.log := rfl
@[simp] theorem State.setQueue_finish (s : State) (q : Nat) (v : Queue) : (s.setQueue q v).finish = s.finish := rfl
@[simp] theorem State.setQueue_storage (s : State) (q : Nat) (v : Queue) : (s.setQueue q v).storage = s.storage := rfl
@[simp] theorem State.setQueue_trackers (s : State) (q : Nat) (v : Queue) : (s.setQueue q v).trackers = s.trackers := rfl
@[simp] theorem State.setQueue_units (s : State) (q : Nat) (v : Queue) : (s.setQueue q v).units = s.units := rfl
@[simp] theorem State.setQueue_links (s : State) (q : Nat) (v : Queue) : (s.setQueue q v).links = s.links := rfl
@[simp] theorem State.setQueue_mem (s : State) (q : Nat) (v : Queue) : (s.setQueue q v).mem = s.mem := rfl
@[simp] theorem State.setQueue_out (s : State) (q : Nat) (v : Queue) : (s.setQueue q v).out = s.out := rfl
@[simp] theorem State.setQueue_tables_contexts (s : State) (q : Nat) (v : Queue) : (s.setQueue q v).tables.contexts = s.tables.contexts := rfl
@[simp] theorem State.setQueue_tables_ftStaged (s : State) (q : Nat) (v : Queue) : (s.setQueue q v).tables.ftStaged = s.tables.ftStaged := rfl
@[simp] theorem State.setQueue_tables_ftActive (s : State) (q : Nat) (v : Queue) : (s.setQueue q v).tables.ftActive = s.tables.ftActive := rfl
@[simp] theorem State.setQueue_tables_lmStaged (s : State) (q : Nat) (v : Queue) : (s.setQueue q v).tables.lmStaged = s.tables.lmStaged := rfl
@[simp] theorem State.setQueue_tables_lmActive (s : State) (q : Nat) (v : Queue) : (s.setQueue q v).tables.lmActive = s.tables.lmActive := rfl
@[simp] theorem State.setQueue_tables_startList (s : State) (q : Nat) (v : Queue) : (s.setQueue q v).tables.startList = s.tables.startList := rfl
@[simp] theorem State.setQueue_tables_lastUse (s : State) (q : Nat) (v : Queue) : (s.setQueue q v).tables.lastUse = s.tables.lastUse := rfl
@[simp] theorem State.setQueue_tables_serial (s : State) (q : Nat) (v : Queue) : (s.setQueue q v).tables.serial = s.tables.serial := rfl
@[simp] theorem State.setQueue_tables_sumSeq (s : State) (q : Nat) (v : Queue) : (s.setQueue q v).tables.sumSeq = s.tables.sumSeq := rfl

@[simp] theorem State.onQueue_pending (s : State) (q : Nat) (f : Queue → Queue) : (s.onQueue q f).pending = s.pending := rfl
@[simp] theorem State.onQueue_now (s : State) (q : Nat) (f : Queue → Queue) : (s.onQueue q f).now = s.now := rfl
@[simp] theorem State.onQueue_freeCtr (s : State) (q : Nat) (f : Queue → Queue) : (s.onQueue q f).freeCtr = s.freeCtr := rfl
@[simp] theorem State.onQueue_pace (s : State) (q : Nat) (f : Queue → Queue) : (s.onQueue q f).pace = s.pace := rfl
@[simp] theorem State.onQueue_mg (s : State) (q : Nat) (f : Queue → Queue) : (s.onQueue q f).mg = s.mg := rfl
@[simp] theorem State.onQueue_baton (s : State) (q : Nat) (f : Queue → Queue) : (s.onQueue q f).baton = s.baton := rfl
@[simp] theorem State.onQueue_power (s : State) (q : Nat) (f : Queue → Queue) : (s.onQueue q f).power = s.power := rfl
@[simp] theorem State.onQueue_log (s : State) (q : Nat) (f : Queue → Queue) : (s.onQueue q f).log = s.log := rfl
@[simp] theorem State.onQueue_finish (s : State) (q : Nat) (f : Queue → Queue) : (s.onQueue q f).finish = s.finish := rfl
@[simp] theorem State.onQueue_storage (s : State) (q : Nat) (f : Queue → Queue) : (s.onQueue q f).storage = s.storage := rfl
@[simp] theorem State.onQueue_trackers (s : State) (q : Nat) (f : Queue → Queue) : (s.onQueue q f).trackers = s.trackers := rfl
@[simp] theorem State.onQueue_units (s : State) (q : Nat) (f : Queue → Queue) : (s.onQueue q f).units = s.units := rfl
@[simp] theorem State.onQueue_links (s : State) (q : Nat) (f : Queue → Queue) : (s.onQueue q f).links = s.links := rfl
@[simp] theorem State.onQueue_mem (s : State) (q : Nat) (f : Queue → Queue) : (s.onQueue q f).mem = s.mem := rfl
@[simp] theorem State.onQueue_out (s : State) (q : Nat) (f : Queue → Queue) : (s.onQueue q f).out = s.out := rfl
@[simp] theorem State.onQueue_tables_contexts (s : State) (q : Nat) (f : Queue → Queue) : (s.onQueue q f).tables.contexts = s.tables.contexts := rfl
@[simp] theorem State.onQueue_tables_ftStaged (s : State) (q : Nat) (f : Queue → Queue) : (s.onQueue q f).tables.ftStaged = s.tables.ftStaged := rfl
@[simp] theorem State.onQueue_tables_ftActive (s : State) (q : Nat) (f : Queue → Queue) : (s.onQueue q f).tables.ftActive = s.tables.ftActive := rfl
@[simp] theorem State.onQueue_tables_lmStaged (s : State) (q : Nat) (f : Queue → Queue) : (s.onQueue q f).tables.lmStaged = s.tables.lmStaged := rfl
@[simp] theorem State.onQueue_tables_lmActive (s : State) (q : Nat) (f : Queue → Queue) : (s.onQueue q f).tables.lmActive = s.tables.lmActive := rfl
@[simp] theorem State.onQueue_tables_startList (s : State) (q : Nat) (f : Queue → Queue) : (s.onQueue q f).tables.startList = s.tables.startList := rfl
@[simp] theorem State.onQueue_tables_lastUse (s : State) (q : Nat) (f : Queue → Queue) : (s.onQueue q f).tables.lastUse = s.tables.lastUse := rfl
@[simp] theorem State.onQueue_tables_serial (s : State) (q : Nat) (f : Queue → Queue) : (s.onQueue q f).tables.serial = s.tables.serial := rfl
@[simp] theorem State.onQueue_tables_sumSeq (s : State) (q : Nat) (f : Queue → Queue) : (s.onQueue q f).tables.sumSeq = s.tables.sumSeq := rfl

@[simp] theorem State.setContext_pending (s : State) (n : Nat) (v : Context) : (s.setContext n v).pending = s.pending := rfl
@[simp] theorem State.setContext_now (s : State) (n : Nat) (v : Context) : (s.setContext n v).now = s.now := rfl
@[simp] theorem State.setContext_freeCtr (s : State) (n : Nat) (v : Context) : (s.setContext n v).freeCtr = s.freeCtr := rfl
@[simp] theorem State.setContext_pace (s : State) (n : Nat) (v : Context) : (s.setContext n v).pace = s.pace := rfl
@[simp] theorem State.setContext_mg (s : State) (n : Nat) (v : Context) : (s.setContext n v).mg = s.mg := rfl
@[simp] theorem State.setContext_baton (s : State) (n : Nat) (v : Context) : (s.setContext n v).baton = s.baton := rfl
@[simp] theorem State.setContext_power (s : State) (n : Nat) (v : Context) : (s.setContext n v).power = s.power := rfl
@[simp] theorem State.setContext_log (s : State) (n : Nat) (v : Context) : (s.setContext n v).log = s.log := rfl
@[simp] theorem State.setContext_finish (s : State) (n : Nat) (v : Context) : (s.setContext n v).finish = s.finish := rfl
@[simp] theorem State.setContext_storage (s : State) (n : Nat) (v : Context) : (s.setContext n v).storage = s.storage := rfl
@[simp] theorem State.setContext_trackers (s : State) (n : Nat) (v : Context) : (s.setContext n v).trackers = s.trackers := rfl
@[simp] theorem State.setContext_units (s : State) (n : Nat) (v : Context) : (s.setContext n v).units = s.units := rfl
@[simp] theorem State.setContext_links (s : State) (n : Nat) (v : Context) : (s.setContext n v).links = s.links := rfl
@[simp] theorem State.setContext_mem (s : State) (n : Nat) (v : Context) : (s.setContext n v).mem = s.mem := rfl
@[simp] theorem State.setContext_out (s : State) (n : Nat) (v : Context) : (s.setContext n v).out = s.out := rfl
@[simp] theorem State.setContext_tables_queues (s : State) (n : Nat) (v : Context) : (s.setContext n v).tables.queues = s.tables.queues := rfl
@[simp] theorem State.setContext_tables_ftStaged (s : State) (n : Nat) (v : Context) : (s.setContext n v).tables.ftStaged = s.tables.ftStaged := rfl
@[simp] theorem State.setContext_tables_ftActive (s : State) (n : Nat) (v : Context) : (s.setContext n v).tables.ftActive = s.tables.ftActive := rfl
@[simp] theorem State.setContext_tables_lmStaged (s : State) (n : Nat) (v : Context) : (s.setContext n v).tables.lmStaged = s.tables.lmStaged := rfl
@[simp] theorem State.setContext_tables_lmActive (s : State) (n : Nat) (v : Context) : (s.setContext n v).tables.lmActive = s.tables.lmActive := rfl
@[simp] theorem State.setContext_tables_startList (s : State) (n : Nat) (v : Context) : (s.setContext n v).tables.startList = s.tables.startList := rfl
@[simp] theorem State.setContext_tables_lastUse (s : State) (n : Nat) (v : Context) : (s.setContext n v).tables.lastUse = s.tables.lastUse := rfl
@[simp] theorem State.setContext_tables_serial (s : State) (n : Nat) (v : Context) : (s.setContext n v).tables.serial = s.tables.serial := rfl
@[simp] theorem State.setContext_tables_sumSeq (s : State) (n : Nat) (v : Context) : (s.setContext n v).tables.sumSeq = s.tables.sumSeq := rfl

@[simp] theorem State.setStream_pending (s : State) (n : Nat) (v : Stream) : (s.setStream n v).pending = s.pending := rfl
@[simp] theorem State.setStream_now (s : State) (n : Nat) (v : Stream) : (s.setStream n v).now = s.now := rfl
@[simp] theorem State.setStream_freeCtr (s : State) (n : Nat) (v : Stream) : (s.setStream n v).freeCtr = s.freeCtr := rfl
@[simp] theorem State.setStream_pace (s : State) (n : Nat) (v : Stream) : (s.setStream n v).pace = s.pace := rfl
@[simp] theorem State.setStream_mg (s : State) (n : Nat) (v : Stream) : (s.setStream n v).mg = s.mg := rfl
@[simp] theorem State.setStream_baton (s : State) (n : Nat) (v : Stream) : (s.setStream n v).baton = s.baton := rfl
@[simp] theorem State.setStream_power (s : State) (n : Nat) (v : Stream) : (s.setStream n v).power = s.power := rfl
@[simp] theorem State.setStream_log (s : State) (n : Nat) (v : Stream) : (s.setStream n v).log = s.log := rfl
@[simp] theorem State.setStream_finish (s : State) (n : Nat) (v : Stream) : (s.setStream n v).finish = s.finish := rfl
@[simp] theorem State.setStream_storage (s : State) (n : Nat) (v : Stream) : (s.setStream n v).storage = s.storage := rfl
@[simp] theorem State.setStream_tables (s : State) (n : Nat) (v : Stream) : (s.setStream n v).tables = s.tables := rfl
@[simp] theorem State.setStream_units (s : State) (n : Nat) (v : Stream) : (s.setStream n v).units = s.units := rfl
@[simp] theorem State.setStream_links (s : State) (n : Nat) (v : Stream) : (s.setStream n v).links = s.links := rfl
@[simp] theorem State.setStream_mem (s : State) (n : Nat) (v : Stream) : (s.setStream n v).mem = s.mem := rfl
@[simp] theorem State.setStream_out (s : State) (n : Nat) (v : Stream) : (s.setStream n v).out = s.out := rfl
@[simp] theorem State.setStream_trackers_tracked (s : State) (n : Nat) (v : Stream) : (s.setStream n v).trackers.tracked = s.trackers.tracked := rfl
@[simp] theorem State.setStream_trackers_watches (s : State) (n : Nat) (v : Stream) : (s.setStream n v).trackers.watches = s.trackers.watches := rfl
@[simp] theorem State.setStream_trackers_reports (s : State) (n : Nat) (v : Stream) : (s.setStream n v).trackers.reports = s.trackers.reports := rfl
@[simp] theorem State.setStream_trackers_partials (s : State) (n : Nat) (v : Stream) : (s.setStream n v).trackers.partials = s.trackers.partials := rfl
@[simp] theorem State.setStream_trackers_settle (s : State) (n : Nat) (v : Stream) : (s.setStream n v).trackers.settle = s.trackers.settle := rfl
@[simp] theorem State.setStream_trackers_prevLap8 (s : State) (n : Nat) (v : Stream) : (s.setStream n v).trackers.prevLap8 = s.trackers.prevLap8 := rfl
@[simp] theorem State.setStream_trackers_prevPar (s : State) (n : Nat) (v : Stream) : (s.setStream n v).trackers.prevPar = s.trackers.prevPar := rfl

@[simp] theorem State.onStream_pending (s : State) (n : Nat) (f : Stream → Stream) : (s.onStream n f).pending = s.pending := rfl
@[simp] theorem State.onStream_now (s : State) (n : Nat) (f : Stream → Stream) : (s.onStream n f).now = s.now := rfl
@[simp] theorem State.onStream_freeCtr (s : State) (n : Nat) (f : Stream → Stream) : (s.onStream n f).freeCtr = s.freeCtr := rfl
@[simp] theorem State.onStream_pace (s : State) (n : Nat) (f : Stream → Stream) : (s.onStream n f).pace = s.pace := rfl
@[simp] theorem State.onStream_mg (s : State) (n : Nat) (f : Stream → Stream) : (s.onStream n f).mg = s.mg := rfl
@[simp] theorem State.onStream_baton (s : State) (n : Nat) (f : Stream → Stream) : (s.onStream n f).baton = s.baton := rfl
@[simp] theorem State.onStream_power (s : State) (n : Nat) (f : Stream → Stream) : (s.onStream n f).power = s.power := rfl
@[simp] theorem State.onStream_log (s : State) (n : Nat) (f : Stream → Stream) : (s.onStream n f).log = s.log := rfl
@[simp] theorem State.onStream_finish (s : State) (n : Nat) (f : Stream → Stream) : (s.onStream n f).finish = s.finish := rfl
@[simp] theorem State.onStream_storage (s : State) (n : Nat) (f : Stream → Stream) : (s.onStream n f).storage = s.storage := rfl
@[simp] theorem State.onStream_tables (s : State) (n : Nat) (f : Stream → Stream) : (s.onStream n f).tables = s.tables := rfl
@[simp] theorem State.onStream_units (s : State) (n : Nat) (f : Stream → Stream) : (s.onStream n f).units = s.units := rfl
@[simp] theorem State.onStream_links (s : State) (n : Nat) (f : Stream → Stream) : (s.onStream n f).links = s.links := rfl
@[simp] theorem State.onStream_mem (s : State) (n : Nat) (f : Stream → Stream) : (s.onStream n f).mem = s.mem := rfl
@[simp] theorem State.onStream_out (s : State) (n : Nat) (f : Stream → Stream) : (s.onStream n f).out = s.out := rfl
@[simp] theorem State.onStream_trackers_tracked (s : State) (n : Nat) (f : Stream → Stream) : (s.onStream n f).trackers.tracked = s.trackers.tracked := rfl
@[simp] theorem State.onStream_trackers_watches (s : State) (n : Nat) (f : Stream → Stream) : (s.onStream n f).trackers.watches = s.trackers.watches := rfl
@[simp] theorem State.onStream_trackers_reports (s : State) (n : Nat) (f : Stream → Stream) : (s.onStream n f).trackers.reports = s.trackers.reports := rfl
@[simp] theorem State.onStream_trackers_partials (s : State) (n : Nat) (f : Stream → Stream) : (s.onStream n f).trackers.partials = s.trackers.partials := rfl
@[simp] theorem State.onStream_trackers_settle (s : State) (n : Nat) (f : Stream → Stream) : (s.onStream n f).trackers.settle = s.trackers.settle := rfl
@[simp] theorem State.onStream_trackers_prevLap8 (s : State) (n : Nat) (f : Stream → Stream) : (s.onStream n f).trackers.prevLap8 = s.trackers.prevLap8 := rfl
@[simp] theorem State.onStream_trackers_prevPar (s : State) (n : Nat) (f : Stream → Stream) : (s.onStream n f).trackers.prevPar = s.trackers.prevPar := rfl

@[simp] theorem State.setTracked_pending (s : State) (n : Nat) (v : Tracked) : (s.setTracked n v).pending = s.pending := rfl
@[simp] theorem State.setTracked_now (s : State) (n : Nat) (v : Tracked) : (s.setTracked n v).now = s.now := rfl
@[simp] theorem State.setTracked_freeCtr (s : State) (n : Nat) (v : Tracked) : (s.setTracked n v).freeCtr = s.freeCtr := rfl
@[simp] theorem State.setTracked_pace (s : State) (n : Nat) (v : Tracked) : (s.setTracked n v).pace = s.pace := rfl
@[simp] theorem State.setTracked_mg (s : State) (n : Nat) (v : Tracked) : (s.setTracked n v).mg = s.mg := rfl
@[simp] theorem State.setTracked_baton (s : State) (n : Nat) (v : Tracked) : (s.setTracked n v).baton = s.baton := rfl
@[simp] theorem State.setTracked_power (s : State) (n : Nat) (v : Tracked) : (s.setTracked n v).power = s.power := rfl
@[simp] theorem State.setTracked_log (s : State) (n : Nat) (v : Tracked) : (s.setTracked n v).log = s.log := rfl
@[simp] theorem State.setTracked_finish (s : State) (n : Nat) (v : Tracked) : (s.setTracked n v).finish = s.finish := rfl
@[simp] theorem State.setTracked_storage (s : State) (n : Nat) (v : Tracked) : (s.setTracked n v).storage = s.storage := rfl
@[simp] theorem State.setTracked_tables (s : State) (n : Nat) (v : Tracked) : (s.setTracked n v).tables = s.tables := rfl
@[simp] theorem State.setTracked_units (s : State) (n : Nat) (v : Tracked) : (s.setTracked n v).units = s.units := rfl
@[simp] theorem State.setTracked_links (s : State) (n : Nat) (v : Tracked) : (s.setTracked n v).links = s.links := rfl
@[simp] theorem State.setTracked_mem (s : State) (n : Nat) (v : Tracked) : (s.setTracked n v).mem = s.mem := rfl
@[simp] theorem State.setTracked_out (s : State) (n : Nat) (v : Tracked) : (s.setTracked n v).out = s.out := rfl
@[simp] theorem State.setTracked_trackers_streams (s : State) (n : Nat) (v : Tracked) : (s.setTracked n v).trackers.streams = s.trackers.streams := rfl
@[simp] theorem State.setTracked_trackers_watches (s : State) (n : Nat) (v : Tracked) : (s.setTracked n v).trackers.watches = s.trackers.watches := rfl
@[simp] theorem State.setTracked_trackers_reports (s : State) (n : Nat) (v : Tracked) : (s.setTracked n v).trackers.reports = s.trackers.reports := rfl
@[simp] theorem State.setTracked_trackers_partials (s : State) (n : Nat) (v : Tracked) : (s.setTracked n v).trackers.partials = s.trackers.partials := rfl
@[simp] theorem State.setTracked_trackers_settle (s : State) (n : Nat) (v : Tracked) : (s.setTracked n v).trackers.settle = s.trackers.settle := rfl
@[simp] theorem State.setTracked_trackers_prevLap8 (s : State) (n : Nat) (v : Tracked) : (s.setTracked n v).trackers.prevLap8 = s.trackers.prevLap8 := rfl
@[simp] theorem State.setTracked_trackers_prevPar (s : State) (n : Nat) (v : Tracked) : (s.setTracked n v).trackers.prevPar = s.trackers.prevPar := rfl

@[simp] theorem State.setWatch_pending (s : State) (n : Nat) (v : Watch) : (s.setWatch n v).pending = s.pending := rfl
@[simp] theorem State.setWatch_now (s : State) (n : Nat) (v : Watch) : (s.setWatch n v).now = s.now := rfl
@[simp] theorem State.setWatch_freeCtr (s : State) (n : Nat) (v : Watch) : (s.setWatch n v).freeCtr = s.freeCtr := rfl
@[simp] theorem State.setWatch_pace (s : State) (n : Nat) (v : Watch) : (s.setWatch n v).pace = s.pace := rfl
@[simp] theorem State.setWatch_mg (s : State) (n : Nat) (v : Watch) : (s.setWatch n v).mg = s.mg := rfl
@[simp] theorem State.setWatch_baton (s : State) (n : Nat) (v : Watch) : (s.setWatch n v).baton = s.baton := rfl
@[simp] theorem State.setWatch_power (s : State) (n : Nat) (v : Watch) : (s.setWatch n v).power = s.power := rfl
@[simp] theorem State.setWatch_log (s : State) (n : Nat) (v : Watch) : (s.setWatch n v).log = s.log := rfl
@[simp] theorem State.setWatch_finish (s : State) (n : Nat) (v : Watch) : (s.setWatch n v).finish = s.finish := rfl
@[simp] theorem State.setWatch_storage (s : State) (n : Nat) (v : Watch) : (s.setWatch n v).storage = s.storage := rfl
@[simp] theorem State.setWatch_tables (s : State) (n : Nat) (v : Watch) : (s.setWatch n v).tables = s.tables := rfl
@[simp] theorem State.setWatch_units (s : State) (n : Nat) (v : Watch) : (s.setWatch n v).units = s.units := rfl
@[simp] theorem State.setWatch_links (s : State) (n : Nat) (v : Watch) : (s.setWatch n v).links = s.links := rfl
@[simp] theorem State.setWatch_mem (s : State) (n : Nat) (v : Watch) : (s.setWatch n v).mem = s.mem := rfl
@[simp] theorem State.setWatch_out (s : State) (n : Nat) (v : Watch) : (s.setWatch n v).out = s.out := rfl
@[simp] theorem State.setWatch_trackers_streams (s : State) (n : Nat) (v : Watch) : (s.setWatch n v).trackers.streams = s.trackers.streams := rfl
@[simp] theorem State.setWatch_trackers_tracked (s : State) (n : Nat) (v : Watch) : (s.setWatch n v).trackers.tracked = s.trackers.tracked := rfl
@[simp] theorem State.setWatch_trackers_reports (s : State) (n : Nat) (v : Watch) : (s.setWatch n v).trackers.reports = s.trackers.reports := rfl
@[simp] theorem State.setWatch_trackers_partials (s : State) (n : Nat) (v : Watch) : (s.setWatch n v).trackers.partials = s.trackers.partials := rfl
@[simp] theorem State.setWatch_trackers_settle (s : State) (n : Nat) (v : Watch) : (s.setWatch n v).trackers.settle = s.trackers.settle := rfl
@[simp] theorem State.setWatch_trackers_prevLap8 (s : State) (n : Nat) (v : Watch) : (s.setWatch n v).trackers.prevLap8 = s.trackers.prevLap8 := rfl
@[simp] theorem State.setWatch_trackers_prevPar (s : State) (n : Nat) (v : Watch) : (s.setWatch n v).trackers.prevPar = s.trackers.prevPar := rfl

@[simp] theorem State.setLink_pending (s : State) (n : Nat) (v : Link) : (s.setLink n v).pending = s.pending := rfl
@[simp] theorem State.setLink_now (s : State) (n : Nat) (v : Link) : (s.setLink n v).now = s.now := rfl
@[simp] theorem State.setLink_freeCtr (s : State) (n : Nat) (v : Link) : (s.setLink n v).freeCtr = s.freeCtr := rfl
@[simp] theorem State.setLink_pace (s : State) (n : Nat) (v : Link) : (s.setLink n v).pace = s.pace := rfl
@[simp] theorem State.setLink_mg (s : State) (n : Nat) (v : Link) : (s.setLink n v).mg = s.mg := rfl
@[simp] theorem State.setLink_baton (s : State) (n : Nat) (v : Link) : (s.setLink n v).baton = s.baton := rfl
@[simp] theorem State.setLink_power (s : State) (n : Nat) (v : Link) : (s.setLink n v).power = s.power := rfl
@[simp] theorem State.setLink_log (s : State) (n : Nat) (v : Link) : (s.setLink n v).log = s.log := rfl
@[simp] theorem State.setLink_finish (s : State) (n : Nat) (v : Link) : (s.setLink n v).finish = s.finish := rfl
@[simp] theorem State.setLink_storage (s : State) (n : Nat) (v : Link) : (s.setLink n v).storage = s.storage := rfl
@[simp] theorem State.setLink_tables (s : State) (n : Nat) (v : Link) : (s.setLink n v).tables = s.tables := rfl
@[simp] theorem State.setLink_trackers (s : State) (n : Nat) (v : Link) : (s.setLink n v).trackers = s.trackers := rfl
@[simp] theorem State.setLink_units (s : State) (n : Nat) (v : Link) : (s.setLink n v).units = s.units := rfl
@[simp] theorem State.setLink_mem (s : State) (n : Nat) (v : Link) : (s.setLink n v).mem = s.mem := rfl
@[simp] theorem State.setLink_out (s : State) (n : Nat) (v : Link) : (s.setLink n v).out = s.out := rfl

@[simp] theorem State.setLastUse_pending (s : State) (n : Nat) (v : LastUse) : (s.setLastUse n v).pending = s.pending := rfl
@[simp] theorem State.setLastUse_now (s : State) (n : Nat) (v : LastUse) : (s.setLastUse n v).now = s.now := rfl
@[simp] theorem State.setLastUse_freeCtr (s : State) (n : Nat) (v : LastUse) : (s.setLastUse n v).freeCtr = s.freeCtr := rfl
@[simp] theorem State.setLastUse_pace (s : State) (n : Nat) (v : LastUse) : (s.setLastUse n v).pace = s.pace := rfl
@[simp] theorem State.setLastUse_mg (s : State) (n : Nat) (v : LastUse) : (s.setLastUse n v).mg = s.mg := rfl
@[simp] theorem State.setLastUse_baton (s : State) (n : Nat) (v : LastUse) : (s.setLastUse n v).baton = s.baton := rfl
@[simp] theorem State.setLastUse_power (s : State) (n : Nat) (v : LastUse) : (s.setLastUse n v).power = s.power := rfl
@[simp] theorem State.setLastUse_log (s : State) (n : Nat) (v : LastUse) : (s.setLastUse n v).log = s.log := rfl
@[simp] theorem State.setLastUse_finish (s : State) (n : Nat) (v : LastUse) : (s.setLastUse n v).finish = s.finish := rfl
@[simp] theorem State.setLastUse_storage (s : State) (n : Nat) (v : LastUse) : (s.setLastUse n v).storage = s.storage := rfl
@[simp] theorem State.setLastUse_trackers (s : State) (n : Nat) (v : LastUse) : (s.setLastUse n v).trackers = s.trackers := rfl
@[simp] theorem State.setLastUse_units (s : State) (n : Nat) (v : LastUse) : (s.setLastUse n v).units = s.units := rfl
@[simp] theorem State.setLastUse_links (s : State) (n : Nat) (v : LastUse) : (s.setLastUse n v).links = s.links := rfl
@[simp] theorem State.setLastUse_mem (s : State) (n : Nat) (v : LastUse) : (s.setLastUse n v).mem = s.mem := rfl
@[simp] theorem State.setLastUse_out (s : State) (n : Nat) (v : LastUse) : (s.setLastUse n v).out = s.out := rfl
@[simp] theorem State.setLastUse_tables_queues (s : State) (n : Nat) (v : LastUse) : (s.setLastUse n v).tables.queues = s.tables.queues := rfl
@[simp] theorem State.setLastUse_tables_contexts (s : State) (n : Nat) (v : LastUse) : (s.setLastUse n v).tables.contexts = s.tables.contexts := rfl
@[simp] theorem State.setLastUse_tables_ftStaged (s : State) (n : Nat) (v : LastUse) : (s.setLastUse n v).tables.ftStaged = s.tables.ftStaged := rfl
@[simp] theorem State.setLastUse_tables_ftActive (s : State) (n : Nat) (v : LastUse) : (s.setLastUse n v).tables.ftActive = s.tables.ftActive := rfl
@[simp] theorem State.setLastUse_tables_lmStaged (s : State) (n : Nat) (v : LastUse) : (s.setLastUse n v).tables.lmStaged = s.tables.lmStaged := rfl
@[simp] theorem State.setLastUse_tables_lmActive (s : State) (n : Nat) (v : LastUse) : (s.setLastUse n v).tables.lmActive = s.tables.lmActive := rfl
@[simp] theorem State.setLastUse_tables_startList (s : State) (n : Nat) (v : LastUse) : (s.setLastUse n v).tables.startList = s.tables.startList := rfl
@[simp] theorem State.setLastUse_tables_serial (s : State) (n : Nat) (v : LastUse) : (s.setLastUse n v).tables.serial = s.tables.serial := rfl
@[simp] theorem State.setLastUse_tables_sumSeq (s : State) (n : Nat) (v : LastUse) : (s.setLastUse n v).tables.sumSeq = s.tables.sumSeq := rfl

@[simp] theorem State.writeSpad_pending (s : State) (a : Nat) (bs : List Byte) : (s.writeSpad a bs).pending = s.pending := rfl
@[simp] theorem State.writeSpad_now (s : State) (a : Nat) (bs : List Byte) : (s.writeSpad a bs).now = s.now := rfl
@[simp] theorem State.writeSpad_freeCtr (s : State) (a : Nat) (bs : List Byte) : (s.writeSpad a bs).freeCtr = s.freeCtr := rfl
@[simp] theorem State.writeSpad_pace (s : State) (a : Nat) (bs : List Byte) : (s.writeSpad a bs).pace = s.pace := rfl
@[simp] theorem State.writeSpad_mg (s : State) (a : Nat) (bs : List Byte) : (s.writeSpad a bs).mg = s.mg := rfl
@[simp] theorem State.writeSpad_baton (s : State) (a : Nat) (bs : List Byte) : (s.writeSpad a bs).baton = s.baton := rfl
@[simp] theorem State.writeSpad_power (s : State) (a : Nat) (bs : List Byte) : (s.writeSpad a bs).power = s.power := rfl
@[simp] theorem State.writeSpad_log (s : State) (a : Nat) (bs : List Byte) : (s.writeSpad a bs).log = s.log := rfl
@[simp] theorem State.writeSpad_finish (s : State) (a : Nat) (bs : List Byte) : (s.writeSpad a bs).finish = s.finish := rfl
@[simp] theorem State.writeSpad_storage (s : State) (a : Nat) (bs : List Byte) : (s.writeSpad a bs).storage = s.storage := rfl
@[simp] theorem State.writeSpad_tables (s : State) (a : Nat) (bs : List Byte) : (s.writeSpad a bs).tables = s.tables := rfl
@[simp] theorem State.writeSpad_trackers (s : State) (a : Nat) (bs : List Byte) : (s.writeSpad a bs).trackers = s.trackers := rfl
@[simp] theorem State.writeSpad_units (s : State) (a : Nat) (bs : List Byte) : (s.writeSpad a bs).units = s.units := rfl
@[simp] theorem State.writeSpad_links (s : State) (a : Nat) (bs : List Byte) : (s.writeSpad a bs).links = s.links := rfl
@[simp] theorem State.writeSpad_out (s : State) (a : Nat) (bs : List Byte) : (s.writeSpad a bs).out = s.out := rfl

@[simp] theorem State.emit_pending (s : State) (o : Out) : (s.emit o).pending = s.pending := rfl
@[simp] theorem State.emit_now (s : State) (o : Out) : (s.emit o).now = s.now := rfl
@[simp] theorem State.emit_freeCtr (s : State) (o : Out) : (s.emit o).freeCtr = s.freeCtr := rfl
@[simp] theorem State.emit_pace (s : State) (o : Out) : (s.emit o).pace = s.pace := rfl
@[simp] theorem State.emit_mg (s : State) (o : Out) : (s.emit o).mg = s.mg := rfl
@[simp] theorem State.emit_baton (s : State) (o : Out) : (s.emit o).baton = s.baton := rfl
@[simp] theorem State.emit_power (s : State) (o : Out) : (s.emit o).power = s.power := rfl
@[simp] theorem State.emit_log (s : State) (o : Out) : (s.emit o).log = s.log := rfl
@[simp] theorem State.emit_finish (s : State) (o : Out) : (s.emit o).finish = s.finish := rfl
@[simp] theorem State.emit_storage (s : State) (o : Out) : (s.emit o).storage = s.storage := rfl
@[simp] theorem State.emit_tables (s : State) (o : Out) : (s.emit o).tables = s.tables := rfl
@[simp] theorem State.emit_trackers (s : State) (o : Out) : (s.emit o).trackers = s.trackers := rfl
@[simp] theorem State.emit_units (s : State) (o : Out) : (s.emit o).units = s.units := rfl
@[simp] theorem State.emit_links (s : State) (o : Out) : (s.emit o).links = s.links := rfl
@[simp] theorem State.emit_mem (s : State) (o : Out) : (s.emit o).mem = s.mem := rfl

/-! ### An event posted changes nothing but the unit that holds it -/

@[simp] theorem State.post_pending (s : State) (p b : Nat) (v : Ev) (c : Option Nat) (x y z : BitVec 32) :
    (s.post p b v c x y z).pending = s.pending := rfl
@[simp] theorem State.post_now (s : State) (p b : Nat) (v : Ev) (c : Option Nat) (x y z : BitVec 32) :
    (s.post p b v c x y z).now = s.now := rfl
@[simp] theorem State.post_freeCtr (s : State) (p b : Nat) (v : Ev) (c : Option Nat) (x y z : BitVec 32) :
    (s.post p b v c x y z).freeCtr = s.freeCtr := rfl
@[simp] theorem State.post_pace (s : State) (p b : Nat) (v : Ev) (c : Option Nat) (x y z : BitVec 32) :
    (s.post p b v c x y z).pace = s.pace := rfl
@[simp] theorem State.post_mg (s : State) (p b : Nat) (v : Ev) (c : Option Nat) (x y z : BitVec 32) :
    (s.post p b v c x y z).mg = s.mg := rfl
@[simp] theorem State.post_baton (s : State) (p b : Nat) (v : Ev) (c : Option Nat) (x y z : BitVec 32) :
    (s.post p b v c x y z).baton = s.baton := rfl
@[simp] theorem State.post_power (s : State) (p b : Nat) (v : Ev) (c : Option Nat) (x y z : BitVec 32) :
    (s.post p b v c x y z).power = s.power := rfl
@[simp] theorem State.post_log (s : State) (p b : Nat) (v : Ev) (c : Option Nat) (x y z : BitVec 32) :
    (s.post p b v c x y z).log = s.log := rfl
@[simp] theorem State.post_finish (s : State) (p b : Nat) (v : Ev) (c : Option Nat) (x y z : BitVec 32) :
    (s.post p b v c x y z).finish = s.finish := rfl
@[simp] theorem State.post_storage (s : State) (p b : Nat) (v : Ev) (c : Option Nat) (x y z : BitVec 32) :
    (s.post p b v c x y z).storage = s.storage := rfl
@[simp] theorem State.post_tables (s : State) (p b : Nat) (v : Ev) (c : Option Nat) (x y z : BitVec 32) :
    (s.post p b v c x y z).tables = s.tables := rfl
@[simp] theorem State.post_trackers (s : State) (p b : Nat) (v : Ev) (c : Option Nat) (x y z : BitVec 32) :
    (s.post p b v c x y z).trackers = s.trackers := rfl
@[simp] theorem State.post_links (s : State) (p b : Nat) (v : Ev) (c : Option Nat) (x y z : BitVec 32) :
    (s.post p b v c x y z).links = s.links := rfl
@[simp] theorem State.post_mem (s : State) (p b : Nat) (v : Ev) (c : Option Nat) (x y z : BitVec 32) :
    (s.post p b v c x y z).mem = s.mem := rfl
@[simp] theorem State.post_out (s : State) (p b : Nat) (v : Ev) (c : Option Nat) (x y z : BitVec 32) :
    (s.post p b v c x y z).out = s.out := rfl
@[simp] theorem State.postMg_pending (s : State) (v : Ev) (x y z : BitVec 32) : (s.postMg v x y z).pending = s.pending :=
  State.post_pending s 0 0 v none x y z
@[simp] theorem State.postMg_now (s : State) (v : Ev) (x y z : BitVec 32) : (s.postMg v x y z).now = s.now :=
  State.post_now s 0 0 v none x y z
@[simp] theorem State.postMg_freeCtr (s : State) (v : Ev) (x y z : BitVec 32) : (s.postMg v x y z).freeCtr = s.freeCtr :=
  State.post_freeCtr s 0 0 v none x y z
@[simp] theorem State.postMg_pace (s : State) (v : Ev) (x y z : BitVec 32) : (s.postMg v x y z).pace = s.pace :=
  State.post_pace s 0 0 v none x y z
@[simp] theorem State.postMg_mg (s : State) (v : Ev) (x y z : BitVec 32) : (s.postMg v x y z).mg = s.mg :=
  State.post_mg s 0 0 v none x y z
@[simp] theorem State.postMg_baton (s : State) (v : Ev) (x y z : BitVec 32) : (s.postMg v x y z).baton = s.baton :=
  State.post_baton s 0 0 v none x y z
@[simp] theorem State.postMg_power (s : State) (v : Ev) (x y z : BitVec 32) : (s.postMg v x y z).power = s.power :=
  State.post_power s 0 0 v none x y z
@[simp] theorem State.postMg_log (s : State) (v : Ev) (x y z : BitVec 32) : (s.postMg v x y z).log = s.log :=
  State.post_log s 0 0 v none x y z
@[simp] theorem State.postMg_finish (s : State) (v : Ev) (x y z : BitVec 32) : (s.postMg v x y z).finish = s.finish :=
  State.post_finish s 0 0 v none x y z
@[simp] theorem State.postMg_storage (s : State) (v : Ev) (x y z : BitVec 32) : (s.postMg v x y z).storage = s.storage :=
  State.post_storage s 0 0 v none x y z
@[simp] theorem State.postMg_tables (s : State) (v : Ev) (x y z : BitVec 32) : (s.postMg v x y z).tables = s.tables :=
  State.post_tables s 0 0 v none x y z
@[simp] theorem State.postMg_trackers (s : State) (v : Ev) (x y z : BitVec 32) : (s.postMg v x y z).trackers = s.trackers :=
  State.post_trackers s 0 0 v none x y z
@[simp] theorem State.postMg_links (s : State) (v : Ev) (x y z : BitVec 32) : (s.postMg v x y z).links = s.links :=
  State.post_links s 0 0 v none x y z
@[simp] theorem State.postMg_mem (s : State) (v : Ev) (x y z : BitVec 32) : (s.postMg v x y z).mem = s.mem :=
  State.post_mem s 0 0 v none x y z
@[simp] theorem State.postMg_out (s : State) (v : Ev) (x y z : BitVec 32) : (s.postMg v x y z).out = s.out :=
  State.post_out s 0 0 v none x y z
@[simp] theorem State.malformed_pending (s : State) (p i : Nat) (x : BitVec 32) (n : Nat) : (s.malformed p i x n).pending = s.pending :=
  State.post_pending s p p .malformed none _ x _
@[simp] theorem State.malformed_now (s : State) (p i : Nat) (x : BitVec 32) (n : Nat) : (s.malformed p i x n).now = s.now :=
  State.post_now s p p .malformed none _ x _
@[simp] theorem State.malformed_freeCtr (s : State) (p i : Nat) (x : BitVec 32) (n : Nat) : (s.malformed p i x n).freeCtr = s.freeCtr :=
  State.post_freeCtr s p p .malformed none _ x _
@[simp] theorem State.malformed_pace (s : State) (p i : Nat) (x : BitVec 32) (n : Nat) : (s.malformed p i x n).pace = s.pace :=
  State.post_pace s p p .malformed none _ x _
@[simp] theorem State.malformed_mg (s : State) (p i : Nat) (x : BitVec 32) (n : Nat) : (s.malformed p i x n).mg = s.mg :=
  State.post_mg s p p .malformed none _ x _
@[simp] theorem State.malformed_baton (s : State) (p i : Nat) (x : BitVec 32) (n : Nat) : (s.malformed p i x n).baton = s.baton :=
  State.post_baton s p p .malformed none _ x _
@[simp] theorem State.malformed_power (s : State) (p i : Nat) (x : BitVec 32) (n : Nat) : (s.malformed p i x n).power = s.power :=
  State.post_power s p p .malformed none _ x _
@[simp] theorem State.malformed_log (s : State) (p i : Nat) (x : BitVec 32) (n : Nat) : (s.malformed p i x n).log = s.log :=
  State.post_log s p p .malformed none _ x _
@[simp] theorem State.malformed_finish (s : State) (p i : Nat) (x : BitVec 32) (n : Nat) : (s.malformed p i x n).finish = s.finish :=
  State.post_finish s p p .malformed none _ x _
@[simp] theorem State.malformed_storage (s : State) (p i : Nat) (x : BitVec 32) (n : Nat) : (s.malformed p i x n).storage = s.storage :=
  State.post_storage s p p .malformed none _ x _
@[simp] theorem State.malformed_tables (s : State) (p i : Nat) (x : BitVec 32) (n : Nat) : (s.malformed p i x n).tables = s.tables :=
  State.post_tables s p p .malformed none _ x _
@[simp] theorem State.malformed_trackers (s : State) (p i : Nat) (x : BitVec 32) (n : Nat) : (s.malformed p i x n).trackers = s.trackers :=
  State.post_trackers s p p .malformed none _ x _
@[simp] theorem State.malformed_links (s : State) (p i : Nat) (x : BitVec 32) (n : Nat) : (s.malformed p i x n).links = s.links :=
  State.post_links s p p .malformed none _ x _
@[simp] theorem State.malformed_mem (s : State) (p i : Nat) (x : BitVec 32) (n : Nat) : (s.malformed p i x n).mem = s.mem :=
  State.post_mem s p p .malformed none _ x _
@[simp] theorem State.malformed_out (s : State) (p i : Nat) (x : BitVec 32) (n : Nat) : (s.malformed p i x n).out = s.out :=
  State.post_out s p p .malformed none _ x _

/-! ### Tables -/

/-- An entry read where every number listed is another one. -/
theorem tget_of_notMem {α : Type} (d : α) (t : Tab α) (k : Nat) (h : ∀ c ∈ t, c.1 ≠ k) : tget d t k = d := by
  induction t with
  | nil => rfl
  | cons c t ih =>
    obtain ⟨i, v⟩ := c
    have hi : i ≠ k := h (i, v) (by simp)
    simp only [tget, if_neg hi]
    exact ih (fun c hc => h c (by simp [hc]))

/-- Reading a table whose first part does not list the number. -/
theorem tget_append_right {α : Type} (d : α) (t u : Tab α) (k : Nat) (h : ∀ c ∈ t, c.1 ≠ k) :
    tget d (t ++ u) k = tget d u k := by
  induction t with
  | nil => rfl
  | cons c t ih =>
    obtain ⟨i, v⟩ := c
    have hi : i ≠ k := h (i, v) (by simp)
    simp only [List.cons_append, tget, if_neg hi]
    exact ih (fun c hc => h c (by simp [hc]))

/-- Reading a table whose second part does not list the number. -/
theorem tget_append_left {α : Type} (d : α) (t u : Tab α) (k : Nat) (h : ∀ c ∈ u, c.1 ≠ k) :
    tget d (t ++ u) k = tget d t k := by
  induction t with
  | nil => exact tget_of_notMem d u k h
  | cons c t ih =>
    obtain ⟨i, v⟩ := c
    simp only [List.cons_append, tget, ih]

/-- Entries that a filter keeps read as before. -/
theorem tget_filter {α : Type} (d : α) (t : Tab α) (k : Nat) (p : Nat × α → Bool) (hp : ∀ v, p (k, v) = true) :
    tget d (t.filter p) k = tget d t k := by
  induction t with
  | nil => rfl
  | cons c t ih =>
    obtain ⟨i, v⟩ := c
    by_cases hi : i = k
    · subst hi; simp [hp, tget]
    · by_cases h : p (i, v) = true <;> simp [h, tget, hi, ih]

/-- What `tset` lists below, at and above the number set. -/
theorem tset_parts {α : Type} [DecidableEq α] (d : α) (t : Tab α) (k : Nat) (v : α) :
    (∀ c ∈ t.filter (fun c => decide (c.1 < k)), c.1 < k) ∧ (∀ c ∈ (if v = d then [] else [(k, v)] : Tab α), c.1 = k)
      ∧ (∀ c ∈ t.filter (fun c => decide (k < c.1)), k < c.1) := by
  refine ⟨fun c hc => ?_, fun c hc => ?_, fun c hc => ?_⟩
  · simpa using (List.mem_filter.mp hc).2
  · by_cases hv : v = d <;> simp_all
  · simpa using (List.mem_filter.mp hc).2

/-- The entry just set. -/
@[simp] theorem tget_tset_self {α : Type} [DecidableEq α] (d : α) (t : Tab α) (k : Nat) (v : α) :
    tget d (tset d t k v) k = v := by
  obtain ⟨low, _, high⟩ := tset_parts d t k v
  unfold tset
  rw [List.append_assoc, tget_append_right d _ _ k (fun c hc => Nat.ne_of_lt (low c hc)),
    tget_append_left d _ _ k (fun c hc => Nat.ne_of_gt (high c hc))]
  by_cases h : v = d <;> simp [h, tget]

/-- Every other entry. -/
theorem tget_tset_ne {α : Type} [DecidableEq α] (d : α) (t : Tab α) {k j : Nat} (v : α) (h : j ≠ k) :
    tget d (tset d t k v) j = tget d t j := by
  obtain ⟨low, mid, high⟩ := tset_parts d t k v
  unfold tset
  rcases Nat.lt_or_gt_of_ne h with hlt | hgt
  · rw [tget_append_left d _ _ j (fun c hc => by have := high c hc; omega),
      tget_append_left d _ _ j (fun c hc => by have := mid c hc; omega)]
    exact tget_filter d t j _ (by simp [hlt])
  · rw [tget_append_right d _ _ j (fun c hc => by
      rcases List.mem_append.mp hc with hc | hc
      · have := low c hc; omega
      · have := mid c hc; omega)]
    exact tget_filter d t j _ (by simp [hgt])

/-! ### What was set is read back -/

@[simp] theorem State.unit_setUnit_self (s : State) (k : Nat) (v : UnitSt) : (s.setUnit k v).unit k = v :=
  tget_tset_self _ _ _ _
theorem State.unit_setUnit_ne (s : State) {k j : Nat} (v : UnitSt) (h : j ≠ k) : (s.setUnit k v).unit j = s.unit j :=
  tget_tset_ne _ _ _ h
@[simp] theorem State.unit_setQueue (s : State) (k j : Nat) (v : Queue) : (s.setQueue k v).unit j = s.unit j := rfl
@[simp] theorem State.unit_setContext (s : State) (k j : Nat) (v : Context) : (s.setContext k v).unit j = s.unit j := rfl
@[simp] theorem State.unit_setStream (s : State) (k j : Nat) (v : Stream) : (s.setStream k v).unit j = s.unit j := rfl
@[simp] theorem State.unit_setTracked (s : State) (k j : Nat) (v : Tracked) : (s.setTracked k v).unit j = s.unit j := rfl
@[simp] theorem State.unit_setWatch (s : State) (k j : Nat) (v : Watch) : (s.setWatch k v).unit j = s.unit j := rfl
@[simp] theorem State.unit_setLink (s : State) (k j : Nat) (v : Link) : (s.setLink k v).unit j = s.unit j := rfl
@[simp] theorem State.unit_setLastUse (s : State) (k j : Nat) (v : LastUse) : (s.setLastUse k v).unit j = s.unit j := rfl
@[simp] theorem State.queue_setQueue_self (s : State) (k : Nat) (v : Queue) : (s.setQueue k v).queue k = v :=
  tget_tset_self _ _ _ _
theorem State.queue_setQueue_ne (s : State) {k j : Nat} (v : Queue) (h : j ≠ k) : (s.setQueue k v).queue j = s.queue j :=
  tget_tset_ne _ _ _ h
@[simp] theorem State.queue_setUnit (s : State) (k j : Nat) (v : UnitSt) : (s.setUnit k v).queue j = s.queue j := rfl
@[simp] theorem State.queue_setContext (s : State) (k j : Nat) (v : Context) : (s.setContext k v).queue j = s.queue j := rfl
@[simp] theorem State.queue_setStream (s : State) (k j : Nat) (v : Stream) : (s.setStream k v).queue j = s.queue j := rfl
@[simp] theorem State.queue_setTracked (s : State) (k j : Nat) (v : Tracked) : (s.setTracked k v).queue j = s.queue j := rfl
@[simp] theorem State.queue_setWatch (s : State) (k j : Nat) (v : Watch) : (s.setWatch k v).queue j = s.queue j := rfl
@[simp] theorem State.queue_setLink (s : State) (k j : Nat) (v : Link) : (s.setLink k v).queue j = s.queue j := rfl
@[simp] theorem State.queue_setLastUse (s : State) (k j : Nat) (v : LastUse) : (s.setLastUse k v).queue j = s.queue j := rfl
@[simp] theorem State.context_setContext_self (s : State) (k : Nat) (v : Context) : (s.setContext k v).context k = v :=
  tget_tset_self _ _ _ _
theorem State.context_setContext_ne (s : State) {k j : Nat} (v : Context) (h : j ≠ k) : (s.setContext k v).context j = s.context j :=
  tget_tset_ne _ _ _ h
@[simp] theorem State.context_setUnit (s : State) (k j : Nat) (v : UnitSt) : (s.setUnit k v).context j = s.context j := rfl
@[simp] theorem State.context_setQueue (s : State) (k j : Nat) (v : Queue) : (s.setQueue k v).context j = s.context j := rfl
@[simp] theorem State.context_setStream (s : State) (k j : Nat) (v : Stream) : (s.setStream k v).context j = s.context j := rfl
@[simp] theorem State.context_setTracked (s : State) (k j : Nat) (v : Tracked) : (s.setTracked k v).context j = s.context j := rfl
@[simp] theorem State.context_setWatch (s : State) (k j : Nat) (v : Watch) : (s.setWatch k v).context j = s.context j := rfl
@[simp] theorem State.context_setLink (s : State) (k j : Nat) (v : Link) : (s.setLink k v).context j = s.context j := rfl
@[simp] theorem State.context_setLastUse (s : State) (k j : Nat) (v : LastUse) : (s.setLastUse k v).context j = s.context j := rfl
@[simp] theorem State.stream_setStream_self (s : State) (k : Nat) (v : Stream) : (s.setStream k v).stream k = v :=
  tget_tset_self _ _ _ _
theorem State.stream_setStream_ne (s : State) {k j : Nat} (v : Stream) (h : j ≠ k) : (s.setStream k v).stream j = s.stream j :=
  tget_tset_ne _ _ _ h
@[simp] theorem State.stream_setUnit (s : State) (k j : Nat) (v : UnitSt) : (s.setUnit k v).stream j = s.stream j := rfl
@[simp] theorem State.stream_setQueue (s : State) (k j : Nat) (v : Queue) : (s.setQueue k v).stream j = s.stream j := rfl
@[simp] theorem State.stream_setContext (s : State) (k j : Nat) (v : Context) : (s.setContext k v).stream j = s.stream j := rfl
@[simp] theorem State.stream_setTracked (s : State) (k j : Nat) (v : Tracked) : (s.setTracked k v).stream j = s.stream j := rfl
@[simp] theorem State.stream_setWatch (s : State) (k j : Nat) (v : Watch) : (s.setWatch k v).stream j = s.stream j := rfl
@[simp] theorem State.stream_setLink (s : State) (k j : Nat) (v : Link) : (s.setLink k v).stream j = s.stream j := rfl
@[simp] theorem State.stream_setLastUse (s : State) (k j : Nat) (v : LastUse) : (s.setLastUse k v).stream j = s.stream j := rfl
@[simp] theorem State.tracked_setTracked_self (s : State) (k : Nat) (v : Tracked) : (s.setTracked k v).tracked k = v :=
  tget_tset_self _ _ _ _
theorem State.tracked_setTracked_ne (s : State) {k j : Nat} (v : Tracked) (h : j ≠ k) : (s.setTracked k v).tracked j = s.tracked j :=
  tget_tset_ne _ _ _ h
@[simp] theorem State.tracked_setUnit (s : State) (k j : Nat) (v : UnitSt) : (s.setUnit k v).tracked j = s.tracked j := rfl
@[simp] theorem State.tracked_setQueue (s : State) (k j : Nat) (v : Queue) : (s.setQueue k v).tracked j = s.tracked j := rfl
@[simp] theorem State.tracked_setContext (s : State) (k j : Nat) (v : Context) : (s.setContext k v).tracked j = s.tracked j := rfl
@[simp] theorem State.tracked_setStream (s : State) (k j : Nat) (v : Stream) : (s.setStream k v).tracked j = s.tracked j := rfl
@[simp] theorem State.tracked_setWatch (s : State) (k j : Nat) (v : Watch) : (s.setWatch k v).tracked j = s.tracked j := rfl
@[simp] theorem State.tracked_setLink (s : State) (k j : Nat) (v : Link) : (s.setLink k v).tracked j = s.tracked j := rfl
@[simp] theorem State.tracked_setLastUse (s : State) (k j : Nat) (v : LastUse) : (s.setLastUse k v).tracked j = s.tracked j := rfl
@[simp] theorem State.watch_setWatch_self (s : State) (k : Nat) (v : Watch) : (s.setWatch k v).watch k = v :=
  tget_tset_self _ _ _ _
theorem State.watch_setWatch_ne (s : State) {k j : Nat} (v : Watch) (h : j ≠ k) : (s.setWatch k v).watch j = s.watch j :=
  tget_tset_ne _ _ _ h
@[simp] theorem State.watch_setUnit (s : State) (k j : Nat) (v : UnitSt) : (s.setUnit k v).watch j = s.watch j := rfl
@[simp] theorem State.watch_setQueue (s : State) (k j : Nat) (v : Queue) : (s.setQueue k v).watch j = s.watch j := rfl
@[simp] theorem State.watch_setContext (s : State) (k j : Nat) (v : Context) : (s.setContext k v).watch j = s.watch j := rfl
@[simp] theorem State.watch_setStream (s : State) (k j : Nat) (v : Stream) : (s.setStream k v).watch j = s.watch j := rfl
@[simp] theorem State.watch_setTracked (s : State) (k j : Nat) (v : Tracked) : (s.setTracked k v).watch j = s.watch j := rfl
@[simp] theorem State.watch_setLink (s : State) (k j : Nat) (v : Link) : (s.setLink k v).watch j = s.watch j := rfl
@[simp] theorem State.watch_setLastUse (s : State) (k j : Nat) (v : LastUse) : (s.setLastUse k v).watch j = s.watch j := rfl
@[simp] theorem State.link_setLink_self (s : State) (k : Nat) (v : Link) : (s.setLink k v).link k = v :=
  tget_tset_self _ _ _ _
theorem State.link_setLink_ne (s : State) {k j : Nat} (v : Link) (h : j ≠ k) : (s.setLink k v).link j = s.link j :=
  tget_tset_ne _ _ _ h
@[simp] theorem State.link_setUnit (s : State) (k j : Nat) (v : UnitSt) : (s.setUnit k v).link j = s.link j := rfl
@[simp] theorem State.link_setQueue (s : State) (k j : Nat) (v : Queue) : (s.setQueue k v).link j = s.link j := rfl
@[simp] theorem State.link_setContext (s : State) (k j : Nat) (v : Context) : (s.setContext k v).link j = s.link j := rfl
@[simp] theorem State.link_setStream (s : State) (k j : Nat) (v : Stream) : (s.setStream k v).link j = s.link j := rfl
@[simp] theorem State.link_setTracked (s : State) (k j : Nat) (v : Tracked) : (s.setTracked k v).link j = s.link j := rfl
@[simp] theorem State.link_setWatch (s : State) (k j : Nat) (v : Watch) : (s.setWatch k v).link j = s.link j := rfl
@[simp] theorem State.link_setLastUse (s : State) (k j : Nat) (v : LastUse) : (s.setLastUse k v).link j = s.link j := rfl
@[simp] theorem State.lastUse_setLastUse_self (s : State) (k : Nat) (v : LastUse) : (s.setLastUse k v).lastUse k = v :=
  tget_tset_self _ _ _ _
theorem State.lastUse_setLastUse_ne (s : State) {k j : Nat} (v : LastUse) (h : j ≠ k) : (s.setLastUse k v).lastUse j = s.lastUse j :=
  tget_tset_ne _ _ _ h
@[simp] theorem State.lastUse_setUnit (s : State) (k j : Nat) (v : UnitSt) : (s.setUnit k v).lastUse j = s.lastUse j := rfl
@[simp] theorem State.lastUse_setQueue (s : State) (k j : Nat) (v : Queue) : (s.setQueue k v).lastUse j = s.lastUse j := rfl
@[simp] theorem State.lastUse_setContext (s : State) (k j : Nat) (v : Context) : (s.setContext k v).lastUse j = s.lastUse j := rfl
@[simp] theorem State.lastUse_setStream (s : State) (k j : Nat) (v : Stream) : (s.setStream k v).lastUse j = s.lastUse j := rfl
@[simp] theorem State.lastUse_setTracked (s : State) (k j : Nat) (v : Tracked) : (s.setTracked k v).lastUse j = s.lastUse j := rfl
@[simp] theorem State.lastUse_setWatch (s : State) (k j : Nat) (v : Watch) : (s.setWatch k v).lastUse j = s.lastUse j := rfl
@[simp] theorem State.lastUse_setLink (s : State) (k j : Nat) (v : Link) : (s.setLink k v).lastUse j = s.lastUse j := rfl
@[simp] theorem State.unit_onUnit_self (s : State) (k : Nat) (f : UnitSt → UnitSt) : (s.onUnit k f).unit k = f (s.unit k) :=
  tget_tset_self _ _ _ _
theorem State.unit_onUnit_ne (s : State) {k j : Nat} (f : UnitSt → UnitSt) (h : j ≠ k) : (s.onUnit k f).unit j = s.unit j :=
  tget_tset_ne _ _ _ h
@[simp] theorem State.queue_onUnit (s : State) (k j : Nat) (f : UnitSt → UnitSt) : (s.onUnit k f).queue j = s.queue j := rfl
@[simp] theorem State.context_onUnit (s : State) (k j : Nat) (f : UnitSt → UnitSt) : (s.onUnit k f).context j = s.context j := rfl
@[simp] theorem State.stream_onUnit (s : State) (k j : Nat) (f : UnitSt → UnitSt) : (s.onUnit k f).stream j = s.stream j := rfl
@[simp] theorem State.tracked_onUnit (s : State) (k j : Nat) (f : UnitSt → UnitSt) : (s.onUnit k f).tracked j = s.tracked j := rfl
@[simp] theorem State.watch_onUnit (s : State) (k j : Nat) (f : UnitSt → UnitSt) : (s.onUnit k f).watch j = s.watch j := rfl
@[simp] theorem State.link_onUnit (s : State) (k j : Nat) (f : UnitSt → UnitSt) : (s.onUnit k f).link j = s.link j := rfl
@[simp] theorem State.lastUse_onUnit (s : State) (k j : Nat) (f : UnitSt → UnitSt) : (s.onUnit k f).lastUse j = s.lastUse j := rfl
@[simp] theorem State.queue_onQueue_self (s : State) (k : Nat) (f : Queue → Queue) : (s.onQueue k f).queue k = f (s.queue k) :=
  tget_tset_self _ _ _ _
theorem State.queue_onQueue_ne (s : State) {k j : Nat} (f : Queue → Queue) (h : j ≠ k) : (s.onQueue k f).queue j = s.queue j :=
  tget_tset_ne _ _ _ h
@[simp] theorem State.unit_onQueue (s : State) (k j : Nat) (f : Queue → Queue) : (s.onQueue k f).unit j = s.unit j := rfl
@[simp] theorem State.context_onQueue (s : State) (k j : Nat) (f : Queue → Queue) : (s.onQueue k f).context j = s.context j := rfl
@[simp] theorem State.stream_onQueue (s : State) (k j : Nat) (f : Queue → Queue) : (s.onQueue k f).stream j = s.stream j := rfl
@[simp] theorem State.tracked_onQueue (s : State) (k j : Nat) (f : Queue → Queue) : (s.onQueue k f).tracked j = s.tracked j := rfl
@[simp] theorem State.watch_onQueue (s : State) (k j : Nat) (f : Queue → Queue) : (s.onQueue k f).watch j = s.watch j := rfl
@[simp] theorem State.link_onQueue (s : State) (k j : Nat) (f : Queue → Queue) : (s.onQueue k f).link j = s.link j := rfl
@[simp] theorem State.lastUse_onQueue (s : State) (k j : Nat) (f : Queue → Queue) : (s.onQueue k f).lastUse j = s.lastUse j := rfl
@[simp] theorem State.stream_onStream_self (s : State) (k : Nat) (f : Stream → Stream) : (s.onStream k f).stream k = f (s.stream k) :=
  tget_tset_self _ _ _ _
theorem State.stream_onStream_ne (s : State) {k j : Nat} (f : Stream → Stream) (h : j ≠ k) : (s.onStream k f).stream j = s.stream j :=
  tget_tset_ne _ _ _ h
@[simp] theorem State.unit_onStream (s : State) (k j : Nat) (f : Stream → Stream) : (s.onStream k f).unit j = s.unit j := rfl
@[simp] theorem State.queue_onStream (s : State) (k j : Nat) (f : Stream → Stream) : (s.onStream k f).queue j = s.queue j := rfl
@[simp] theorem State.context_onStream (s : State) (k j : Nat) (f : Stream → Stream) : (s.onStream k f).context j = s.context j := rfl
@[simp] theorem State.tracked_onStream (s : State) (k j : Nat) (f : Stream → Stream) : (s.onStream k f).tracked j = s.tracked j := rfl
@[simp] theorem State.watch_onStream (s : State) (k j : Nat) (f : Stream → Stream) : (s.onStream k f).watch j = s.watch j := rfl
@[simp] theorem State.link_onStream (s : State) (k j : Nat) (f : Stream → Stream) : (s.onStream k f).link j = s.link j := rfl
@[simp] theorem State.lastUse_onStream (s : State) (k j : Nat) (f : Stream → Stream) : (s.onStream k f).lastUse j = s.lastUse j := rfl
@[simp] theorem State.unit_emit (s : State) (o : Out) (j : Nat) : (s.emit o).unit j = s.unit j := rfl
@[simp] theorem State.queue_emit (s : State) (o : Out) (j : Nat) : (s.emit o).queue j = s.queue j := rfl
@[simp] theorem State.queue_post (s : State) (p b : Nat) (v : Ev) (c : Option Nat) (x y z : BitVec 32) (j : Nat) :
    (s.post p b v c x y z).queue j = s.queue j := by unfold State.queue; simp
@[simp] theorem State.context_emit (s : State) (o : Out) (j : Nat) : (s.emit o).context j = s.context j := rfl
@[simp] theorem State.context_post (s : State) (p b : Nat) (v : Ev) (c : Option Nat) (x y z : BitVec 32) (j : Nat) :
    (s.post p b v c x y z).context j = s.context j := by unfold State.context; simp
@[simp] theorem State.stream_emit (s : State) (o : Out) (j : Nat) : (s.emit o).stream j = s.stream j := rfl
@[simp] theorem State.stream_post (s : State) (p b : Nat) (v : Ev) (c : Option Nat) (x y z : BitVec 32) (j : Nat) :
    (s.post p b v c x y z).stream j = s.stream j := by unfold State.stream; simp
@[simp] theorem State.tracked_emit (s : State) (o : Out) (j : Nat) : (s.emit o).tracked j = s.tracked j := rfl
@[simp] theorem State.tracked_post (s : State) (p b : Nat) (v : Ev) (c : Option Nat) (x y z : BitVec 32) (j : Nat) :
    (s.post p b v c x y z).tracked j = s.tracked j := by unfold State.tracked; simp
@[simp] theorem State.watch_emit (s : State) (o : Out) (j : Nat) : (s.emit o).watch j = s.watch j := rfl
@[simp] theorem State.watch_post (s : State) (p b : Nat) (v : Ev) (c : Option Nat) (x y z : BitVec 32) (j : Nat) :
    (s.post p b v c x y z).watch j = s.watch j := by unfold State.watch; simp
@[simp] theorem State.link_emit (s : State) (o : Out) (j : Nat) : (s.emit o).link j = s.link j := rfl
@[simp] theorem State.link_post (s : State) (p b : Nat) (v : Ev) (c : Option Nat) (x y z : BitVec 32) (j : Nat) :
    (s.post p b v c x y z).link j = s.link j := by unfold State.link; simp
@[simp] theorem State.lastUse_emit (s : State) (o : Out) (j : Nat) : (s.emit o).lastUse j = s.lastUse j := rfl
@[simp] theorem State.lastUse_post (s : State) (p b : Nat) (v : Ev) (c : Option Nat) (x y z : BitVec 32) (j : Nat) :
    (s.post p b v c x y z).lastUse j = s.lastUse j := by unfold State.lastUse; simp

/-- Posting reaches one unit. -/
theorem State.unit_post_ne (s : State) {p j : Nat} (b : Nat) (v : Ev) (c : Option Nat) (x y z : BitVec 32) (h : j ≠ p) :
    (s.post p b v c x y z).unit j = s.unit j := by
  exact State.unit_onUnit_ne s _ h

/-- A field that every step of a fold leaves alone. -/
theorem State.each_field {α β : Type} (g : State → β) (f : State → α → State) (h : ∀ s a, g (f s a) = g s) (l : List α)
    (s : State) : g (s.each l f) = g s := by
  unfold State.each
  induction l generalizing s with
  | nil => rfl
  | cons a l ih => rw [List.foldl_cons, ih, h]

/-- A command's effect while MG runs (R427). -/
theorem live_of_running {s : State} (t : State) (h : s.mg.fatal = false) : live s t = .next t := by
  simp [live, h]

/-- After MG_FATAL nothing has an effect (R427). -/
theorem live_of_fatal {s : State} (t : State) (h : s.mg.fatal = true) : live s t = .next s := by
  simp [live, h]

end Sys2Proof.Machine
end

