-- ==== Sys2Proof/Laws/Memory.lean ====
section
/-!
SUPPORT. Tables and memory: what an update gives back when it is read, and that every update keeps the canonical form.
-/

namespace Sys2Proof.Machine

/-! ### The canonical form -/

/-- A table is in canonical form when its numbers rise and no entry is the default. -/
theorem twf_iff {α : Type} [DecidableEq α] (d : α) (t : Tab α) :
    twf d t = true ↔ t.Pairwise (fun a b => a.1 < b.1) ∧ ∀ c ∈ t, c.2 ≠ d := by
  induction t with
  | nil => simp [twf]
  | cons a t ih =>
    obtain ⟨i, v⟩ := a
    cases t with
    | nil => simp [twf]
    | cons b t =>
      obtain ⟨j, w⟩ := b
      simp only [twf, Bool.and_eq_true, decide_eq_true_eq, ih, List.pairwise_cons, List.mem_cons, forall_eq_or_imp]
      constructor
      · rintro ⟨⟨hv, hij⟩, ⟨hj, hp⟩, hw, hd⟩
        exact ⟨⟨⟨hij, fun c hc => hij.trans (hj c hc)⟩, hj, hp⟩, hv, hw, hd⟩
      · rintro ⟨⟨⟨hij, -⟩, hj, hp⟩, hv, hw, hd⟩
        exact ⟨⟨hv, hij⟩, ⟨hj, hp⟩, hw, hd⟩

/-- Entries taken out of a table leave its canonical form. -/
theorem twf_filter {α : Type} [DecidableEq α] {d : α} {t : Tab α} (p : Nat × α → Bool) (h : twf d t = true) :
    twf d (t.filter p) = true := by
  rw [twf_iff] at h ⊢
  exact ⟨h.1.filter p, fun c hc => h.2 c (List.mem_of_mem_filter hc)⟩

/-- Two tables, the first below a number and the second from it on. -/
theorem twf_append {α : Type} [DecidableEq α] {d : α} {t u : Tab α} (h : twf d t = true) (h' : twf d u = true)
    (hlt : ∀ a ∈ t, ∀ b ∈ u, a.1 < b.1) : twf d (t ++ u) = true := by
  rw [twf_iff] at h h' ⊢
  refine ⟨List.pairwise_append.2 ⟨h.1, h'.1, hlt⟩, fun c hc => ?_⟩
  rcases List.mem_append.1 hc with hc | hc
  · exact h.2 c hc
  · exact h'.2 c hc

/-- Setting an entry keeps the canonical form. -/
theorem twf_tset {α : Type} [DecidableEq α] {d : α} {t : Tab α} (k : Nat) (v : α) (h : twf d t = true) :
    twf d (tset d t k v) = true := by
  unfold tset
  refine twf_append (twf_append (twf_filter _ h) ?_ ?_) (twf_filter _ h) ?_
  · split
    · rfl
    · simpa [twf]
  · intro a ha b hb
    have := (List.mem_filter.1 ha).2
    split at hb <;> simp_all
  · intro a ha b hb
    have hb' := (List.mem_filter.1 hb).2
    rcases List.mem_append.1 ha with ha | ha
    · have := (List.mem_filter.1 ha).2
      simp only [decide_eq_true_eq] at *; omega
    · split at ha <;> simp_all

theorem mem_cellsOf {k : Nat} {bs : List Byte} {c : Host.Cell} (h : c ∈ cellsOf k bs) :
    k ≤ c.1 ∧ c.1 < k + bs.length ∧ c.2 ≠ 0 := by
  induction bs generalizing k with
  | nil => simp [cellsOf] at h
  | cons b bs ih =>
    rw [cellsOf] at h
    split at h
    · obtain ⟨h1, h2, h3⟩ := ih h
      simp only [List.length_cons]; exact ⟨by omega, by omega, h3⟩
    · rcases List.mem_cons.1 h with rfl | h
      · exact ⟨le_refl _, by simp, ‹_›⟩
      · obtain ⟨h1, h2, h3⟩ := ih h
        simp only [List.length_cons]; exact ⟨by omega, by omega, h3⟩

theorem wf_cellsOf (k : Nat) (bs : List Byte) : Memory.wf (cellsOf k bs) = true := by
  rw [Memory.wf, twf_iff]
  refine ⟨?_, fun c hc => (mem_cellsOf hc).2.2⟩
  induction bs generalizing k with
  | nil => simp [cellsOf]
  | cons b bs ih =>
    rw [cellsOf]; split
    · exact ih _
    · exact List.pairwise_cons.2 ⟨fun c hc => by have := (mem_cellsOf hc).1; simp only; omega, ih _⟩

/-- Writing bytes keeps memory canonical. -/
theorem wf_writeBytes {m : Memory} (k : Nat) (bs : List Byte) (h : Memory.wf m = true) :
    Memory.wf (writeBytes m k bs) = true := by
  refine twf_append (twf_append (twf_filter _ h) (wf_cellsOf k bs) ?_) (twf_filter _ h) ?_
  · intro a ha b hb
    have ha := (List.mem_filter.1 ha).2
    have hb := (mem_cellsOf hb).1
    simp only [decide_eq_true_eq] at ha; omega
  · intro a ha b hb
    have hb := (List.mem_filter.1 hb).2
    simp only [decide_eq_true_eq] at hb
    rcases List.mem_append.1 ha with ha | ha
    · have ha := (List.mem_filter.1 ha).2
      simp only [decide_eq_true_eq] at ha; omega
    · have := (mem_cellsOf ha).2.1; omega

/-- Clearing bytes keeps memory canonical. -/
theorem wf_clearBytes {m : Memory} (k n : Nat) (h : Memory.wf m = true) : Memory.wf (clearBytes m k n) = true :=
  twf_filter _ h

/-- Reset's memory lists nothing. -/
theorem wf_reset : Memory.wf State.reset.mem = true := rfl

/-! ### Reading after an update -/

theorem tget_append {α : Type} (d : α) (t u : Tab α) (k : Nat) :
    tget d (t ++ u) k = if (∃ c ∈ t, c.1 = k) then tget d t k else tget d u k := by
  induction t with
  | nil => simp
  | cons c t ih =>
    obtain ⟨i, v⟩ := c
    by_cases h : i = k
    · simp [tget, h]
    · rw [List.cons_append, tget, if_neg h, ih, tget, if_neg h]
      congr 1
      simp [h]

theorem tget_filter_key {α : Type} (d : α) (t : Tab α) (p : Nat → Bool) (k : Nat) :
    tget d (t.filter (fun c => p c.1)) k = if p k = true then tget d t k else d := by
  induction t with
  | nil => simp [tget]
  | cons c t ih =>
    obtain ⟨i, v⟩ := c
    by_cases hp : p i = true
    · rw [List.filter_cons_of_pos (by simpa using hp)]
      by_cases h : i = k
      · subst h; simp [tget, hp]
      · simp [tget, h, ih]
    · rw [List.filter_cons_of_neg (by simpa using hp)]
      by_cases h : i = k
      · subst h; simp [ih, hp]
      · simp [tget, h, ih]

theorem readByte_cellsOf (k : Nat) (bs : List Byte) (a : Nat) :
    readByte (cellsOf k bs) a = if k ≤ a ∧ a < k + bs.length then bs.getD (a - k) 0 else 0 := by
  induction bs generalizing k with
  | nil => simp [cellsOf, readByte, tget]
  | cons b bs ih =>
    have ih := ih (k + 1)
    by_cases hb : b = 0
    · rw [cellsOf, if_pos hb, ih]
      by_cases ha : a = k
      · subst ha; simp [hb]
      · by_cases h2 : k + 1 ≤ a ∧ a < k + 1 + bs.length
        · rw [if_pos h2, if_pos (by simp; omega)]
          obtain ⟨j, hj⟩ : ∃ j, a - k = j + 1 := ⟨a - k - 1, by omega⟩
          rw [hj, show a - (k + 1) = j by omega]; simp
        · rw [if_neg h2, if_neg (by simp; omega)]
    · rw [cellsOf, if_neg hb]
      by_cases ha : k = a
      · subst ha; simp [readByte, tget]
      · show tget 0 ((k, b) :: cellsOf (k + 1) bs) a = _
        rw [tget, if_neg ha]
        show readByte (cellsOf (k + 1) bs) a = _
        rw [ih]
        by_cases h2 : k + 1 ≤ a ∧ a < k + 1 + bs.length
        · rw [if_pos h2, if_pos (by simp; omega)]
          obtain ⟨j, hj⟩ : ∃ j, a - k = j + 1 := ⟨a - k - 1, by omega⟩
          rw [hj, show a - (k + 1) = j by omega]; simp
        · rw [if_neg h2, if_neg (by simp; omega)]

/-- A byte after bytes were written: theirs inside, as before outside. -/
theorem readByte_writeBytes (m : Memory) (k : Nat) (bs : List Byte) (a : Nat) :
    readByte (writeBytes m k bs) a = if k ≤ a ∧ a < k + bs.length then bs.getD (a - k) 0 else readByte m a := by
  have e1 := tget_filter_key (0 : Byte) m (fun i => decide (i < k)) a
  have e2 := tget_filter_key (0 : Byte) m (fun i => decide (k + bs.length ≤ i)) a
  have e3 := readByte_cellsOf k bs a
  unfold readByte at e3 ⊢
  rw [writeBytes, List.append_assoc]
  by_cases h1 : a < k
  · rw [if_neg (by omega)]
    rw [tget_append]; split
    · rw [e1, if_pos (by simpa using h1)]
    · rename_i hn
      have : tget (0 : Byte) (m.filter (fun c => decide (c.1 < k))) a = 0 :=
        tget_of_notMem _ _ _ (fun c hc hk => hn ⟨c, hc, hk⟩)
      rw [e1, if_pos (by simpa using h1)] at this
      rw [this]
      refine tget_of_notMem _ _ _ (fun c hc hk => ?_)
      rcases List.mem_append.1 hc with hc | hc
      · have := (mem_cellsOf hc).1; omega
      · have := (List.mem_filter.1 hc).2; simp only [decide_eq_true_eq] at this; omega
  · rw [tget_append, if_neg (by
      rintro ⟨c, hc, hk⟩
      have := (List.mem_filter.1 hc).2; simp only [decide_eq_true_eq] at this; omega)]
    by_cases h2 : a < k + bs.length
    · rw [if_pos (by omega), tget_append]; split
      · rw [e3, if_pos (by omega)]
      · rename_i hn
        have : tget (0 : Byte) (cellsOf k bs) a = 0 := tget_of_notMem _ _ _ (fun c hc hk => hn ⟨c, hc, hk⟩)
        rw [e3, if_pos (by omega)] at this
        rw [this, e2, if_neg (by simp; omega)]
    · rw [if_neg (by omega), tget_append, if_neg (by
        rintro ⟨c, hc, hk⟩
        have := (mem_cellsOf hc).2.1; omega), e2, if_pos (by simp; omega)]

/-- A byte outside the bytes written reads as before. -/
theorem readByte_writeBytes_of_out {m : Memory} {k a : Nat} {bs : List Byte} (h : a < k ∨ k + bs.length ≤ a) :
    readByte (writeBytes m k bs) a = readByte m a := by
  rw [readByte_writeBytes, if_neg (by omega)]

/-- A byte after bytes were cleared. -/
theorem readByte_clearBytes (m : Memory) (k n a : Nat) :
    readByte (clearBytes m k n) a = if k ≤ a ∧ a < k + n then 0 else readByte m a := by
  have e := tget_filter_key (0 : Byte) m (fun i => decide (i < k) || decide (k + n ≤ i)) a
  unfold readByte clearBytes
  rw [e]
  by_cases h : k ≤ a ∧ a < k + n
  · rw [if_pos h, if_neg (by simp; omega)]
  · rw [if_neg h, if_pos (by simp; omega)]

/-- A run of bytes is the bytes one by one. -/
theorem readBytes_eq (m : Memory) (k n : Nat) : readBytes m k n = (List.range n).map (fun i => readByte m (k + i)) := by
  have hrun : ∀ (p : Nat → Bool) (a w : Nat), (∀ i < w, p (a + i) = true) →
      readRun (m.filter (fun c => p c.1)) a w = readRun m a w := by
    intro p a w hp
    unfold readRun
    refine List.map_congr_left (fun i hi => ?_)
    unfold readByte
    rw [tget_filter_key _ _ p, if_pos (hp i (List.mem_range.1 hi))]
  have hsum : ∀ c, (List.range c).flatMap (fun j => readRun m (k + 64 * j) 64) = readRun m k (64 * c) := by
    intro c
    induction c with
    | zero => rfl
    | succ c ih =>
      rw [List.range_succ, List.flatMap_append, ih, List.flatMap_singleton]
      unfold readRun
      rw [show 64 * (c + 1) = 64 * c + 64 by omega, List.range_add, List.map_append, List.map_map]
      simp [Function.comp_def, Nat.add_assoc]
  rw [readBytes]
  have h1 : ∀ c, readRun (m.filter (fun x => decide (k + 64 * c ≤ x.1) && decide (x.1 < k + 64 * c + 64)))
      (k + 64 * c) 64 = readRun m (k + 64 * c) 64 := fun c =>
    hrun (fun i => decide (k + 64 * c ≤ i) && decide (i < k + 64 * c + 64)) _ _ (fun i hi => by simp; omega)
  have h2 := hrun (fun i => decide (k + 64 * (n / 64) ≤ i)) (k + 64 * (n / 64)) (n % 64) (fun i _ => by simp)
  simp only [h1, h2, hsum]
  unfold readRun
  conv_rhs => rw [← Nat.div_add_mod n 64, List.range_add, List.map_append, List.map_map]
  congr 1
  exact List.map_congr_left (fun i _ => by simp [Nat.add_assoc])

@[simp] theorem length_readBytes (m : Memory) (k n : Nat) : (readBytes m k n).length = n := by
  simp [readBytes_eq]

/-- Bytes written are read back. -/
theorem readBytes_writeBytes_self (m : Memory) (k : Nat) (bs : List Byte) :
    readBytes (writeBytes m k bs) k bs.length = bs := by
  rw [readBytes_eq]
  apply List.ext_getElem (by simp)
  intro i h1 h2
  simp only [List.getElem_map, List.getElem_range, readByte_writeBytes]
  rw [if_pos (by omega)]
  simp [h2]

/-- Bytes outside those written read as before. -/
theorem readBytes_writeBytes_of_out {m : Memory} {k a n : Nat} {bs : List Byte} (h : a + n ≤ k ∨ k + bs.length ≤ a) :
    readBytes (writeBytes m k bs) a n = readBytes m a n := by
  rw [readBytes_eq, readBytes_eq]
  refine List.map_congr_left (fun i hi => ?_)
  have := List.mem_range.1 hi
  exact readByte_writeBytes_of_out (by omega)

end Sys2Proof.Machine
end

