-- ==== Sys2Proof/Laws/Messages.lean ====
section
/-!
SUPPORT. The fields of a baton message read back from the message that was built with them (R381).
-/

namespace Sys2Proof.Machine

theorem ofNat_eq_setWidth (n m k : Nat) (hk : k < 2 ^ m) (hm : m ≤ n) :
    BitVec.ofNat n k = (BitVec.ofNat m k).setWidth n := by
  apply BitVec.eq_of_toNat_eq
  have h2 : k < 2 ^ n := lt_of_lt_of_le hk (Nat.pow_le_pow_right (by decide) hm)
  simp [Nat.mod_eq_of_lt hk, Nat.mod_eq_of_lt h2]

/-- Eight fields side by side in a message, and a field read back. -/
theorem fields_read (t : BitVec 8) (q : BitVec 8) (e : BitVec 4) (b : BitVec 12) (l : BitVec 48) (r p : BitVec 1)
    (v : BitVec 32) (m : BitVec 128)
    (hm : m = (t.setWidth 128 ||| (q.setWidth 128 <<< 8) ||| (e.setWidth 128 <<< 16) ||| (b.setWidth 128 <<< 20)
      ||| (l.setWidth 128 <<< 32) ||| (r.setWidth 128 <<< 80) ||| (p.setWidth 128 <<< 81) ||| (v.setWidth 128 <<< 96))) :
    bitsAt m 0 8 = t ∧ bitsAt m 8 8 = q ∧ bitsAt m 16 4 = e ∧ bitsAt m 20 12 = b ∧ bitsAt m 82 14 = 0 ∧ bitsAt m 96 32 = v := by
  subst hm
  and_intros <;> ext i hi <;> interval_cases i <;> simp

variable (t : Nat) (q : BitVec 8) (e : BitVec 4) (b : Nat) (l : BitVec 48) (r p : Bool) (v : BitVec 32)

theorem batonMsg_fields (ht : t < 256) (hb : b < 4096) :
    bitsAt (batonMsg t q e b l r p v) 0 8 = BitVec.ofNat 8 t ∧ bitsAt (batonMsg t q e b l r p v) 8 8 = q ∧
    bitsAt (batonMsg t q e b l r p v) 16 4 = e ∧ bitsAt (batonMsg t q e b l r p v) 20 12 = BitVec.ofNat 12 b ∧
    bitsAt (batonMsg t q e b l r p v) 82 14 = 0 ∧ bitsAt (batonMsg t q e b l r p v) 96 32 = v := by
  apply fields_read (BitVec.ofNat 8 t) q e (BitVec.ofNat 12 b) l (bit r) (bit p) v
  rw [batonMsg, wordOf, wordOf, ofNat_eq_setWidth 128 8 t ht (by decide), ofNat_eq_setWidth 128 12 b hb (by decide)]

theorem mVal_batonMsg (ht : t < 256) (hb : b < 4096) : mVal (batonMsg t q e b l r p v) = v :=
  (batonMsg_fields t q e b l r p v ht hb).2.2.2.2.2

theorem mSeq_batonMsg (ht : t < 256) (hb : b < 4096) : mSeq (batonMsg t q e b l r p v) = q :=
  (batonMsg_fields t q e b l r p v ht hb).2.1

theorem mEpoch_batonMsg (ht : t < 256) (hb : b < 4096) : mEpoch (batonMsg t q e b l r p v) = e :=
  (batonMsg_fields t q e b l r p v ht hb).2.2.1

theorem mBib_batonMsg (ht : t < 256) (hb : b < 4096) : mBib (batonMsg t q e b l r p v) = b := by
  rw [mBib, (batonMsg_fields t q e b l r p v ht hb).2.2.2.1]; simpa using hb

theorem mType_batonMsg (ht : t < 256) (hb : b < 4096) : mType (batonMsg t q e b l r p v) = t := by
  rw [mType, (batonMsg_fields t q e b l r p v ht hb).1]; simpa using ht

theorem batonMsgOk_batonMsg (ht : 0x20 ≤ t) (ht' : t ≤ 0x29) (hb : b < 4096) :
    batonMsgOk (batonMsg t q e b l r p v) = true := by
  rw [batonMsgOk, mType_batonMsg _ _ _ _ _ _ _ _ (by omega) hb,
    (batonMsg_fields t q e b l r p v (by omega) hb).2.2.2.2.1]
  simp [ht, ht']

end Sys2Proof.Machine
end

