-- ==== Sys2Proof/Laws/Blocks.lean ====
section
/-!
SUPPORT. Bytes and words, and a block's header read back from the block that was written with it (R82).
-/

namespace Sys2Proof.Machine

@[simp] theorem length_leBytes (n x : Nat) : (leBytes n x).length = n := by
  induction n generalizing x with
  | zero => rfl
  | succ n ih => simp [leBytes, ih]

@[simp] theorem length_bytesLE (n : Nat) {w : Nat} (x : BitVec w) : (bytesLE n x).length = n := length_leBytes _ _

/-- A number's bytes, read as a number. -/
theorem leNat_leBytes (n x : Nat) : leNat (leBytes n x) = x % 256 ^ n := by
  induction n generalizing x with
  | zero => simp [leBytes, leNat, Nat.mod_one]
  | succ n ih =>
    rw [leBytes, leNat, ih, pow_succ, mul_comm (256 ^ n) 256, Nat.mod_mul]
    simp

theorem leNat_append (a b : List Byte) : leNat (a ++ b) = leNat a + 256 ^ a.length * leNat b := by
  induction a with
  | nil => simp [leNat]
  | cons x a ih => simp only [List.cons_append, leNat, ih, List.length_cons, pow_succ]; ring

/-- A word's bytes, read as a number. -/
theorem leNat_bytesLE {n w : Nat} (x : BitVec w) (h : w ≤ 8 * n) : leNat (bytesLE n x) = x.toNat := by
  rw [bytesLE, leNat_leBytes, Nat.mod_eq_of_lt]
  refine lt_of_lt_of_le x.isLt ?_
  rw [show (256 : Nat) ^ n = 2 ^ (8 * n) by rw [pow_mul]; norm_num]
  exact Nat.pow_le_pow_right (by decide) h

theorem toNat_shift_add (h : BitVec 96) (c : BitVec 32) :
    (h.setWidth 128 ||| (c.setWidth 128 <<< 96)).toNat = h.toNat + 2 ^ 96 * c.toNat := by
  have e : h.setWidth 128 ||| (c.setWidth 128 <<< 96) = c ++ h := by
    ext i hi
    rw [BitVec.getElem_append]
    by_cases h1 : i < 96
    · simp [h1]
    · have h2 : i - 96 < 32 := by omega
      simp [h1, BitVec.getLsbD_of_ge h i (by omega), BitVec.getLsbD_eq_getElem h2]
  rw [e, BitVec.toNat_append, Nat.shiftLeft_eq, mul_comm, ← Nat.two_pow_add_eq_or_of_lt h.isLt]
  ring

theorem header_low (t : BitVec 24) (f : BitVec 6) (p o : BitVec 1) (g : BitVec 16) (e : BitVec 4) (c : BitVec 10)
    (k : BitVec 2) (n : BitVec 13) (m : BitVec 96)
    (hm : m = (t.setWidth 96 ||| (f.setWidth 96 <<< 24) ||| (p.setWidth 96 <<< 30) ||| (o.setWidth 96 <<< 31)
      ||| (g.setWidth 96 <<< 32) ||| (e.setWidth 96 <<< 48) ||| (c.setWidth 96 <<< 52) ||| (k.setWidth 96 <<< 62)
      ||| (n.setWidth 96 <<< 64) ||| (1#96 <<< 80))) :
    bitsAt m 0 24 = t ∧ bitsAt m 24 6 = f ∧ bitsAt m 30 1 = p ∧ bitsAt m 31 1 = o := by
  subst hm
  and_intros <;> ext i hi <;> interval_cases i <;> simp

theorem header_mid (t : BitVec 24) (f : BitVec 6) (p o : BitVec 1) (g : BitVec 16) (e : BitVec 4) (c : BitVec 10)
    (k : BitVec 2) (n : BitVec 13) (m : BitVec 96)
    (hm : m = (t.setWidth 96 ||| (f.setWidth 96 <<< 24) ||| (p.setWidth 96 <<< 30) ||| (o.setWidth 96 <<< 31)
      ||| (g.setWidth 96 <<< 32) ||| (e.setWidth 96 <<< 48) ||| (c.setWidth 96 <<< 52) ||| (k.setWidth 96 <<< 62)
      ||| (n.setWidth 96 <<< 64) ||| (1#96 <<< 80))) :
    bitsAt m 32 16 = g ∧ bitsAt m 48 4 = e ∧ bitsAt m 52 10 = c ∧ bitsAt m 62 2 = k := by
  subst hm
  and_intros <;> ext i hi <;> interval_cases i <;> simp

theorem header_high (t : BitVec 24) (f : BitVec 6) (p o : BitVec 1) (g : BitVec 16) (e : BitVec 4) (c : BitVec 10)
    (k : BitVec 2) (n : BitVec 13) (m : BitVec 96)
    (hm : m = (t.setWidth 96 ||| (f.setWidth 96 <<< 24) ||| (p.setWidth 96 <<< 30) ||| (o.setWidth 96 <<< 31)
      ||| (g.setWidth 96 <<< 32) ||| (e.setWidth 96 <<< 48) ||| (c.setWidth 96 <<< 52) ||| (k.setWidth 96 <<< 62)
      ||| (n.setWidth 96 <<< 64) ||| (1#96 <<< 80))) :
    bitsAt m 64 13 = n ∧ bitsAt m 77 3 = 0 ∧ bitsAt m 80 4 = 1 ∧ bitsAt m 84 12 = 0 := by
  subst hm
  and_intros <;> ext i hi <;> interval_cases i <;> simp

/-- A word of 96 bits below one of 32 bits. -/
theorem bitsAt_below (h : BitVec 96) (r : BitVec 32) (lo w : Nat) (hw : lo + w ≤ 96) :
    bitsAt (h.setWidth 128 ||| (r.setWidth 128 <<< 96)) lo w = bitsAt h lo w := by
  ext i hi
  have h1 : lo + i < 96 := by omega
  simp [h1]; omega

theorem bitsAt_above (h : BitVec 96) (r : BitVec 32) : bitsAt (h.setWidth 128 ||| (r.setWidth 128 <<< 96)) 96 32 = r := by
  ext i hi
  have h1 : 96 + i < 128 := by omega
  simp [h1, BitVec.getLsbD_eq_getElem hi]

theorem bitAt_of_bits {n : Nat} {m : BitVec n} {i : Nat} {b : Bool} (h : bitsAt m i 1 = bit b) : bitAt m i = b := by
  have := congrArg (fun x => x.getLsbD 0) h
  cases b <;> simpa [bit] using this

/-- A block that was written is read back as it was, with its checksum right (R82). -/
theorem parseBlock_blockBytes (t : BitVec 24) (f : BitVec 6) (p o : Bool) (g : BitVec 16) (e : BitVec 4) (c : BitVec 10)
    (k n : Nat) (body : List Byte) (hk : k < 4) (hn : n < 8192) :
    parseBlock k (blockBytes t f p o g e c k n body) =
      { tensor := t, fdi := f, poison := p, ovf := o, tag := g, epoch := e, ctx := c, kind := wordOf 2 k, count := n
        formOk := decide (1 ≤ n) && decide (n ≤ 4096) && (decide (k = 0) || !o), crcOk := true, body := body } := by
  have hk' : wordOf 96 k = (BitVec.ofNat 2 k).setWidth 96 := ofNat_eq_setWidth 96 2 k (by omega) (by decide)
  have hn' : wordOf 96 n = (BitVec.ofNat 13 n).setWidth 96 := ofNat_eq_setWidth 96 13 n (by omega) (by decide)
  unfold blockBytes
  simp only [hk', hn']
  generalize hh : (t.setWidth 96 ||| (f.setWidth 96 <<< 24) ||| ((bit p).setWidth 96 <<< 30) ||| ((bit o).setWidth 96 <<< 31)
      ||| (g.setWidth 96 <<< 32) ||| (e.setWidth 96 <<< 48) ||| (c.setWidth 96 <<< 52) ||| ((BitVec.ofNat 2 k).setWidth 96 <<< 62)
      ||| ((BitVec.ofNat 13 n).setWidth 96 <<< 64) ||| (1#96 <<< 80)) = h
  generalize hr : crc32c (bytesLE 12 h ++ body) = r
  have hw : wordLE 128 (bytesLE 12 h ++ bytesLE 4 r) = h.setWidth 128 ||| (r.setWidth 128 <<< 96) := by
    apply BitVec.eq_of_toNat_eq
    rw [toNat_shift_add, wordLE, leNat_append, leNat_bytesLE _ (by decide), leNat_bytesLE _ (by decide), length_bytesLE]
    rw [BitVec.toNat_ofNat, Nat.mod_eq_of_lt]
    · norm_num
    · have := h.isLt; have := r.isLt; omega
  obtain ⟨a1, a2, a3, a4⟩ := header_low t f (bit p) (bit o) g e c (BitVec.ofNat 2 k) (BitVec.ofNat 13 n) h hh.symm
  obtain ⟨a5, a6, a7, a8⟩ := header_mid t f (bit p) (bit o) g e c (BitVec.ofNat 2 k) (BitVec.ofNat 13 n) h hh.symm
  obtain ⟨a9, b1, b2, b3⟩ := header_high t f (bit p) (bit o) g e c (BitVec.ofNat 2 k) (BitVec.ofNat 13 n) h hh.symm
  have a3 := bitAt_of_bits ((bitsAt_below h r 30 1 (by decide)).trans a3)
  have a4 := bitAt_of_bits ((bitsAt_below h r 31 1 (by decide)).trans a4)
  have t16 : (bytesLE 12 h ++ bytesLE 4 r ++ body).take 16 = bytesLE 12 h ++ bytesLE 4 r := by
    rw [List.take_append_of_le_length (by simp), List.take_of_length_le (by simp)]
  have t12 : (bytesLE 12 h ++ bytesLE 4 r ++ body).take 12 = bytesLE 12 h := by
    rw [List.append_assoc, List.take_append_of_le_length (by simp), List.take_of_length_le (by simp)]
  have d16 : (bytesLE 12 h ++ bytesLE 4 r ++ body).drop 16 = body := by
    rw [List.drop_append_of_le_length (by simp), List.drop_of_length_le (by simp), List.nil_append]
  unfold parseBlock
  simp only [t16, t12, d16, hw, a3, a4, hr, bitsAt_above h r, bitsAt_below h r _ _ (show 0 + 24 ≤ 96 by decide),
    bitsAt_below h r _ _ (show 24 + 6 ≤ 96 by decide), bitsAt_below h r _ _ (show 32 + 16 ≤ 96 by decide),
    bitsAt_below h r _ _ (show 48 + 4 ≤ 96 by decide), bitsAt_below h r _ _ (show 52 + 10 ≤ 96 by decide),
    bitsAt_below h r _ _ (show 62 + 2 ≤ 96 by decide), bitsAt_below h r _ _ (show 64 + 13 ≤ 96 by decide),
    bitsAt_below h r _ _ (show 77 + 3 ≤ 96 by decide), bitsAt_below h r _ _ (show 80 + 4 ≤ 96 by decide),
    bitsAt_below h r _ _ (show 84 + 12 ≤ 96 by decide), a1, a2, a5, a6, a7, a8, a9, b1, b2, b3]
  have n1 : (BitVec.ofNat 13 n).toNat = n := by simpa using hn
  have n2 : (BitVec.ofNat 2 k).toNat = k := by simpa using hk
  rw [n1, n2]
  simp

@[simp] theorem length_blockBytes (t : BitVec 24) (f : BitVec 6) (p o : Bool) (g : BitVec 16) (e : BitVec 4) (c : BitVec 10)
    (k n : Nat) (body : List Byte) : (blockBytes t f p o g e c k n body).length = 16 + body.length := by
  simp [blockBytes]; omega

end Sys2Proof.Machine
end

