-- ==== Sys2Proof/Laws/Work.lean ====
section
/-!
SUPPORT. What the shared operations can do: a work command works on the oldest instruction of its class, an issued
instruction put back, an access, a message sent.
-/

namespace Sys2Proof

open Sys2Proof.Machine

/-! ### Work on an issued instruction -/

/-- A work command of the oldest unfinished instruction's class answers the state that the work leaves, with the instruction that
the work changed put back. -/
theorem workOn_of_works {s : State} {b : Bib} {q : BitVec 14} {i : Issued} (h : Works s b q i) {o : Op} (ho : i.op = o)
    (run : State → Issued → State × Issued) (hr : (run s i).2 ≠ i) :
    workOn s b.toNat q.toNat o run = setIssued (run s i).1 b.toNat (run s i).2 := by
  simp [workOn, putBack, h.held, h.awake, h.first, ho, hr]

/-- Work that waits changes nothing. -/
theorem workOn_of_waiting {s : State} {b : Bib} {q : BitVec 14} {i : Issued} (h : Works s b q i) {o : Op} (ho : i.op = o)
    (run : State → Issued → State × Issued) (hr : run s i = (s, i)) : workOn s b.toNat q.toNat o run = s := by
  simp [workOn, putBack, h.held, h.awake, h.first, ho, hr]

/-- A work command of another class than the oldest unfinished instruction's does nothing (R262, R355). -/
theorem workOn_of_other {s : State} {b : Bib} {q : BitVec 14} {i : Issued} (h : Works s b q i) {o : Op} (ho : i.op ≠ o)
    (run : State → Issued → State × Issued) : workOn s b.toNat q.toNat o run = s := by
  have ho' : (i.op == o) = false := by simp [ho]
  simp [workOn, h.held, h.awake, h.first, ho']

/-- An instruction put back is found under its queue and slot. -/
theorem find_putIssued (i j : Issued) (hq : j.queue = i.queue) (hs : j.slot = i.slot) (l : List Issued)
    (h : (l.find? (fun x => decide (x.queue = i.queue) && decide (x.slot = i.slot))).isSome = true) :
    (putIssued j l).find? (fun x => decide (x.queue = i.queue) && decide (x.slot = i.slot)) = some j := by
  induction l with
  | nil => simp at h
  | cons x xs ih =>
    by_cases hx : x.queue = i.queue ∧ x.slot = i.slot
    · simp [putIssued, hq, hs, hx.1, hx.2]
    · have hx' : (decide (x.queue = i.queue) && decide (x.slot = i.slot)) = false := by
        simpa [not_and] using hx
      have hx'' : (decide (x.queue = j.queue) && decide (x.slot = j.slot)) = false := by rw [hq, hs]; exact hx'
      rw [List.find?_cons, hx'] at h
      simp only [putIssued, hx'', if_neg (by decide : ¬ (false = true)), List.find?_cons, hx']
      exact ih h

theorem unit_setIssued (s : State) (b : Nat) (j : Issued) :
    (setIssued s b j).unit b = { s.unit b with issued := putIssued j (s.unit b).issued } := by
  simp [setIssued]

theorem unit_setIssued_ne (s : State) {b n : Nat} (j : Issued) (h : n ≠ b) : (setIssued s b j).unit n = s.unit n := by
  unfold setIssued; exact State.unit_onUnit_ne s _ h

/-- An instruction of the unit, put back, stands where it stood. -/
theorem placed_setIssued {t : State} {b : Bib} {i j : Issued} (hq : j.queue = i.queue) (hs : j.slot = i.slot)
    (h : (placed t b i).isSome = true) : placed (setIssued t b.toNat j) b i = some j := by
  unfold placed at h ⊢
  rw [unit_setIssued]
  exact find_putIssued i j hq hs _ h

/-- The instruction that a work command works on stands in its unit. -/
theorem placed_of_works {s : State} {b : Bib} {q : BitVec 14} {i : Issued} (h : Works s b q i) :
    (placed s b i).isSome = true := by
  have hm : i ∈ openOf (s.unit b.toNat) q.toNat := List.mem_of_mem_head? h.first
  unfold placed
  rw [List.find?_isSome]
  exact ⟨i, (List.mem_filter.1 hm).1, by simp⟩

/-! ### Accesses -/

/-- An access while MG runs: its effect, and no latched high half (R11). -/
theorem access_of_running {s : State} (t : State) (h : s.mg.fatal = false) : access s t = .next (unlatched t) := by
  rw [access, live_of_running _ h]; rfl

/-- An access that its register class forbids posts ACCESS while the complex is READY, and else does nothing (R11). -/
theorem guarded_of_forbidden (s : State) (a : Agent) (offset : Nat) (t : State) :
    guarded s a offset false t = if apertureOpen s then accessEvent s a offset else s := by
  unfold guarded; cases apertureOpen s <;> simp

theorem guarded_of_allowed (s : State) (a : Agent) (offset : Nat) (t : State) :
    guarded s a offset true t = if apertureOpen s then t else s := by
  unfold guarded; cases apertureOpen s <;> simp

/-! ### Messages of the slice link -/

/-- A flit sent changes its link and what the complex drives out. -/
theorem sendFlit_frame (s : State) (k : Nat) (mg nak : Bool) :
    ∃ l o, sendFlit s k mg nak = { s with links := l, out := o } := by
  unfold sendFlit
  simp only
  split
  · exact ⟨_, _, rfl⟩
  · split
    · exact ⟨s.links, _, rfl⟩
    · exact ⟨s.links, s.out, rfl⟩

theorem pumpFlits_frame (k : Nat) (mg : Bool) (n : Nat) (s : State) :
    ∃ l o, pumpFlits k mg n s = { s with links := l, out := o } := by
  induction n generalizing s with
  | zero => exact ⟨s.links, s.out, rfl⟩
  | succ n ih =>
    rw [pumpFlits]
    split
    · obtain ⟨l, o, h⟩ := sendFlit_frame s k mg false
      obtain ⟨l', o', h'⟩ := ih (sendFlit s k mg false)
      exact ⟨l', o', by rw [h', h]⟩
    · exact ⟨s.links, s.out, rfl⟩

/-- A message sent changes the links and what the complex drives out, and nothing else. -/
theorem sendMsg_frame (s : State) (toUnit : Bool) (b : Nat) (m : List Byte) :
    ∃ l o, sendMsg s toUnit b m = { s with links := l, out := o } := by
  unfold sendMsg
  simp only
  split
  · unfold queueMessage
    simp only
    split
    · exact ⟨_, _, rfl⟩
    · obtain ⟨l, o, h⟩ := pumpFlits_frame (indexOf b) toUnit 128 ((s.emit (.message toUnit (wordOf 12 b) m)).setLinkEnd
        (indexOf b) toUnit { (s.emit (.message toUnit (wordOf 12 b) m)).linkEnd (indexOf b) toUnit with
          outq := if isBatonMsg m then ((s.emit (.message toUnit (wordOf 12 b) m)).linkEnd (indexOf b) toUnit).outq.takeWhile
              isBatonMsg ++ [m] ++ ((s.emit (.message toUnit (wordOf 12 b) m)).linkEnd (indexOf b) toUnit).outq.dropWhile isBatonMsg
            else ((s.emit (.message toUnit (wordOf 12 b) m)).linkEnd (indexOf b) toUnit).outq ++ [m] })
      exact ⟨l, o, h⟩
  · exact ⟨_, _, rfl⟩

/-! ### Unit state -/

/-- Posting changes one unit, and nothing else of the state. -/
theorem post_frame (s : State) (p b : Nat) (v : Ev) (c : Option Nat) (x y z : BitVec 32) :
    ∃ u, s.post p b v c x y z = { s with units := u } := ⟨_, rfl⟩

/-- What a fold keeps, every step of it keeping it. -/
theorem each_inv {α : Type} (P : State → Prop) (f : State → α → State) (h : ∀ s a, P s → P (f s a)) (l : List α) (s : State)
    (hs : P s) : P (s.each l f) := by
  unfold State.each
  induction l generalizing s with
  | nil => exact hs
  | cons a l ih => exact ih _ (h _ _ hs)

/-! ### Fences -/

theorem settleStaging_frame (s : State) : ∃ t, settleStaging s = { s with trackers := t } := by
  unfold settleStaging
  generalize s.trackers.tracked = l
  suffices h : ∀ (l : Tab Tracked) (u : State), (∃ t, u = { s with trackers := t }) →
      ∃ t, l.foldl (fun t x =>
        match x.2.staged with
        | some g =>
          if g.complete.isNone && decide (stillNeeded t g.need &&& ~~~g.got = 0) then
            t.setTracked x.1 { x.2 with staged := some { g with complete := some t.now } }
          else t
        | none => t) u = { s with trackers := t } from h l s ⟨s.trackers, rfl⟩
  intro l
  induction l with
  | nil => exact fun u h => h
  | cons x l ih =>
    rintro u ⟨t, rfl⟩
    apply ih
    beta_reduce
    split
    · split
      · exact ⟨_, rfl⟩
      · exact ⟨t, rfl⟩
    · exact ⟨t, rfl⟩

theorem settleConfirm_frame (s : State) : ∃ b, settleConfirm s = { s with baton := b } := by
  unfold settleConfirm
  simp only
  split
  · exact ⟨_, rfl⟩
  · exact ⟨s.baton, rfl⟩

theorem settlePmask_frame (s : State) : ∃ b, settlePmask s = { s with baton := b } := by
  unfold settlePmask
  simp only
  split
  · exact ⟨s.baton, rfl⟩
  · exact ⟨_, rfl⟩

/-- A false start's fence completes no instruction: it changes units, the baton and staged adoptions, and nothing else
(R428). -/
theorem fence_falseStart_frame (s : State) (b : Nat) :
    ∃ u n t, fence s b .falseStart = { s with units := u, baton := n, trackers := t } := by
  unfold fence
  simp only
  split
  · exact ⟨s.units, s.baton, s.trackers, rfl⟩
  · unfold setFence
    simp only
    split
    · exact ⟨s.units, s.baton, s.trackers, rfl⟩
    · simp only [beq_self_eq_true, if_true]
      obtain ⟨u, hu⟩ := post_frame s 0 b .fence none (Cause.falseStart.code.setWidth 32) 0 0
      rw [hu]
      generalize hv : State.onUnit _ b _ = v
      obtain ⟨n, hn⟩ := settleConfirm_frame (leaveBaton v b)
      obtain ⟨t, ht⟩ := settleStaging_frame (settleConfirm (leaveBaton v b))
      obtain ⟨n', hn'⟩ := settlePmask_frame (settleStaging (settleConfirm (leaveBaton v b)))
      refine ⟨v.units, n', t, ?_⟩
      rw [hn', ht, hn, ← hv]
      rfl

end Sys2Proof
end

