-- ==== Sys2Proof/WellFormed.lean ====
section
/-!
DEFINITION. Which commands are well formed: a unit operand is a chain position (R396), a
slice-link message is 1 to 32 whole 16-byte chunks (R361), a relay message has its 32-byte header (R369), a register access is one the aperture accepts (R11).
The meanings are total: an ill-formed command finds no unit, no message or no register and changes nothing.
-/

namespace Sys2Proof

/-- The unit a command names. -/
def Instr.unit? (i : Instr) : Option Bib :=
  match i with
  | .powerOnReset => none
  | .bibIssue bib _ _ => some bib
  | .bibAnswerTimeout bib => some bib
  | .headScanDone => none
  | .bistCollect _ => none
  | .linkwait => none
  | .verifyDone => none
  | .coachStart => none
  | .minimalModeEntry => none
  | .pacerStep => none
  | .pacerReseed bib => some bib
  | .splitBoundary _ _ => none
  | .announcement _ => none
  | .issueHoldBegin => none
  | .issueHoldEnd => none
  | .commitPoint => none
  | .lapBoundary _ _ => none
  | .announcementLapse => none
  | .confirmTimeout => none
  | .farIssueStop bib => some bib
  | .stage bib _ => some bib
  | .ack _ => none
  | .commit bib _ => some bib
  | .defer bib _ => some bib
  | .announce bib _ => some bib
  | .boundary bib _ => some bib
  | .lapse bib _ => some bib
  | .doneReport _ => none
  | .resync bib _ => some bib
  | .synced _ => none
  | .batonRequest _ => none
  | .fallbackClear _ => none
  | .pmaskWrite _ _ => none
  | .pmaskAck bib => some bib
  | .formatTableWrite _ _ _ _ => none
  | .layerMapWrite _ _ _ => none
  | .issueNext bib => some bib
  | .convertPlain bib _ _ _ => some bib
  | .convertRescale bib _ _ _ => some bib
  | .convertTranspose bib _ _ _ => some bib
  | .convertReepoch bib _ _ _ => some bib
  | .rotate bib _ _ _ => some bib
  | .tableBuild bib _ _ => some bib
  | .tableCodebook bib _ => some bib
  | .tableChannel bib _ => some bib
  | .tableRescale bib _ => some bib
  | .tableProgram bib _ => some bib
  | .stats bib _ _ => some bib
  | .scalePropose bib _ => some bib
  | .scaleAdopt bib _ => some bib
  | .scalePin bib _ => some bib
  | .adoptAck _ _ => none
  | .element bib _ _ => some bib
  | .reduce bib _ _ => some bib
  | .permute bib _ _ => some bib
  | .shuffleInterleave bib _ _ => some bib
  | .shuffleEven bib _ _ => some bib
  | .shuffleOdd bib _ _ => some bib
  | .shuffleReverse bib _ _ => some bib
  | .shuffleRotate bib _ _ => some bib
  | .pack bib _ _ => some bib
  | .unpackCodes bib _ _ => some bib
  | .unpackScales bib _ _ => some bib
  | .unpackZpoints bib _ _ => some bib
  | .randomBits bib _ _ => some bib
  | .randomBernoulli bib _ _ => some bib
  | .sample bib _ _ => some bib
  | .relaySend bib _ _ => some bib
  | .relayReceive bib _ _ => some bib
  | .relayCollective bib _ _ => some bib
  | .sliceProgram bib _ _ => some bib
  | .sliceConvert bib _ _ => some bib
  | .sliceReepoch bib _ _ => some bib
  | .windowOpen bib _ => some bib
  | .windowClose bib _ => some bib
  | .fenceQueue bib _ => some bib
  | .fenceWaitseq bib _ => some bib
  | .lapwait bib _ => some bib
  | .summary bib _ => some bib
  | .blockPosition bib _ _ => some bib
  | .streamWaitTimeout bib _ => some bib
  | .feedBeat bib => some bib
  | .instructionComplete bib _ => some bib
  | .preempt bib => some bib
  | .resumePreempted bib => some bib
  | .reportMerge => none
  | .normPartial => none
  | .settleWindowEnd => none
  | .closeScanDone => none
  | .trackedEntryWrite _ _ _ _ => none
  | .watchWrite _ _ _ _ => none
  | .indirectSelect _ bib _ _ => some bib
  | .streamRelease _ _ _ => none
  | .lastuse _ => none
  | .doorbell _ _ _ => none
  | .doorbellStage _ _ _ => none
  | .ctxSuspend _ _ => none
  | .ctxSuspendForce _ _ => none
  | .ctxResume _ _ => none
  | .ctxClose _ _ => none
  | .queueOpen _ _ => none
  | .queueResume _ _ => none
  | .queueClose _ _ => none
  | .drainTimeout _ => none
  | .queueClosed _ => none
  | .unitClose _ bib => some bib
  | .unitCloseClear _ bib => some bib
  | .grant _ => none
  | .revoke _ => none
  | .revokeClear _ => none
  | .update _ => none
  | .updateInstall => none
  | .unitreset _ => none
  | .unitResetDone bib _ => some bib
  | .marshalCommandReserved _ _ => none
  | .eventAccept => none
  | .evctlWrite _ _ => none
  | .recordCommit _ => none
  | .pfail => none
  | .powerOk => none
  | .cap _ => none
  | .governorWindow => none
  | .scrub _ _ => none
  | .margin _ => none
  | .wear _ => none
  | .errorSingleBit bib _ => some bib
  | .errorUncorrectable bib _ _ _ => some bib
  | .mgFatal _ => none
  | .hang bib _ => some bib
  | .viewWrite _ _ _ _ => none
  | .viewRead _ _ _ => none
  | .directAccess _ _ _ _ _ => none
  | .hostRefresh _ => none
  | .detectDone _ _ _ => none
  | .trainingSet _ _ _ => none
  | .advertiseTimeout _ _ => none
  | .trainDone _ _ _ => none
  | .linkActive _ _ _ => none
  | .linkDown _ => none
  | .retrain _ _ => none
  | .retrainUp _ _ => none
  | .restart _ _ => none
  | .flit _ _ _ => none
  | .flitResendTimeout _ _ => none
  | .descMessage bib _ => some bib
  | .compl bib _ => some bib
  | .summ bib _ => some bib
  | .statsMessage bib _ => some bib
  | .norm bib _ => some bib
  | .progreq bib _ => some bib
  | .progMessage bib _ => some bib
  | .scaleMessage bib _ _ => some bib
  | .batonMessage bib _ _ => some bib
  | .eventMessage bib _ => some bib
  | .mgmt bib _ => some bib
  | .mgmtr bib _ => some bib
  | .groupOpen _ bib _ => some bib
  | .groupClose _ bib _ => some bib
  | .hello bib _ _ => some bib
  | .helloRepeat bib _ => some bib
  | .agree bib _ _ => some bib
  | .refuse bib _ _ => some bib
  | .negotiationTimeout bib _ => some bib
  | .relayStart bib _ _ => some bib
  | .relayData bib _ _ => some bib
  | .dack bib _ _ => some bib
  | .relayNak bib _ _ => some bib
  | .relayAbort bib _ _ => some bib
  | .resendTimeout bib _ _ => some bib
  | .peerTimeout bib _ _ => some bib
  | .lossOfLink bib => some bib
  | .residualExchange bib _ => some bib
  | .registerWrite _ _ _ _ => none
  | .paceBusChange _ _ _ => none
  | .waitseqTimeout bib _ => some bib
  | .startMismatchTimeout bib _ _ => some bib

/-- The bytes of the slice-link message a command carries. -/
def Instr.bytes? (i : Instr) : Option (List Byte) :=
  match i with
  | .powerOnReset => none
  | .bibIssue _ _ _ => none
  | .bibAnswerTimeout _ => none
  | .headScanDone => none
  | .bistCollect _ => none
  | .linkwait => none
  | .verifyDone => none
  | .coachStart => none
  | .minimalModeEntry => none
  | .pacerStep => none
  | .pacerReseed _ => none
  | .splitBoundary _ _ => none
  | .announcement _ => none
  | .issueHoldBegin => none
  | .issueHoldEnd => none
  | .commitPoint => none
  | .lapBoundary _ _ => none
  | .announcementLapse => none
  | .confirmTimeout => none
  | .farIssueStop _ => none
  | .stage _ _ => none
  | .ack _ => none
  | .commit _ _ => none
  | .defer _ _ => none
  | .announce _ _ => none
  | .boundary _ _ => none
  | .lapse _ _ => none
  | .doneReport _ => none
  | .resync _ _ => none
  | .synced _ => none
  | .batonRequest _ => none
  | .fallbackClear _ => none
  | .pmaskWrite _ _ => none
  | .pmaskAck _ => none
  | .formatTableWrite _ _ _ _ => none
  | .layerMapWrite _ _ _ => none
  | .issueNext _ => none
  | .convertPlain _ _ _ _ => none
  | .convertRescale _ _ _ _ => none
  | .convertTranspose _ _ _ _ => none
  | .convertReepoch _ _ _ _ => none
  | .rotate _ _ _ _ => none
  | .tableBuild _ _ _ => none
  | .tableCodebook _ _ => none
  | .tableChannel _ _ => none
  | .tableRescale _ _ => none
  | .tableProgram _ _ => none
  | .stats _ _ _ => none
  | .scalePropose _ _ => none
  | .scaleAdopt _ _ => none
  | .scalePin _ _ => none
  | .adoptAck _ _ => none
  | .element _ _ _ => none
  | .reduce _ _ _ => none
  | .permute _ _ _ => none
  | .shuffleInterleave _ _ _ => none
  | .shuffleEven _ _ _ => none
  | .shuffleOdd _ _ _ => none
  | .shuffleReverse _ _ _ => none
  | .shuffleRotate _ _ _ => none
  | .pack _ _ _ => none
  | .unpackCodes _ _ _ => none
  | .unpackScales _ _ _ => none
  | .unpackZpoints _ _ _ => none
  | .randomBits _ _ _ => none
  | .randomBernoulli _ _ _ => none
  | .sample _ _ _ => none
  | .relaySend _ _ _ => none
  | .relayReceive _ _ _ => none
  | .relayCollective _ _ _ => none
  | .sliceProgram _ _ _ => none
  | .sliceConvert _ _ _ => none
  | .sliceReepoch _ _ _ => none
  | .windowOpen _ _ => none
  | .windowClose _ _ => none
  | .fenceQueue _ _ => none
  | .fenceWaitseq _ _ => none
  | .lapwait _ _ => none
  | .summary _ _ => none
  | .blockPosition _ _ _ => none
  | .streamWaitTimeout _ _ => none
  | .feedBeat _ => none
  | .instructionComplete _ _ => none
  | .preempt _ => none
  | .resumePreempted _ => none
  | .reportMerge => none
  | .normPartial => none
  | .settleWindowEnd => none
  | .closeScanDone => none
  | .trackedEntryWrite _ _ _ _ => none
  | .watchWrite _ _ _ _ => none
  | .indirectSelect _ _ _ _ => none
  | .streamRelease _ _ _ => none
  | .lastuse _ => none
  | .doorbell _ _ _ => none
  | .doorbellStage _ _ _ => none
  | .ctxSuspend _ _ => none
  | .ctxSuspendForce _ _ => none
  | .ctxResume _ _ => none
  | .ctxClose _ _ => none
  | .queueOpen _ _ => none
  | .queueResume _ _ => none
  | .queueClose _ _ => none
  | .drainTimeout _ => none
  | .queueClosed _ => none
  | .unitClose _ _ => none
  | .unitCloseClear _ _ => none
  | .grant _ => none
  | .revoke _ => none
  | .revokeClear _ => none
  | .update _ => none
  | .updateInstall => none
  | .unitreset _ => none
  | .unitResetDone _ _ => none
  | .marshalCommandReserved _ _ => none
  | .eventAccept => none
  | .evctlWrite _ _ => none
  | .recordCommit _ => none
  | .pfail => none
  | .powerOk => none
  | .cap _ => none
  | .governorWindow => none
  | .scrub _ _ => none
  | .margin _ => none
  | .wear _ => none
  | .errorSingleBit _ _ => none
  | .errorUncorrectable _ _ _ _ => none
  | .mgFatal _ => none
  | .hang _ _ => none
  | .viewWrite _ _ _ _ => none
  | .viewRead _ _ _ => none
  | .directAccess _ _ _ _ _ => none
  | .hostRefresh _ => none
  | .detectDone _ _ _ => none
  | .trainingSet _ _ _ => none
  | .advertiseTimeout _ _ => none
  | .trainDone _ _ _ => none
  | .linkActive _ _ _ => none
  | .linkDown _ => none
  | .retrain _ _ => none
  | .retrainUp _ _ => none
  | .restart _ _ => none
  | .flit _ _ _ => none
  | .flitResendTimeout _ _ => none
  | .descMessage _ msg => some msg
  | .compl _ msg => some msg
  | .summ _ msg => some msg
  | .statsMessage _ msg => some msg
  | .norm _ msg => some msg
  | .progreq _ msg => some msg
  | .progMessage _ msg => some msg
  | .scaleMessage _ _ msg => some msg
  | .batonMessage _ _ msg => some msg
  | .eventMessage _ msg => some msg
  | .mgmt _ msg => some msg
  | .mgmtr _ msg => some msg
  | .groupOpen _ _ _ => none
  | .groupClose _ _ _ => none
  | .hello _ _ _ => none
  | .helloRepeat _ _ => none
  | .agree _ _ _ => none
  | .refuse _ _ _ => none
  | .negotiationTimeout _ _ => none
  | .relayStart _ _ _ => none
  | .relayData _ _ _ => none
  | .dack _ _ _ => none
  | .relayNak _ _ _ => none
  | .relayAbort _ _ _ => none
  | .resendTimeout _ _ _ => none
  | .peerTimeout _ _ _ => none
  | .lossOfLink _ => none
  | .residualExchange _ _ => none
  | .registerWrite _ _ _ _ => none
  | .paceBusChange _ _ _ => none
  | .waitseqTimeout _ _ => none
  | .startMismatchTimeout _ _ _ => none

/-- The bytes of the relay message a command carries. -/
def Instr.relayBytes? (i : Instr) : Option (List Byte) :=
  match i with
  | .powerOnReset => none
  | .bibIssue _ _ _ => none
  | .bibAnswerTimeout _ => none
  | .headScanDone => none
  | .bistCollect _ => none
  | .linkwait => none
  | .verifyDone => none
  | .coachStart => none
  | .minimalModeEntry => none
  | .pacerStep => none
  | .pacerReseed _ => none
  | .splitBoundary _ _ => none
  | .announcement _ => none
  | .issueHoldBegin => none
  | .issueHoldEnd => none
  | .commitPoint => none
  | .lapBoundary _ _ => none
  | .announcementLapse => none
  | .confirmTimeout => none
  | .farIssueStop _ => none
  | .stage _ _ => none
  | .ack _ => none
  | .commit _ _ => none
  | .defer _ _ => none
  | .announce _ _ => none
  | .boundary _ _ => none
  | .lapse _ _ => none
  | .doneReport _ => none
  | .resync _ _ => none
  | .synced _ => none
  | .batonRequest _ => none
  | .fallbackClear _ => none
  | .pmaskWrite _ _ => none
  | .pmaskAck _ => none
  | .formatTableWrite _ _ _ _ => none
  | .layerMapWrite _ _ _ => none
  | .issueNext _ => none
  | .convertPlain _ _ _ _ => none
  | .convertRescale _ _ _ _ => none
  | .convertTranspose _ _ _ _ => none
  | .convertReepoch _ _ _ _ => none
  | .rotate _ _ _ _ => none
  | .tableBuild _ _ _ => none
  | .tableCodebook _ _ => none
  | .tableChannel _ _ => none
  | .tableRescale _ _ => none
  | .tableProgram _ _ => none
  | .stats _ _ _ => none
  | .scalePropose _ _ => none
  | .scaleAdopt _ _ => none
  | .scalePin _ _ => none
  | .adoptAck _ _ => none
  | .element _ _ _ => none
  | .reduce _ _ _ => none
  | .permute _ _ _ => none
  | .shuffleInterleave _ _ _ => none
  | .shuffleEven _ _ _ => none
  | .shuffleOdd _ _ _ => none
  | .shuffleReverse _ _ _ => none
  | .shuffleRotate _ _ _ => none
  | .pack _ _ _ => none
  | .unpackCodes _ _ _ => none
  | .unpackScales _ _ _ => none
  | .unpackZpoints _ _ _ => none
  | .randomBits _ _ _ => none
  | .randomBernoulli _ _ _ => none
  | .sample _ _ _ => none
  | .relaySend _ _ _ => none
  | .relayReceive _ _ _ => none
  | .relayCollective _ _ _ => none
  | .sliceProgram _ _ _ => none
  | .sliceConvert _ _ _ => none
  | .sliceReepoch _ _ _ => none
  | .windowOpen _ _ => none
  | .windowClose _ _ => none
  | .fenceQueue _ _ => none
  | .fenceWaitseq _ _ => none
  | .lapwait _ _ => none
  | .summary _ _ => none
  | .blockPosition _ _ _ => none
  | .streamWaitTimeout _ _ => none
  | .feedBeat _ => none
  | .instructionComplete _ _ => none
  | .preempt _ => none
  | .resumePreempted _ => none
  | .reportMerge => none
  | .normPartial => none
  | .settleWindowEnd => none
  | .closeScanDone => none
  | .trackedEntryWrite _ _ _ _ => none
  | .watchWrite _ _ _ _ => none
  | .indirectSelect _ _ _ _ => none
  | .streamRelease _ _ _ => none
  | .lastuse _ => none
  | .doorbell _ _ _ => none
  | .doorbellStage _ _ _ => none
  | .ctxSuspend _ _ => none
  | .ctxSuspendForce _ _ => none
  | .ctxResume _ _ => none
  | .ctxClose _ _ => none
  | .queueOpen _ _ => none
  | .queueResume _ _ => none
  | .queueClose _ _ => none
  | .drainTimeout _ => none
  | .queueClosed _ => none
  | .unitClose _ _ => none
  | .unitCloseClear _ _ => none
  | .grant _ => none
  | .revoke _ => none
  | .revokeClear _ => none
  | .update _ => none
  | .updateInstall => none
  | .unitreset _ => none
  | .unitResetDone _ _ => none
  | .marshalCommandReserved _ _ => none
  | .eventAccept => none
  | .evctlWrite _ _ => none
  | .recordCommit _ => none
  | .pfail => none
  | .powerOk => none
  | .cap _ => none
  | .governorWindow => none
  | .scrub _ _ => none
  | .margin _ => none
  | .wear _ => none
  | .errorSingleBit _ _ => none
  | .errorUncorrectable _ _ _ _ => none
  | .mgFatal _ => none
  | .hang _ _ => none
  | .viewWrite _ _ _ _ => none
  | .viewRead _ _ _ => none
  | .directAccess _ _ _ _ _ => none
  | .hostRefresh _ => none
  | .detectDone _ _ _ => none
  | .trainingSet _ _ _ => none
  | .advertiseTimeout _ _ => none
  | .trainDone _ _ _ => none
  | .linkActive _ _ _ => none
  | .linkDown _ => none
  | .retrain _ _ => none
  | .retrainUp _ _ => none
  | .restart _ _ => none
  | .flit _ _ _ => none
  | .flitResendTimeout _ _ => none
  | .descMessage _ _ => none
  | .compl _ _ => none
  | .summ _ _ => none
  | .statsMessage _ _ => none
  | .norm _ _ => none
  | .progreq _ _ => none
  | .progMessage _ _ => none
  | .scaleMessage _ _ _ => none
  | .batonMessage _ _ _ => none
  | .eventMessage _ _ => none
  | .mgmt _ _ => none
  | .mgmtr _ _ => none
  | .groupOpen _ _ _ => none
  | .groupClose _ _ _ => none
  | .hello _ _ msg => some msg
  | .helloRepeat _ _ => none
  | .agree _ _ msg => some msg
  | .refuse _ _ msg => some msg
  | .negotiationTimeout _ _ => none
  | .relayStart _ _ msg => some msg
  | .relayData _ _ msg => some msg
  | .dack _ _ msg => some msg
  | .relayNak _ _ msg => some msg
  | .relayAbort _ _ msg => some msg
  | .resendTimeout _ _ _ => none
  | .peerTimeout _ _ _ => none
  | .lossOfLink _ => none
  | .residualExchange _ _ => none
  | .registerWrite _ _ _ _ => none
  | .paceBusChange _ _ _ => none
  | .waitseqTimeout _ _ => none
  | .startMismatchTimeout _ _ _ => none

/-- A chain position that generation 1 populates. -/
def Instr.unitOk (i : Instr) : Bool := i.unit?.all (fun b => decide (b.toNat < 0x099))

/-- A slice-link message of whole chunks (R361). -/
def Instr.bytesOk (i : Instr) : Bool :=
  i.bytes?.all (fun m => decide (m.length % 16 = 0) && decide (0 < m.length) && decide (m.length ≤ 512))

/-- A relay message with a whole header (R369). -/
def Instr.relayOk (i : Instr) : Bool := i.relayBytes?.all (fun m => decide (32 ≤ m.length))

/-- An access the aperture accepts: 32 or 64 bits, aligned to its width, inside the windows (R11). -/
def apertureOk (offset width : Nat) : Bool :=
  (decide (width = 32) || decide (width = 64)) && decide (offset % (width / 8) = 0)
    && decide (offset + width / 8 ≤ 0x11000000)

/-- The access of a REGISTER_WRITE. -/
def Instr.accessOk (i : Instr) : Bool :=
  match i with
  | .registerWrite _ offset width _ => apertureOk offset width
  | _ => true

/-- A well-formed command. -/
def Instr.wellFormed (i : Instr) : Bool := i.unitOk && i.bytesOk && i.relayOk && i.accessOk

end Sys2Proof
end

