-- ==== Sys2Proof/Tests/Slice0.lean ====
section
/-!
SUPPORT. Small tests, each on one step or one operation, with values worked out from the spec; and, for every statement
of Certificates/Slice0/Obligations.lean, a state and operands that meet its hypotheses.
-/

namespace Sys2Proof.Tests

open Sys2Proof.Machine

-- one theorem after the other: many at once take more memory than they save time
set_option Elab.async false

/-- R396: 0x098 is the last bib that generation 1 populates. -/
theorem test_wf_refuses_unit : (Instr.preempt 0x099).wellFormed = false := by decide

/-- R361: a message is whole 16-byte chunks. -/
theorem test_wf_refuses_bytes : (Instr.compl 0x089 [1, 2, 3]).wellFormed = false := by decide

/-- R369: a relay message has a 32-byte header. -/
theorem test_wf_refuses_relay : (Instr.hello 0x079 1 [1, 2, 3]).wellFormed = false := by decide

/-- R11: an access is aligned to its width. -/
theorem test_wf_refuses_access : (Instr.registerWrite .host 0x12 32 0).wellFormed = false := by decide

/-- A well-formed access. -/
theorem test_wf_accepts : (Instr.registerWrite .host 0x10 32 0).wellFormed = true := by decide

/-! ### Small states -/

/-- The complex at READY, with nothing but MG. -/
def ready : State := { State.reset with mg := { State.reset.mg with step := .ready } }

/-- A unit that answers. -/
def up : UnitSt := { held := true }

/-- A state with a unit replaced. -/
def withUnit (b : Nat) (u : UnitSt) (s : State) : State := s.setUnit b u

/-- The word at an offset of 16 bits, byte counts for hand-made records. -/
def put (n w at_ v : Nat) : BitVec n := (wordOf w v).setWidth n <<< at_

/-- Only MG is in the unit table: a property of it and of an absent unit holds of every unit. -/
theorem only_mg (b : Nat) (P : UnitSt → Prop) (h : P (ready.unit 0)) (h' : P {}) : P (ready.unit b) := by
  by_cases hb : b = 0
  · subst hb; exact h
  · have : ready.unit b = {} := by
      show tget {} [(0, up)] b = {}
      simp [tget, hb, Ne.symm hb]
    rw [this]; exact h'

/-- A context's grant: EN, PRIV, queues 0 to 63, streams 0 to 63, entries 0 to 63, watches 0 to 7, codebook slots 0 to 7,
channel and rescale entries 0 to 63, scratchpad bytes from 0x1000 on, program store at 0x100000 (R322). -/
def fullGrant : BitVec 384 :=
  3 ||| put 384 15 46 64 ||| put 384 17 80 64 ||| put 384 15 112 64 ||| put 384 13 142 8 ||| put 384 7 166 8
    ||| put 384 14 173 64 ||| put 384 14 205 64 ||| put 384 32 288 0x1000 ||| put 384 32 320 0x80000 ||| put 384 32 352 0x100000

/-- Context 1 enabled, its summaries at 0x2000. -/
def withCtx (s : State) : State := s.setContext 1 { grant := fullGrant, sumbase := 0x2000 }

/-- A queue of context 1 bound to a unit, running, its ring at 0x4000 and its records at 0x8000. -/
def ring (b : Bib) : Queue := { rbase := 0x4000, cbase := 0x8000, bib := b, st := .run }

/-- The head slot of an instruction: opcode, form, operand slots, flags of the head above bit 13, N, M, body. -/
def headSlot (op form slots flags n m : Nat) (body : BitVec 128) : BitVec 256 :=
  wordOf 256 (op + 256 * form + 4096 * slots + flags + 2 ^ 96 * n + 2 ^ 112 * m) ||| (body.setWidth 256 <<< 128)

/-- A tile stream field that uses stream n with tensor 0. -/
def useOf (n : Nat) : BitVec 128 := wordOf 128 (n + 2 ^ 126)

/-- A plain field: base, element stride, row stride, format. -/
def plainOf (base sk sr fmt : Nat) : BitVec 128 := wordOf 128 (base + 2 ^ 32 * sk + 2 ^ 64 * sr + 2 ^ 96 * fmt + 2 ^ 127)

/-- An operand slot of two fields. -/
def slotOf (a b : BitVec 128) : BitVec 256 := a.setWidth 256 ||| (b.setWidth 256 <<< 128)

/-- An issued instruction of queue 5, context 1. -/
def job (slots : List (BitVec 256)) (descs : List (BitVec 32)) : Issued :=
  { queue := 5, slot := 0, slots := slots, ctx := 1, epoch := 0, descs := descs, fdis := [], seed := 0, lap := 0, bci := 0 }

/-- Unit b at work on one instruction. -/
def busy (b : Nat) (i : Issued) : State := withUnit b { up with issued := [i] } (withCtx ready)

/-! ### Witnesses: each names a state and operands that meet the hypotheses of a statement or of one of its clauses -/

theorem witness_StepRunsFrontCommand : ({ ready with pending := [.pacerStep] } : State).pending = .pacerStep :: [] := rfl

theorem witness_PowerOnResetPreserves :
    ready.mg.update = none ∧ ({ ready with mg := { ready.mg with installed := true } } : State).mg.installed = true ∧
    2 ^ 32 ≤ stackKey 0 0 ∧ spadKey 0xFFFFFFFF < 2 ^ 32 := by
  and_intros <;> first | exact rfl | decide

theorem witness_EveryStepKeepsMemoryCanonical :
    Safe ready ∧ Sys2Proof.Machine.step ready = .next ready := ⟨rfl, rfl⟩

theorem witness_AfterMgFatalOnlyResetActs :
    ({ ready with mg := { ready.mg with fatal := true } } : State).mg.fatal = true ∧ Instr.pacerStep ≠ .powerOnReset := by
  and_intros <;> first | exact rfl | decide

/-- R396: the first converter and the last relay, which ends the chain. -/
theorem witness_BibsAreIssuedOrCountedAbsent :
    Running State.reset ∧ State.reset.mg.step = .reset ∧
    kindOf 0x011 = some .cv ∧ (State.reset.unit 0x011).held = false ∧ (State.reset.unit 0x011).health.fenced = false ∧
    kindOf 0x088 = some .rl ∧ (State.reset.unit 0x088).held = false ∧ (State.reset.unit 0x088).health.fenced = false ∧
    (2 : BitVec 4) ≠ Kind.cv.code := by
  and_intros <;> first | exact rfl | decide

def chained : State := { State.reset with mg := { State.reset.mg with step := .chain } }

/-- The first slice holds its bib; its link is not up. -/
def sliced : State := withUnit 0x089 up chained

theorem witness_StartUpReachesVerify :
    (Running State.reset ∧ State.reset.finish.scanned = false ∧ State.reset.mg.step ≠ .ready ∧
      Running chained ∧ chained.mg.step = .chain ∧ chained.mg.linkwait = false) ∧
    ((withUnit 0x011 up chained).mg.step = .chain ∧ Running (withUnit 0x011 up chained) ∧
      ((withUnit 0x011 up chained).unit 0x011).held = true ∧
      ((withUnit 0x011 up chained).unit 0x011).health.fenced = false ∧ 0 < 0x011) ∧
    (Running sliced ∧ sliced.mg.linkwait = false ∧ (sliced.linkEnd 0 true).st ≠ .active ∧ sliceBib 0 = 0x089 ∧
      (sliced.unit 0x089).health.fenced = false) := by
  and_intros <;> first | exact rfl | decide

def verifying (vres : BitVec 4) (v : Bool) : State :=
  { State.reset with
    mg := { State.reset.mg with step := .verify, verified := v, vres := vres, linkwait := true }
    finish := { State.reset.finish with scanned := true } }

theorem witness_VerificationDecidesTheMode :
    (Running (verifying 0 false) ∧ (verifying 0 false).mg.step = .verify ∧ (verifying 0 false).mg.verified = false) ∧
    (Running (verifying 0 true) ∧ (verifying 0 true).mg.step = .verify ∧ (verifying 0 true).mg.verified = true ∧
      verifyImage (verifying 0 false) (storeHeader (verifying 0 false)) (storeBody (verifying 0 false)) ≠ 0 ∧
      verifyImage (verifying 0 false) (storeHeader (verifying 0 false)) (storeBody (verifying 0 false)) ≠ 6 ∧
      (verifying 0 true).finish.scanned = true ∧ (verifying 0 true).mg.linkwait = true ∧ (verifying 0 true).mg.vres = 0) ∧
    (Running (verifying 6 true) ∧ (verifying 6 true).mg.vres ≠ 0 ∧ (verifying 0 true).finish.waiting.length ≤ 30) := by
  and_intros <;> first | exact rfl | decide

def reseeding : State := withUnit 0x011 { up with reseed := some 7 } ready

theorem witness_PacersStepEveryCycleAndReseed :
    Running reseeding ∧ (reseeding.unit 0x011).reseed = some 7 ∧
    (reseeding.unit 0x011).issued.all (fun i => i.finished.isSome || !drawsPacer i.op i.head i.prog) = true ∧
    kindOf 0x011 = some .cv ∧ kindOf 0x051 = some .se ∧ kindOf 0x050 = some .cv ∧ kindOf 0x071 ≠ some .se := by
  and_intros <;> first | exact rfl | decide

/-- A staged partition: acknowledged 64 cycles ago, not acknowledged, and none. -/
def partitioned (wait : List Nat) (last : Option Nat) : State :=
  { ready with now := 64, baton := { ready.baton with pmaskStaged := some 3, pmaskWait := wait, pmaskLast := last } }

theorem witness_SplitBoundaryTakesTheBus :
    (Running (partitioned [] (some 0)) ∧ (partitioned [] (some 0)).baton.pmaskStaged = some 3 ∧
      (partitioned [] (some 0)).baton.pmaskWait = [] ∧ (partitioned [] (some 0)).baton.pmaskLast = some 0 ∧
      0 + 64 ≤ (partitioned [] (some 0)).now) ∧
    (Running (partitioned [] (some 1)) ∧ (partitioned [] (some 1)).baton.pmaskStaged = some 3 ∧
      (partitioned [] (some 1)).baton.pmaskWait = [] ∧ (partitioned [] (some 1)).baton.pmaskLast = some 1 ∧
      (partitioned [] (some 1)).now < 1 + 64) ∧
    (Running (partitioned [0x011] none) ∧ (partitioned [0x011] none).baton.pmaskWait ≠ []) ∧
    (Running ready ∧ ready.baton.pmaskStaged = none ∧ ready.mg.waiting = [] ∧ ready.tables.startList = [] ∧
      (∀ b, (ready.unit b).health.syncedAt = none) ∧ (1 : BitVec 8) ≠ 0 ∧ (∀ b, (ready.unit b).issued = [])) := by
  and_intros <;> first | exact rfl | decide | exact fun b => only_mg b (fun u => u.health.syncedAt = none) rfl rfl |
    exact fun b => only_mg b (fun u => u.issued = []) rfl rfl

/-- A converter is a member; a baton is pending, in a state of the baton's machine. -/
def batoned (st : BState) (pending : Bool) (ann : Option (Nat × Bool)) (passed : Bool) : State :=
  withUnit 0x011 up { ready with
    now := 8192, pace := { ready.pace with ann := ann, passed := passed },
    baton := { ready.baton with st := st, pending := pending, members := [0x011] } }

/-- Layer 3 is in use at the narrow width. -/
def oneNarrow (s : State) : State := { s with tables := { s.tables with lmActive := [(3, 0x01000000)] } }

/-- An LB at cycle 0, a number of cycles ago. -/
def turned (now : Nat) : State :=
  { batoned .idle true none false with now := now, pace := { ready.pace with lastLb := some 0 } }

theorem witness_AnnouncementStagesADueBaton :
    (Running (turned 4095) ∧ (turned 4095).baton.st = .idle ∧ (turned 4095).pace.lastLb = some 0 ∧
      (turned 4095).now < 0 + 4096 ∧ (turned 4095).farUnits = [] ∧ 0 + 4096 ≤ (turned 4096).now) ∧
    (Running (batoned .idle true none false) ∧ (batoned .idle true none false).baton.st = .idle ∧
      (batoned .idle true none false).pace.lastLb = none ∧ batonDue (batoned .idle true none false) false = true ∧
      0x011 ∈ (batoned .idle true none false).members ∧ isFar 0x011 = false) ∧
    (batonDue (batoned .idle false none false) false = false ∧ Running (batoned .idle false none false) ∧
      batonDue (batoned .idle false none false) true = false ∧ allWide (batoned .idle false none false) = true ∧
      allWide (oneNarrow (batoned .idle false none false)) = false ∧ batonDue (oneNarrow (batoned .idle false none false)) true = false ∧
      (batoned .idle false none false).farUnits = [] ∧ (oneNarrow (batoned .idle false none false)).farUnits = []) := by
  and_intros <;> first | exact rfl | decide

def acked : State :=
  { batoned .staging true (some (0, false)) false with
    baton := { (batoned .staging true (some (0, false)) false).baton with acks := [0x011] } }

theorem witness_CommitPointArmsOrDefers :
    (Running acked ∧ acked.pace.ann.isSome = true ∧ acked.pace.passed = false ∧ acked.baton.st = .staging ∧
      acked.baton.barred = false ∧ batonDue acked (annRpt acked) = true ∧
      0x011 ∈ acked.baton.members ∧ ∀ b ∈ acked.members, b ∈ acked.baton.acks) ∧
    (batonDue (batoned .staging true (some (0, false)) false) false = true ∧
      0x011 ∈ (batoned .staging true (some (0, false)) false).members ∧
      0x011 ∈ (batoned .staging true (some (0, false)) false).baton.members ∧
      0x011 ∉ (batoned .staging true (some (0, false)) false).baton.acks ∧
      satAdd (batoned .staging true (some (0, false)) false).baton.defcnt 1 ≠
        (batoned .staging true (some (0, false)) false).baton.defermax) ∧
    (batonDue (batoned .staging false (some (0, false)) false) false = false ∧
      (batoned .staging false (some (0, false)) false).baton.st = .staging) := by
  and_intros <;> first | exact rfl | decide

def deferred : State :=
  { batoned .staging true (some (0, false)) false with
    baton := { (batoned .staging true (some (0, false)) false).baton with defcnt := 3 } }

theorem witness_CommitPointArmsOrDefersAtDefermax :
    Running deferred ∧ deferred.pace.ann.isSome = true ∧ deferred.pace.passed = false ∧ deferred.baton.st = .staging ∧
    deferred.baton.barred = false ∧ batonDue deferred (annRpt deferred) = true ∧ deferred.baton.defermax ≠ 0 ∧
    deferred.baton.defcnt ≠ deferred.baton.defermax ∧ satAdd deferred.baton.defcnt 1 = deferred.baton.defermax ∧
    0x011 ∈ deferred.members ∧ 0x011 ∈ deferred.baton.members ∧ 0x011 ∉ deferred.baton.acks := by
  and_intros <;> first | exact rfl | decide

/-- An armed baton at its announced boundary, 8,192 cycles after the announcement. -/
def armed : State :=
  withUnit 0x011 { up with member := .armed } (batoned .armed true (some (0, false)) true)

theorem witness_LapBoundaryTurnsTheLap :
    Running armed ∧ isAnnounced armed = true ∧ armed.baton.st = .armed ∧ 0x011 ∈ allBibs ∧ batonKind 0x011 = true ∧
    (armed.unit 0x011).member = .armed ∧ Running ready ∧ isAnnounced ready = false ∧
    isAnnounced { armed with baton := { armed.baton with st := .idle } } = true := by
  and_intros <;> first | exact rfl | decide

theorem witness_HoldLapseAndBusChange :
    (Running ready ∧ ∀ x ∈ ready.tables.queues, x.2.st = .closing → isFar x.2.bib.toNat = true) ∧
    (Running armed ∧ armed.pace.ann.isSome = true ∧ armed.pace.passed = true ∧ armed.baton.st = .armed ∧
      0x011 ∈ armed.members ∧ isFar 0x011 = false ∧
      ∀ x ∈ armed.tables.queues, x.2.st = .closing → isFar x.2.bib.toNat = true) ∧
    (1 : BitVec 48) ≠ ready.pace.busLap := by
  and_intros <;> first | exact rfl | decide

/-- A confirmation window of two members, one of which sent DONE. -/
def confirming (dones : List Nat) : State :=
  withUnit 0x012 up { batoned .confirming false none false with
    baton := { (batoned .confirming false none false).baton with members := [0x011, 0x012], dones := dones } }

theorem witness_FalseStartsAreFencedAndResynchronised :
    (Running (confirming [0x012]) ∧ (confirming [0x012]).baton.st = .confirming ∧
      0x011 ∈ (confirming [0x012]).baton.members ∧ (confirming [0x012]).serving 0x011 = true ∧
      0x011 ∉ (confirming [0x012]).baton.dones ∧ 0x012 ∈ (confirming [0x012]).baton.dones) ∧
    (∀ b ∈ (confirming [0x011, 0x012]).baton.members, b ∈ (confirming [0x011, 0x012]).baton.dones) := by
  and_intros <;> first | exact rfl | decide

/-- The tables and the baton's relation of a state where a baton is staged and of one where it is armed. -/
theorem witness_EveryStepKeepsBatonAndAnnouncement :
    (BatonOk ready ∧ Sys2Proof.Machine.step ready = .next ready) ∧
    (batoned .staging true (some (0, false)) false).baton.st = .staging ∧
    (BatonOk (batoned .staging true (some (0, false)) false) ∧ ∃ t, Sys2Proof.Machine.step
      { batoned .staging true (some (0, false)) false with pending := [.paceBusChange 1 0 0] } = .next t) ∧
    (BatonOk armed ∧ armed.baton.st = .armed ∧ ∃ t, Sys2Proof.Machine.step
      { armed with pending := [.paceBusChange 1 0 0] } = .next t) :=
  ⟨⟨by unfold BatonOk; decide, rfl⟩, rfl, ⟨by unfold BatonOk; decide, _, rfl⟩, by unfold BatonOk; decide, rfl, _, rfl⟩

theorem witness_EveryStepKeepsTablesCanonical :
    (TablesOk ready ∧ Sys2Proof.Machine.step ready = .next ready) ∧ TablesOk armed ∧ armed.units.length = 2 ∧
    ∃ t, Sys2Proof.Machine.step { armed with pending := [.paceBusChange 1 0 0] } = .next t :=
  ⟨⟨⟨rfl, rfl, rfl, rfl, rfl, rfl⟩, rfl⟩, ⟨rfl, rfl, rfl, rfl, rfl, rfl⟩, rfl, _, rfl⟩

/-! ### The baton's messages -/

/-- A unit in a member state, with the SEQ it acknowledged. -/
def member (b : Nat) (m : Member) : State := withUnit b { up with member := m, ackSeq := 1, armSeq := 1 } ready

/-- A baton message to or from a unit: TYPE, SEQ, EPOCH, VAL. -/
def said (type : Nat) (seq : BitVec 8) (epoch : BitVec 4) (b : Nat) (val : BitVec 32) : BitVec 128 :=
  batonMsg type seq epoch b 1 false false val

theorem witness_MembersAndMgExchangeBatonMessages :
    (Running (member 0x011 .steady) ∧ ((member 0x011 .steady).unit 0x011).held = true ∧ batonKind 0x011 = true) ∧
    (batonMsgOk (said 0x20 1 1 0x011 0) = true ∧ mBib (said 0x20 1 1 0x011 0) = 0x011 ∧ mType (said 0x20 1 1 0x011 0) = 0x20 ∧
      ((member 0x011 .steady).unit 0x011).member = .steady) ∧
    (batonMsgOk (said 0x23 1 1 0x011 0) = true ∧ mType (said 0x23 1 1 0x011 0) = 0x23 ∧
      ((member 0x011 .staged).unit 0x011).member = .staged ∧
      ((member 0x011 .staged).unit 0x011).ackSeq = mSeq (said 0x23 1 1 0x011 0) ∧
      ((member 0x011 .staged).unit 0x011).ackSeq ≠ mSeq (said 0x23 2 1 0x011 0)) ∧
    (batonMsgOk (said 0x24 1 1 0x011 0) = true ∧ mType (said 0x24 1 1 0x011 0) = 0x24 ∧
      ((member 0x011 .armed).unit 0x011).member = .armed) := by
  and_intros <;> first | exact rfl | decide

/-- A slice and a relay whose counts run. -/
def counting (b : Nat) (m : Member) : State :=
  withUnit b { up with farStopAt := some 9, member := m, armSeq := 1 } ready

theorem witness_FarUnitsFollowMg :
    (Running (counting 0x089 .steady) ∧ ((counting 0x089 .steady).unit 0x089).held = true ∧ isFar 0x089 = true ∧
      batonMsgOk (said 0x22 1 0 0x089 264) = true ∧ mBib (said 0x22 1 0 0x089 264) = 0x089 ∧
      mType (said 0x22 1 0 0x089 264) = 0x22 ∧ ¬ 264 < (mVal (said 0x22 1 0 0x089 264)).toNat ∧
      264 < (mVal (said 0x22 1 0 0x089 265)).toNat) ∧
    (((counting 0x079 .steady).unit 0x079).farStopAt.isSome = true ∧ kindOf 0x079 = some .rl) ∧
    (batonMsgOk (said 0x25 1 1 0x089 0) = true ∧ mType (said 0x25 1 1 0x089 0) = 0x25 ∧
      ((counting 0x089 .armed).unit 0x089).member = .armed ∧ mSeq (said 0x25 1 1 0x089 0) ≠ 0 ∧
      ((counting 0x089 .armed).unit 0x089).armSeq = mSeq (said 0x25 1 1 0x089 0) ∧
      mEpoch (said 0x25 1 1 0x089 0) = ((counting 0x089 .armed).unit 0x089).epoch + 1 ∧
      mEpoch (said 0x25 1 1 0x089 0) ≠ ((counting 0x089 .steady).unit 0x089).epoch ∧
      mEpoch (said 0x25 1 0 0x089 0) = ((counting 0x089 .steady).unit 0x089).epoch ∧
      farResumes (counting 0x089 .steady) ((counting 0x089 .steady).unit 0x089) = true ∧
      farResumes { counting 0x089 .steady with pace := { ready.pace with ann := some (3, false) } }
        { (counting 0x089 .steady).unit 0x089 with farAnn := some 3 } = false) ∧
    (batonMsgOk (said 0x26 1 0 0x089 0) = true ∧ mType (said 0x26 1 0 0x089 0) = 0x26 ∧
      ∀ x ∈ (counting 0x089 .steady).tables.queues, x.2.st = .closing → x.2.bib ≠ 0x089) := by
  and_intros <;> first | exact rfl | decide

def staging : State := batoned .staging true (some (0, false)) false

def digested : BitVec 128 := said 0x21 staging.baton.seq 0 0x011 (stagedDigest staging 0x011)

theorem digested_fields : batonMsgOk digested = true ∧ mType digested = 0x21 ∧ mSeq digested = staging.baton.seq ∧
    mVal digested = stagedDigest staging (mBib digested) ∧ mBib digested = 0x011 := by
  have hb : mBib digested = 0x011 := mBib_batonMsg _ _ _ _ _ _ _ _ (by decide) (by decide)
  refine ⟨batonMsgOk_batonMsg _ _ _ _ _ _ _ _ (by decide) (by decide) (by decide),
    mType_batonMsg _ _ _ _ _ _ _ _ (by decide) (by decide), mSeq_batonMsg _ _ _ _ _ _ _ _ (by decide) (by decide), ?_, hb⟩
  rw [hb]; exact mVal_batonMsg _ _ _ _ _ _ _ _ (by decide) (by decide)

theorem witness_MembersAndMgExchangeBatonMessagesAtMg :
    (Running staging ∧ batonMsgOk digested = true ∧ mType digested = 0x21 ∧ staging.baton.st = .staging ∧
      staging.pace.passed = false ∧ mSeq digested = staging.baton.seq ∧
      mVal digested = stagedDigest staging (mBib digested) ∧ mBib digested ∈ staging.members ∧
      mBib digested ∉ staging.baton.acks ∧ mSeq (said 0x21 7 0 0x011 0) ≠ staging.baton.seq) ∧
    (Running (confirming []) ∧ mType (said 0x27 1 0 0x011 0) = 0x27 ∧ batonMsgOk (said 0x27 1 0 0x011 0) = true ∧
      mBib (said 0x27 1 0 0x011 0) ∈ (confirming []).baton.members ∧
      mEpoch (said 0x27 1 0 0x011 0) = (confirming []).baton.epoch ∧
      0x012 ∈ (confirming []).baton.members ∧ 0x012 ∉ (confirming []).baton.dones ∧ (confirming []).serving 0x012 = true ∧
      (∀ b ∈ (confirming [0x012]).baton.members,
        b = mBib (said 0x27 1 0 0x011 0) ∨ b ∈ (confirming [0x012]).baton.dones ∨ (confirming [0x012]).serving b = false) ∧
      mEpoch (said 0x27 1 5 0x011 0) ≠ (confirming []).baton.epoch) := by
  obtain ⟨h1, h2, h3, h4, h5⟩ := digested_fields
  refine ⟨⟨rfl, h1, h2, rfl, rfl, h3, h4, ?_, ?_, by decide⟩, ?_⟩
  · rw [h5]; decide
  · rw [h5]; decide
  · and_intros <;> first | exact rfl | decide

/-- A false start, fenced with an EPOCH fence. -/
def fallen (mismatches : Nat) (synced : Option Nat) : State :=
  withUnit 0x011 { up with
    member := .falseStart
    health := { fenced := true, epochFence := true, cause := 9, mismatches := mismatches, syncedAt := synced } }
    { ready with now := 5 }

def fallenDigest : BitVec 32 :=
  digestOf 0x011 (fallen 0 none).tables.ftActive (committedMap (fallen 0 none)) ((fallen 0 none).unit 0x011).files.cbActive

theorem synced_fields (e : BitVec 4) : mType (said 0x29 0 e 0x011 fallenDigest) = 0x29 ∧
    batonMsgOk (said 0x29 0 e 0x011 fallenDigest) = true ∧ mVal (said 0x29 0 e 0x011 fallenDigest) = fallenDigest ∧
    mEpoch (said 0x29 0 e 0x011 fallenDigest) = e :=
  ⟨mType_batonMsg _ _ _ _ _ _ _ _ (by decide) (by decide),
    batonMsgOk_batonMsg _ _ _ _ _ _ _ _ (by decide) (by decide) (by decide),
    mVal_batonMsg _ _ _ _ _ _ _ _ (by decide) (by decide), mEpoch_batonMsg _ _ _ _ _ _ _ _ (by decide) (by decide)⟩

theorem witness_FalseStartsAreFencedAndResynchronisedOnResync :
    (Running (fallen 0 none) ∧ ((fallen 0 none).unit 0x011).held = true ∧ mBib (said 0x28 0 0 0x011 0) = 0x011 ∧
      batonMsgOk (said 0x28 0 0 0x011 0) = true ∧ mType (said 0x28 0 0 0x011 0) = 0x28 ∧
      ((fallen 0 none).unit 0x011).member = .falseStart ∧ batonKind 0x011 = true ∧ mSeq (said 0x28 0 0 0x011 0) = 0) ∧
    (mType (said 0x29 0 0 0x011 fallenDigest) = 0x29 ∧ batonMsgOk (said 0x29 0 0 0x011 fallenDigest) = true ∧
      ((fallen 2 none).unit 0x011).health.fenced = true ∧ ((fallen 2 none).unit 0x011).health.epochFence = true ∧
      mVal (said 0x29 0 0 0x011 fallenDigest) = fallenDigest ∧
      mEpoch (said 0x29 0 0 0x011 fallenDigest) = (fallen 0 none).baton.epoch ∧
      mEpoch (said 0x29 0 3 0x011 fallenDigest) ≠ (fallen 2 none).baton.epoch ∧
      ((fallen 2 none).unit 0x011).health.mismatches = 2 ∧ ((fallen 2 none).unit 0x011).health.cause = 9 ∧
      ((fallen 1 none).unit 0x011).health.mismatches < 2 ∧ ((fallen 1 none).unit 0x011).health.resetting = false) ∧
    (((fallen 0 (some 4)).unit 0x011).health.syncedAt = some 4 ∧ 4 < (fallen 0 (some 4)).now) ∧
    (isFar 0x089 = true ∧ batonKind 0x089 = true ∧ isFar 0x071 = false ∧ batonKind 0x071 = false ∧
      ((member 0x089 .falseStart).unit 0x089).member = .falseStart ∧ mSeq (said 0x28 1 0 0x089 0) ≠ 0 ∧
      ((member 0x089 .falseStart).unit 0x089).ackSeq = mSeq (said 0x28 1 0 0x089 0) ∧
      ((member 0x089 .steady).unit 0x089).member ≠ .falseStart) := by
  refine ⟨by and_intros <;> first | exact rfl | decide,
    ⟨(synced_fields 0).1, (synced_fields 0).2.1, rfl, rfl, (synced_fields 0).2.2.1, (synced_fields 0).2.2.2, ?_, rfl, rfl,
      by decide, rfl⟩,
    by and_intros <;> first | exact rfl | decide, by and_intros <;> first | exact rfl | decide⟩
  rw [(synced_fields 3).2.2.2]; decide

theorem witness_BatonAndPartitionRequests :
    Serving ready ∧ profileAgent ready .host = true ∧ profileAgent ready (.ctx 5) = false := by
  and_intros <;> first | exact rfl | exact ⟨rfl, rfl⟩ | decide

theorem witness_BatonAndPartitionRequestsOfAPartition :
    Serving ready ∧ profileAgent ready .host = true ∧ Serving (partitioned [0x011] none) ∧
    0x011 ∈ (partitioned [0x011] none).baton.pmaskWait := by
  and_intros <;> first | exact rfl | exact ⟨rfl, rfl⟩ | decide

/-- Context 0 is the profile context. -/
def profiled (s : State) : State := { s with mg := { s.mg with tabgrant := 0x400 } }

/-- The same baton one MCLK cycle before the commit point. -/
def early : State := { staging with now := 4094 }

theorem witness_TableWritesReachTheStagedCopy :
    (Serving ready ∧ mayWrite ready .host 1 = true ∧ ready.baton.st ≠ .staging ∧ Serving staging ∧
      staging.baton.st = .staging ∧ staging.pace.passed = false) ∧
    (Serving (profiled ready) ∧ (profiled ready).profileCtx.isSome = true ∧ profileAgent (profiled ready) .host = true ∧
      Serving (profiled staging) ∧ (profiled staging).baton.st = .staging ∧
      (profiled staging).profileCtx.isSome = true) ∧
    (staging.pace.ann = some (0, false) ∧ (0 + 4096) / 9 ≤ staging.now / 9 ∧ mayWrite staging .host 1 = true ∧
      early.pace.ann = some (0, false) ∧ ¬ (0 + 4096) / 9 ≤ early.now / 9 ∧ Serving early ∧ early.baton.st = .staging ∧
      early.pace.passed = false ∧ mayWrite early .host 1 = true) := by
  and_intros <;> first | exact rfl | exact ⟨rfl, rfl⟩ | decide

/-! ### Queues and instructions -/

/-- The head word of FENCE QUEUE, and of an instruction of no class (R289). -/
def fenceHead : BitVec 256 := headSlot 0x10 0 0 0 0 0 0

/-- A converter's queue 5 with one visible instruction at 0x4000. -/
def queued (head : BitVec 256) (q : Queue) : State :=
  (withUnit 0x011 up (withCtx { ready with mem := writeBytes [] 0x4000 (bytesLE 32 head) })).setQueue 5 q

def oneVisible : Queue := { ring 0x011 with tail := 1 }

theorem witness_IssueTakesTheNextInstruction :
    (Running (queued fenceHead oneVisible) ∧ isFar 0x011 = false ∧ mayIssue (queued fenceHead oneVisible) 0x011 = true ∧
      arbitrate (queued fenceHead oneVisible) 0x011 = some 5 ∧ ((queued fenceHead oneVisible).queue 5).pre = false ∧
      waitsAtIssue (queued fenceHead oneVisible) (nextOffer (queued fenceHead oneVisible) 0x011 5) = false ∧
      issueStatus (queued fenceHead oneVisible) (nextOffer (queued fenceHead oneVisible) 0x011 5) = none) ∧
    (issueStatus (queued 0xFF oneVisible) (nextOffer (queued 0xFF oneVisible) 0x011 5) = some .format ∧
      arbitrate (queued 0xFF oneVisible) 0x011 = some 5 ∧ mayIssue (queued 0xFF oneVisible) 0x011 = true ∧
      waitsAtIssue (queued 0xFF oneVisible) (nextOffer (queued 0xFF oneVisible) 0x011 5) = false ∧
      ∀ i ∈ ((queued 0xFF oneVisible).unit 0x011).issued, i.queue ≠ 5) := by
  and_intros <;> first | exact rfl | decide

/-- A plain ELEMENT of 4 elements without a program: A at 0x1000, destination at 0x1100, binary32. -/
def elementSlots : List (BitVec 256) :=
  [headSlot 0x06 0 2 0 4 0 0, slotOf (plainOf 0x1000 4 0 1) 0, slotOf 0 (plainOf 0x1100 4 0 1)]

def elementJob : Issued := job elementSlots [0, 0, 0, 0]

/-- The stream engine's queue, suspending, with the element instruction issued. -/
def suspending : State :=
  (busy 0x051 elementJob).setQueue 5 { ring 0x051 with st := .suspending, owed := 1, tail := 3, next := 3 }

/-- FENCE QUEUE. -/
def fenceJob : Issued := job [fenceHead] []

/-- A queue preempted at the first position of its instruction, the instruction in its ring. -/
def preempted (crc : BitVec 32) : State :=
  (withUnit 0x051 up (withCtx { ready with mem := writeBytes [] 0x4000 (bytesLE 32 fenceHead) })).setQueue 5
    { ring 0x051 with tail := 1, next := 1, pre := true, dcrc := crc, parked := some fenceJob }

theorem ring_preempted_zero :
    ringInstr (preempted 0) ((preempted 0).queue 5) ((preempted 0).queue 5).head = [fenceHead] := rfl

theorem ring_preempted (crc : BitVec 32) :
    ringInstr (preempted crc) ((preempted crc).queue 5) ((preempted crc).queue 5).head = [fenceHead] := ring_preempted_zero

theorem resume_aborted (crc : BitVec 32) (i : Issued) (h : crc32c (slotBytes [fenceHead]) ≠ crc) :
    resumeStatus (preempted crc) 5 i = some .aborted := by
  have hr : ringInstr (preempted crc) ((preempted crc).queue 5) ((preempted crc).queue 5).head = [fenceHead] :=
    ring_preempted crc
  have hd : ((preempted crc).queue 5).dcrc = crc := rfl
  simp only [resumeStatus, hr, hd, ne_eq, h, not_false_eq_true, if_true]

/-- DCRC of the instruction in its ring. -/
def fenceCrc : BitVec 32 := crc32c (slotBytes [fenceHead])

theorem left_preempted : (preempted fenceCrc).leftParked 5 = some fenceJob := by
  have hp : ((preempted fenceCrc).queue 5).parked = some fenceJob := rfl
  have hh : ((preempted fenceCrc).queue 5).head = fenceJob.slot := rfl
  have hd : ((preempted fenceCrc).queue 5).dcrc = crc32c (slotBytes fenceJob.slots) := rfl
  simp [State.leftParked, hp, hh, hd, Option.filter]

theorem again_preempted : preemptedInstr (preempted fenceCrc) 0x051 5 = fenceJob := by
  have hx : ((preempted fenceCrc).queue 5).pre = true := rfl
  have hp : progPos fenceJob ((preempted fenceCrc).queue 5).prog.toNat = 0 := rfl
  have hb : ((preempted fenceCrc).queue 5).bib = 0x051 := rfl
  have ha : preemptedAt (preempted fenceCrc) 5 = some fenceJob := by
    simp only [preemptedAt, State.preempted, hx, left_preempted, Option.isSome_some, if_true, Option.getD_some, Option.map_some,
      hp, hb]
    rfl
  simp only [preemptedInstr, ha, left_preempted, Option.isSome_some, if_true, Option.getD_some]

theorem resume_preempted :
    resumeStatus (preempted fenceCrc) 5 (preemptedInstr (preempted fenceCrc) 0x051 5) = none := by
  have hr : ringInstr (preempted fenceCrc) ((preempted fenceCrc).queue 5) ((preempted fenceCrc).queue 5).head = [fenceHead] :=
    ring_preempted fenceCrc
  have hd : ((preempted fenceCrc).queue 5).dcrc = crc32c (slotBytes [fenceHead]) := rfl
  have hb : ((preempted fenceCrc).queue 5).bci = (preempted fenceCrc).baton.commits := rfl
  have ho : (posOf fenceJob ((preempted fenceCrc).queue 5).prog.toNat).isNone = false := rfl
  simp [resumeStatus, again_preempted, hr, hd, hb, ho]

/-- Four element instructions of one queue, and a queue of higher priority with a visible instruction. -/
def wished : State :=
  ((withUnit 0x051 { up with issued := [elementJob, { elementJob with slot := 3 }, { elementJob with slot := 6 },
      { elementJob with slot := 9 }] } (withCtx { ready with mem := writeBytes [] 0x4000 (bytesLE 32 fenceHead) })).setQueue 5
    { ring 0x051 with owed := 4, tail := 12, next := 12 }).setQueue 6 { ring 0x051 with tail := 1, prio := 1 }

theorem witness_PreemptionAndResumptionAChoice :
    Running wished ∧ preemptTarget wished 0x051 = none ∧ unitActs wished 0x051 = true ∧
    preemptWish wished 0x051 = some { elementJob with slot := 9 } ∧
    preemptTarget (withUnit 0x051 up ready) 0x051 = none ∧ preemptWish (withUnit 0x051 up ready) 0x051 = none := by
  and_intros <;> first | exact rfl | decide +kernel

theorem witness_PreemptionAndResumption :
    (Running suspending ∧ preemptTarget suspending 0x051 = some elementJob ∧ unitActs suspending 0x051 = true ∧
      atPoint suspending 0x051 elementJob = true ∧ forcible suspending 0x051 elementJob = false ∧ elementJob.paused = false ∧
      (suspending.queue 5).bib = 0x051 ∧
      ∀ a ∈ (suspending.unit 0x051).inbox, a.queue ≠ 5) ∧
    (Running (preempted fenceCrc) ∧ mayIssue (preempted fenceCrc) 0x051 = true ∧
      arbitrate (preempted fenceCrc) 0x051 = some 5 ∧
      ((preempted fenceCrc).queue 5).pre = true ∧
      ((preempted fenceCrc).unit 0x051).reseed = none ∧
      resumeStatus (preempted fenceCrc) 5
        (preemptedInstr (preempted fenceCrc) 0x051 5) = none) ∧
    (mayIssue (preempted 0) 0x051 = true ∧ arbitrate (preempted 0) 0x051 = some 5 ∧
      resumeStatus (preempted 0) 5 (preemptedInstr (preempted 0) 0x051 5) = some .aborted) := by
  refine ⟨⟨rfl, rfl, rfl, rfl, rfl, rfl, rfl, by decide⟩, ⟨rfl, rfl, rfl, rfl, rfl, ?_⟩, rfl, rfl, ?_⟩
  · exact resume_preempted
  · exact resume_aborted 0 _ (by decide +kernel)

/-- FENCE QUEUE behind an older instruction that has not ended its record. -/
def fenced : Issued := { job [fenceHead] [] with slot := 3 }

/-- FENCE WAITSEQ on queue 6 for SEQ 1, and LAPWAIT for lap 1 of the relative kind. -/
def waitseqJob : Issued := job [headSlot 0x10 1 0 0 0 0 (wordOf 128 (6 + 2 ^ 32))] []
def lapwaitJob (target : BitVec 48) : Issued := { job [headSlot 0x11 0 0 0 0 0 0] [] with target := target }

def waiters (i : Issued) (seq : BitVec 16) : State := (busy 0x011 i).setQueue 6 { ring 0x011 with seq := seq }

theorem witness_WaitingInstructionsEnd :
    (isFar 0x089 = true ∧ Works (busy 0x089 fenced) 0x089 5 fenced ∧
      ((busy 0x089 fenced).unit 0x089).issued.find? (fun j => decide (j.queue = 5)) = some fenced ∧
      ((busy 0x089 fenced).queue 5).head ≠ fenced.slot ∧ ((busy 0x089 fenceJob).queue 5).head = fenceJob.slot ∧
      Works (busy 0x089 fenceJob) 0x089 5 fenceJob) ∧
    (Works (busy 0x011 fenced) 0x011 5 fenced ∧ fenced.op = .fenceQueue ∧
      ((busy 0x011 fenced).unit 0x011).issued.find? (fun j => decide (j.queue = 5)) = some fenced) ∧
    (((withUnit 0x011 { up with issued := [{ elementJob with finished := some .ok }, fenced] } ready).unit 0x011).issued.find?
        (fun j => decide (j.queue = 5)) = some { elementJob with finished := some .ok } ∧
      ({ elementJob with finished := some .ok } : Issued).slot ≠ fenced.slot ∧
      openOf ((withUnit 0x011 { up with issued := [{ elementJob with finished := some .ok }, fenced] } ready).unit 0x011) 5
        = [fenced]) ∧
    (waitseqJob.op = .fenceWaitseq ∧ bWqueue waitseqJob.body = 6 ∧ bWseq waitseqJob.body = 1 ∧
      Works (waiters waitseqJob 1) 0x011 5 waitseqJob ∧
      (((waiters waitseqJob 1).queue (bWqueue waitseqJob.body)).seq - bWseq waitseqJob.body).toNat < 32768 ∧
      ¬ (((waiters waitseqJob 0).queue (bWqueue waitseqJob.body)).seq - bWseq waitseqJob.body).toNat < 32768 ∧
      openOf ((waiters waitseqJob 0).unit 0x011) 5 = [waitseqJob]) ∧
    ((lapwaitJob 0).op = .lapwait ∧ Works (busy 0x011 (lapwaitJob 0)) 0x011 5 (lapwaitJob 0) ∧
      lapwaitMet (busy 0x011 (lapwaitJob 0)) 0x011 (lapwaitJob 0) = true ∧
      lapwaitMet (busy 0x011 (lapwaitJob 1)) 0x011 (lapwaitJob 1) = false ∧
      openOf ((busy 0x011 (lapwaitJob 1)).unit 0x011) 5 = [lapwaitJob 1]) := by
  and_intros <;> first | exact rfl | exact ⟨rfl, rfl, rfl, rfl⟩ | decide

def ended (st : Status) : State :=
  (busy 0x051 { elementJob with finished := some st }).setQueue 5 { ring 0x051 with owed := 1, tail := 3, next := 3, halte := true }

theorem witness_CompletionWritesTheRecord :
    (Running (ended .ok) ∧ isFar 0x051 = false ∧
      ((ended .ok).unit 0x051).issued.filter (fun j => decide (j.queue = 5)) = [{ elementJob with finished := some .ok }] ∧
      elementJob.ended = none ∧ elementJob.atIssue = false ∧ ((ended .ok).queue 5).st = .run ∧ elementJob.space = 0 ∧
      scalesOut (ended .ok) 0x051 { elementJob with finished := some .ok } = false) ∧
    (Running (ended .wrongState) ∧ ((ended .wrongState).unit 0x051).issued.filter (fun j => decide (j.queue = 5)) =
        [{ elementJob with finished := some .wrongState }]) ∧
    (Running (ended .denied) ∧
      ((ended .denied).unit 0x051).issued.filter (fun j => decide (j.queue = 5)) =
        [{ elementJob with finished := some .denied }]) := by
  and_intros <;> first | exact rfl | decide

/-- A CONVERT PLAIN of one tile: stream 1, placed at 0x20000, to stream 2, at 0x40000; binary32 both. -/
def convertSlots : List (BitVec 256) := [headSlot 0x01 0 1 0 128 31 0, slotOf (useOf 1) (useOf 2)]

def convertJob : Issued := { job convertSlots [1, 1, 0, 0] with fdis := [0, 0, 0, 0] }

/-- Stream 1 with a number of written blocks, stream 2 empty. -/
def streams (written : BitVec 16) (s : State) : State :=
  (s.setStream 1 { st := .opened, ctx := 1, wtag := written, pbase := 0x20000, pspace := 1, nblk := 1 }).setStream 2
    { st := .opened, ctx := 1, pbase := 0x40000, pspace := 1, nblk := 1 }

def failedJob : Issued := { convertJob with failed := some (.poisonIn, 0) }

theorem witness_WaitingInstructionsEndOnTimeout :
    Running (streams 0 (busy 0x011 convertJob)) ∧ unitActs (streams 0 (busy 0x011 convertJob)) 0x011 = true ∧
    (openOf ((streams 0 (busy 0x011 convertJob)).unit 0x011) 5).head? = some convertJob ∧
    waitsOnSource (streams 0 (busy 0x011 convertJob)) 0x011 convertJob = true ∧ convertJob.failed = none ∧
    (openOf ((streams 0 (busy 0x011 failedJob)).unit 0x011) 5).head? = some failedJob ∧
    waitsOnSource (streams 0 (busy 0x011 failedJob)) 0x011 failedJob = true := by
  and_intros <;> first | exact rfl | decide

theorem witness_DoorbellsMoveTheTail :
    (Serving (queued 0 oneVisible) ∧ mayRing (queued 0 oneVisible) (.ctx 1) 5 = true ∧ oneVisible.st ≠ .off ∧
      oneVisible.st ≠ .closing ∧ bellValid oneVisible 16 = true ∧ bellValid oneVisible 17 = false) ∧
    (mayRing (queued 0 oneVisible) (.ctx 2) 5 = false ∧ (ready.queue 5).st = .off) ∧
    (mayRing (queued 0 { oneVisible with st := .closing }) (.ctx 1) 5 = true ∧ bellValid { oneVisible with st := .closing } 2 = true ∧
      ({ oneVisible with st := .closing, owed := 1 } : Queue).owed ≠ 0 ∧
      nextVisible (queued 0 { oneVisible with st := .closing }) { ring 0x011 with st := .closing, tail := 0 } = false) := by
  and_intros <;> first | exact rfl | exact ⟨rfl, rfl⟩ | decide

def queueIn (st : QState) (owed : Nat) : State := queued 0 { ring 0x011 with st := st, owed := owed }

/-- A closing queue with a visible instruction, in the issue hold. -/
def heldClosing : State :=
  let s := queued fenceHead { oneVisible with st := .closing }
  { s with pace := { s.pace with hold := true } }

theorem witness_QueueCommandsMoveItsState :
    (Serving (queueIn .off 0) ∧ mayRing (queueIn .off 0) (.ctx 1) 5 = true ∧ ((queueIn .off 0).queue 5).st = .off ∧
      ((queueIn .off 0).ownerOf 5).isSome = true ∧ notCoachs (queueIn .off 0) 5 0x011 = true ∧
      mustMove (queueIn .off 0) ((queueIn .off 0).queue 5) = false) ∧
    (((queueIn .halted 0).queue 5).st = .halted ∧ mayRing (queueIn .halted 0) (.ctx 1) 5 = true) ∧
    (((queueIn .run 0).queue 5).st ≠ .halted ∧ ((queueIn .run 0).queue 5).pre = false ∧
      (∀ e ∈ ((queueIn .run 0).unit 0x011).inbox, e.queue ≠ 5) ∧
      (∀ i ∈ ((queueIn .run 0).unit 0x011).issued, i.queue = 5 → i.op.holdsQueue = false ∧ i.paused = false) ∧
      nextVisible (queueIn .run 0) ((queueIn .run 0).queue 5) = false) ∧
    (issuedOf ((busy 0x051 elementJob).setQueue 5 { ring 0x051 with st := .closing, owed := 1 }) 5 = [elementJob] ∧
      mayRing ((busy 0x051 elementJob).setQueue 5 { ring 0x051 with st := .closing, owed := 1 }) .host 5 = true) ∧
    (((queueIn .closing 0).queue 5).st = .closing ∧ ((queueIn .closing 0).queue 5).owed = 0 ∧
      ((queueIn .closing 0).queue 5).pre = false ∧
      nextVisible (queueIn .closing 0) ((queueIn .closing 0).queue 5) = false) ∧
    (((queueIn .closing 1).queue 5).owed ≠ 0 ∧ closeHeld heldClosing (heldClosing.queue 5) = true ∧
      (heldClosing.queue 5).owed = 0) := by
  and_intros <;> first | exact rfl | exact ⟨rfl, rfl⟩ | decide

/-- A REDUCE of 4 plain elements to one. -/
def reduceJob : Issued :=
  job [headSlot 0x07 0 2 0 4 0 0, slotOf (plainOf 0x1000 4 0 1) 0, slotOf 0 (plainOf 0x1100 4 0 1)] [0, 0, 0, 0]

/-- Context 1 with one queue, in a context state, its unit at work. -/
def contexted (cs : BitVec 2) : State :=
  ((busy 0x051 reduceJob).setContext 1 { grant := put 384 1 0 1 ||| put 384 14 32 5 ||| put 384 15 46 1, cstate := cs }).setQueue 5
    { ring 0x051 with owed := 1, tail := 3, next := 3 }

/-- The context suspended with FORCE while its REDUCE is at work. -/
def forced : State :=
  let s := (contexted 1).onQueue 5 (fun x => { x with st := .suspending })
  s.setContext 1 { s.context 1 with force := true }

theorem forced_preempts : preemptTarget forced 0x051 = some reduceJob ∧ forcible forced 0x051 reduceJob = true :=
  ⟨by decide +kernel, by decide +kernel⟩

/-- The same behind an older instruction, and after it was stopped there. -/
def forcedBehind : State :=
  forced.onUnit 0x051 (fun u => { u with issued := [fenceJob, { reduceJob with slot := 3 }] })

def pausedJob : Issued := { reduceJob.restarted with paused := true }

theorem witness_PreemptionAndResumptionForced :
    (oldestIssued (forced.unit 0x051) 5 = some reduceJob ∧ Running forced ∧ unitActs forced 0x051 = true) ∧
    (preemptTarget forcedBehind 0x051 = some { reduceJob with slot := 3 } ∧ unitActs forcedBehind 0x051 = true ∧
      forcible forcedBehind 0x051 { reduceJob with slot := 3 } = true ∧
      oldestIssued (forcedBehind.unit 0x051) 5 = some fenceJob ∧ fenceJob.slot ≠ 3 ∧
      (forcedBehind.unit 0x051).issued.filter (fun j => decide (j.queue = 5) && decide (j.slot = 3)) =
        [{ reduceJob with slot := 3 }]) ∧
    (preemptTarget (busy 0x051 pausedJob) 0x051 = some pausedJob ∧ pausedJob.paused = true ∧
      unitActs (busy 0x051 pausedJob) 0x051 = true) := by
  and_intros <;> first | decide +kernel | exact rfl

theorem no_inbox_contexted (cs : BitVec 2) (n : Nat) : ((contexted cs).unit n).inbox = [] := by
  show (tget {} [(0, up), (0x051, { up with issued := [reduceJob] })] n).inbox = []
  simp only [tget]
  split
  · rfl
  · split <;> rfl

theorem witness_ContextCommandsMoveEveryQueue :
    (Serving (contexted 0) ∧ mayWrite (contexted 0) (.ctx 1) 1 = true ∧ gEn ((contexted 0).grant 1) = true ∧
      (∀ n, ∀ e ∈ ((contexted 0).unit n).inbox, inRange (gQueues ((contexted 0).grant 1)) e.queue = false) ∧
      ((contexted 0).context 1).cstate ≠ 3) ∧
    (queuesOfContext (contexted 0) 1 = [5] ∧ ((contexted 0).queue 5).st = .run ∧ ((contexted 0).queue 5).owed = 1 ∧
      ((contexted 0).unit ((contexted 0).queue 5).bib.toNat).issued = [reduceJob] ∧ reduceJob.queue = 5 ∧
      reduceJob.ctx = 1 ∧ reduceJob.op = .reduce ∧ reduceJob.finished = none ∧ reduceJob.stopAs = none ∧
      reduceJob.entries false = [] ∧ unitActs (contexted 0) 0x051 = true ∧ reduceJob.paused = false ∧
      oldestIssued ((contexted 0).unit 0x051) 5 = some reduceJob ∧
      ∀ x ∈ (contexted 0).units, ∀ j ∈ x.2.issued, j.queue ≠ 5 → j.op ≠ .reduce ∧ j.op ≠ .stats) ∧
    ((preemptTarget forced 0x051 = some reduceJob ∧ forcible forced 0x051 reduceJob = true) ∧ unitActs forced 0x051 = true) ∧
    ((contexted 2).context 1).cstate = 2 := by
  refine ⟨⟨⟨rfl, rfl⟩, rfl, rfl, ?_, by decide⟩, ?_⟩
  · intro n e h; rw [no_inbox_contexted] at h; exact absurd h (by simp)
  · exact ⟨by and_intros <;> first | exact rfl | decide, ⟨forced_preempts, rfl⟩, rfl⟩

theorem witness_UnitCloseClosesItsQueues :
    (Serving (busy 0x011 elementJob) ∧ Agent.manages .host = true ∧ (0x011 : Bib) ≠ 0 ∧ (kindOf 0x011).isSome = true ∧
      ((busy 0x011 elementJob).unit 0x011).held = true ∧ ((busy 0x011 elementJob).unit 0x011).closing = false ∧
      isFar 0x011 = false ∧ isFar 0x089 = true ∧ ((busy 0x089 elementJob).unit 0x089).held = true ∧
      unitQuiet (busy 0x011 elementJob) 0x011 = false) ∧
    (((withUnit 0x011 { up with closing := true } ready).unit 0x011).closing = true ∧
      unitQuiet (withUnit 0x011 { up with closing := true } ready) 0x011 = true) ∧
    Agent.manages (.ctx 5) = false := by
  and_intros <;> first | exact rfl | exact ⟨rfl, rfl⟩ | decide

/-! ### TABLE loads and builds -/

/-- A load in context 1 of one codebook slot, channel entry, rescale entry or program from address 0x1000. -/
def loadJob (form : Nat) (body : Nat) : Issued := job [headSlot 0x03 form 0 0 0 0 (wordOf 128 (body + 0x1000 * 2 ^ 32))] []

def bookJob : Issued := loadJob 1 0x40
def channelJob : Issued := loadJob 2 (8191 + 2 ^ 13)
def rescaleJob : Issued := loadJob 3 (8191 + 2 ^ 13 + 2 ^ 27)
def programJob : Issued := { loadJob 4 255 with serial := 1 }

/-- A program of one micro-operation in memory, or the bytes of a channel entry of scale 1. -/
def withMem (k : Nat) (bs : List Byte) (s : State) : State := { s with mem := writeBytes s.mem k bs }

/-- A baton is staging, before its commit point. -/
def stagingNow (s : State) : State := { s with baton := { s.baton with st := .staging } }

/-- An ELEMENT of queue 6 that names program 255. -/
def namingJob : Issued := { job [headSlot 0x06 0 0 0 4 0 0x1FF] [] with queue := 6 }

theorem witness_TableLoadsWriteTheirEntries :
    (Works (busy 0x011 bookJob) 0x011 5 bookJob ∧ bookJob.op = .tableCodebook ∧ loadWaits (busy 0x011 bookJob) 0x011 bookJob = false ∧
      loadSourceOk bookJob (loadSource (busy 0x011 bookJob) bookJob) = true ∧ (busy 0x011 bookJob).baton.st ≠ .staging ∧
      Works (stagingNow (busy 0x011 bookJob)) 0x011 5 bookJob ∧ (stagingNow (busy 0x011 bookJob)).baton.st = .staging ∧
      (stagingNow (busy 0x011 bookJob)).pace.passed = false ∧
      loadWaits (stagingNow (busy 0x011 bookJob)) 0x011 bookJob = false) ∧
    (Works (busy 0x011 channelJob) 0x011 5 channelJob ∧ channelJob.op = .tableChannel ∧
      loadWaits (busy 0x011 channelJob) 0x011 channelJob = false ∧
      loadSourceOk channelJob (loadSource (withMem 0x1000 [0x80, 0x3F] (busy 0x011 channelJob)) channelJob) = true ∧
      Works (withMem 0x1000 [0x80, 0x3F] (busy 0x011 channelJob)) 0x011 5 channelJob ∧
      loadSourceOk channelJob (loadSource (withMem 0x1003 [2] (busy 0x011 channelJob)) channelJob) = false) ∧
    (Works (busy 0x011 rescaleJob) 0x011 5 rescaleJob ∧ rescaleJob.op = .tableRescale ∧
      loadWaits (busy 0x011 rescaleJob) 0x011 rescaleJob = false ∧
      loadSourceOk rescaleJob (loadSource (busy 0x011 rescaleJob) rescaleJob) = true) ∧
    (Works (busy 0x051 programJob) 0x051 5 programJob ∧ programJob.op = .tableProgram ∧
      loadWaits (busy 0x051 programJob) 0x051 programJob = false ∧
      loadWaits (withUnit 0x051 { up with issued := [namingJob, programJob] } ready) 0x051 programJob = true ∧
      openOf ((withUnit 0x051 { up with issued := [namingJob, programJob] } ready).unit 0x051) 5 = [programJob]) := by
  and_intros <;> first | exact rfl | exact ⟨rfl, rfl, rfl, rfl⟩ | decide

/-- The commit point of a staging baton has passed by time; an IMMEDIATE channel load with four bytes left. -/
def stagingLate (s : State) : State :=
  { stagingNow s with now := 4096, pace := { s.pace with ann := some (0, false) } }

def channelRest : Issued := { loadJob 2 (2 ^ 28 + 8191 + 2 ^ 13) with loaded := [0x80, 0x3F, 0, 0] }

theorem witness_TableLoadsWriteTheirEntriesInParts :
    (bookJob.loaded = [] ∧ channelJob.loaded = [] ∧ rescaleJob.loaded = [] ∧ programJob.loaded = [] ∧
      loadImmediate .tableChannel channelJob.body = false ∧ loadImmediate .tableRescale rescaleJob.body = true ∧ (loadSource (busy 0x011 rescaleJob) rescaleJob).length ≤ 512) ∧
    (Works (stagingLate (busy 0x011 bookJob)) 0x011 5 bookJob ∧ (stagingLate (busy 0x011 bookJob)).pace.ann = some (0, false) ∧
      0 + 4096 ≤ (stagingLate (busy 0x011 bookJob)).now ∧ (stagingNow (busy 0x011 bookJob)).pace.ann = none) ∧
    (Works (busy 0x011 channelRest) 0x011 5 channelRest ∧ channelRest.op = .tableChannel ∧ channelRest.loaded ≠ []) := by
  and_intros <;> first | exact rfl | exact ⟨rfl, rfl, rfl, rfl⟩ | decide

def programmed : State := withMem 0x1020 [0x15] (withMem 0x1000 [1] (busy 0x051 programJob))

theorem witness_TableLoadsTakeAWellFormedProgram :
    Works programmed 0x051 5 programJob ∧ loadWaits programmed 0x051 programJob = false ∧
    loadSourceOk programJob (loadSource programmed programJob) = true ∧
    loadSourceOk programJob (loadSource (busy 0x051 programJob) programJob) = false :=
  ⟨⟨rfl, rfl, rfl, rfl⟩, by decide, by decide +kernel, by decide +kernel⟩

/-- A TABLE BUILD of two tiles from stream 1, 1-bit codes. -/
def buildJob (pos : Nat) : Issued :=
  { job [headSlot 0x03 0 1 0 256 0 0, slotOf (useOf 1) 0] [0x23, 0, 0, 0] with pos := pos }

def building (pos : Nat) (feed : List Beat) : State :=
  streams 1 (withUnit 0x001 { up with issued := [buildJob pos], feed := feed, feedOwner := some (5, 0) } (withCtx ready))

theorem witness_TableBuildFeedsItsArray :
    (Works (building 0 []) 0x001 5 (buildJob 0) ∧ (buildJob 0).op = .tableBuild ∧ isStream ((buildJob 0).field 1) = true ∧
      ((entriesOf ((buildJob 0).field 1) ((buildJob 0).desc 1)).map Prod.fst).Nodup ∧
      ((building 0 []).unit 0x001).feed = [] ∧ (buildJob 0).pos < (buildJob 0).total ∧
      ∀ p ∈ entriesOf ((buildJob 0).field 1) ((buildJob 0).desc 1), ((building 0 []).stream p.1).readerWaits = false) ∧
    (Works (building 2 []) 0x001 5 (buildJob 2) ∧ (buildJob 2).total ≤ (buildJob 2).pos) ∧
    (Works (building 1 [{ control := 0, lanes := [] }]) 0x001 5 (buildJob 1) ∧
      feedOwned ((building 1 [{ control := 0, lanes := [] }]).unit 0x001) (buildJob 1) = true ∧ (buildJob 1).reads = [] ∧
      (buildJob 1).stopAs = none ∧ (buildJob 1).pos < (buildJob 1).total) ∧
    (((building 0 [{ control := 0, lanes := [] }]).unit 0x001).feed = [{ control := 0, lanes := [] }] ∧
      openOf ((building 0 [{ control := 0, lanes := [] }]).unit 0x001) 5 = [buildJob 0] ∧ kindOf 0x001 = some .pt) := by
  and_intros <;> first | exact rfl | exact ⟨rfl, rfl, rfl, rfl⟩ | decide

/-! ### Converters -/

theorem witness_ConvertersMakeProgress :
    Works (streams 1 (busy 0x011 convertJob)) 0x011 5 convertJob ∧ layoutOk .cv convertJob.slots = true ∧
    convertJob.hasRowSums = false ∧ convertJob.pos < convertJob.total ∧ convertJob.op = .convPlain ∧
    convertJob.outs = [] ∧ convertJob.stopAs = none ∧
    convWaits (streams 1 (busy 0x011 convertJob)) convertJob [] = false ∧ bRgv convertJob.body = false := by
  and_intros <;> first | exact rfl | exact ⟨rfl, rfl, rfl, rfl⟩ | decide

theorem witness_ConvertersMakeProgressInEachForm :
    layoutOk .cv [headSlot 0x01 1 1 0 128 31 0, slotOf (useOf 1) (useOf 2)] = true ∧
    layoutOk .cv [headSlot 0x01 2 1 0 128 31 0, slotOf (useOf 1) (useOf 2)] = true ∧
    layoutOk .cv [headSlot 0x01 3 3 0 128 31 0, slotOf (useOf 1) (useOf 2), 0, slotOf 1 0] = true ∧
    layoutOk .cv [headSlot 0x02 0 1 0 128 31 0, slotOf (useOf 1) (useOf 2)] = true := by
  and_intros <;> first | exact rfl | decide

/-- A CONVERT PLAIN of one tile of 1-bit codes, stream 1 to stream 2. -/
def codeJob : Issued := { job [headSlot 0x01 0 1 0 128 0 0, slotOf (useOf 1) (useOf 2)] [0x23, 0x23, 0, 0] with fdis := [0, 0, 0, 0], rtags := [(1, 0)] }

/-- The codes' block, tensor 0, tag 0, context 1. -/
def codeBlock (poison : Bool) : List Byte := blockBytes 0 0 poison false 0 0 1 0 128 (List.replicate 512 0)

def converting (bs : List Byte) : State := withMem 0x20000 bs (streams 1 (busy 0x011 codeJob))

theorem witness_ConvertWritesItsDestinationBlock (bs : List Byte) :
    Works (converting bs) 0x011 5 codeJob ∧ codeJob.op = .convPlain ∧ layoutOk .cv codeJob.slots = true ∧
    bRsum codeJob.body = false ∧ bRgv codeJob.body = false ∧ bDfeed codeJob.body = 0 ∧ codeJob.groupSize = 1 ∧
    codeJob.pos < codeJob.total ∧ convWaits (converting bs) codeJob [] = false ∧
    codeJob.outs = [] ∧ codeJob.reads = [] ∧ codeJob.stopAs = none ∧ codeJob.space = 0 ∧
    dSfmt (codeJob.desc 2) = 0 ∧ dOcap (codeJob.desc 2) = 0 ∧
    fStream (codeJob.field 1) ≠ fStream (codeJob.field 2) ∧ inPlace (converting bs) codeJob 2 2 0 0 = false ∧
    ((converting bs).stream (fStream (codeJob.field 1))).pspace ≠ 0 ∧
    (∀ p ∈ entriesOf (codeJob.field 1) (codeJob.desc 1), p.1 ≠ fStream (codeJob.field 2) ∧
      (codeJob.rtags.find? (fun x => decide (x.1 = p.1))).isSome = true) ∧
    ((entriesOf (codeJob.field 1) (codeJob.desc 1)).map Prod.fst).Nodup ∧
    blockKey ((converting bs).stream (fStream (codeJob.field 2))) (codeJob.desc 2) 0
      ((converting bs).stream (fStream (codeJob.field 2))).wtag = some 0x40000 := by
  have h1 : convWaits (converting []) codeJob [] = false := by decide
  have h2 : inPlace (converting []) codeJob 2 2 0 0 = false := by decide
  have h3 : (openOf ((converting []).unit 0x011) 5).head? = some codeJob := rfl
  have h4 : blockKey ((converting []).stream (fStream (codeJob.field 2))) (codeJob.desc 2) 0
      ((converting []).stream (fStream (codeJob.field 2))).wtag = some 0x40000 := by decide
  have h5 : ((converting []).stream (fStream (codeJob.field 1))).pspace ≠ 0 := by decide
  exact ⟨⟨rfl, rfl, rfl, h3⟩, by decide, by decide, rfl, rfl, rfl, by decide, by decide, h1, rfl, rfl, rfl, rfl, rfl, rfl, by decide, h2, h5,
    by decide, by decide, h4⟩

theorem fetch_converting (bs : List Byte) (h : bs.length = 528) :
    fetchBlock (converting bs) ((converting bs).stream 1) (codeJob.desc 1) 0 0 [] = bs := by
  have hk : blockKey ((converting bs).stream 1) (codeJob.desc 1) 0 0 = some 0x20000 :=
    show blockKey ((converting []).stream 1) (codeJob.desc 1) 0 0 = some 0x20000 by decide
  have hb : 16 + bodyBytes (codeJob.desc 1) 0 = bs.length := by rw [h]; rfl
  rw [fetchBlock, hk]
  simp only [hb]
  exact readBytes_writeBytes_self _ _ _

/-- What the position gives on a well-formed block: its poison flag decides. -/
theorem witness_ConvertWritesItsDestinationBlockStatus (p : Bool) :
    (readPosition (converting (codeBlock p)) codeJob 1 []).status = if p then some .poisonIn else none := by
  have h := fetch_converting (codeBlock p) (by rw [codeBlock, length_blockBytes, List.length_replicate])
  have h' : parseBlock 0 (codeBlock p) = _ := parseBlock_blockBytes 0 0 p false 0 0 1 0 128 _ (by decide) (by decide)
  have hd : dSfmt (codeJob.desc 1) = 0 ∧ dOcap (codeJob.desc 1) = 0 ∧ fStream (codeJob.field 1) = 1 ∧
    ((converting (codeBlock p)).stream 1).rtag = 0 ∧
    ((converting (codeBlock p)).stream 1).kind.toNat = 0 := ⟨rfl, rfl, rfl, rfl, rfl⟩
  unfold readPosition
  simp only [hd.1, hd.2.1, hd.2.2.1, hd.2.2.2.1, hd.2.2.2.2, h, h', if_true]
  cases p <;> rfl


/-- A TABLE BUILD from bfloat16 activations in stream 1 to 4-bit weights; the formats are entries 0 and 1 of context 1. -/
def tableJob : Issued := job [headSlot 0x03 0 1 0 128 0 (wordOf 128 1), slotOf (useOf 1) 0] [0x03, 0, 0, 0]

def tableBlock (poison : Bool) (body : List Byte) : List Byte := blockBytes 0 0 poison false 0 0 1 0 128 body

def tableUnit : UnitSt := { up with issued := [tableJob], ftab := [(64, 0x03), (65, 0x00100508)] }

def fed (bs : List Byte) : State := withMem 0x20000 bs (streams 1 (withUnit 0x001 tableUnit (withCtx ready)))

theorem fetch_fed (bs : List Byte) (h : bs.length = 8208) :
    fetchBlock (fed bs) ((fed bs).stream 1) (tableJob.desc 1) 0 0 [] = bs := by
  have hk : blockKey ((fed bs).stream 1) (tableJob.desc 1) 0 0 = some 0x20000 :=
    show blockKey ((fed []).stream 1) (tableJob.desc 1) 0 0 = some 0x20000 by decide
  have hb : 16 + bodyBytes (tableJob.desc 1) 0 = bs.length := by rw [h]; decide
  rw [fetchBlock, hk]
  simp only [hb]
  exact readBytes_writeBytes_self _ _ _

theorem build_status (x : PosRead) (st : Option Status) (hc : x.d.count = 128) (ho : x.o = none) (hs : x.status = st)
    (h : st = none ∨ st = some .poisonIn) :
    buildStatus tableUnit (tableJob.desc 1) (liveFormats tableUnit tableJob) x = st := by
  unfold buildStatus
  rw [hs, hc, ho]
  rcases h with rfl | rfl
  · decide
  · rfl

theorem read_fed (p : Bool) (body : List Byte) (hb : body.length = 8192) :
    let r := readPosition (fed (tableBlock p body)) tableJob 1 []
    r.d.count = 128 ∧ r.o = none ∧ r.status = if p then some .poisonIn else none := by
  have h := fetch_fed (tableBlock p body) (by rw [tableBlock, length_blockBytes, hb])
  have h' : parseBlock 0 (tableBlock p body) = _ := parseBlock_blockBytes 0 0 p false 0 0 1 0 128 _ (by decide) (by decide)
  have hd (bs : List Byte) : dSfmt (tableJob.desc 1) = 0 ∧ dOcap (tableJob.desc 1) = 0 ∧ fStream (tableJob.field 1) = 1 ∧
    ((fed bs).stream 1).rtag = 0 ∧ ((fed bs).stream 1).kind.toNat = 0 := ⟨rfl, rfl, rfl, rfl, rfl⟩
  unfold readPosition
  obtain ⟨h1, h2, h3, h4, h5⟩ := hd (tableBlock p body)
  simp only [h1, h2, h3, h4, h5, h, h', if_true]
  clear h h' h4 h5 hd
  generalize tableBlock p body = bs
  cases p <;> exact ⟨trivial, trivial, rfl⟩

/-- The checks of its one position pass unless the block is poisoned, whatever its codes. -/
theorem witness_TableBuildFeedsItsArrayStatus (p : Bool) (body : List Byte) (hb : body.length = 8192) :
    (fed (tableBlock p body)).unit 0x001 = tableUnit ∧
    buildStatus tableUnit (tableJob.desc 1) (liveFormats tableUnit tableJob)
      (readPosition (fed (tableBlock p body)) tableJob 1 []) = if p then some .poisonIn else none := by
  obtain ⟨hc, ho, hs⟩ := read_fed p body hb
  exact ⟨rfl, build_status _ _ hc ho hs (by cases p <;> simp)⟩

/-- A layout of one-bit codes, and the NaN of a group whose codes read as none. -/
theorem witness_TableBuildFeedsItsArrayLayout :
    (List.replicate 4096 (List.replicate 2 (0 : BitVec 32))).length = 4096 ∧
    (∀ x ∈ List.replicate 4096 (List.replicate 2 (0 : BitVec 32)), x.length = 2 ^ 1) ∧
    (XVal.nan false).isNan = true := by
  refine ⟨List.length_replicate, fun x h => ?_, rfl⟩
  rw [List.eq_of_mem_replicate h]; rfl

/-! ### Stream engines -/

/-- An instruction that has no tile stream: opcode, form, flags of the head, N, M, body, F1, F2, F4. -/
def plainJob (op form flags n m : Nat) (body : BitVec 128) (f1 f2 f4 : BitVec 128) : Issued :=
  job [headSlot op form 2 flags n m body, slotOf f1 f2, slotOf 0 f4] [0, 0, 0, 0]

def at1000 : BitVec 128 := plainOf 0x1000 1 0 1
def at1100 : BitVec 128 := plainOf 0x1100 1 0 1
def at1200 : BitVec 128 := plainOf 0x1200 1 0 1

/-- One instruction of each class and form of a stream engine, on plain operands where the class has them. -/
def seForms : List Issued :=
  [plainJob 0x06 0 0 2 0 0 at1000 0 at1200, plainJob 0x07 0 0 2 0 0 at1000 0 at1200,
   plainJob 0x08 0 0 2 0 (wordOf 128 (2 ^ 16)) at1000 at1100 at1200,
   plainJob 0x09 0 0 2 0 0 at1000 at1100 at1200, plainJob 0x09 1 0 2 0 0 at1000 0 at1200,
   plainJob 0x09 2 0 2 0 0 at1000 0 at1200, plainJob 0x09 3 0 2 0 (wordOf 128 (2 ^ 32)) at1000 0 at1200,
   plainJob 0x09 4 0 2 0 (wordOf 128 (2 ^ 32 + 2 ^ 36)) at1000 0 at1200,
   plainJob 0x0C 0 (2 ^ 80) 2 0 0 0 0 at1200, plainJob 0x0C 1 (2 ^ 80) 2 0 (wordOf 128 (2 ^ 88)) 0 0 at1200]

def seOps : List Op :=
  [.element, .reduce, .permute, .shufInterleave, .shufEven, .shufOdd, .shufReverse, .shufRotate, .randomBits, .randomBernoulli]

theorem witness_StreamEnginesMakeProgress :
    seForms.map Issued.op = seOps ∧
    (seForms.all (fun i => layoutOk .se i.slots && decide (i.space = 0) && !isMove i && !i.tiled && !i.seDone && !i.reduceDone
      && decide ((fBase (i.field 4)).toNat + i.elements ≤ 2 ^ 32) && decide (i.op = .reduce → ¬ 5 ≤ bRop i.body))) = true := by
  and_intros <;> first | exact rfl | decide

theorem witness_StreamEnginesWork (i : Issued) (h : i.queue = 5 ∧ i.finished = none ∧ i.ended = none ∧ i.paused = false) :
    Works (busy 0x051 i) 0x051 5 i := by
  refine ⟨rfl, rfl, rfl, ?_⟩
  show ([i].filter _).head? = some i
  simp [h]

/-- PACK and the forms of UNPACK, between stream 1 and plain codes. -/
def packForms : List Issued :=
  [job [headSlot 0x0A 0 2 0 128 0 0, slotOf at1000 0, slotOf 0 (useOf 2)] [0, 0, 0, 3],
   job [headSlot 0x0B 0 2 0 128 0 0, slotOf (useOf 1) 0, slotOf 0 at1200] [3, 0, 0, 0],
   job [headSlot 0x0B 1 2 0 128 0 0, slotOf (useOf 1) 0, slotOf 0 at1200] [3, 0, 0, 0],
   job [headSlot 0x0B 2 2 0 128 0 0, slotOf (useOf 1) 0, slotOf 0 at1200] [3, 0, 0, 0]]

theorem witness_StreamEnginesMakeProgressOnTiles :
    packForms.map Issued.op = [.pack, .unpackCodes, .unpackScales, .unpackZpoints] ∧
    (packForms.all (fun i => layoutOk .se i.slots && decide (i.space = 0) && i.tiled && decide (i.len ≠ 0) && !i.seDone
      && !seWaits (streams 1 (busy 0x051 i)) i 0)) = true ∧
    { elementJob with pos := 4 }.seDone = true ∧ Works (busy 0x051 { elementJob with pos := 4 }) 0x051 5 { elementJob with pos := 4 } := by
  and_intros <;> first | exact rfl | exact ⟨rfl, rfl, rfl, rfl⟩ | decide

/-- SHUFFLE of two plain elements, in a form. -/
def shufJob (form : Nat) : Issued := plainJob 0x09 form 0 2 0 (wordOf 128 (2 ^ 32)) at1000 0 at1200

theorem witness_ShuffleAndPermuteMoveElements :
    (Works (busy 0x051 (shufJob 3)) 0x051 5 (shufJob 3) ∧ isPlain ((shufJob 3).field 4) = true ∧ (shufJob 3).field 5 = 0 ∧
      (shufJob 3).outs = [] ∧ (shufJob 3).pos = 0 ∧
      0 < (shufJob 3).elements ∧ (shufJob 3).elements ≤ 256 ∧ (shufJob 3).space = 0 ∧ (shufJob 3).tiled = false ∧
      (shufJob 3).op = .shufReverse ∧ copiesBits (shufJob 3).op (shufJob 3).slots (shufJob 3).descs = true ∧
      ∀ g ∈ (shufJob 3).laneGroups 0 (shufJob 3).elements, groupDenied (busy 0x051 (shufJob 3)) (shufJob 3) g.1 = false) ∧
    (∀ k < 2, ∀ k' < 2, k ≠ k' →
      addrKey (plainAddr ((shufJob 3).field 4) 32 0 k) + 4 ≤ addrKey (plainAddr ((shufJob 3).field 4) 32 0 k') ∨
      addrKey (plainAddr ((shufJob 3).field 4) 32 0 k') + 4 ≤ addrKey (plainAddr ((shufJob 3).field 4) 32 0 k)) ∧
    (∀ k < 2, ∀ k' < 2, addrKey (plainAddr ((shufJob 3).field 1) 32 0 (k' ^^^ 1)) + 4
      ≤ addrKey (plainAddr ((shufJob 3).field 4) 32 0 k)) ∧
    ((plainJob 0x08 0 0 2 0 0 at1000 at1100 at1200).op = .permute ∧
      (plainJob 0x08 0 0 2 0 0 at1000 at1100 at1200).field 5 = 0) := by
  and_intros <;> first | exact rfl | exact ⟨rfl, rfl, rfl, rfl⟩ | decide

/-- An ELEMENT of one binary32 element whose program reads A. -/
def programJob4 : Issued := { plainJob 0x06 0 0 1 0 0x100 at1000 0 at1200 with prog := 1 ||| (wordOf 1024 0x1001) <<< 256 }

theorem witness_ShuffleAndPermuteMoveElementsOfAnElement :
    (Works (busy 0x051 elementJob) 0x051 5 elementJob ∧ elementJob.op = .element ∧ isPlain (elementJob.field 4) = true ∧
      elementJob.field 5 = 0 ∧ elementJob.pos = 0 ∧ elementJob.elements = 4 ∧ elementJob.space = 0 ∧ elementJob.tiled = false ∧
      elementJob.outs = [] ∧ bPv elementJob.body = false ∧ isPlain (elementJob.field 1) = true ∧
      ∀ g ∈ elementJob.laneGroups 0 elementJob.elements, groupDenied (busy 0x051 elementJob) elementJob g.1 = false) ∧
    (∀ k < 4, ∀ k' < 4, (k ≠ k' →
      addrKey (plainAddr (elementJob.field 4) 32 0 k) + 4 ≤ addrKey (plainAddr (elementJob.field 4) 32 0 k') ∨
      addrKey (plainAddr (elementJob.field 4) 32 0 k') + 4 ≤ addrKey (plainAddr (elementJob.field 4) 32 0 k)) ∧
      addrKey (plainAddr (elementJob.field 1) 32 0 k') + 4 ≤ addrKey (plainAddr (elementJob.field 4) 32 0 k)) ∧
    (bPv programJob4.body = true ∧ programReads programJob4.prog 1 = true ∧ programReads programJob4.prog 2 = false ∧
      programReads programJob4.prog 3 = false ∧ isPlain (programJob4.field 1) = true ∧ programJob4.elements = 1 ∧
      Works (busy 0x051 programJob4) 0x051 5 programJob4 ∧ programJob4.op = .element ∧
      (∀ g ∈ programJob4.laneGroups 0 1, groupDenied (busy 0x051 programJob4) programJob4 g.1 = false) ∧
      addrKey (plainAddr (programJob4.field 1) 32 0 0) + 4 ≤ addrKey (plainAddr (programJob4.field 4) 32 0 0)) := by
  and_intros <;> first | decide +kernel | exact rfl | exact ⟨rfl, rfl, rfl, rfl⟩

def bitsJob : Issued := plainJob 0x0C 0 (2 ^ 80) 2 0 0 0 0 at1200
def bernoulliJob : Issued := plainJob 0x0C 1 (2 ^ 80) 2 0 (wordOf 128 (2 ^ 88)) 0 0 at1200

theorem witness_RandomWritesItsKeyedWords :
    (Works (busy 0x051 bitsJob) 0x051 5 bitsJob ∧ bitsJob.op = .randomBits ∧ isPlain (bitsJob.field 4) = true ∧
      bitsJob.field 5 = 0 ∧ [1, 2, 3].all (fun n => bitsJob.field n == 0) = true ∧ 0 < bitsJob.elements ∧
      bitsJob.elements ≤ 256 ∧ hGen bitsJob.head = 1 ∧ plainBits (fFmt (bitsJob.field 4)) = 32 ∧
      (∀ g ∈ bitsJob.laneGroups 0 bitsJob.elements, groupDenied (busy 0x051 bitsJob) bitsJob g.1 = false) ∧
      ∀ k < 2, ∀ k' < 2, k ≠ k' →
        addrKey (plainAddr (bitsJob.field 4) 32 0 k) + 4 ≤ addrKey (plainAddr (bitsJob.field 4) 32 0 k') ∨
        addrKey (plainAddr (bitsJob.field 4) 32 0 k') + 4 ≤ addrKey (plainAddr (bitsJob.field 4) 32 0 k)) ∧
    (bernoulliJob.op = .randomBernoulli ∧ bProb bernoulliJob.body = 2 ^ 24 ∧ hGen bernoulliJob.head = 1 ∧
      spanIn (gSpad ((busy 0x051 bernoulliJob).grant bernoulliJob.ctx)) (fBase (bernoulliJob.field 4)).toNat
        (ceilDiv bernoulliJob.elements 8) = true) := by
  and_intros <;> first | exact rfl | exact ⟨rfl, rfl, rfl, rfl⟩ | decide

/-! ### STATS, SAMPLE, SUMMARY, SCALE -/

def statsJob (pos : Nat) : Issued := { job [headSlot 0x04 0 1 0 128 0 0, slotOf at1000 0] [1, 0, 0, 0] with pos := pos }
def sampleJob (dest : Nat) : Issued := job [headSlot 0x0D 0 2 0 1 0 0, slotOf at1000 0, slotOf 0 (plainOf dest 1 1 0)] [0, 0, 0, 0]
def summaryJob (item : Nat) : Issued := job [headSlot 0x12 0 0 (2 ^ 47) 0 0 (wordOf 128 (2 ^ 16 * item + 16383))] []

/-- The unit that holds the entry of an instruction of tracker 0 is fenced. -/
def fencedHolder (i : Issued) : State :=
  withUnit (executor i) { up with health := { fenced := true } } (busy 0x071 i)

theorem witness_StatsSampleAndSummaryReport :
    (Works (busy 0x011 (statsJob 0)) 0x011 5 (statsJob 0) ∧ (statsJob 0).op = .stats ∧ kindOf 0x011 ≠ some .sl ∧
      isPlain ((statsJob 0).field 1) = true ∧ (statsJob 0).pos < (statsJob 0).statsTotal ∧
      (statsJob 1).statsTotal ≤ (statsJob 1).pos) ∧
    (kindOf 0x075 = some .sp ∧ Works (busy 0x075 (sampleJob 0x1100)) 0x075 5 (sampleJob 0x1100) ∧
      (sampleJob 0x1100).op = .sample ∧ (sampleJob 0x1100).pos < (sampleJob 0x1100).height ∧
      addrIn (gSpad ((busy 0x075 (sampleJob 0x1100)).grant 1)) (recordAddr (sampleJob 0x1100) 0) 16 = true ∧
      logitsIn (busy 0x075 (sampleJob 0x1100)) (sampleJob 0x1100) 0 = true ∧
      addrIn (gSpad ((busy 0x075 (sampleJob 0)).grant 1)) (recordAddr (sampleJob 0) 0) 16 = false) ∧
    (Works (busy 0x071 (summaryJob 3)) 0x071 5 (summaryJob 3) ∧ (summaryJob 3).op = .summary ∧
      sumItem (summaryJob 3).body = 3 ∧ sumItem (summaryJob 4).body = 4 ∧
      ((busy 0x071 (summaryJob 3)).unit (executor (summaryJob 3))).health.fenced = false) ∧
    (Works (fencedHolder (summaryJob 3)) 0x071 5 (summaryJob 3) ∧
      ((fencedHolder (summaryJob 3)).unit (executor (summaryJob 3))).health.fenced = true) ∧
    (kindOf 0x089 = some .sl ∧ Works (busy 0x089 (statsJob 0)) 0x089 5 (statsJob 0) ∧
      scalesDue (busy 0x089 (statsJob 0)) (statsJob 0) = [] ∧
      positionGranted (busy 0x089 (statsJob 0)) 0x089 (statsJob 0) = true) := by
  and_intros <;> first | exact rfl | exact ⟨rfl, rfl, rfl, rfl⟩ | decide

def scaleJob (form body : Nat) : Issued := job [headSlot 0x05 form 0 (2 ^ 46 + 2 ^ 47) 0 0 (wordOf 128 body)] []

/-- SCALE PIN of a tracked entry. -/
def scaleJob3 (trk : Nat) : Issued := job [headSlot 0x05 2 0 (2 ^ 32 * trk + 2 ^ 46 + 2 ^ 47) 0 0 0] []

/-- Tracked entry 0 with a current maximum, and a history. -/
def tracking (amax past : BitVec 16) (s : State) : State :=
  s.setTracked 0 { cur := { amax := amax }, ring := tset 0 [] 31 past, fill := 1 }

/-- A staged value of tracked entry 0 that waits for converters 0 and 1. -/
def adopting (got : BitVec 64) : State :=
  withUnit 0x012 up (withUnit 0x011 up
    (ready.setTracked 0 { staged := some { value := 0x3F80, base := 0, count := 1, need := 3, got := got, complete := none } }))

theorem witness_ScaleProposesAdoptsAndPins :
    (Works (tracking 0x3F80 0 (busy 0x071 (scaleJob 0 (2 + 2 ^ 16)))) 0x071 5 (scaleJob 0 (2 + 2 ^ 16)) ∧
      (scaleJob 0 (2 + 2 ^ 16)).op = .scalePropose ∧ (bitsAt (scaleJob 0 (2 + 2 ^ 16)).body 0 2).toNat = 2) ∧
    ((bitsAt (scaleJob 0 1).body 0 2).toNat = 1 ∧ hTrk (scaleJob 0 1).head = 0 ∧
      ((tracking 0x3F80 0 ready).tracked 0).cur.amax ≠ 0 ∧ ((tracking 0x3F80 0 ready).tracked 0).cfg.pinp = false ∧ ((tracking 0x3F80 0 ready).tracked 0).historyMax = 0 ∧
      ((tracking 0 0x3F80 ready).tracked 0).historyMax ≠ 0 ∧ ((tracking 0 0x3F80 ready).tracked 0).cur.amax = 0) ∧
    ((scaleJob 1 0).op = .scaleAdopt ∧ (scaleJob 2 4).op = .scalePin ∧ executor (scaleJob 0 1) = 0x071 ∧
      ((busy 0x071 (scaleJob 0 1)).unit 0x071).health.fenced = false ∧
      executor (scaleJob3 4096) = 0x072 ∧ Works (fencedHolder (scaleJob3 4096)) 0x071 5 (scaleJob3 4096) ∧
      ((fencedHolder (scaleJob3 4096)).unit (executor (scaleJob3 4096))).health.fenced = true) ∧
    (Running (adopting 2) ∧ ((adopting 2).tracked 0).staged.isSome = true ∧ bitAt (3 : BitVec 64) 0 = true ∧
      (adopting 2).serving 0x011 = true ∧ (∀ c < 64, bitAt (3 : BitVec 64) c = true → bitAt ((2 : BitVec 64) ||| 1) c = true)) ∧
    ((adopting 0).serving 0x012 = true ∧ bitAt ((0 : BitVec 64) ||| 1) 1 = false) := by
  and_intros <;> first | exact rfl | exact ⟨rfl, rfl, rfl, rfl⟩ | decide

/-! ### Relays and slices -/

/-- A RELAY form on group 255 of relay 0x079: SEND 0, RECEIVE 1, COLLECTIVE 2 of a CKIND. -/
def relayJob (form ckind : Nat) (t : Transfer) : Issued :=
  { job [headSlot 0x0E form 2 0 128 0 (wordOf 128 (255 + 2 ^ 64 * ckind)), slotOf (if form = 1 then 0 else useOf 1) 0,
      slotOf 0 (if form = 0 then 0 else useOf 2)] [1, 0, 0, 1] with transfer := t }

def relayGroup : Group := { ctx := 1, nmem := 2, rank := 0, st := .opened, gkey := 7, ver := 1, peers := [(0, 1), (1, 2)] }

/-- Relay 0x079 at work in its group 255; the source stream holds one block. -/
def relaying (i : Issued) : State :=
  streams 1 (withUnit 0x079 { up with issued := [i], relay := { groups := [(255, relayGroup)] } } (withCtx ready))

theorem witness_RelayInstructionsMoveTiles :
    ((relayJob 2 2 {}).op.isRelay = true ∧ (relayJob 2 2 {}).stopAs = none ∧ rlCkind (relayJob 2 2 {}).body = 2 ∧ (bResid (relayJob 2 2 {}).body).1 = false ∧
      rlGroup (relayJob 2 2 {}).body = 255) ∧
    (Works (relaying (relayJob 0 0 {})) 0x079 5 (relayJob 0 0 {}) ∧
      reduceOver (relayJob 0 0 {}) 2 0 = false ∧ reduceRole (relayJob 0 0 {}) 2 0 0 = .start ∧
      shareReady (relaying (relayJob 0 0 {})) (relayJob 0 0 {}) = true ∧
      sendReady ((relaying (relayJob 0 0 {})).group 0x079 255) = true) ∧
    (Works (relaying (relayJob 2 2 {})) 0x079 5 (relayJob 2 2 {}) ∧ gatherOver (relayJob 2 2 {}) 2 0 = false ∧
      gatherRole (relayJob 2 2 {}) 2 0 0 = .own ∧ destReady (relaying (relayJob 2 2 {})) (relayJob 2 2 {}) = true ∧
      ownSource (relayJob 2 2 {}) = true ∧ shareReady (relaying (relayJob 2 2 {})) (relayJob 2 2 {}) = true ∧
      reduceOver (relayJob 2 2 {}) 2 0 = true) ∧
    (gatherOver (relayJob 2 0 { nextReduce := 1 }) 2 0 = false ∧ gatherRole (relayJob 2 0 { nextReduce := 1 }) 2 0 0 = .own ∧
      ownSource (relayJob 2 0 { nextReduce := 1 }) = false ∧ reduceOver (relayJob 2 0 { nextReduce := 1 }) 2 0 = true) ∧
    (relayDone relayGroup (relayJob 0 0 { nextReduce := 1 }) = true ∧ relayDone relayGroup (relayJob 1 0 { nextReduce := 1 }) = true ∧
      relayDone relayGroup (relayJob 2 2 { nextGather := 1 }) = true) := by
  and_intros <;> first | exact rfl | exact ⟨rfl, rfl, rfl, rfl⟩ | decide

/-- SLICE PROGRAM of two plain elements; SLICE CONVERT of one tile; SLICE WINDOW on window 63. -/
def sliceProgramJob (pos : Nat) : Issued := { plainJob 0x0F 0 0 2 0 0 at1000 0 at1200 with pos := pos }
def sliceConvertJob : Issued :=
  job [headSlot 0x0F 1 2 0 128 0 0, slotOf (useOf 1) 0, slotOf 0 (useOf 2)] [1, 0, 0, 1]

/-- The same from a source with one scale a group, whose scales lie in the scratchpad (stream 3). -/
def scaledJob : Issued :=
  { job [headSlot 0x0F 1 2 0 128 0 0, slotOf (wordOf 128 (1 + 2 ^ 32 * 3 + 2 ^ 126)) 0, slotOf 0 (useOf 2)] [0x00100504, 0, 0, 1] with
    space := 0x089 - 0x088 }

def scaled (b : Nat) (i : Issued) : State :=
  (streams 1 (busy b i)).setStream 3
    { st := .opened, ctx := 1, wtag := 1, pbase := 0x30000, pspace := 1, nblk := 1, kind := 1 }

def windowJob (close : Nat) : Issued := job [headSlot 0x0F 3 0 0 0 0 (wordOf 128 (2 ^ 32 * 63 + 2 ^ 38 * close))] []

/-- SLICE PROGRAM on plane group 0 with two elements: no program, temporary 0 to plane 0 at byte 0 of the stack, binary32. -/
def planeJob : Issued := plainJob 0x0F 0 0 2 0 0 (plainOf 0 0 0 0) 0 0

def planeUnit : UnitSt :=
  { up with
    issued := [planeJob]
    slice := { groups := [(0, put 2048 64 128 (2 ^ 37 + 2 ^ 50))], grants := [(1, 2 ^ 15)] } }

theorem witness_SlicesMakeProgressOnPlanes :
    let s := withUnit 0x089 planeUnit (withCtx ready)
    let g := planeGroup s 0x089 (planeJob.field 1)
    (Works s 0x089 5 planeJob ∧ planeJob.op = .sliceProgram ∧ layoutOk .sl planeJob.slots = true ∧ planeJob.planes = true ∧
      planeJob.tiled = false ∧ planeJob.pos = 0 ∧ planeJob.elements = 2 ∧ planeJob.outs = [] ∧ isStream (planeJob.field 4) = false ∧
      scalesDue s planeJob = []) ∧
    (planesWritten g = [0] ∧ planesIn s 0x089 planeJob g (128 * (fSk (planeJob.field 1)).toNat) 2 = true ∧
      dSfmt (planeDesc (gPlane g 0)) = 0 ∧ dGroup (planeDesc (gPlane g 0)) = 0) := by
  and_intros <;> first | decide +kernel | exact rfl | exact ⟨rfl, rfl, rfl, rfl⟩

/-- Window 63 open with a tracked entry. -/
def windowed63 : State :=
  (busy 0x089 (windowJob 1)).setWindow 0x089 63 { regs := putBits (putBits 0 30 (1 : BitVec 2)) 79 (1 : BitVec 1) }

theorem witness_SlicesMakeProgress :
    (wState (windowed63.window 0x089 63).regs = 1 ∧ wTen (windowed63.window 0x089 63).regs = true ∧ isFar 0x089 = true ∧
      Works windowed63 0x089 5 (windowJob 1)) ∧
    (Works (busy 0x089 (sliceProgramJob 0)) 0x089 5 (sliceProgramJob 0) ∧ (sliceProgramJob 0).op = .sliceProgram ∧
      layoutOk .sl (sliceProgramJob 0).slots = true ∧ isMove (sliceProgramJob 0) = false ∧ (sliceProgramJob 0).tiled = false ∧
      (sliceProgramJob 0).sliceDone = false ∧ (sliceProgramJob 2).sliceDone = true) ∧
    (Works (streams 1 (busy 0x089 sliceConvertJob)) 0x089 5 sliceConvertJob ∧ sliceConvertJob.op = .sliceConvert ∧
      layoutOk .sl sliceConvertJob.slots = true ∧ isMove sliceConvertJob = false ∧ sliceConvertJob.planes = false ∧
      sliceConvertJob.tiled = true ∧ sliceConvertJob.sliceDone = false ∧
      sliceConvertJob.outs = [] ∧ sliceConvertJob.stopAs = none ∧
      sliceWaits (streams 1 (busy 0x089 sliceConvertJob)) sliceConvertJob = false ∧
      scalesDue (streams 1 (busy 0x089 sliceConvertJob)) sliceConvertJob = []) ∧
    (Works (scaled 0x089 scaledJob) 0x089 5 scaledJob ∧ scaledJob.sliceDone = false ∧ scaledJob.outs = [] ∧
      sliceWaits (scaled 0x089 scaledJob) scaledJob = false ∧ scalesDue (scaled 0x089 scaledJob) scaledJob ≠ []) ∧
    (Works (busy 0x089 (windowJob 0)) 0x089 5 (windowJob 0) ∧ (windowJob 0).op = .sliceWindow ∧ bWin (windowJob 0).body = 63 ∧
      regionFree (busy 0x089 (windowJob 0)) 0x089 63 (windowJob 0).win.region = true ∧
      wState ((busy 0x089 (windowJob 0)).window 0x089 63).regs = 0 ∧
      wState (((busy 0x089 (windowJob 1)).setWindow 0x089 63 { regs := putBits 0 30 (1 : BitVec 2) }).window 0x089 63).regs = 1 ∧
      layoutOk .sl (windowJob 1).slots = true ∧ bWinClose (windowJob 0).body = false ∧ bWinClose (windowJob 1).body = true ∧
      wTen (((busy 0x089 (windowJob 1)).window 0x089 63).regs) = false) := by
  and_intros <;> first | exact rfl | exact ⟨rfl, rfl, rfl, rfl⟩ | decide

/-! ### Trackers -/

/-- Tracked entry n enabled; its tracker answers. -/
def trackedOn (n : Nat) : State := (withUnit (0x071 + n / 4096) up ready).setTracked n { cfg := { en := true }, prev := { amax := 0x3F80 } }

/-- A report of entry 4096 with a lap stamp, arriving in a settle window of lap 0, parity false. -/
def reporting (lap8 : BitVec 8) (par : Bool) : State :=
  let s := trackedOn 4096
  { s with trackers := { s.trackers with
      reports := [{ entry := 4096, data := { amax := 0x4000 }, lap8 := lap8, par := par }]
      settle := .settling 0 false, prevLap8 := 255, prevPar := true } }

/-- A partial of watch 1023 with a lap stamp. -/
def watching (close : Bool) (lap8 : BitVec 8) (par : Bool) (w : Watch) : State :=
  let s := (withUnit 0x071 up ready).setWatch 1023 w
  { s with trackers := { s.trackers with
      partials := [{ watch := 1023, sum := 2 ^ 160, nonfin := false, satur := false, close := close, lap8 := lap8, par := par }]
      settle := .settling 0 false, prevLap8 := 255, prevPar := true } }

def scanning (rerun : Bool) : State :=
  let s := trackedOn 4096
  { s with trackers := { s.trackers with settle := .scanning 0 rerun } }

theorem no_watch_scanning (rerun : Bool) (w : Nat) : ((scanning rerun).watch w).stb = false := rfl

theorem witness_TrackersMergeReportsAndClose :
    (Running (reporting 0 false) ∧ (reporting 0 false).trackers.reports.length = 1 ∧
      ((reporting 0 false).unit (0x071 + 4096 / 4096)).health.fenced = false ∧ ((reporting 0 false).tracked 4096).cfg.en = true ∧
      (0 : BitVec 8) = bitsAt (reporting 0 false).pace.lap 0 8 ∧ false = (reporting 0 false).pace.parity) ∧
    ((255 : BitVec 8) = (reporting 255 true).trackers.prevLap8 ∧ true = (reporting 255 true).trackers.prevPar ∧
      (255 : BitVec 8) ≠ bitsAt (reporting 255 true).pace.lap 0 8 ∧ (reporting 255 true).trackers.settle = .settling 0 false ∧
      (7 : BitVec 8) ≠ bitsAt (reporting 7 true).pace.lap 0 8 ∧ (7 : BitVec 8) ≠ (reporting 7 true).trackers.prevLap8) ∧
    (Running (watching true 0 false { en := true }) ∧ (watching true 0 false { en := true }).trackers.partials.length = 1 ∧
      ((watching true 0 false { en := true }).unit (0x071 + 1023 / 1024)).health.fenced = false ∧
      ((watching true 0 false { en := true }).watch 1023).en = true ∧
      ((watching true 0 false { en := true }).watch 1023).cur.closed = false ∧
      ((watching true 255 true { en := true }).watch 1023).prev.closed = false) ∧
    (Running (scanning false) ∧ (scanning false).trackers.settle = .scanning 0 false ∧
      ((scanning false).trackers.tracked.map Prod.fst).Nodup ∧ ((scanning false).tracked 4096).cfg.en = true ∧
      ((scanning false).unit (0x071 + 4096 / 4096)).health.fenced = false ∧ (scanning true).trackers.settle = .scanning 0 true) := by
  and_intros <;> first | exact rfl | decide

theorem witness_AWatchFindsAStumble :
    Running (watching true 0 false { en := true, stb := true }) ∧
    (watching true 0 false { en := true, stb := true }).trackers.partials =
      [{ watch := 1023, sum := 2 ^ 160, nonfin := false, satur := false, close := true, lap8 := 0, par := false }] ∧
    (0 : BitVec 8) = bitsAt (watching true 0 false { en := true, stb := true }).pace.lap 0 8 ∧
    ((watching true 0 false { en := true, stb := true }).unit (0x071 + 1023 / 1024)).health.fenced = false ∧
    ((watching true 0 false { en := true, stb := true }).watch 1023).en = true ∧
    ((watching true 0 false { en := true, stb := true }).watch 1023).cur.closed = false := by
  and_intros <;> first | exact rfl | decide

/-- Port 0 of tracker 0x074 shows a record to the host. -/
def shown (b table index : Nat) (s : State) : State :=
  withUnit b { up with ports := [(0, { sel := wordOf 32 (table + 256 * index), holder := some .host })] } s

def releasing : State :=
  (((withUnit 0x071 { up with srel1 := [] } ready).setStream 5
    { st := .halted, paired := true, pair := 6, sided := true, side := 7 }).setStream 6 { st := .halted, kind := 1 }).setStream 7
    { st := .halted, kind := 2 }

theorem witness_TrackerAndPortWrites :
    (Serving (shown 0x074 0x11 16383 ready) ∧ portShows (shown 0x074 0x11 16383 ready) .host (0x071 + 16383 / 4096) 0x11 16383 = true ∧
      ((shown 0x074 0x11 16383 ready).tracked 16383).cfg.en = false ∧
      (scaleVal 2 (bitsAt (0x3F800000 : BitVec 32) 16 16).toNat).isSome = true ∧
      (scaleVal 2 (bitsAt (0x80000000 : BitVec 32) 16 16).toNat).isSome = false ∧
      (bitsAt (0x4000000 : BitVec 32) 0 13).toNat + (bitsAt (0x4000000 : BitVec 32) 13 14).toNat = 8192 ∧
      8192 < (bitsAt (0x4000001 : BitVec 32) 0 13).toNat + (bitsAt (0x4000001 : BitVec 32) 13 14).toNat) ∧
    (Serving (shown 0x072 0x11 4096 (trackedOn 4096)) ∧
      portShows (shown 0x072 0x11 4096 (trackedOn 4096)) .host (0x071 + 4096 / 4096) 0x11 4096 = true ∧
      ((shown 0x072 0x11 4096 (trackedOn 4096)).tracked 4096).cfg.en = true) ∧
    (portShows (shown 0x074 0x12 4095 ready) .host (0x071 + 4095 / 1024) 0x12 4095 = true ∧
      ((shown 0x074 0x12 4095 ready).watch 4095).en = false ∧
      0x3F80 < (bitsAt (0x3F810000 : BitVec 32) 16 16).toNat ∧ (bitsAt (0x7F7F0000 : BitVec 32) 16 16).toNat < 0x7F80 ∧
      ¬ 0x3F80 < (bitsAt (0x3F800000 : BitVec 32) 16 16).toNat) ∧
    (Serving (withUnit 0x071 up ready) ∧ ((withUnit 0x071 up ready).unit 0x071).held = true ∧ kindOf 0x071 = some .tk ∧
      Serving (withUnit 0x079 up ready) ∧ ((withUnit 0x079 up ready).unit 0x079).held = true ∧ kindOf 0x079 = some .rl) ∧
    (shown 0x074 0x11 16383 ready).trackers.scrubs = [] ∧ (shown 0x072 0x11 4096 (trackedOn 4096)).trackers.scrubs = [] ∧
    (Serving releasing ∧ (releasing.unit 0x071).held = true ∧ (releasing.stream 5).st = .halted ∧ (releasing.stream 5).kind = 0 ∧
      Agent.manages .host = true ∧ (releasing.stream 5).pair.toNat ≠ 5 ∧ (releasing.stream 5).side.toNat ≠ 5 ∧
      (releasing.stream 5).pair ≠ (releasing.stream 5).side) := by
  and_intros <;> first | exact rfl | exact ⟨rfl, rfl⟩ | decide

theorem witness_RegisterWritesReachTheirFields :
    (Running State.reset ∧ State.reset.mg.step ≠ .ready ∧ isApertureWrite (.grant .host) = true ∧
      accessOk 0x10 32 = true ∧ accessOk 0x10 64 = true ∧ accessOk 0x3 32 = false ∧ accessOk 0x11000000 32 = false ∧
      Serving ready ∧ Agent.manages (.ctx 5) = false ∧ Agent.manages .host = true) ∧
    ((0x20 : BitVec 32).toNat % 32 = 0 ∧ (0x21 : BitVec 32).toNat % 32 ≠ 0) ∧
    (Serving (withCtx ready) ∧ gEn ((withCtx ready).grant 1) = true ∧ bitsAt (0xFFFFFF : BitVec 64) 0 24 ≠ 0 ∧
      bitsAt (0x1000000 : BitVec 64) 0 24 = 0) := by
  and_intros <;> first | exact rfl | exact ⟨rfl, rfl⟩ | decide

/-! ### Events, the finish record, power -/

def anEvent (b : Bib) : Event :=
  { bib := b, cls := 1, code := 2, sev := 0, loss := false, ctx := 0, ctxv := false, lap := 0, par := false, rep := 0,
    arg0 := 0, arg1 := 0, arg2 := 0 }

/-- Units 0x011 and 0x089 have posted; 0x010 was served last. -/
def posting (evn : BitVec 14) : State :=
  let s := withUnit 0x011 { up with events := [anEvent 0x011] } (withUnit 0x089 { up with events := [anEvent 0x089] } ready)
  { s with log := { s.log with lastBib := 0x010, evn := evn } }

/-- Only 0x089 has posted; it was served last. -/
def postingFar : State :=
  let s := withUnit 0x089 { up with events := [anEvent 0x089] } ready
  { s with log := { s.log with lastBib := 0x089 } }

/-- Unit 0x089's record has come to MG; another waits to be sent, or one that was sent had merged meanwhile. -/
def arriving (sent : Bool) : State :=
  let s := withUnit 0x089 { up with evArrived := [anEvent 0x089], events := [anEvent 0x089], evSent := sent } ready
  { s with log := { s.log with lastBib := 0x088 } }

theorem posters (n : Nat) (h : ((posting 0).unit n).events ≠ [] ∨ ((posting 0).unit n).evArrived ≠ []) :
    n = 0x011 ∨ n = 0x089 := by
  have : ((posting 0).unit n) = tget {} [(0, up), (0x011, { up with events := [anEvent 0x011] }),
    (0x089, { up with events := [anEvent 0x089] })] n := rfl
  rw [this] at h
  simp only [tget] at h
  split at h
  · simp [up] at h
  split at h
  · left; omega
  split at h
  · right; omega
  · simp at h

theorem only_posters (m : Nat)
    (h : (nextRecord ((posting 0).unit m) m).isSome = true ∨ sendsEvent (posting 0) m = true) : m = 0x011 ∨ m = 0x089 := by
  apply posters
  rcases h with h | h
  · by_cases hf : isFar m = true
    · right; intro hn; rw [nextRecord, if_pos hf, hn] at h; simp at h
    · left; intro hn; rw [nextRecord, if_neg hf, hn] at h; simp at h
  · left; intro hn; rw [sendsEvent, hn] at h; simp at h

theorem witness_EventsAreAcceptedInRounds :
    (Running (posting 0) ∧ (posting 0).log.lastBib ≤ 0x098 ∧ ((posting 0).unit 0x011).events = [anEvent 0x011] ∧
      isFar 0x011 = false ∧ (posting 0).log.evn = 0 ∧ (posting 8192).log.evn ≠ 0 ∧
      (nextRecord ((posting 0).unit 0x011) 0x011).isSome = true ∧
      ∀ m, m ≤ 0x098 → ((nextRecord ((posting 0).unit m) m).isSome = true ∨ sendsEvent (posting 0) m = true) →
        (0x011 + 0x098 - (posting 0).log.lastBib) % 0x099 ≤ (m + 0x098 - (posting 0).log.lastBib) % 0x099) ∧
    (Running postingFar ∧ (postingFar.unit 0x089).events = [anEvent 0x089] ∧ isFar 0x089 = true ∧
      sendsEvent postingFar 0x089 = true ∧ (postingFar.unit 0x089).evArrived = [] ∧ (postingFar.unit 0x089).evSent = false) ∧
    (Running (arriving true) ∧ (nextRecord ((arriving true).unit 0x089) 0x089).isSome = true ∧
      ((arriving true).unit 0x089).evArrived = [anEvent 0x089] ∧ ((arriving true).unit 0x089).evSent = true ∧
      ((arriving false).unit 0x089).evArrived = [anEvent 0x089] ∧ ((arriving false).unit 0x089).evSent = false) ∧
    eventMsgOk (eventMsg (anEvent 0x089)) = true := by
  refine ⟨⟨rfl, by decide, rfl, rfl, rfl, by decide, rfl, ?_⟩, ?_⟩
  · intro m _ h
    rcases only_posters m h with rfl | rfl <;> decide
  · and_intros <;> first | exact rfl | decide

/-- A finish record that was scanned, at its last slot, with a BOOT record waiting. -/
def recording (pfail : Option Nat) : State :=
  { ready with finish := { ready.finish with scanned := true, head := some 8191, waiting := [(1, 0)], pfailAt := pfail } }

/-- The same with an EVENT record, n of which were committed since the last LB. -/
def recordingEvents (n : Nat) : State :=
  { recording none with finish := { (recording none).finish with waiting := [(3, 0)], inLap := n } }

theorem witness_TheLogAndTheFinishRecord :
    (Serving ready ∧ Agent.manages .host = true ∧ 8192 < (bitsAt (8193 : BitVec 32) 0 14).toNat ∧
      (bitsAt (8192 : BitVec 32) 0 14).toNat ≤ 8192 ∧ bitsAt (8192 : BitVec 32) 0 14 ≠ 0) ∧
    (Running (recording none) ∧ (recording none).finish.waiting = [(1, 0)] ∧ (recording none).finish.scanned = true ∧
      (recording none).finish.pfailAt = none ∧ (1 : BitVec 8) ≠ 3) ∧
    (Running (recordingEvents 64) ∧ (recordingEvents 64).finish.waiting = [(3, 0)] ∧ 64 ≤ (recordingEvents 64).finish.inLap ∧
      (recordingEvents 63).finish.inLap < 64) ∧
    (Running (recording (some 5)) ∧ (recording (some 5)).finish.pfailAt = some 5 ) := by
  and_intros <;> first | exact rfl | exact ⟨rfl, rfl⟩ | decide

/-- A background action of a code that has begun. -/
def backing (action : BitVec 8) (arg : BitVec 16) (s : State) : State :=
  { s with mg := { s.mg with background := [(0, action, arg)] } }

/-- Link 15 active at both ends, one lane in use. -/
def linked : State :=
  { ready with links := [(15, { mg := { st := .active, mode := 1, lmask := 0xFFFF, partnerMask := 0xFFFF },
                                sl := { st := .active, mode := 1, lmask := 0xFFFF, partnerMask := 0xFFFF } })] }

def capped (n : Nat) : State := { ready with power := { ready.power with pendingCap := some (100, 1, n) } }

theorem witness_PowerAndBackgroundWork :
    (Running ready ∧ bitsAt (wordOf 64 (2 + 2 ^ 32 * 100)) 0 8 = 2 ∧ bitsAt (wordOf 64 (2 + 2 ^ 32 * 100)) 16 16 = 0) ∧
    (ready.pace.phase = 0 ∧ ready.power.pendingCap = none ∧ (capped 1).power.pendingCap = some (100, 1, 1) ∧ (capped 2).power.pendingCap = some (100, 1, 2)) ∧
    (Running (backing 4 2 ready) ∧ (backing 4 2 ready).mg.background.find? (fun x => decide (x.2.1 = 4)) = some (0, 4, 2) ∧
      ((withUnit 0x050 up (backing 4 2 ready)).unit 0x050).held = true ∧ kindOf 0x050 = some .cv ∧ bitsAt (2 : BitVec 16) 0 4 = 2) ∧
    ((backing 4 0x10 ready).mg.background.find? (fun x => decide (x.2.1 = 4)) = some (0, 4, 0x10) ∧
      bitsAt (0x10 : BitVec 16) 0 4 = 0 ∧ (backing 4 0x10 ready).mg.scrubNext = 1 ∧
      ({ backing 4 0x10 ready with mg := { (backing 4 0x10 ready).mg with scrubNext := 5 } } : State).mg.scrubNext = 5) ∧
    (Running (backing 5 0x8000 linked) ∧
      (backing 5 0x8000 linked).mg.background.find? (fun x => decide (x.2.1 = 5)) = some (0, 5, 0x8000) ∧
      (∀ j, j < 16 → bitAt (0x8000 : BitVec 16) j = decide (j = 15)) ∧ ((backing 5 0x8000 linked).linkEnd 15 true).st = .active ∧
      ((backing 5 0x8000 linked).linkEnd 15 false).st = .active ∧ 0 < (backing 5 0x8000 linked).mg.margth.toNat ∧
      0 ∈ lanesInUse ((backing 5 0x8000 linked).linkEnd 15 true) ∧ (backing 5 0x8000 linked).mg.margth.toNat = 32) ∧
    (Running (backing 6 0 ready) ∧ (backing 6 0 ready).mg.background.find? (fun x => decide (x.2.1 = 6)) = some (0, 6, 0)) := by
  and_intros <;> first | exact rfl | decide

/-! ### Errors and the Marshal's commands -/

def hanging : State := busy 0x051 elementJob

theorem witness_ErrorsAreHandledAsTheTableSays :
    (Running (withUnit 0x011 up ready) ∧ ((withUnit 0x011 up ready).unit 0x011).held = true ∧ kindOf 0x011 = some .cv ∧
      hasArray .cv 0x10 = true ∧ hasArray .cv 0x14 = true ∧ ((withUnit 0x011 up ready).unit 0x011).health.fenced = false) ∧
    (hasArray .cv 0x01 = true ∧ arrayClass 0x01 = none ∧
      (0 : Nat) < 1 + 1800000000 ∧
      ((withUnit 0x011 { up with health := { resetAt := some 0 } } ready).unit 0x011).health.resetAt = some 0 ∧
      (withUnit 0x011 { up with health := { resetAt := some 0 } } ready).now < 0 + 1800000000 ∧
      ((withUnit 0x011 up ready).unit 0x011).health.resetAt = none) ∧
    (Running hanging ∧ (hanging.unit 0x051).held = true ∧
      (openOf (hanging.unit 0x051) 5).find? (fun j => !waiting hanging 0x051 j) = some elementJob) ∧
    (Running ready ∧ (ready.unit 0).held = true ∧ hasArray .mg 0x60 = true ∧ arrayClass 0x60 = none) := by
  and_intros <;> first | exact rfl | decide

/-- MARG of a GRANT of context 1, of an UNITRESET of 0x011, of an UPDATE at 0x40 of 256 bytes. -/
def marged (marg : BitVec 512) (s : State) : State := { s with mg := { s.mg with marg := marg } }

def granting : BitVec 512 := wordOf 512 3 ||| (wordOf 512 1 <<< 480)

def revoking : State := (withCtx ready).setContext 1 { (withCtx ready).context 1 with revoking := true }

def lastuseMsg : BitVec 128 := wordOf 128 (1 + 2 ^ 8 * 255 + 2 ^ 16 * 1)

theorem witness_MarshalCommands :
    (Serving (marged granting ready) ∧ Agent.manages .host = true ∧ (marged granting ready).mg.mbusy = false ∧
      margField (marged granting ready) 0x3C 0 10 = 1 ∧
      grantFormat (marged granting ready) (bitsAt (marged granting ready).mg.marg 0 384) = false ∧
      grantDenied (marged granting ready) .host 1 (bitsAt (marged granting ready).mg.marg 0 384) = false ∧
      queuesOfContext (marged granting ready) 1 = [] ∧
      grantFormat (marged (wordOf 512 4) ready) (bitsAt (marged (wordOf 512 4) ready).mg.marg 0 384) = true ∧
      grantDenied (marged 0 ready) .host 0 0 = true) ∧
    (margField (marged 1 ready) 0 0 10 = 1 ∧ margField (marged 0 ready) 0 0 10 = 0 ∧ (0 : BitVec 8) ∉ [1, 2, 3, 4]) ∧
    (margField (marged 0x11 (withUnit 0x011 up ready)) 0 0 12 = 0x011 ∧
      ((marged 0x11 (withUnit 0x011 up ready)).unit 0x011).held = true ∧
      (marged 0x11 (withUnit 0x011 up ready)).mg.mode ≠ .coach ∧
      ((marged 0x11 (withUnit 0x011 up ready)).unit 0x011).health.fenced = false) ∧
    (Running revoking ∧ (revoking.context 1).revoking = true ∧ ∀ q ∈ queuesOfContext revoking 1, (revoking.queue q).st = .off) ∧
    (Running (withUnit 0x011 { up with health := { resetting := true } } ready) ∧
      ((withUnit 0x011 { up with health := { resetting := true } } ready).unit 0x011).health.resetting = true ∧
      ((withUnit 0x011 { up with health := { resetting := true } } ready).unit 0x011).health.fenced = false) ∧
    (Running ready ∧ lastuseOk lastuseMsg = true ∧ (ready.lastUse 255).st = 0 ∧ bitsAt lastuseMsg 64 48 = ready.pace.lap ∧
      bitsAt lastuseMsg 32 24 = (ready.lastUse 255).tensor) := by
  and_intros <;> first | decide +kernel | exact rfl | exact ⟨rfl, rfl⟩

/-- An UPDATE at 0x40, before and after its image is in the store; queue 9 of the reserved stream engine is in a state. -/
def installing (done : Bool) (st : QState) : State :=
  ({ ready with mg := { ready.mg with update := some (0x40, 256), installed := done, begun := true } } : State).setQueue 9 { bib := 0x070, st := st }

theorem queues_installing (done : Bool) (st : QState) (q : Nat) (h : ((installing done st).queue q).bib = 0x070) :
    ((installing done st).queue q).st = st := by
  have : (installing done st).queue q = tget {} (tset {} [] 9 { bib := 0x070, st := st }) q := rfl
  rw [this] at h ⊢
  have hs : tset {} [] 9 ({ bib := 0x070, st := st } : Queue) = [(9, { bib := 0x070, st := st })] := by cases st <;> rfl
  rw [hs] at h ⊢
  by_cases hq : q = 9
  · subst hq; rfl
  · simp [tget, hq, Ne.symm hq] at h

/-- MARG of an UPDATE whose 256 bytes at 0x40 are no image; the context's queues are OFF. -/
def updating : State := marged (wordOf 512 (0x40 + 2 ^ 32 * 256)) ready

theorem witness_MarshalCommandsUpdate :
    (Serving updating ∧ updating.mg.mbusy = false ∧ margField updating 0 0 32 % 64 = 0 ∧
      margField updating 4 0 32 = 256 + imgLen (updating.readSpad 0x40 256) ∧
      verifyImage updating (updating.readSpad 0x40 256) (updating.readSpad 0x140 (imgLen (updating.readSpad 0x40 256))) ≠ 0) ∧
    (Running (installing false .run) ∧ (installing false .run).mg.installed = false ∧
      (installing false .run).mg.update = some (0x40, 256) ∧ (installing false .run).mg.begun = true ∧
      (∀ q ∈ queuesOfContext (installing false .run) 0, ((installing false .run).queue q).st = .off) ∧
      ((installing false .run).queue 9).bib = 0x070 ∧ ((installing false .run).queue 9).st ≠ .off) ∧
    ((installing true .closing).mg.installed = true ∧ (installing true .closing).mg.vres = 0 ∧
      ((installing true .closing).queue 9).st ≠ .off ∧ (installing true .closing).ownerOf 9 ≠ some 0) ∧
    (∀ q, ((installing true .off).queue q).bib = 0x070 → ((installing true .off).queue q).st = .off) := by
  refine ⟨?_, ?_, ?_, fun q => queues_installing true .off q⟩
  all_goals and_intros <;> first | decide +kernel | exact rfl | exact ⟨rfl, rfl⟩

/-! ### Columns and windows -/

/-- Window 63 of slice 15, open, with slots of 8,256 bytes that hold one tile of bfloat16. -/
def openWindow : Window := { regs := wordOf 256 (2 ^ 30 + 2 ^ 192), wdesc := 3, ndesc := 3 }

def windowed (staging : List Staged) : State :=
  withUnit 0x098 { up with slice := { windows := [(63, openWindow)], staging := staging } } ready

theorem witness_ColumnCommandsReachTheStackOrAWindow :
    (Running ready ∧ sidebandOk 0x01 = false ∧ sidebandOk 0x00 = true ∧ bitAt (0x00 : BitVec 8) 0 = false ∧
      columnAddress 0 ⟨31, 1, 1610612735⟩ = 96 * 2 ^ 30 - 1 ∧ columnAddress 0 ⟨0, 0, 1610612736⟩ = 96 * 2 ^ 30) ∧
    (sidebandOk 0xFF = true ∧ bitAt (0xFF : BitVec 8) 0 = true ∧ (bitsAt (0xFF : BitVec 8) 1 6).toNat = 63 ∧
      windowOpen ready 0x098 63 = false ∧ (windowed []).window 0x098 63 = openWindow ∧
      windowOpen (windowed []) 0x098 63 = true ∧ wNslots openWindow.regs = 1 ∧ wideSlot openWindow.wdesc = 8256 ∧
      columnAddress ((windowed []).unit 0x098).slice.addrmap ⟨16, 0, 0x3F⟩ = 8255 ∧ columnAddress 0 ⟨16, 0, 0x1F⟩ = 8223 ∧
      columnAddress 0 ⟨16, 0, 0x40⟩ = 8256 ∧
      ceilDiv (16 + bodyBytes openWindow.wdesc 0) 32 = 257 ∧ 8255 / 8256 < 1 ∧ 8255 % 8256 / 32 = 257 ∧ 8223 % 8256 / 32 = 256 ∧
      ¬ 8256 / 8256 < 1) ∧
    (((windowed []).unit 0x098).slice.staging.length < 64 ∧
      ((windowed [{ win := 63, slot := 0, units := [], fresh := List.range 257 }]).unit 0x098).slice.staging.filter
        (fun x => decide (x.win = wordOf 6 63) && decide (x.slot = 0)) =
          [{ win := 63, slot := 0, units := [], fresh := List.range 257 }] ∧
      (∀ j, 0 < j → j < 257 → j ∈ List.range 257) ∧ ∃ j, 0 < j ∧ j < 257 ∧ j ∉ [32]) := by
  refine ⟨by and_intros <;> first | exact rfl | decide, by and_intros <;> first | exact rfl | decide, by decide, rfl, ?_, 1,
    by decide⟩
  intro j _ h; exact List.mem_range.2 h

/-- R455: channel 3, pseudo-channel 1 and remaining bits 0x12345 under each IMAP. -/
theorem test_column_address :
    columnAddress 0 ⟨3, 1, 0x12345⟩ = 0x48C745 ∧ columnAddress 1 ⟨3, 1, 0x12345⟩ = 0x487345 ∧
      columnAddress 2 ⟨3, 1, 0x12345⟩ = 9 * 2 ^ 30 + 0x24745 := by decide

theorem witness_CommandsAnswerNextButAboveTheStack :
    exec (.viewRead 0 0 ⟨0, 0, 1610612736⟩) ready = .fault .stackAddress := rfl

/-! ### Slice links -/

/-- Both ends of link 15 in a state. -/
def ends (e : LinkEnd) : State := { ready with links := [(15, { mg := e, sl := e })] }

/-- The slice's training set of a step, all lanes, mode and version. -/
def setOf (step : Nat) (mode ver : BitVec 4) : BitVec 256 := setBits 2 step 0xFFFF mode ver 15

theorem witness_SliceLinksTrainAndCarryFlits :
    (Running (ends { st := .detect }) ∧ ((ends { st := .detect }).linkEnd 15 true).st = .detect ∧
      ((ends { st := .advertise }).linkEnd 15 false).st = .advertise ∧ setOk 0 = false ∧ setOk (setOf 0 0 0) = true ∧
      setOk (setOf 1 1 1) = true ∧ setStep (setOf 1 1 1) = 1 ∧ setMode (setOf 1 1 1) = 1 ∧ setVer (setOf 1 1 1) = 1 ∧
      setOk (setOf 2 1 1) = true ∧ setStep (setOf 2 1 1) = 2) ∧
    (({ st := .advertise, lmask := 0xFFFF, partnerMask := 0xFFFF, partnerRates := 7 } : LinkEnd).modes 1).head? = some 1 ∧
    (({ st := .train, mode := 9, lmask := 0xFFFF, partnerMask := 0xFFFF, partnerRates := 7 } : LinkEnd).modes 10) = [] ∧
    (({ st := .train, mode := 1, lmask := 0xFFFF, partnerMask := 0xFFFF, partnerRates := 7 } : LinkEnd).modes 2).head? = some 2 ∧
    (((ends { st := .down }).linkEnd 15 true).st = .down ∧ ((ends { st := .active }).linkEnd 15 true).st = .active ∧
      (ends {}).mg.step = .ready ∧ Agent.manages .host = true) := by
  and_intros <;> first | decide +kernel | exact rfl

set_option maxRecDepth 20000 in
theorem witness_SliceLinksTakeFlits :
    flitOk 0 = false ∧ flitOk (flitBits 1 0 false 0 []) = true ∧ fSeq (flitBits 1 0 false 0 []) = 1 ∧
    fNch (flitBits 1 0 false 0 []) = 0 ∧ fNak (flitBits 1 0 false 0 []) = false ∧ fNak (flitBits 0 0 true 0 []) = true ∧
    flitOk (flitBits 0 0 true 0 []) = true ∧ fSeq (flitBits 0 0 true 0 []) = 0 ∧
    (({ st := .active, replay := [0], seqSent := 1 } : LinkEnd).acked (fAck (flitBits 0 0 true 0 []))).replay ≠ [] ∧
    (fSeq (flitBits 0 0 false 0 []) ≠ 0 + 1 ∧ ((0 : BitVec 8) - fSeq (flitBits 0 0 false 0 [])).toNat < 128) ∧
    (fSeq (flitBits 2 0 false 0 []) ≠ 0 + 1 ∧ 128 ≤ ((0 : BitVec 8) - fSeq (flitBits 2 0 false 0 [])).toNat) ∧
    (ends { st := .active, replay := [0] }).linkEnd 15 true = { st := .active, replay := [0] } := by
  and_intros <;> first | decide +kernel | exact rfl

/-! ### Messages of the slice link -/

def zeros (n : Nat) : List Byte := List.replicate n 0

def descMsg : List Byte := linkMsg 0x10 (wordOf 32 (16383 + 2 ^ 14 * 3)) 0 0 (zeros 128)
def scaleMsg : List Byte := linkMsg 0x17 9 0 0 (zeros 16)
def batonBody : List Byte := bytesLE 16 (said 0x20 1 1 0x089 0)

/-- Stream 9 is used by no instruction and holds scale blocks of context 1 in the scratchpad. -/
def scaleStored : State := (withUnit 0x089 up ready).setStream 9 { st := .opened, kind := 1, ctx := 1, pspace := 1, pbase := 0x20000, nblk := 1 }

/-- Slice 0x089 has asked for block 0 of stream 9, 12 bytes of scales. -/
def scaleAwaited : State := withUnit 0x089 { up with slice := { scaleAsked := [((9, 0), 12)] } } ready

theorem witness_MessagesAreTakenByTheirType :
    (Running (withUnit 0x089 up ready) ∧ isFar 0x089 = true ∧ ((withUnit 0x089 up ready).unit 0x089).held = true ∧
      (bitsAt (msgWord descMsg 1) 14 2).toNat + 1 = 4 ∧ linkMsgOk descMsg 0x10 9 0xFFFFFFFF 0 0 = true ∧
      linkMsgOk [] 0x10 3 0xFFFFFFFF 0 0 = false) ∧
    (complOk (linkMsg 0x11 5 0 0 (zeros 48)) = true ∧ complOk [] = false ∧ summOk [] = false ∧ mgmtrOk [] = false ∧
      eventMsgOk [] = false ∧ mgmtrOk (linkMsg 0x1B 0 0 0 []) = true ∧
      ((queueIn .run 1).queue 5).bib = 0x011 ∧ 0 < ((queueIn .run 1).queue 5).owed ∧ ((queueIn .run 1).queue 5).st = .run ∧
      ((queueIn .run 1).queue 5).halte = false) ∧
    (summOk (linkMsg 0x12 1 0 0 (zeros 8 ++ leBytes 4 0x100 ++ zeros 4)) = true ∧ summOk (linkMsg 0x12 1 0 0 (zeros 16)) = false) ∧
    (linkMsgOk (linkMsg 0x13 5 0 0 (zeros 32)) 0x13 3 0x01FF3FFF 0xFFFFFFFF 0 = true ∧
      msgWord (linkMsg 0x13 5 0 0 (zeros 32)) 10 = 0 ∧ msgWord (linkMsg 0x13 5 0 0 (zeros 32)) 11 = 0) ∧
    (linkMsgOk (linkMsg 0x14 5 0 0 (zeros 48)) 0x14 4 0x01FF3FFF 0 0 = true ∧
      msgWord (linkMsg 0x14 5 0 0 (zeros 48)) 14 = 0 ∧ msgWord (linkMsg 0x14 5 0 0 (zeros 48)) 15 = 0) ∧
    (linkMsgOk (linkMsg 0x15 1 0 0 []) 0x15 1 0x00FF03FF 0 0 = true ∧
      linkMsgOk (linkMsg 0x16 1 0 0 (zeros 128)) 0x16 9 0x00FF03FF 0 0 = true ∧
      (1, 0) ∈ ((withUnit 0x089 { up with asked := [(1, 0)] } ready).unit 0x089).asked) ∧
    (scaleOk scaleStored 0x089 false scaleMsg = true ∧ (scaleStored.stream 9).pspace = 1 ∧ (scaleStored.stream 9).kind = 1 ∧
      (scaleStored.stream 9).st ≠ .free ∧ blockKey (scaleStored.stream 9) (scaleDesc scaleStored 0x089 9) 1 0 = some 0x20000 ∧
      scaleOk scaleStored 0x089 true scaleMsg = true ∧ ((scaleStored.unit 0x089).slice.scaleAsked) = [] ∧
      scaleOk scaleAwaited 0x089 true scaleMsg = true ∧ ((9, 0), 12) ∈ (scaleAwaited.unit 0x089).slice.scaleAsked ∧
      scaleOk scaleStored 0x089 true [] = false ∧ scaleOk scaleStored 0x089 false [] = false) ∧
    (linkMsgOk (linkMsg 0x18 0 0 0 batonBody) 0x18 2 0 0 0 = true ∧ batonMsgOk (wordLE 128 batonBody) = true) ∧
    (linkMsgOk (linkMsg 0x1A 0x20008 0 0 []) 0x1A 1 0xFF03FFFF 0xFFFFFFFF 0xFFFFFFFF = true ∧ 0x0C % 8 ≠ 0 ∧ 0x0C % 4 = 0) := by
  and_intros <;> first | decide +kernel | exact rfl

/-! ### Relay groups -/

/-- Group 255 of relay 0x079: this is rank 0 of two; the peer, rank 1, is port 2. -/
def grouped (st : GroupState) (links : Tab Peer) : Group := { relayGroup with st := st, links := links, ver := 1, pcommon := 0xF }

def relays (issued : List Issued) (g : Group) : State :=
  withUnit 0x079 { up with issued := issued, relay := { groups := [(255, g)] } } (withCtx ready)

/-- A message from rank 1 to rank 0: TYPE, MSEQ and words 3 to 6. -/
def fromPeer (type : Nat) (mseq w3 w4 w5 w6 : BitVec 32) (payload : List Byte) : List Byte :=
  relayMsg type 1 1 0 7 mseq w3 w4 w5 w6 payload

/-- The relay, not negotiating, hears each type of message. -/
theorem hears (issued : List Issued) (st : GroupState) (links : Tab Peer) (type : Nat) (m : List Byte)
    (hst : st = .opened ∨ st = .negotiating) (h : relayMsgOk m = true) (ht : rmType m = type) (h1 : msgWord m 1 = 7)
    (h2 : rmDrank m = 0) (h3 : rmSrank m = 1) (h4 : rmVer m = 1) :
    Hears (relays issued (grouped st links)) 0x079 type m 255 (grouped st links) where
  running := rfl
  relay := rfl
  held := rfl
  awake := rfl
  trusted := rfl
  formed := h
  typed := ht
  fits := by
    show ([(255, grouped st links)] : Tab Group).find? _ = some (255, grouped st links)
    rcases hst with rfl | rfl <;> simp [grouped, relayGroup, h1, h2, h3]
  recorded := rfl
  version := .inr h4

theorem witness_RelayGroupsHear :
    (∀ m ∈ [fromPeer 0x01 0 0 0xF0001 2 0 [], fromPeer 0x02 0 0 0xF0001 0 0 [], fromPeer 0x03 0 0 1 0 0 [],
        fromPeer 0x11 1 0 0 0 0 [], fromPeer 0x12 1 0 0 0 0 [], fromPeer 0x20 1 0 1 0 (wordOf 32 128) [],
        fromPeer 0x21 1 0 0 0 0 [], fromPeer 0x10 1 0 1 0 0 []],
      relayMsgOk m = true ∧ msgWord m 1 = 7 ∧ rmDrank m = 0 ∧ rmSrank m = 1 ∧ rmVer m = 1) ∧
    rmType (fromPeer 0x10 1 0 1 0 0 []) = 0x10 := by
  decide +kernel

theorem witness_RelayGroupsNegotiateAndMove :
    (Serving (relays [] (grouped .closed [])) ∧ kindOf 0x079 = some .rl ∧ ((relays [] (grouped .closed [])).unit 0x079).held = true ∧
      mayCommand .coach 1 = true ∧ mayCommand (.ctx 1) 1 = true ∧ (grouped .closed []).st = .closed ∧
      ((relays [] (grouped .closed [])).unit 0x079).issued = []) ∧
    (Running (relays [] (grouped .negotiating [])) ∧ ((relays [] (grouped .negotiating [])).group 0x079 255).st = .negotiating) ∧
    (bitsAt (msgWord (fromPeer 0x01 0 0 0xF0001 2 0 []) 5) 0 7 = (grouped .negotiating []).nmem ∧
      tget 0 (grouped .negotiating []).peers 1 = 2 ∧ tget 0 (grouped .negotiating []).peers 1 ≠ 3) ∧
    ((grouped .negotiating [(1, { hello := some (1, 0xF) })]).heardAll = true ∧
      (grouped .negotiating [(1, { hello := some (1, 0xF) })]).others = [1] ∧
      bitsAt (msgWord (fromPeer 0x02 0 0 0xF0001 0 0 []) 4) 0 4 = (grouped .negotiating []).ver ∧
      bitsAt (msgWord (fromPeer 0x02 0 0 0xF0001 0 0 []) 4) 16 16 = (grouped .negotiating []).pcommon ∧
      bitsAt (msgWord (fromPeer 0x02 0 0 0 0 0 []) 4) 0 4 ≠ (grouped .negotiating []).ver) ∧
    (((grouped .opened []).peer 1).unacked.length ≤ 64 ∧ msgWord (fromPeer 0x20 1 0 1 0 0 []) 2 = ((grouped .opened []).peer 1).nextRecv ∧
      (((grouped .opened []).peer 1).nextRecv - msgWord (fromPeer 0x20 0 0 1 0 0 []) 2).toNat < 2 ^ 31 ∧
      2 ^ 31 ≤ (((grouped .opened []).peer 1).nextRecv - msgWord (fromPeer 0x20 2 0 1 0 0 []) 2).toNat ∧
      (rmCseq (fromPeer 0x20 1 0 1 0 0 []) - (grouped .opened []).cseq).toNat < 2 ^ 15 ∧ (grouped .opened []).doomed = [] ∧
      transferAt (relays [] (grouped .opened [])) 0x079 255 0 = none) := by
  and_intros <;> first | decide +kernel | exact rfl | exact ⟨rfl, rfl⟩

/-- A RELAY form that waits for tile 0 of transfer 0. -/
def receiving (form ckind : Nat) : Issued := relayJob form ckind { started := true, wdesc := 1 }

theorem witness_RelayGroupsMoveTiles :
    (transferAt (relays [receiving 1 0] (grouped .opened [])) 0x079 255 0 = some (receiving 1 0) ∧
      placed (relays [receiving 1 0] (grouped .opened [])) 0x079 (receiving 1 0) = some (receiving 1 0) ∧
      (receiving 1 0).transfer.started = true ∧ msgWord (fromPeer 0x10 1 0 1 0 0 []) 4 = (receiving 1 0).transfer.wdesc ∧
      rlChan (receiving 1 0).body = rmChan (fromPeer 0x10 1 0 1 0 0 []) ∧
      rlSvc (receiving 1 0).body = rmSvc (fromPeer 0x10 1 0 1 0 0 []) ∧ (grouped .opened []).prev = 1 ∧
      (bitsAt (msgWord (fromPeer 0x10 1 0 1 0 0 []) 5) 0 24).toNat < (receiving 1 0).total ∧
      bitAt (msgWord (fromPeer 0x10 1 0 1 0 0 []) 5) 24 = false ∧ reduceRole (receiving 1 0) 2 0 0 = .own ∧
      (receiving 1 0).op = .relayReceive ∧ destReady (relays [receiving 1 0] (grouped .opened [])) (receiving 1 0) = true ∧
      bitAt (msgWord (fromPeer 0x10 1 0 1 0x1000000 0 []) 5) 24 = true ∧
      gatherRole (receiving 2 2) 2 1 0 = .hop ∧ reduceRole (receiving 2 0) 3 2 0 = .hop ∧
      startDiffers (receiving 1 0) ⟨0, 1, startKind (receiving 1 0), 128, 0, 0⟩ = false) ∧
    (((relays [receiving 1 0] (grouped .opened [])).unit 0x079).issued.map (fun j => (j.queue, j.slot))).Nodup ∧
    (openOf ((relays [receiving 1 0] (grouped .opened [])).unit 0x079) 5).find? (fun j => j.op.isRelay && j.stopAs.isNone) = some (receiving 1 0) ∧
    (bitAt (0x8000 : BitVec 128) 15 = true ∧ regionBusy up 63 = false) ∧
    (∃ x ∈ ([⟨7, 1, 0, 128, 0, 0⟩] : List EarlyStart), x.cseq = 7) := by
  and_intros <;> first | decide +kernel | exact rfl

/-! ### The spec's worked examples -/

/-- A binary32 code as an operand. -/
def w32 (n : Nat) : XVal := f32.decode n

/-- 02_formats.md, encoding and reading descriptors. -/
theorem test_descriptors : dValid 0x00100508 = true ∧ dValid 0x00128508 = true ∧ dOcap 0x00128508 = 16 ∧
    dRot 0x00128508 = 32 ∧ dValid 0x00006D11 = false := by decide

/-- 02_formats.md, a 3-bit codebook row start. -/
theorem test_codes_of_three_bits : unpackCodes 3 5 0x1F58D1 = [1, 2, 3, 4, 5] := by decide

/-- 02_formats.md, decoding one MXFP4 group: codes 0x3 and 0xB under scale 0x7A; as bfloat16. -/
theorem test_mxfp4_group : (decodeGroup 0x00100508 (scaleVal 1 0x7A) 0 [] [0x3, 0xB]).map
    (fun e => (toBf16 false e.v)) = [0x3D40, 0xBD40] := by decide +kernel

/-- 03_conversion.md, binary32 to bfloat16 under RNE, two ties and one above. -/
theorem test_bf16_ties : [0x3F808000, 0x3F818000, 0x3F808001].map (fun x => (encodeElem 3 0 [] .rne (w32 x) false).1) =
    [0x3F80, 0x3F82, 0x3F81] := by decide +kernel

/-- 03_conversion.md, binary32 to bfloat16 under SR. -/
theorem test_bf16_stochastic : [0xC123, 0xC000, 0xBFFF, 0x3FFF].map
    (fun w => (encodeElem 3 0 [] (.sr w) (w32 0x3F804000) false).1) = [0x3F81, 0x3F81, 0x3F80, 0x3F80] := by decide +kernel

/-- 03_conversion.md, bfloat16 to FP4 E2M1 under SR. -/
theorem test_fp4_stochastic : [0x8000, 0x7FFF].map
    (fun w => (encodeElem 0x100008 0 [] (.sr w) (ofBf16 0x4020) false).1) = [0x5, 0x4] := by decide +kernel

/-- 03_conversion.md, binary32 to FP8 E4M3 at the top of the range. -/
theorem test_e4m3_top :
    [0x43E80000, 0x43E88000, 0x7F800000, 0xFFC00000].map (fun x => encodeElem 0x100504 0 [] .rne (w32 x) false) =
      [(0x7E, .none), (0x7E, .clip), (0x7E, .clip), (0x7F, .nan)] ∧
    [0x43E80000, 0x43E88000, 0x7F800000, 0xFFC00000].map (fun x => (encodeElem 0x504 0 [] .rne (w32 x) false).1) =
      [0x7E, 0x7F, 0x7F, 0x7F] ∧
    encodeElem 0x100504 0 [] .rtz (w32 0x43E88000) false = (0x7E, .clip) := by decide +kernel

/-- 03_conversion.md, the E4M3 subnormal range, FTZ 0 and 1. -/
theorem test_e4m3_subnormals :
    [0x3A800000, 0x3AC00000, 0xBC7E0000].map (fun x => encodeElem 0x100504 0 [] .rne (w32 x) false) =
      [(0x00, .flush), (0x01, .none), (0x88, .none)] ∧
    [0x3A800000, 0x3AC00000, 0xBC7E0000].map (fun x => encodeElem 0x300504 0 [] .rne (w32 x) false) =
      [(0x00, .flush), (0x00, .flush), (0x88, .none)] := by decide +kernel

/-- 03_conversion.md, UINT4 with zero point 7, rounding the value and not the code. -/
theorem test_uint4_zero_point :
    [0x40200000, 0x40600000, 0x41140000, 0xC1000000, 0x80000000].map
      (fun x => encodeElem 0x106513 7 [] .rne (w32 x) false) =
      [(0x9, .none), (0xB, .none), (0xF, .clip), (0x0, .clip), (0x7, .none)] := by decide +kernel

/-- 03_conversion.md, INT8 without and with SYM, and a NaN of sign 1. -/
theorem test_int8_sym :
    encodeElem 0x100010 0 [] .rne (xval (-1276 / 10) false) false = (0x80, .none) ∧
    encodeElem 0x900010 0 [] .rne (xval (-1276 / 10) false) false = (0x81, .clip) ∧
    encodeElem 0x900010 0 [] .rne (.nan true) false = (0x81, .nan) ∧
    encodeElem 0x100010 0 [] .rne (.nan true) false = (0x80, .nan) := by decide +kernel

/-- 03_conversion.md, bfloat16 to binary16 beyond the range. -/
theorem test_f16_overflow :
    encodeElem 2 0 [] .rne (ofBf16 0x4780) false = (0x7C00, .clip) ∧
    encodeElem 0x100002 0 [] .rne (ofBf16 0x4780) false = (0x7BFF, .clip) ∧
    encodeElem 2 0 [] .rne (ofBf16 0x477F) false = (0x7BF8, .none) := by decide +kernel

/-- 03_conversion.md, choosing a codebook code: t = 0.5, 1.0 and a NaN of sign 1. -/
theorem test_codebook_choice :
    [w32 0x3F000000, w32 0x3F800000, .nan true].map
      (fun t => encodeElem 0x05100922 0 [0xBF40, 0xBE80, 0x3E80, 0x3F40] .rne t false) =
      [(2, .none), (3, .clip), (0, .nan)] := by decide +kernel

/-- 05_scaling.md, FIT and OCP on one MXFP4 group. -/
theorem test_fit_and_ocp :
    (chooseScale 0x00100508 false 0 [] [7, 5 / 16]).1 = 0x80 ∧ (chooseScale 0x00100508 true 0 [] [7, 5 / 16]).1 = 0x7F := by
  decide +kernel

/-- 04_tiles_and_streams.md, a header, clean and poisoned. -/
theorem test_header :
    (blockBytes 0x2A17 3 false false 0x40 5 9 0 4096 []).take 12 =
      [0x17, 0x2A, 0x00, 0x03, 0x40, 0x00, 0x95, 0x00, 0x00, 0x10, 0x01, 0x00] ∧
    (blockBytes 0x2A17 3 true false 0x40 5 9 0 4096 []).take 4 = [0x17, 0x2A, 0x00, 0x43] := by decide +kernel

/-- 08_statistics_and_tracking.md, a history proposal, without and with POW2; the norm of the stumble's watch. -/
theorem test_proposals_and_norm :
    proposalOf { marg := 1, target := 0x43E0 } 0x415C = 0x3D7C ∧
    proposalOf { marg := 1, target := 0x43E0, pow2 := true } 0x415C = 0x3D80 ∧
    proposalOf { marg := 1, target := 0x43E0 } 0x42C0 = 0x3EDC ∧
    normOf { sum := 841 * 2 ^ 156 } = 0x40E80000 := by decide +kernel

/-- 11_randomness.md, two pacer steps from a test state. -/
theorem test_pacer_steps :
    pacerOut (1, 0) = 0x1680 ∧ pacerNext (1, 0) = (0x1010001, 0x2000000000) ∧
    pacerOut (0x1010001, 0x2000000000) = 0x1696801680 := by decide +kernel

/-- 14_memory_slices.md, one slot through a window: the slot sizes. -/
theorem test_window_slots : wideSlot 3 = 8256 ∧ narrowSlot 0x00100504 = 4288 := by decide

/-- 16_sampler.md, one sequence, selected and drawn: T = log2 e, TOPK 4, TOPP 0.8, the word 0xB000…. -/
theorem test_sampler_example :
    sampleRow (wordOf 128 (0x3FB8AA3B + 2 ^ 32 * 4 + 2 ^ 64 * 0x3F4CCCCD)) 0xB000000000000000
      [0, 0x40400000, 0xBF800000, 0x40400000, 0x3F800000, 0xFF800000, 0x7FC00000, 0x40000000] =
      { token := 3, prob := 0x3ECCCCCD, nnuc := 3, flags := 4, lmax := 0x40400000 } := by decide +kernel

/-! ### Number conversion, micro-ops and reductions -/

theorem witness_FloatConversionRoundsOnce :
    ((1 : ℚ) ≠ 0 ∧ ¬ e4m3.maxCode < e4m3.roundCode .rne 1 ∧ e4m3.roundCode .rne 1 ≠ 0 ∧
      2 ^ e4m3.mBits ≤ e4m3.roundCode .rne 1) ∧
    e4m3.maxCode < e4m3.roundCode .rne 1000 ∧ e2m1.magnitude e2m1.maxCode < |(7 : ℚ)| ∧
    e4m3.roundCode .rne (1 / 2048) = 0 ∧
    (e4m3.roundCode .rne (1 / 512) = 1 ∧ e4m3.roundCode .rne (1 / 512) < 2 ^ e4m3.mBits) ∧ 0x7E ≤ e4m3.maxCode := by
  and_intros <;> decide +kernel

/-- INT8, UINT4 with a zero point and a scale, and a codebook of two bits. -/
theorem witness_IntegerAndCodebookConversion :
    (elemOf (dElem 0x00100010) = some (.int 8) ∧ elemOf (dElem 0x00102213) = some (.uint 4) ∧
      elemOf (dElem 0x05100922) = some (.code 2)) ∧
    (dZpm 0x00102213 = 1 ∧ dSfmt 0x00102213 ≠ 0 ∧ (-1 : ℚ) < 0 ∧ (0 : ℚ) < 1 ∧ 15 + 1 = 2 ^ 4) ∧
    (bookVals 0x05100922 [0xBF40, 0xBE80, 0x3E80, 0x3F40] = [-3 / 4, -1 / 4, 1 / 4, 3 / 4] ∧
      ∀ c < 4, ((bookVals 0x05100922 [0xBF40, 0xBE80, 0x3E80, 0x3F40]).getD c 0 : ℚ) < 1) ∧
    (codeVal 0x00100508 0 [] 0xB = (.fin (-3 / 2) true, false) ∧ (0 : ℚ) < 1 / 2) := by
  and_intros <;> decide +kernel

/-- An MXFP4 group whose scale exists; an E4M3 scale that no valid one reaches. -/
theorem witness_FitScaleIsTheLeastThatHolds :
    (dSfmt 0x00100508 = 1 ∧ dIsUint 0x00100508 = false ∧ (0 : ℚ) < 7 ∧ (∀ u ∈ [(1 : ℚ), -7], |u| ≤ 7) ∧ |(-7 : ℚ)| = 7 ∧
      0 < targetMag 0x00100508 [] ∧ scaleVal 1 0x80 = some 2 ∧ 7 / targetMag 0x00100508 [] ≤ 2) ∧
    (dSfmt 0x00100708 = 3 ∧ dIsUint 0x00100708 = false ∧ 0 < targetMag 0x00100708 [] ∧
      ∀ c < 2 ^ (8 * scaleBytes 3), ∀ x ∈ scaleVal 3 c, x < 10000 / targetMag 0x00100708 []) := by
  and_intros <;> decide +kernel

/-- Words of each class of operand; a program of one micro-op. -/
theorem witness_MicroOpsRoundOnce :
    (ofF32 0x3F800000 = .fin 1 false ∧ ofF32 0xC0000000 = .fin (-2) true ∧ (ofF32 0x7FC00000).isNan = true ∧
      ofF32 0x7F800000 = .inf false ∧ ofF32 0x80000000 = .fin 0 true ∧ (1 : ℚ) = (2 : ℚ) ^ (0 : Int)) ∧
    uArity 0x05 = some 3 ∧ 0 < pLen (1 ||| (wordOf 1024 0x1001) <<< 256) := by
  and_intros <;> decide +kernel

/-- Inputs of a SUM and of the other reductions; the reduction of four plain elements. -/
theorem witness_ReductionsFoldAsTheirRulesSay :
    ((∀ x ∈ [(0, XVal.fin 1 false), (1, .fin (-1) true)], x.2.isFin = true ∧ x.2.isNan = false) ∧
      ((1 : ℚ) = (2 ^ 149 : Int) * (2 : ℚ) ^ (-149 : Int)) ∧ ((-1 : ℚ) = (-(2 ^ 149) : Int) * (2 : ℚ) ^ (-149 : Int))) ∧
    ((XVal.nan true).isNan = true ∧ XVal.inf true ∈ [XVal.inf true] ∧ XVal.inf false ∉ [XVal.inf true]) ∧
    (foldInputs 0 true 2 [(0, .fin 1 false), (1, .fin (-1) true)]).acc.satur = false ∧
    (0 < (foldInputs 0 true 2 [(0, .fin 1 false), (1, .fin (-1) true)]).acc.nact ∧
      (foldInputs 0 true 2 [(0, .fin 1 false), (1, .fin (-1) true)]).acc.nact < 2 ^ 32) ∧
    (let i := reduceJob;
      Works (busy 0x051 i) 0x051 5 i ∧ i.op = .reduce ∧ bShape i.body = false ∧ bPv i.body = false ∧ i.rop < 5 ∧
      isPlain (i.field 1) = true ∧ fFmt (i.field 1) ≠ 0 ∧ isPlain (i.field 4) = true ∧ fFmt (i.field 4) ≠ 0 ∧
      i.field 5 = 0 ∧ i.tiled = false ∧ i.space = 0 ∧ i.pos = 0 ∧ i.elements = 4 ∧ i.outs = [] ∧ i.inputs = [] ∧
      i.failed = none ∧ i.stopAs = none ∧
      (∀ g ∈ i.laneGroups 0 i.elements, groupDenied (busy 0x051 i) i g.1 = false) ∧ reduceDestOk (busy 0x051 i) i = true) := by
  and_intros <;> first | decide +kernel | exact rfl | exact ⟨rfl, rfl, rfl, rfl⟩

end Sys2Proof.Tests
end

section
/-!
PROOFS. Writes of tracked entries, watches, port selections and releases (R100, R171, R172, R188, R451, R454).
-/

namespace Sys2Proof.Machine

/-! ### The aperture at READY -/

theorem apertureOpen_of_serving {s : State} (h : Serving s) : apertureOpen s = true := by
  obtain ⟨hfatal, hready⟩ := h
  simp [apertureOpen, hfatal, hready]

/-! ### Bit 0 of a configuration word under a scrub (R451) -/

theorem enScrubbed_iff (s : State) (i : Nat) (p : Nat → Bool) :
    enScrubbed s i p = true ↔
      ∃ x ∈ s.trackers.scrubs, x.1 = i ∧ p x.2.1 = true ∧ x.2.2 / 9 = s.now / 9 := by
  simp [enScrubbed, and_assoc]

@[simp] theorem underScrub_false (w : Nat) (v : BitVec 32) : underScrub false w v = v := rfl

theorem underScrub_of_ne (off : Bool) {w : Nat} (h : w ≠ 0) (v : BitVec 32) : underScrub off w v = v := by
  simp [underScrub, h]

theorem bitAt_withoutEnable (v : BitVec 32) {i : Nat} (h : i ≠ 0) (hi : i < 32) : bitAt (v &&& ~~~1#32) i = bitAt v i := by
  simp only [BitVec.getLsbD_and, BitVec.getLsbD_not, BitVec.getLsbD_one, hi, h, decide_true, decide_false, Bool.and_false,
    Bool.not_false, Bool.and_true]

theorem bitAt_withoutEnable_zero (v : BitVec 32) : bitAt (v &&& ~~~1#32) 0 = false := by simp

theorem bitsAt_withoutEnable (v : BitVec 32) {lo w : Nat} (h : 0 < lo) (hw : lo + w ≤ 32) :
    bitsAt (v &&& ~~~1#32) lo w = bitsAt v lo w := by
  apply BitVec.eq_of_getLsbD_eq
  intro i hi
  have hbit := bitAt_withoutEnable v (i := lo + i) (by omega) (by omega)
  simp only [BitVec.getLsbD_extractLsb', hi, decide_true, Bool.true_and, hbit]

/-! ### Words of a tracked entry (R171, R172) -/

/-- Word 0 written to a configuration whose EN is 0: every field. -/
def TrackedCfg.ofWord (c : TrackedCfg) (v : BitVec 32) : TrackedCfg :=
  { c with
    en := bitAt v 0, auto := bitAt v 1, pinp := bitAt v 2, pow2 := bitAt v 3, fben := bitAt v 4, marg := bitsAt v 5 3
    hlen := bitsAt v 8 5, ctx := bitsAt v 13 10 }

theorem TrackedCfg.ofWord_withoutEnable (c : TrackedCfg) (v : BitVec 32) :
    c.ofWord (v &&& ~~~1#32) = { c.ofWord v with en := false } := by
  simp only [ofWord, bitAt_withoutEnable_zero, bitAt_withoutEnable v (i := 1) (by decide) (by decide),
    bitAt_withoutEnable v (i := 2) (by decide) (by decide), bitAt_withoutEnable v (i := 3) (by decide) (by decide),
    bitAt_withoutEnable v (i := 4) (by decide) (by decide), bitsAt_withoutEnable v (lo := 5) (w := 3) (by decide) (by decide),
    bitsAt_withoutEnable v (lo := 8) (w := 5) (by decide) (by decide),
    bitsAt_withoutEnable v (lo := 13) (w := 10) (by decide) (by decide)]

theorem Tracked.write_zero_of_enabled {t : Tracked} (h : t.cfg.en = true) (v : BitVec 32) :
    t.write 0 v = { t with cfg := { t.cfg with en := bitAt v 0, auto := bitAt v 1, fben := bitAt v 4 } } := by
  simp [Tracked.write, h]

theorem Tracked.write_zero_stays_off {t : Tracked} (h : t.cfg.en = false) {v : BitVec 32} (hv : bitAt v 0 = false) :
    t.write 0 v = { t with cfg := t.cfg.ofWord v } := by
  simp only [Tracked.write, TrackedCfg.ofWord, h, hv, Bool.not_false, Bool.and_false, Bool.false_eq_true, if_false]

theorem Tracked.write_zero_enables {t : Tracked} (h : t.cfg.en = false) {v : BitVec 32} (hv : bitAt v 0 = true) :
    t.write 0 v = { cfg := t.cfg.ofWord v, staged := t.staged } := by
  simp only [Tracked.write, Tracked.cleared, TrackedCfg.ofWord, h, hv, Bool.not_false, Bool.and_true, Bool.false_eq_true,
    if_false, if_true]

theorem Tracked.ofWord_stays_off (t : Tracked) {v : BitVec 32} (hv : bitAt v 0 = false) :
    { t with cfg := { t.cfg.ofWord v with en := false } } = { t with cfg := t.cfg.ofWord v } := by
  rw [← hv]; rfl

/-- Under a scrub word 0 leaves a disabled entry disabled, its other fields written. -/
theorem Tracked.write_zero_scrubbed {t : Tracked} (h : t.cfg.en = false) (v : BitVec 32) :
    t.write 0 (v &&& ~~~1#32) = { t with cfg := { t.cfg.ofWord v with en := false } } := by
  rw [write_zero_stays_off h (bitAt_withoutEnable_zero v), TrackedCfg.ofWord_withoutEnable]

/-- The words that only a disabled entry takes. -/
theorem Tracked.write_of_enabled {t : Tracked} (h : t.cfg.en = true) {w : Nat}
    (hw : w = 1 ∨ w = 2 ∨ w = 3 ∨ w = 8 ∨ w = 9) (v : BitVec 32) : t.write w v = t := by
  rcases hw with rfl | rfl | rfl | rfl | rfl <;> simp [Tracked.write, h]

theorem Tracked.write_tensor {t : Tracked} (h : t.cfg.en = false) (v : BitVec 32) :
    t.write 1 v = { t with cfg := { t.cfg with tensor := bitsAt v 0 24 } } := by
  simp [Tracked.write, h]

theorem Tracked.write_flagth (t : Tracked) (v : BitVec 32) :
    t.write 4 v = { t with cfg := { t.cfg with flagth := bitsAt v 0 16 } } := rfl

theorem Tracked.write_clipth (t : Tracked) (v : BitVec 32) :
    t.write 5 v = { t with cfg := { t.cfg with clipth := v } } := rfl

theorem Tracked.write_flushth (t : Tracked) (v : BitVec 32) :
    t.write 6 v = { t with cfg := { t.cfg with flushth := v } } := rfl

theorem Tracked.write_nanth (t : Tracked) (v : BitVec 32) :
    t.write 7 v = { t with cfg := { t.cfg with nanth := v } } := rfl

theorem Tracked.write_maskLow {t : Tracked} (h : t.cfg.en = false) (v : BitVec 32) :
    t.write 8 v = { t with cfg := { t.cfg with cvmask := putBits t.cfg.cvmask 0 v } } := by
  simp [Tracked.write, h]

theorem Tracked.write_maskHigh {t : Tracked} (h : t.cfg.en = false) (v : BitVec 32) :
    t.write 9 v = { t with cfg := { t.cfg with cvmask := putBits t.cfg.cvmask 32 v } } := by
  simp [Tracked.write, h]

theorem Tracked.write_target {t : Tracked} (h : t.cfg.en = false) {v : BitVec 32}
    (hv : (scaleVal 2 (bitsAt v 16 16).toNat).isSome = true) :
    t.write 2 v = { t with cfg := { t.cfg with layer := bitsAt v 0 12, target := bitsAt v 16 16 } } := by
  have hvalid : (scaleVal 2 (bitsAt v 16 16).toNat).isNone = false := by rw [← Option.not_isSome, hv]; rfl
  simp only [Tracked.write, h, hvalid, Bool.or_self, Bool.false_eq_true, if_false]

theorem Tracked.write_target_invalid (t : Tracked) {v : BitVec 32}
    (hv : (scaleVal 2 (bitsAt v 16 16).toNat).isSome = false) : t.write 2 v = t := by
  have hinvalid : (scaleVal 2 (bitsAt v 16 16).toNat).isNone = true := by rw [← Option.not_isSome, hv]; rfl
  simp only [Tracked.write, hinvalid, Bool.or_true, if_true]

theorem Tracked.write_scales {t : Tracked} (h : t.cfg.en = false) {v : BitVec 32}
    (hv : (bitsAt v 0 13).toNat + (bitsAt v 13 14).toNat ≤ 8192) :
    t.write 3 v = { t with cfg := { t.cfg with abase := bitsAt v 0 13, acount := bitsAt v 13 14 } } := by
  have hfits : ¬ 8192 < (bitsAt v 0 13).toNat + (bitsAt v 13 14).toNat := by omega
  simp only [Tracked.write, h, hfits, decide_false, Bool.or_self, Bool.false_eq_true, if_false]

theorem Tracked.write_scales_beyond (t : Tracked) {v : BitVec 32}
    (hv : 8192 < (bitsAt v 0 13).toNat + (bitsAt v 13 14).toNat) : t.write 3 v = t := by
  simp only [Tracked.write, hv, decide_true, Bool.or_true, if_true]

/-- TRACKED_ENTRY_WRITE by the holder of a port that shows the entry, at READY. -/
theorem exec_trackedEntryWrite {s : State} (hs : Serving s) {a : Agent} {n : BitVec 14}
    (hp : portShows s a (0x071 + n.toNat / 4096) 0x11 n.toNat = true) (w : BitVec 4) (v : BitVec 32) :
    exec (.trackedEntryWrite a n w v) s = .next ((unlatched s).setTracked n.toNat ((s.tracked n.toNat).write w.toNat
      (underScrub (enScrubbed s (n.toNat / 4096) (fun r => Config.regionTracked (n.toNat / 4096) r (n.toNat % 4096)))
        w.toNat v))) := by
  have hshown : portShows s a (tkOfEntry n.toNat) 0x11 n.toNat = true := hp
  change execTrackedEntryWrite a n w v s = _
  simp only [execTrackedEntryWrite, apertureOpen_of_serving hs, hshown, Bool.and_self, if_true]
  exact access_of_running _ hs.1

/-- A scrub disabled tracked entry n in this MCLK cycle (R451). -/
def EntryScrubbed (s : State) (n : Nat) : Prop :=
  ∃ x ∈ s.trackers.scrubs, x.1 = n / 4096 ∧ Config.regionTracked (n / 4096) x.2.1 (n % 4096) = true ∧ x.2.2 / 9 = s.now / 9

theorem enScrubbed_entry (s : State) (n : Nat) :
    enScrubbed s (n / 4096) (fun r => Config.regionTracked (n / 4096) r (n % 4096)) = true ↔ EntryScrubbed s n :=
  enScrubbed_iff _ _ _

section
variable {s : State} {a : Agent} {n : BitVec 14}

theorem trackedEntryWrite_of_ne_zero (hs : Serving s) (hp : portShows s a (0x071 + n.toNat / 4096) 0x11 n.toNat = true)
    {w : BitVec 4} (hw : w.toNat ≠ 0) {v : BitVec 32} {e : Tracked} (he : (s.tracked n.toNat).write w.toNat v = e) :
    exec (.trackedEntryWrite a n w v) s = .next ((unlatched s).setTracked n.toNat e) := by
  rw [exec_trackedEntryWrite hs hp, underScrub_of_ne _ hw, he]

theorem trackedEntryWrite_unscrubbed (hs : Serving s) (hp : portShows s a (0x071 + n.toNat / 4096) 0x11 n.toNat = true)
    (hscr : ¬ EntryScrubbed s n.toNat) {w : BitVec 4} {v : BitVec 32} {e : Tracked}
    (he : (s.tracked n.toNat).write w.toNat v = e) :
    exec (.trackedEntryWrite a n w v) s = .next ((unlatched s).setTracked n.toNat e) := by
  rw [exec_trackedEntryWrite hs hp, Bool.eq_false_iff.2 (mt (enScrubbed_entry _ _).1 hscr), underScrub_false, he]

theorem trackedEntryWrite_scrubbed (hs : Serving s) (hp : portShows s a (0x071 + n.toNat / 4096) 0x11 n.toNat = true)
    (hscr : EntryScrubbed s n.toNat) {v : BitVec 32} {e : Tracked} (he : (s.tracked n.toNat).write 0 (v &&& ~~~1#32) = e) :
    exec (.trackedEntryWrite a n 0 v) s = .next ((unlatched s).setTracked n.toNat e) := by
  rw [exec_trackedEntryWrite hs hp, (enScrubbed_entry _ _).2 hscr, ← he]; rfl

end

/-! ### Words of a watch (R188) -/

/-- Word 0 written to a watch whose EN is 0: every field. -/
def Watch.ofWord (x : Watch) (v : BitVec 32) : Watch :=
  { x with en := bitAt v 0, stb := bitAt v 1, alpha := bitsAt v 2 3, warm := bitsAt v 5 8, ctx := bitsAt v 13 10 }

theorem Watch.ofWord_withoutEnable (x : Watch) (v : BitVec 32) :
    x.ofWord (v &&& ~~~1#32) = { x.ofWord v with en := false } := by
  simp only [ofWord, bitAt_withoutEnable_zero, bitAt_withoutEnable v (i := 1) (by decide) (by decide),
    bitsAt_withoutEnable v (lo := 2) (w := 3) (by decide) (by decide),
    bitsAt_withoutEnable v (lo := 5) (w := 8) (by decide) (by decide),
    bitsAt_withoutEnable v (lo := 13) (w := 10) (by decide) (by decide)]

theorem Watch.write_zero_of_enabled {x : Watch} (h : x.en = true) (v : BitVec 32) :
    x.write 0 v = { x with en := bitAt v 0, stb := bitAt v 1 } := by
  simp [Watch.write, h]

theorem Watch.write_zero_stays_off {x : Watch} (h : x.en = false) {v : BitVec 32} (hv : bitAt v 0 = false) :
    x.write 0 v = x.ofWord v := by
  simp only [Watch.write, Watch.ofWord, h, hv, Bool.not_false, Bool.and_false, Bool.false_eq_true, if_false, if_true]

theorem Watch.write_zero_enables {x : Watch} (h : x.en = false) {v : BitVec 32} (hv : bitAt v 0 = true) :
    x.write 0 v = { x.ofWord v with cur := {}, prev := {}, nlast := 0, avg := 0, laps := 0, avalid := false } := by
  simp only [Watch.write, Watch.ofWord, h, hv, Bool.not_false, Bool.and_true, Bool.false_eq_true, if_false, if_true]

theorem Watch.ofWord_stays_off (x : Watch) {v : BitVec 32} (hv : bitAt v 0 = false) :
    { x.ofWord v with en := false } = x.ofWord v := by
  rw [← hv]; rfl

/-- Under a scrub word 0 leaves a disabled watch disabled, its other fields written. -/
theorem Watch.write_zero_scrubbed {x : Watch} (h : x.en = false) (v : BitVec 32) :
    x.write 0 (v &&& ~~~1#32) = { x.ofWord v with en := false } := by
  rw [write_zero_stays_off h (bitAt_withoutEnable_zero v), Watch.ofWord_withoutEnable]

theorem ratioOk_iff (r : BitVec 16) : ratioOk r = true ↔ 0x3F80 < r.toNat ∧ r.toNat < 0x7F80 := by
  simp only [ratioOk, Bool.and_eq_true, decide_eq_true_eq]; omega

theorem Watch.write_ratio_of_disabled {x : Watch} (h : x.en = false) {v : BitVec 32}
    (hv : ratioOk (bitsAt v 16 16) = true) :
    x.write 1 v = { x with ratio := bitsAt v 16 16, layer := bitsAt v 0 12 } := by
  rw [Watch.write, if_neg (by decide), if_pos hv, h]; rfl

theorem Watch.write_ratio_of_enabled {x : Watch} (h : x.en = true) {v : BitVec 32}
    (hv : ratioOk (bitsAt v 16 16) = true) : x.write 1 v = { x with ratio := bitsAt v 16 16 } := by
  rw [Watch.write, if_neg (by decide), if_pos hv, h]; rfl

theorem Watch.write_ratio_invalid (x : Watch) {v : BitVec 32} (hv : ¬ ratioOk (bitsAt v 16 16) = true) :
    x.write 1 v = x := by
  rw [Watch.write, if_neg (by decide), if_neg hv]

/-- WATCH_WRITE by the holder of a port that shows the watch, at READY. -/
theorem exec_watchWrite {s : State} (hs : Serving s) {a : Agent} {n : BitVec 12}
    (hp : portShows s a (0x071 + n.toNat / 1024) 0x12 n.toNat = true) (w : BitVec 1) (v : BitVec 32) :
    exec (.watchWrite a n w v) s = .next ((unlatched s).setWatch n.toNat ((s.watch n.toNat).write w.toNat
      (underScrub (enScrubbed s (n.toNat / 1024) (fun r => Config.regionWatch (n.toNat / 1024) r (n.toNat % 1024)))
        w.toNat v))) := by
  have hshown : portShows s a (tkOfWatch n.toNat) 0x12 n.toNat = true := hp
  change execWatchWrite a n w v s = _
  simp only [execWatchWrite, apertureOpen_of_serving hs, hshown, Bool.and_self, if_true]
  exact access_of_running _ hs.1

/-- A scrub disabled watch n in this MCLK cycle (R451). -/
def WatchScrubbed (s : State) (n : Nat) : Prop :=
  ∃ x ∈ s.trackers.scrubs, x.1 = n / 1024 ∧ Config.regionWatch (n / 1024) x.2.1 (n % 1024) = true ∧ x.2.2 / 9 = s.now / 9

theorem enScrubbed_watch (s : State) (n : Nat) :
    enScrubbed s (n / 1024) (fun r => Config.regionWatch (n / 1024) r (n % 1024)) = true ↔ WatchScrubbed s n :=
  enScrubbed_iff _ _ _

section
variable {s : State} {a : Agent} {n : BitVec 12}

theorem watchWrite_ratioWord (hs : Serving s) (hp : portShows s a (0x071 + n.toNat / 1024) 0x12 n.toNat = true)
    {v : BitVec 32} {x : Watch} (hx : (s.watch n.toNat).write 1 v = x) :
    exec (.watchWrite a n 1 v) s = .next ((unlatched s).setWatch n.toNat x) := by
  rw [exec_watchWrite hs hp, underScrub_of_ne _ (by decide), ← hx]; rfl

theorem watchWrite_unscrubbed (hs : Serving s) (hp : portShows s a (0x071 + n.toNat / 1024) 0x12 n.toNat = true)
    (hscr : ¬ WatchScrubbed s n.toNat) {w : BitVec 1} {v : BitVec 32} {x : Watch}
    (hx : (s.watch n.toNat).write w.toNat v = x) :
    exec (.watchWrite a n w v) s = .next ((unlatched s).setWatch n.toNat x) := by
  rw [exec_watchWrite hs hp, Bool.eq_false_iff.2 (mt (enScrubbed_watch _ _).1 hscr), underScrub_false, hx]

theorem watchWrite_scrubbed (hs : Serving s) (hp : portShows s a (0x071 + n.toNat / 1024) 0x12 n.toNat = true)
    (hscr : WatchScrubbed s n.toNat) {v : BitVec 32} {x : Watch} (hx : (s.watch n.toNat).write 0 (v &&& ~~~1#32) = x) :
    exec (.watchWrite a n 0 v) s = .next ((unlatched s).setWatch n.toNat x) := by
  rw [exec_watchWrite hs hp, (enScrubbed_watch _ _).2 hscr, ← hx]; rfl

end

/-! ### Port selections (R451) -/

theorem port_selectPort (s : State) (a : Agent) (b p : Nat) (v : BitVec 32) (m k : Nat) :
    (selectPort s a b p v).port m k = if m = b ∧ k = p then { sel := v, holder := some a } else s.port m k := by
  unfold State.port selectPort
  by_cases hm : m = b
  · subst hm
    by_cases hk : k = p
    · subst hk; simp
    · simp [hk, tget_tset_ne]
  · simp [hm, State.unit_onUnit_ne]

theorem unit_selectPort (s : State) (a : Agent) (b p : Nat) (v : BitVec 32) (m : Nat) :
    { (selectPort s a b p v).unit m with ports := (s.unit m).ports } = s.unit m := by
  unfold selectPort
  by_cases hm : m = b
  · subst hm; simp
  · simp [hm, State.unit_onUnit_ne]

/-- INDIRECT_SELECT at READY, of a unit that holds its bib and has ports. -/
theorem exec_indirectSelect {s : State} (hs : Serving s) {b : Bib} (hheld : (s.unit b.toNat).held = true)
    (hports : hasPorts b.toNat = true) (a : Agent) (p : BitVec 2) (v : BitVec 32) :
    exec (.indirectSelect a b p v) s = .next (unlatched (
      if isFar b.toNat then
        relayPlain (noteHolder s a b.toNat (0x1000 + 0x100 * p.toNat)) b.toNat (0x1000 + 0x100 * p.toNat) v
      else selectPort s a b.toNat p.toNat v)) := by
  change execIndirectSelect a b p v s = _
  simp only [execIndirectSelect, apertureOpen_of_serving hs, hports, hheld, Bool.and_self, Bool.not_true,
    Bool.false_eq_true, if_false]
  exact access_of_running _ hs.1

/-! ### Releases (R100, R454) -/

/-- Two states differ in stream entries alone. -/
def OnlyStreams (s t : State) : Prop := ∃ x, t = { s with trackers := { s.trackers with streams := x } }

theorem OnlyStreams.trans {s t u : State} (h : OnlyStreams s t) (h' : OnlyStreams t u) : OnlyStreams s u := by
  obtain ⟨x, rfl⟩ := h
  obtain ⟨y, rfl⟩ := h'
  exact ⟨y, rfl⟩

theorem releaseEntry_onlyStreams (s : State) (n : Nat) (r : BitVec 16) : OnlyStreams s (releaseEntry s n r) := ⟨_, rfl⟩

theorem stream_releaseEntry_ne (s : State) {n m : Nat} (r : BitVec 16) (h : m ≠ n) :
    (releaseEntry s n r).stream m = s.stream m := State.stream_onStream_ne s _ h

/-- A release opens an entry in HALTED, with its RTAG. -/
theorem stream_releaseEntry_halted {s : State} {n : Nat} (h : (s.stream n).st = .halted) (r : BitVec 16) :
    (releaseEntry s n r).stream n = { s.stream n with st := .opened, rtag := r } := by
  simp [releaseEntry, h]

/-- The release of an entry that may be linked. -/
def releaseLink (s : State) (linked : Bool) (n : Nat) (r : BitVec 16) : State := if linked then releaseEntry s n r else s

theorem releaseLink_onlyStreams (s : State) (linked : Bool) (n : Nat) (r : BitVec 16) :
    OnlyStreams s (releaseLink s linked n r) := by
  cases linked
  · exact ⟨_, rfl⟩
  · exact releaseEntry_onlyStreams s n r

theorem stream_releaseLink_ne (s : State) {linked : Bool} {n m : Nat} (r : BitVec 16) (h : linked = true → m ≠ n) :
    (releaseLink s linked n r).stream m = s.stream m := by
  cases linked
  · rfl
  · exact stream_releaseEntry_ne s r (h rfl)

/-- R100: a release is that of the data entry, then of its scale entry, then of its side entry. -/
theorem releaseStream_eq (s : State) (n : Nat) (dr sr or : BitVec 16) :
    releaseStream s n dr sr or = releaseLink (releaseLink (releaseEntry s n dr) (s.stream n).paired
      (s.stream n).pair.toNat sr) (s.stream n).sided (s.stream n).side.toNat or := rfl

theorem releaseStream_onlyStreams (s : State) (n : Nat) (dr sr or : BitVec 16) :
    OnlyStreams s (releaseStream s n dr sr or) :=
  ((releaseEntry_onlyStreams s n dr).trans (releaseLink_onlyStreams ..)).trans (releaseLink_onlyStreams ..)

/-- How a release leaves an entry: open with its RTAG where it was HALTED, as it was where it was not; the close that an
entry in HCLOSE waits for is left open here. -/
def Released (e : Stream) (tag : BitVec 16) (e' : Stream) : Prop :=
  e' = (if e.st = .halted then { e with st := .opened, rtag := tag } else e) ∨ e.st = .hclose

theorem released_releaseEntry (s : State) (n : Nat) (r : BitVec 16) :
    Released (s.stream n) r ((releaseEntry s n r).stream n) := by
  rw [Released, releaseEntry, State.stream_onStream_self]
  cases h : (s.stream n).st <;> simp

section
variable {s : State} {n : Nat} (dr sr or : BitVec 16)

/-- Entries that the data entry does not name. -/
theorem stream_releaseStream_ne {m : Nat} (h : m ≠ n) (hpair : (s.stream n).paired = true → m ≠ (s.stream n).pair.toNat)
    (hside : (s.stream n).sided = true → m ≠ (s.stream n).side.toNat) :
    (releaseStream s n dr sr or).stream m = s.stream m := by
  rw [releaseStream_eq, stream_releaseLink_ne _ _ hside, stream_releaseLink_ne _ _ hpair, stream_releaseEntry_ne _ _ h]

/-- The data entry itself, which is neither of its links. -/
theorem stream_releaseStream_self (h : (s.stream n).st = .halted)
    (hpair : (s.stream n).paired = true → (s.stream n).pair.toNat ≠ n)
    (hside : (s.stream n).sided = true → (s.stream n).side.toNat ≠ n) :
    (releaseStream s n dr sr or).stream n = { s.stream n with st := .opened, rtag := dr } := by
  rw [releaseStream_eq, stream_releaseLink_ne _ _ (fun hs => (hside hs).symm),
    stream_releaseLink_ne _ _ (fun hp => (hpair hp).symm), stream_releaseEntry_halted h]

/-- The scale entry, linked to a data entry that has another side entry or none. -/
theorem released_pair (hp : (s.stream n).paired = true) (hpair : (s.stream n).pair.toNat ≠ n)
    (hboth : (s.stream n).sided = true → (s.stream n).pair.toNat ≠ (s.stream n).side.toNat) :
    Released (s.stream (s.stream n).pair.toNat) sr
      ((releaseStream s n dr sr or).stream (s.stream n).pair.toNat) := by
  rw [releaseStream_eq, stream_releaseLink_ne _ _ hboth, hp, ← stream_releaseEntry_ne s dr hpair]
  exact released_releaseEntry _ _ _

/-- The side entry, linked to a data entry that has another scale entry or none. -/
theorem released_side (ho : (s.stream n).sided = true) (hside : (s.stream n).side.toNat ≠ n)
    (hboth : (s.stream n).paired = true → (s.stream n).side.toNat ≠ (s.stream n).pair.toNat) :
    Released (s.stream (s.stream n).side.toNat) or
      ((releaseStream s n dr sr or).stream (s.stream n).side.toNat) := by
  rw [releaseStream_eq, ho, ← stream_releaseEntry_ne s dr hside, ← stream_releaseLink_ne _ sr hboth]
  exact released_releaseEntry _ _ _

end

theorem mayWriteAt_of {s : State} {a : Agent} {f : BitVec 384 → Nat × Nat} {n : Nat}
    (h : a.manages = true ∨ ∃ c, a = .ctx c ∧ gEn (s.grant c.toNat) = true ∧ inRange (f (s.grant c.toNat)) n = true) :
    mayWriteAt s a f n = true := by
  rcases h with h | ⟨c, rfl, hen, hin⟩
  · simp [mayWriteAt, h]
  · simp [mayWriteAt, Agent.ctx?, hen, hin]

/-- STREAM_RELEASE of a HALTED data entry of the tracker by an agent that its grant admits, at READY. -/
theorem exec_streamRelease {s : State} (hs : Serving s) {k : BitVec 2} (hheld : (s.unit (0x071 + k.toNat)).held = true)
    {v : BitVec 32} (htk : (bitsAt v 0 16).toNat / 16384 = k.toNat) (hst : (s.stream (bitsAt v 0 16).toNat).st = .halted)
    (hkind : (s.stream (bitsAt v 0 16).toNat).kind = 0) {a : Agent}
    (ha : mayWriteAt s a gStreams (bitsAt v 0 16).toNat = true) :
    exec (.streamRelease a k v) s = .next (unlatched (releaseStream s (bitsAt v 0 16).toNat (bitsAt v 16 16)
      (bitsAt (srel1Of (s.unit (0x071 + k.toNat)) a) 0 16) (bitsAt (srel1Of (s.unit (0x071 + k.toNat)) a) 16 16))) := by
  have hmay : mayRelease s a (bitsAt v 0 16).toNat = true := by simp only [mayRelease, hst, hkind, ha]; rfl
  have hown : ¬ tkOfStream (bitsAt v 0 16).toNat ≠ firstBib .tk + k.toNat := by simp only [tkOfStream, htk]; simp
  have hhere : (s.unit (firstBib .tk + k.toNat)).held = true := hheld
  change execStreamRelease a k v s = _
  rw [execStreamRelease, access_of_running _ hs.1, if_pos hhere, writeSrel0, if_neg hown, hmay, guarded_of_allowed,
    if_pos (apertureOpen_of_serving hs)]
  rfl

/-- Settles O43: each write is the write of one word of the record, taken through the aperture at READY, and each word of
a record has a law of its own; a release is one of the data entry and of each entry linked to it. -/
theorem trackerAndPortWrites : Obligations.TrackerAndPortWrites := by
  unfold Obligations.TrackerAndPortWrites
  refine ⟨fun s a n w v hs hp => ?_, fun s a n w v hs hp => ?_, fun s a b p v hs hheld => ⟨fun hk => ?_, fun hk => ?_⟩,
    fun s a k v hs => ?_⟩
  · intro scrubbed e c becomes all
    refine ⟨?_, ?_, ?_, ?_, ?_, ?_, ?_, ?_, ?_, ?_, ?_, ?_, ?_, ?_, ?_, ?_⟩
    · rintro rfl hen hscr
      exact trackedEntryWrite_unscrubbed hs hp hscr (Tracked.write_zero_of_enabled hen v)
    · rintro rfl hen hv
      by_cases hscr : scrubbed
      · exact trackedEntryWrite_scrubbed hs hp hscr ((Tracked.write_zero_scrubbed hen v).trans (e.ofWord_stays_off hv))
      · exact trackedEntryWrite_unscrubbed hs hp hscr (Tracked.write_zero_stays_off hen hv)
    · rintro rfl hen hv hscr
      exact trackedEntryWrite_unscrubbed hs hp hscr (Tracked.write_zero_enables hen hv)
    · rintro rfl hen hscr
      exact trackedEntryWrite_scrubbed hs hp hscr (Tracked.write_zero_scrubbed hen v)
    · rintro rfl hen
      exact trackedEntryWrite_of_ne_zero hs hp (by decide) (Tracked.write_tensor hen v)
    · rintro rfl hen hv
      exact trackedEntryWrite_of_ne_zero hs hp (by decide) (Tracked.write_target hen hv)
    · rintro rfl hv
      exact trackedEntryWrite_of_ne_zero hs hp (by decide) (e.write_target_invalid hv)
    · rintro rfl hen hv
      exact trackedEntryWrite_of_ne_zero hs hp (by decide) (Tracked.write_scales hen hv)
    · rintro rfl hv
      exact trackedEntryWrite_of_ne_zero hs hp (by decide) (e.write_scales_beyond hv)
    · rintro rfl
      exact trackedEntryWrite_of_ne_zero hs hp (by decide) (e.write_flagth v)
    · rintro rfl
      exact trackedEntryWrite_of_ne_zero hs hp (by decide) (e.write_clipth v)
    · rintro rfl
      exact trackedEntryWrite_of_ne_zero hs hp (by decide) (e.write_flushth v)
    · rintro rfl
      exact trackedEntryWrite_of_ne_zero hs hp (by decide) (e.write_nanth v)
    · rintro rfl hen
      exact trackedEntryWrite_of_ne_zero hs hp (by decide) (Tracked.write_maskLow hen v)
    · rintro rfl hen
      exact trackedEntryWrite_of_ne_zero hs hp (by decide) (Tracked.write_maskHigh hen v)
    · intro hw hen
      have hword : w.toNat = 1 ∨ w.toNat = 2 ∨ w.toNat = 3 ∨ w.toNat = 8 ∨ w.toNat = 9 := by
        rcases hw with rfl | rfl | rfl | rfl | rfl <;> decide
      exact trackedEntryWrite_of_ne_zero hs hp (by omega) (Tracked.write_of_enabled hen hword v)
  · intro scrubbed x becomes all valid
    have hratio : ratioOk (bitsAt v 16 16) = true ↔ valid := ratioOk_iff _
    refine ⟨?_, ?_, ?_, ?_, ?_, ?_⟩
    · rintro rfl hen hscr
      exact watchWrite_unscrubbed hs hp hscr (Watch.write_zero_of_enabled hen v)
    · rintro rfl hen hv
      by_cases hscr : scrubbed
      · exact watchWrite_scrubbed hs hp hscr ((Watch.write_zero_scrubbed hen v).trans (x.ofWord_stays_off hv))
      · exact watchWrite_unscrubbed hs hp hscr (Watch.write_zero_stays_off hen hv)
    · rintro rfl hen hv hscr
      exact watchWrite_unscrubbed hs hp hscr (Watch.write_zero_enables hen hv)
    · rintro rfl hv hen
      exact watchWrite_ratioWord hs hp (Watch.write_ratio_of_disabled hen (hratio.2 hv))
    · rintro rfl hv hen
      exact watchWrite_ratioWord hs hp (Watch.write_ratio_of_enabled hen (hratio.2 hv))
    · rintro rfl hv
      exact watchWrite_ratioWord hs hp (x.write_ratio_invalid (mt hratio.1 hv))
  · have hports : hasPorts b.toNat = true := by simp [hasPorts, hk]
    have hfar : isFar b.toNat = true := by simp [isFar, hk]
    rw [exec_indirectSelect hs hheld hports, if_pos hfar]
  · have hports : hasPorts b.toNat = true := by rcases hk with hk | hk | hk <;> simp [hasPorts, hk]
    have hnear : ¬ isFar b.toNat = true := by rcases hk with hk | hk | hk <;> simp [isFar, hk]
    have hexec := exec_indirectSelect hs hheld hports a p v
    rw [if_neg hnear] at hexec
    exact ⟨_, hexec, port_selectPort s a b.toNat p.toNat v, unit_selectPort s a b.toNat p.toNat v b.toNat, rfl⟩
  · intro b n e low released hheld htk hst hkind ha hpair hside hboth
    have hne : e.paired = true → e.sided = true → e.pair.toNat ≠ e.side.toNat := fun hp ho h =>
      hboth hp ho (BitVec.eq_of_toNat_eq h)
    obtain ⟨x, hx⟩ := releaseStream_onlyStreams s n (bitsAt v 16 16) (bitsAt low 0 16) (bitsAt low 16 16)
    refine ⟨_, exec_streamRelease hs hheld htk hst hkind (mayWriteAt_of ha), ?_, ?_, ?_, ?_, ?_, ?_⟩
    · exact congrArg (fun t : State => { unlatched t with trackers := s.trackers }) hx
    · exact congrArg (fun t : State => { t.trackers with streams := s.trackers.streams }) hx
    · exact stream_releaseStream_self _ _ _ hst hpair hside
    · exact fun hp => released_pair _ _ _ hp (hpair hp) (hne hp)
    · exact fun ho => released_side _ _ _ ho (hside ho) (fun hp => (hne hp ho).symm)
    · exact fun m hm hmp hmo => stream_releaseStream_ne _ _ _ hm hmp hmo

end Sys2Proof.Machine
end

section
/-!
PROOFS. What a slice-link message brings, by its type (R311, R346, R354, R355, R361, R362, R425).
-/

namespace Sys2Proof.Machine

/-! ### DESC (R355) -/

/-- The instruction that a DESC carries. -/
def descItem (m : List Byte) : Arrived :=
  ⟨(bitsAt (msgWord m 1) 0 14).toNat, bitsAt (msgWord m 1) 16 16,
    (chunksOf 32 ((bitsAt (msgWord m 1) 14 2).toNat + 1) (msgRest m)).map (wordLE 256)⟩

/-- A DESC has the form of its number of slots. -/
def descOk (m : List Byte) : Bool := linkMsgOk m 0x10 (1 + 2 * ((bitsAt (msgWord m 1) 14 2).toNat + 1)) 0xFFFFFFFF 0 0

theorem issueReceived_eq (s : State) (b : Nat) :
    issueReceived s b = if mayIssue s b then issueReceived s b else s := by
  by_cases h : mayIssue s b = true
  · rw [if_pos h]
  · rw [if_neg h, issueReceived, if_neg h]

/-- DESC to a far unit that answers: the instruction joins the inbox, and the unit issues where it can. -/
theorem exec_descMessage {s : State} (hs : Running s) {b : Bib} (hfar : isFar b.toNat = true)
    (hheld : (s.unit b.toNat).held = true) (hawake : (s.unit b.toNat).health.resetting = false) {m : List Byte}
    (hok : descOk m = true) :
    exec (.descMessage b m) s =
      .next (issueReceived (s.onUnit b.toNat (fun u => { u with inbox := u.inbox ++ [descItem m] })) b.toNat) := by
  change execDescMessage b m s = _
  rw [execDescMessage, live_of_running _ hs, if_neg (by simp [hfar, hheld, hawake])]
  exact congrArg _ (if_neg (by rw [← descOk, hok]; decide))

theorem exec_descMessage_malformed {s : State} (hs : Running s) {b : Bib} (hfar : isFar b.toNat = true)
    (hheld : (s.unit b.toNat).held = true) (hawake : (s.unit b.toNat).health.resetting = false) {m : List Byte}
    (hok : descOk m = false) : exec (.descMessage b m) s = .next (badMsg s b.toNat 0 m) := by
  change execDescMessage b m s = _
  rw [execDescMessage, live_of_running _ hs, if_neg (by simp [hfar, hheld, hawake])]
  exact congrArg _ (if_pos (by rw [← descOk, hok]; decide))

/-! ### COMPL (R311, R355) -/

/-- A completion that does not halt its queue leaves it. -/
theorem haltQueue_of_goesOn {s : State} {q : Nat} {st : Status} (h : (s.queue q).halte = false ∨ st.halting = false) :
    haltQueue s q st = s := by
  rcases h with h | h <;> simp [haltQueue, h]

theorem settleContext_frame (s : State) (c : Nat) :
    ∃ x, settleContext s c = { s with tables := { s.tables with contexts := x } } := by
  unfold settleContext
  simp only
  split
  · exact ⟨_, rfl⟩
  · split
    · exact ⟨_, rfl⟩
    · split
      · exact ⟨_, rfl⟩
      · exact ⟨s.tables.contexts, rfl⟩

/-- Settling a queue that runs reaches at most the state of its context. -/
theorem settleQueue_frame_of_run {s : State} {q : Nat} (h : (s.queue q).st = .run) :
    ∃ x, settleQueue s q = { s with tables := { s.tables with contexts := x } } := by
  have hstays : settleQueue s q = settleOwner s q := by simp [settleQueue, h]
  rw [hstays, settleOwner]
  split
  · exact settleContext_frame s _
  · exact ⟨s.tables.contexts, rfl⟩

theorem closeVisible_of_not_closing {s : State} {q : Nat} (h : (s.queue q).st ≠ .closing) (n : Nat) :
    closeVisible n s q = s := by
  cases n <;> simp [closeVisible, h]

theorem closeUnissued_of_not_closing {s : State} {q : Nat} (h : (s.queue q).st ≠ .closing) : closeUnissued s q = s :=
  closeVisible_of_not_closing h _

/-- The close of a watch that MG passes on joins the trackers' partials, and nothing else changes. -/
theorem passClose_frame (s : State) (q : Nat) (h : SlotWord) : ∃ x, passClose s q h = { s with trackers := x } := by
  unfold passClose
  simp only
  split
  · exact ⟨_, rfl⟩
  · exact ⟨s.trackers, rfl⟩

/-- The queue block after a record: SEQ, CTAIL and HEAD move, and one record less is owed. -/
theorem queue_writeRecord (s : State) (q : Nat) (bs : List Byte) (n : Nat) :
    (writeRecord s q bs n).queue q = { s.queue q with
      seq := (s.queue q).seq + 1, ctail := (s.queue q).ctail + 1, head := (s.queue q).head + wordOf 16 n
      owed := (s.queue q).owed - 1 } :=
  State.queue_setQueue_self _ _ _

/-- The record lies in the slot of its ring that CTAIL names, with its SEQ. -/
theorem mem_writeRecord (s : State) (q : Nat) (bs : List Byte) (n : Nat) :
    (writeRecord s q bs n).mem = writeBytes s.mem
      (spadKey ((s.queue q).cbase.toNat + 48 * ((s.queue q).ctail.toNat % 2 ^ ((s.queue q).csize.toNat + 4))))
      (bs.take 4 ++ bytesLE 2 ((s.queue q).seq + 1) ++ bs.drop 6) := rfl

/-- A queue that runs on after a completion: at most the state of its context follows. -/
theorem runsOn_frame {t : State} {q : Nat} {st : Status} (hrun : (t.queue q).st = .run)
    (hgoes : (t.queue q).halte = false ∨ st.halting = false) :
    ∃ c, closeUnissued (settleQueue (if ((haltQueue t q st).queue q).st = .halted then recallInbox (haltQueue t q st) q
      else haltQueue t q st) q) q = { t with tables := { t.tables with contexts := c } } := by
  obtain ⟨c, hc⟩ := settleQueue_frame_of_run hrun
  have hopen : (State.queue { t with tables := { t.tables with contexts := c } } q).st ≠ .closing := by
    show (t.queue q).st ≠ .closing
    rw [hrun]; decide
  refine ⟨c, ?_⟩
  rw [haltQueue_of_goesOn hgoes, if_neg (by rw [hrun]; decide), hc, closeUnissued_of_not_closing hopen]

/-- COMPL of a running queue's oldest instruction that does not halt it: the record, and what the trackers and the context
take from it. -/
theorem exec_compl_of_run {s : State} (hs : Running s) {b : Bib} {m : List Byte} (hok : complOk m = true) {q : Nat}
    (hq : (bitsAt (msgWord m 1) 0 14).toNat = q) (hb : (s.queue q).bib = b) (howed : 0 < (s.queue q).owed)
    (hrun : (s.queue q).st = .run)
    (hgoes : (s.queue q).halte = false ∨ (statusOf ((msgRest m).getD 3 0)).halting = false) :
    ∃ x c, exec (.compl b m) s = .next
      { writeRecord s q (msgRest m) (ringInstr s (s.queue q) (s.queue q).head).length with
        trackers := x
        tables := { (writeRecord s q (msgRest m) (ringInstr s (s.queue q) (s.queue q).head).length).tables with
          contexts := c } } := by
  obtain ⟨x, hx⟩ : ∃ x, (if kindOf b.toNat = some .sl then
      passClose s q (headOf (ringInstr s (s.queue q) (s.queue q).head)) else s) = { s with trackers := x } := by
    split
    · exact passClose_frame s q _
    · exact ⟨s.trackers, rfl⟩
  have hqueue := queue_writeRecord { s with trackers := x } q (msgRest m)
    (ringInstr s (s.queue q) (s.queue q).head).length
  obtain ⟨c, hc⟩ := runsOn_frame (by rw [hqueue]; exact hrun) (by rw [hqueue]; exact hgoes)
  refine ⟨x, c, ?_⟩
  change execCompl b m s = _
  rw [execCompl, live_of_running _ hs, if_neg (by simp [hok]), hq, if_pos (by simp [hb, howed])]
  simp only [hx]
  exact congrArg _ hc

theorem exec_compl_malformed {s : State} (hs : Running s) (b : Bib) {m : List Byte} (hok : complOk m = false) :
    exec (.compl b m) s = .next (badMsg s 0 b.toNat m) := by
  change execCompl b m s = _
  rw [execCompl, live_of_running _ hs, if_pos (by simp [hok])]

/-! ### SUMM, STATS and NORM (R259, R362) -/

theorem exec_summ {s : State} (hs : Running s) (b : Bib) {m : List Byte} (hok : summOk m = true) :
    exec (.summ b m) s =
      .next (writeSlot s (bitsAt (msgWord m 1) 0 10).toNat (bitsAt (msgWord m 1) 16 8).toNat (msgRest m)) := by
  change execSumm b m s = _
  rw [execSumm, live_of_running _ hs, if_neg (by simp [hok])]

theorem exec_summ_malformed {s : State} (hs : Running s) (b : Bib) {m : List Byte} (hok : summOk m = false) :
    exec (.summ b m) s = .next (badMsg s 0 b.toNat m) := by
  change execSumm b m s = _
  rw [execSumm, live_of_running _ hs, if_pos (by simp [hok])]

/-- The report that a STATS message carries (R362). -/
def statsReport (m : List Byte) : Report :=
  { entry := bitsAt (msgWord m 1) 0 14, lap8 := bitsAt (msgWord m 1) 16 8, par := bitAt (msgWord m 1) 24
    data := { amax := bitsAt (msgWord m 2) 0 16, capmax := bitsAt (msgWord m 2) 16 16, nan := msgWord m 4
              clip := msgWord m 5, flush := msgWord m 6, overflow := msgWord m 7, flagged := msgWord m 8
              otiles := msgWord m 9 } }

theorem exec_statsMessage {s : State} (hs : Running s) (b : Bib) {m : List Byte}
    (hok : linkMsgOk m 0x13 3 0x01FF3FFF 0xFFFFFFFF 0 = true) (h10 : msgWord m 10 = 0) (h11 : msgWord m 11 = 0) :
    exec (.statsMessage b m) s =
      .next { s with trackers := { s.trackers with reports := s.trackers.reports ++ [statsReport m] } } := by
  change execStatsMessage b m s = _
  rw [execStatsMessage, live_of_running _ hs, if_neg (by simp only [hok, h10, h11]; decide)]
  rfl

/-- The partial that a NORM message carries (R362). -/
def normOfMsg (m : List Byte) : Partial :=
  { watch := bitsAt (msgWord m 1) 0 12, sum := leNat ((msgRest m).take 40), nonfin := bitAt (msgWord m 1) 12
    satur := bitAt (msgWord m 1) 13, close := false, lap8 := bitsAt (msgWord m 1) 16 8, par := bitAt (msgWord m 1) 24 }

theorem exec_norm {s : State} (hs : Running s) (b : Bib) {m : List Byte}
    (hok : linkMsgOk m 0x14 4 0x01FF3FFF 0 0 = true) (h14 : msgWord m 14 = 0) (h15 : msgWord m 15 = 0) :
    exec (.norm b m) s =
      .next { s with trackers := { s.trackers with partials := s.trackers.partials ++ [normOfMsg m] } } := by
  change execNorm b m s = _
  rw [execNorm, live_of_running _ hs, if_neg (by simp only [hok, h14, h15]; decide)]
  rfl

/-! ### PROGREQ and PROG (R351) -/

theorem exec_progreq {s : State} (hs : Running s) (b : Bib) {m : List Byte}
    (hok : linkMsgOk m 0x15 1 0x00FF03FF 0 0 = true) :
    exec (.progreq b m) s = .next (sendMsg s true b.toNat (linkMsg 0x16 (msgWord m 1) 0 0
      (bytesLE 128 (s.program (bitsAt (msgWord m 1) 0 10).toNat (bitsAt (msgWord m 1) 16 8).toNat)))) := by
  change execProgreq b m s = _
  rw [execProgreq, live_of_running _ hs, if_neg (by rw [hok]; decide)]

/-- A program just held is the newest of a unit's copies. -/
theorem mem_holdProgram (u : UnitSt) (c k : Nat) (p : BitVec 1024) : (c, k, p) ∈ (holdProgram u c k p).programs := by
  simp [holdProgram, List.take_succ_cons]

theorem exec_progMessage {s : State} (hs : Running s) {b : Bib} {m : List Byte}
    (hok : linkMsgOk m 0x16 9 0x00FF03FF 0 0 = true) {c k : Nat} (hc : (bitsAt (msgWord m 1) 0 10).toNat = c)
    (hk : (bitsAt (msgWord m 1) 16 8).toNat = k) (hasked : (c, k) ∈ (s.unit b.toNat).asked) :
    exec (.progMessage b m) s = .next (s.onUnit b.toNat (fun u =>
      { holdProgram u c k (wordLE 1024 (msgRest m)) with asked := u.asked.erase (c, k) })) := by
  change execProgMessage b m s = _
  rw [execProgMessage, live_of_running _ hs, if_neg (by rw [hok]; decide), hc, hk, if_pos (by simpa using hasked)]

/-! ### SCALE (R354) -/

theorem exec_scaleMessage_malformed {s : State} (hs : Running s) {b : Bib} (hsl : kindOf b.toNat = some .sl)
    {m : List Byte} {toUnit : Bool} (hok : scaleOk s b.toNat toUnit m = false) :
    exec (.scaleMessage b toUnit m) s =
      .next (badMsg s (if toUnit then b.toNat else 0) (if toUnit then 0 else b.toNat) m) := by
  change execScaleMessage b toUnit m s = _
  rw [execScaleMessage, live_of_running _ hs, if_neg (by simp [hsl]), if_pos (by simp [hok])]

theorem exec_scaleMessage {s : State} (hs : Running s) {b : Bib} (hsl : kindOf b.toNat = some .sl)
    {m : List Byte} {toUnit : Bool} (hok : scaleOk s b.toNat toUnit m = true) :
    exec (.scaleMessage b toUnit m) s = .next (if toUnit then scaleArrives s b.toNat m else storeScale s b.toNat m) := by
  change execScaleMessage b toUnit m s = _
  rw [execScaleMessage, live_of_running _ hs, if_neg (by simp [hsl]), if_neg (by simp [hok])]

/-- A list of blocks holds one of the stream and tag. -/
theorem any_key_iff (l : List ((BitVec 16 × BitVec 16) × Nat)) (key : BitVec 16 × BitVec 16) :
    l.any (fun x => decide (x.1 = key)) = true ↔ ∃ n, (key, n) ∈ l := by
  simp only [List.any_eq_true, decide_eq_true_eq]
  constructor
  · rintro ⟨⟨_, n⟩, hx, rfl⟩
    exact ⟨n, hx⟩
  · rintro ⟨n, hn⟩
    exact ⟨(key, n), hn, rfl⟩

theorem scaleArrives_of_asked {s : State} {b : Nat} {m : List Byte}
    (h : ∃ n, (scaleKey m, n) ∈ (s.unit b).slice.scaleAsked) :
    scaleArrives s b m = s.onUnit b (fun u => { u with slice := { u.slice with
      scaleAsked := u.slice.scaleAsked.filter (fun x => decide (x.1 ≠ scaleKey m))
      scaleIn := u.slice.scaleIn ++ [(scaleKey m, (msgRest m).take (scaleSize s b true m))] } }) := by
  rw [scaleArrives, if_pos ((any_key_iff _ _).2 h)]

theorem scaleArrives_of_unasked {s : State} {b : Nat} {m : List Byte}
    (h : ¬ ∃ n, (scaleKey m, n) ∈ (s.unit b).slice.scaleAsked) : scaleArrives s b m = s := by
  rw [scaleArrives, if_neg (mt (any_key_iff _ _).1 h)]

/-- The slice no longer counts a scale block as on its way to MG. -/
def UnitSt.scaleStored (key : BitVec 16 × BitVec 16) (u : UnitSt) : UnitSt :=
  { u with slice := { u.slice with scaleOut := u.slice.scaleOut.filter (fun x => decide (x.1 ≠ key)) } }

/-- A scale block that MG writes into an entry of the scratchpad: memory at its place, and the slice's note of it. -/
def storedScale (s : State) (b : Nat) (m : List Byte) (key : Nat) : State :=
  { s.onUnit b (UnitSt.scaleStored (scaleKey m)) with
    mem := writeBytes s.mem key ((msgRest m).take (scaleSize s b false m)) }

/-- The entry counts the block where it is the next one. -/
theorem storeScale_of_placed {s : State} {b : Nat} {m : List Byte} {e : Stream} {key : Nat}
    (he : s.stream (scaleKey m).1.toNat = e) (hspace : e.pspace = 1) (hkind : e.kind = 1) (hst : e.st ≠ .free)
    (hkey : blockKey e (scaleDesc s b (scaleKey m).1.toNat) 1 (scaleKey m).2 = some key) :
    storeScale s b m = if (scaleKey m).2 = e.wtag then
        (storedScale s b m key).setStream (scaleKey m).1.toNat { e with wtag := e.wtag + 1 }
      else storedScale s b m key := by
  rw [storeScale, he, if_pos ⟨hspace, hkind, hst⟩, hkey]; rfl

theorem unit_storedScale_ne (s : State) {b n : Nat} (m : List Byte) (key : Nat) (h : n ≠ b) :
    (storedScale s b m key).unit n = s.unit n := State.unit_onUnit_ne s (UnitSt.scaleStored (scaleKey m)) h

theorem storeScale_frame {s : State} {b : Nat} {m : List Byte} {e : Stream} {key : Nat}
    (he : s.stream (scaleKey m).1.toNat = e) (hspace : e.pspace = 1) (hkind : e.kind = 1) (hst : e.st ≠ .free)
    (hkey : blockKey e (scaleDesc s b (scaleKey m).1.toNat) 1 (scaleKey m).2 = some key) :
    (storeScale s b m).mem = writeBytes s.mem key ((msgRest m).take (scaleSize s b false m)) ∧
    (storeScale s b m).stream (scaleKey m).1.toNat = (if (scaleKey m).2 = e.wtag then { e with wtag := e.wtag + 1 } else e) ∧
    (∀ n, n ≠ (scaleKey m).1.toNat → (storeScale s b m).stream n = s.stream n) ∧
    ∀ n, n ≠ b → (storeScale s b m).unit n = s.unit n := by
  rw [storeScale_of_placed he hspace hkind hst hkey]
  by_cases hnext : (scaleKey m).2 = e.wtag
  · rw [if_pos hnext, if_pos hnext]
    exact ⟨rfl, State.stream_setStream_self _ _ _, fun _ hn => State.stream_setStream_ne (storedScale s b m key) _ hn,
      fun _ hn => unit_storedScale_ne s m key hn⟩
  · rw [if_neg hnext, if_neg hnext]
    exact ⟨rfl, he, fun _ _ => rfl, fun _ hn => unit_storedScale_ne s m key hn⟩

/-! ### BATON, MGMT, MGMTR and EVENT (R210, R361, R421) -/

/-- A framed baton message is handled as its TYPE states, at its unit or at MG. -/
theorem exec_batonMessage {s : State} (hs : Running s) (b : Bib) {m : List Byte} (hframe : linkMsgOk m 0x18 2 0 0 0 = true)
    (hok : batonMsgOk (wordLE 128 (msgRest m)) = true) (toUnit : Bool) :
    exec (.batonMessage b toUnit m) s = .next (if toUnit then
      settleFar (unitTakes s b.toNat (wordLE 128 (msgRest m))) b.toNat else mgTakes s (wordLE 128 (msgRest m))) := by
  have hframed : framedBaton m = some (wordLE 128 (msgRest m)) := by rw [framedBaton, if_pos hframe]
  change execBatonMessage b toUnit m s = _
  rw [execBatonMessage, live_of_running _ hs, hframed]
  simp only [hok, Bool.not_true, Bool.false_eq_true, if_false]

/-- A relayed access at a far unit that answers: one aligned to its width is performed. -/
theorem exec_mgmt {s : State} (hs : Running s) {b : Bib} (hfar : isFar b.toNat = true)
    (hheld : (s.unit b.toNat).held = true) {m : List Byte}
    (hok : linkMsgOk m 0x1A 1 0xFF03FFFF 0xFFFFFFFF 0xFFFFFFFF = true) {off : Nat} {wide : Bool} {tid : BitVec 8}
    (hoff : (bitsAt (msgWord m 1) 0 16).toNat = off) (hwide : bitAt (msgWord m 1) 17 = wide)
    (htid : bitsAt (msgWord m 1) 24 8 = tid) :
    exec (.mgmt b m) s = .next (
      if off % (if wide then 8 else 4) ≠ 0 then sendMsg s false b.toNat (mgmtReply tid .format (0, 0))
      else if bitAt (msgWord m 1) 16 then
        sendMsg (mgmtWrite s b.toNat off wide (msgWord m 2) (msgWord m 3)) false b.toNat (mgmtReply tid .ok (0, 0))
      else sendMsg s false b.toNat (mgmtReply tid .ok (mgmtAnswer s b.toNat off wide))) := by
  change execMgmt b m s = _
  rw [execMgmt, live_of_running _ hs, hoff, hwide, htid, if_neg (by simp [hfar, hheld]),
    if_neg (by rw [hok]; decide)]

theorem exec_mgmtr {s : State} (hs : Running s) (b : Bib) (m : List Byte) :
    exec (.mgmtr b m) s = .next (if mgmtrOk m then s else badMsg s 0 b.toNat m) := live_of_running _ hs

theorem exec_eventMessage_malformed {s : State} (hs : Running s) (b : Bib) {m : List Byte} (hok : eventMsgOk m = false) :
    exec (.eventMessage b m) s = .next (badMsg s 0 b.toNat m) := by
  change execEventMessage b m s = _
  rw [execEventMessage, live_of_running _ hs, if_pos (by simp [hok])]

/-- Settles O52: each type of message has a law of its own for the form it is taken in, and one for the form it is discarded
in. -/
theorem messagesAreTakenByTheirType : Obligations.MessagesAreTakenByTheirType := by
  unfold Obligations.MessagesAreTakenByTheirType
  intro s b m hs w body bad
  refine ⟨?desc, ?compl, exec_compl_malformed hs b, exec_summ_malformed hs b, exec_summ hs b, exec_statsMessage hs b,
    exec_norm hs b, ⟨exec_progreq hs b, ?prog⟩, ?scale, ?baton, ?mgmt, ?mgmtr, ?mgmtrMalformed,
    exec_eventMessage_malformed hs b⟩
  case desc =>
    intro hfar hheld hawake n item s1
    refine ⟨fun hok => ?_, exec_descMessage_malformed hs hfar hheld hawake⟩
    exact (exec_descMessage hs hfar hheld hawake hok).trans (congrArg _ (issueReceived_eq s1 b.toNat))
  case compl =>
    intro q x hok hb howed hrun hgoes
    obtain ⟨trackers, contexts, hexec⟩ := exec_compl_of_run hs hok rfl hb howed hrun hgoes
    exact ⟨_, hexec, rfl, queue_writeRecord s q body _, mem_writeRecord s q body (ringInstr s x x.head).length⟩
  case prog =>
    intro hok hasked
    refine ⟨_, exec_progMessage hs hok rfl rfl hasked, ?_, ?_, fun n hn => State.unit_onUnit_ne s _ hn, rfl⟩
    · rw [State.unit_onUnit_self]; exact mem_holdProgram ..
    · rw [State.unit_onUnit_self]
  case scale =>
    intro hsl num tag asked e
    refine ⟨fun hok hasked => ?_, fun hok hasked => ?_, fun key hok hspace hkind hst hkey => ?_,
      exec_scaleMessage_malformed hs hsl, exec_scaleMessage_malformed hs hsl⟩
    · refine ⟨_, exec_scaleMessage hs hsl hok, ?_⟩
      rw [if_pos rfl, scaleArrives_of_asked hasked]
      refine ⟨rfl, fun n hn => State.unit_onUnit_ne s _ hn, ?_⟩
      rw [State.unit_onUnit_self]; rfl
    · rw [exec_scaleMessage hs hsl hok, if_pos rfl, scaleArrives_of_unasked hasked]
    · exact ⟨_, exec_scaleMessage hs hsl hok, storeScale_frame rfl hspace hkind hst hkey⟩
  case baton =>
    exact fun hframe hok => ⟨exec_batonMessage hs b hframe hok true, exec_batonMessage hs b hframe hok false⟩
  case mgmt =>
    intro hfar hheld hok off wide reply
    have hexec := exec_mgmt hs hfar hheld hok (off := off) (wide := wide) rfl rfl rfl
    refine ⟨fun h => ?_, fun h hread => ?_, fun h hwrite => ?_⟩
    · rw [hexec, if_pos h]; rfl
    · rw [hexec, if_neg (not_not.2 h), if_neg (Bool.eq_false_iff.1 hread)]; rfl
    · rw [hexec, if_neg (not_not.2 h), if_pos hwrite]; rfl
  case mgmtr => exact fun hok => by rw [exec_mgmtr hs, if_pos hok]
  case mgmtrMalformed => exact fun hok => by rw [exec_mgmtr hs, if_neg (Bool.eq_false_iff.1 hok)]; rfl

end Sys2Proof.Machine
end

section
/-!
PROOFS. Writes of the format table and of the layer map: the staged copy alone, and the baton that is staging (R57, R204,
R209, R211, R448).
-/

namespace Sys2Proof.Machine

/-! ### What a staging by MG changes (R209, R211) -/

/-- Two states differ at most in what units hold staged, in the links and in what the complex drives out. -/
def SameButStaged (s t : State) : Prop :=
  (∃ u l o, t = { s with units := u, links := l, out := o }) ∧
    ∀ n, (t.unit n).files = (s.unit n).files ∧ (t.unit n).issued = (s.unit n).issued

theorem SameButStaged.refl (s : State) : SameButStaged s s := ⟨⟨_, _, _, rfl⟩, fun _ => ⟨rfl, rfl⟩⟩

theorem SameButStaged.trans {s t v : State} (h : SameButStaged s t) (h' : SameButStaged t v) : SameButStaged s v := by
  obtain ⟨⟨_, _, _, rfl⟩, hunit⟩ := h
  obtain ⟨⟨_, _, _, rfl⟩, hunit'⟩ := h'
  exact ⟨⟨_, _, _, rfl⟩, fun n => ⟨(hunit' n).1.trans (hunit n).1, (hunit' n).2.trans (hunit n).2⟩⟩

/-- A baton message changes the links and what is driven out alone. -/
theorem sendBaton_frame (s : State) (toUnit : Bool) (b : Nat) (m : BitVec 128) :
    ∃ l o, sendBaton s toUnit b m = { s with links := l, out := o } := by
  unfold sendBaton
  split
  · exact sendMsg_frame s toUnit b _
  · exact ⟨s.links, _, rfl⟩

theorem sendStage_sameButStaged (s : State) (b : Nat) : SameButStaged s (sendStage s b) := by
  unfold sendStage
  simp only
  generalize hf : (fun u : UnitSt => { u with ftabStaged := s.baton.ftab, lmapStaged := s.baton.lmap }) = f
  obtain ⟨l, o, h⟩ := sendBaton_frame (s.onUnit b f) true b
    (batonMsg 0x20 s.baton.seq (s.baton.epoch + 1) b (lapAfter s) (annRpt s) false (stagedDigest s b))
  rw [h]
  refine ⟨⟨_, _, _, rfl⟩, fun n => ?_⟩
  change ((s.onUnit b f).unit n).files = _ ∧ ((s.onUnit b f).unit n).issued = _
  by_cases hn : n = b
  · subst hn; rw [State.unit_onUnit_self, ← hf]; exact ⟨rfl, rfl⟩
  · rw [State.unit_onUnit_ne s f hn]; exact ⟨rfl, rfl⟩

/-- The baton after MG stages: a new SEQ, the staged tables fixed, no acknowledgement (R211). -/
def stagedBaton (s : State) : Baton :=
  { s.baton with
    st := .staging, seq := nextSeq s.baton.seq, ftab := s.tables.ftStaged, lmap := stagedMap s (widthsFor s (annRpt s))
    widths := widthsFor s (annRpt s), taken := if annRpt s then reqLayers s else [], members := s.members, acks := []
    pendingNext := false }

theorem stageAll_sameButStaged (s : State) : SameButStaged { s with baton := stagedBaton s } (stageAll s) :=
  each_inv (SameButStaged { s with baton := stagedBaton s }) sendStage
    (fun t b h => h.trans (sendStage_sameButStaged t b)) _ _ (.refl _)

/-- A change that is no part of a staging under way, or comes at its commit point, stages nothing. -/
theorem restage_of_idle {s : State}
    (h : s.baton.st ≠ .staging ∨ s.pace.passed = true ∨ ∃ p, s.pace.ann = some p ∧ p.1 + 4096 ≤ s.now) : restage s = s := by
  rw [restage, if_neg]
  rcases h with h | h | ⟨p, hp, hlate⟩
  · simp [h]
  · simp [h]
  · simp [hp, hlate]

/-- A change before the commit point of a baton that is staging stages again. -/
theorem restage_of_staging {s : State} (hst : s.baton.st = .staging) (hpassed : s.pace.passed = false)
    (hlate : ¬ ∃ p, s.pace.ann = some p ∧ p.1 + 4096 ≤ s.now) : restage s = stageAll s := by
  have hany : s.pace.ann.any (fun a => decide (a.1 + 4096 ≤ s.now)) = false := by
    rw [← Bool.not_eq_true, Option.any_eq_true]; simpa only [decide_eq_true_eq] using hlate
  rw [restage, if_pos (by simp only [hst, hpassed, hany]; decide)]

/-- The write lies in the MCLK cycle of the commit point of the announced LB, or behind it (R448). -/
def WriteLate (s : State) : Prop := ∃ p, s.pace.ann = some p ∧ (p.1 + 4096) / 9 ≤ s.now / 9

theorem writeLate_iff (s : State) : s.pace.ann.any (fun a => decide ((a.1 + 4096) / 9 ≤ s.now / 9)) = true ↔ WriteLate s := by
  simp only [Option.any_eq_true, decide_eq_true_eq]; rfl

theorem restageWrite_of_idle {s : State} (h : s.baton.st ≠ .staging ∨ s.pace.passed = true ∨ WriteLate s) :
    restageWrite s = s := by
  rw [restageWrite]
  split
  · rfl
  · next hlate => exact restage_of_idle (h.imp_right (Or.imp_right (fun hl => absurd ((writeLate_iff s).2 hl) hlate)))

/-- What lies before the commit point by whole MCLK cycles lies before it. -/
theorem restageWrite_of_staging {s : State} (hst : s.baton.st = .staging) (hpassed : s.pace.passed = false)
    (hlate : ¬ WriteLate s) : restageWrite s = stageAll s := by
  rw [restageWrite, if_neg (mt (writeLate_iff s).1 hlate)]
  refine restage_of_staging hst hpassed ?_
  rintro ⟨p, hp, hle⟩
  exact hlate ⟨p, hp, Nat.div_le_div_right hle⟩

/-- A change of tables that stages nothing. -/
theorem restageWrite_tables_of_idle {s : State} (x : Tables)
    (h : s.baton.st ≠ .staging ∨ s.pace.passed = true ∨ WriteLate s) :
    restageWrite { s with tables := x } = { s with tables := x } :=
  restageWrite_of_idle (s := { s with tables := x }) h

/-- A change of tables that MG stages: the new tables, and a baton with the next SEQ that carries them. -/
theorem restageWrite_tables_of_staging {s : State} (x : Tables) (hst : s.baton.st = .staging)
    (hpassed : s.pace.passed = false) (hlate : ¬ WriteLate s) :
    ∃ t, restageWrite { s with tables := x } = t ∧ t.tables = x ∧ t.baton.seq = nextSeq s.baton.seq ∧
      t.baton.ftab = x.ftStaged ∧ t.baton.acks = [] ∧ t.baton.st = .staging ∧ t.mem = s.mem ∧ t.trackers = s.trackers := by
  rw [restageWrite_of_staging (s := { s with tables := x }) hst hpassed hlate]
  obtain ⟨⟨_, _, _, h⟩, -⟩ := stageAll_sameButStaged { s with tables := x }
  rw [h]
  exact ⟨_, rfl, rfl, rfl, rfl, rfl, rfl, rfl, rfl⟩

/-! ### The two writes -/

/-- FORMAT_TABLE_WRITE by an agent that may write the context's table, at READY. -/
theorem exec_formatTableWrite {s : State} (hs : Serving s) {a : Agent} {c : BitVec 10} (ha : mayWrite s a c.toNat = true)
    (i : BitVec 6) (v : BitVec 32) :
    exec (.formatTableWrite a c i v) s = .next (unlatched (restageWrite { s with
      tables := { s.tables with ftStaged := tset 0 s.tables.ftStaged (64 * c.toNat + i.toNat) v } })) := by
  change execFormatTableWrite a c i v s = _
  rw [execFormatTableWrite, access_of_running _ hs.1, ha, guarded_of_allowed, if_pos (apertureOpen_of_serving hs)]

/-- LAYER_MAP_WRITE by the profile context, COACH or HOST, at READY. -/
theorem exec_layerMapWrite {s : State} (hs : Serving s) {a : Agent} (hctx : s.profileCtx.isSome = true)
    (ha : profileAgent s a = true) (l : BitVec 12) (v : BitVec 32) :
    exec (.layerMapWrite a l v) s = .next (unlatched (restageWrite { s with
      tables := { s.tables with lmStaged := tset 0 s.tables.lmStaged l.toNat (v &&& 0x01FFFFFF) } })) := by
  change execLayerMapWrite a l v s = _
  rw [execLayerMapWrite, access_of_running _ hs.1, hctx, ha, Bool.and_self, guarded_of_allowed,
    if_pos (apertureOpen_of_serving hs)]

/-- Settles O21: either write sets its staged entry, and MG then stages again exactly where a baton is staging before the
MCLK cycle of its commit point. -/
theorem tableWritesReachTheStagedCopy : Obligations.TableWritesReachTheStagedCopy := by
  unfold Obligations.TableWritesReachTheStagedCopy
  intro s a v hs late
  constructor
  · intro c i ha new
    refine ⟨fun h => ?_, fun hst hpassed hlate => ?_⟩
    · exact (exec_formatTableWrite hs ha i v).trans (congrArg (Host.Outcome.next ∘ unlatched)
        (restageWrite_tables_of_idle _ h))
    · obtain ⟨t, rfl, ht⟩ := restageWrite_tables_of_staging { s.tables with ftStaged := new } hst hpassed hlate
      exact ⟨_, exec_formatTableWrite hs ha i v, ht⟩
  · intro l hctx ha new
    refine ⟨fun h => ?_, fun hst hpassed hlate => ?_⟩
    · exact (exec_layerMapWrite hs hctx ha l v).trans (congrArg (Host.Outcome.next ∘ unlatched)
        (restageWrite_tables_of_idle _ h))
    · obtain ⟨t, rfl, htables, hseq, -, hrest⟩ :=
        restageWrite_tables_of_staging { s.tables with lmStaged := new } hst hpassed hlate
      exact ⟨_, exec_layerMapWrite hs hctx ha l v, htables, hseq, hrest⟩

end Sys2Proof.Machine
end

section
/-!
PROOFS. The TABLE loads: what a load does at a step, and the copies that each kind writes (R46, R120, R121, R243, R209,
R211, R460).
-/

namespace Sys2Proof.Machine

/-! ### A load's step -/

/-- A codebook load that completes changes what a baton in staging carries (R209, R211). -/
def restageLoad (o : Op) (r : State × Issued) : State × Issued :=
  if o == .tableCodebook && decide (r.2.finished = some .ok) then (restage r.1, r.2) else r

theorem loadWork_eq (s : State) (b q : Nat) (o : Op) :
    loadWork s b q o = workOn s b q o (fun t i => restageLoad o (loadRun b t i)) := rfl

theorem restageLoad_of_other {o : Op} (h : o ≠ .tableCodebook) (r : State × Issued) : restageLoad o r = r := by
  simp [restageLoad, h]

theorem restageLoad_of_unfinished (o : Op) {r : State × Issued} (h : r.2.finished ≠ some .ok) : restageLoad o r = r := by
  simp [restageLoad, h]

theorem restageLoad_codebook {r : State × Issued} (h : r.2.finished = some .ok) :
    restageLoad .tableCodebook r = (restage r.1, r.2) := by
  simp [restageLoad, h]

/-- The command that carries a load out. -/
def loadCommand (b : Bib) (q : BitVec 14) : Op → Option Instr
  | .tableCodebook => some (.tableCodebook b q)
  | .tableChannel => some (.tableChannel b q)
  | .tableRescale => some (.tableRescale b q)
  | .tableProgram => some (.tableProgram b q)
  | _ => none

theorem exec_loadCommand {s : State} (hs : s.mg.fatal = false) {b : Bib} {q : BitVec 14} {o : Op} {c : Instr}
    (hc : loadCommand b q o = some c) : exec c s = .next (loadWork s b.toNat q.toNat o) := by
  unfold loadCommand at hc
  split at hc <;> cases hc <;> exact live_of_running _ hs

/-- The oldest unfinished instruction of a queue is unfinished. -/
theorem unfinished_of_works {s : State} {b : Bib} {q : BitVec 14} {i : Issued} (h : Works s b q i) : i.finished = none := by
  have hm := (List.mem_filter.1 (List.mem_of_mem_head? h.first)).2
  simp only [Bool.and_eq_true, Option.isNone_iff_eq_none] at hm
  exact hm.1.2

theorem finished_ne_of_works {s : State} {b : Bib} {q : BitVec 14} {i : Issued} (h : Works s b q i) (st : Status) :
    { i with finished := some st } ≠ i := by
  intro heq
  have hfin := congrArg Issued.finished heq
  rw [unfinished_of_works h] at hfin
  cases hfin

section
variable {s : State} {b : Bib} {q : BitVec 14} {i : Issued} (h : Works s b q i) {c : Instr}
  (hc : loadCommand b q i.op = some c)
include h hc

/-- A load that changes its instruction: the state its step leaves, with the instruction put back. -/
theorem exec_load {r : State × Issued} (hr : loadRun b.toNat s i = r) (hne : r.2 ≠ i) :
    exec c s = .next (setIssued (restageLoad i.op r).1 b.toNat r.2) := by
  have hsnd : (restageLoad i.op r).2 = r.2 := by unfold restageLoad; split <;> rfl
  rw [exec_loadCommand h.running hc, loadWork_eq, workOn_of_works h rfl _ (by rw [hr, hsnd]; exact hne), hr, hsnd]

/-- A load that waits for earlier readers leaves the state (R46, R120, R243). -/
theorem exec_load_waiting (hl : i.loaded = []) (hw : loadWaits s b.toNat i = true) : exec c s = .next s := by
  have hr : loadRun b.toNat s i = (s, i) := by simp [loadRun, hl, hw]
  rw [exec_loadCommand h.running hc, loadWork_eq, workOn_of_waiting h rfl _ (by
    rw [hr]; exact restageLoad_of_unfinished _ (by rw [unfinished_of_works h]; simp))]

/-- A source that fails its check ends the load with FORMAT, and nothing is written (R42, R117, R118, R243). -/
theorem exec_load_malformed (hl : i.loaded = []) (hw : loadWaits s b.toNat i = false)
    (hok : loadSourceOk i (loadSource s i) = false) :
    exec c s = .next (setIssued s b.toNat { i with finished := some .format }) := by
  have hr : loadRun b.toNat s i = (s, { i with finished := some .format }) := by simp [loadRun, hl, hw, hok]
  rw [exec_load h hc hr (finished_ne_of_works h _), restageLoad_of_unfinished _ (by simp)]

end

/-! ### Loads of channel and rescale entries (R120, R121, R460) -/

/-- Bytes of an entry of a converter's file. -/
def entryBytes (o : Op) : Nat := if o == .tableChannel then 4 else 8

/-- The bytes of a file load that are still to be written: all of its source at its first step. -/
def bytesLeft (s : State) (i : Issued) : List Byte := if i.loaded = [] then loadSource s i else i.loaded

/-- The bytes of the source that one step of a load writes: 512 of an IMMEDIATE one, all of another. -/
def bytesTaken (i : Issued) (left : List Byte) : Nat :=
  if loadImmediate i.op i.body then min 512 left.length else left.length

/-- The state with the files of a unit replaced. -/
def State.withFiles (s : State) (b : Nat) (f : Files) : State := s.setUnit b { s.unit b with files := f }

/-- The files after entries of a channel or rescale load from entry a on were written. -/
def writeEntries (i : Issued) (now a n : Nat) (left : List Byte) (f : Files) : Files :=
  let ws := wordsOf (entryBytes i.op) (n / entryBytes i.op) left
  if i.op == .tableChannel then f.loadChannel now (loadImmediate i.op i.body) a (ws.map (wordOf 32))
  else f.loadRescale now (loadImmediate i.op i.body) a (ws.map (wordOf 64))

theorem writeEntries_channel {i : Issued} (h : i.op = .tableChannel) (now a n : Nat) (left : List Byte) (f : Files) :
    writeEntries i now a n left f =
      f.loadChannel now (loadImmediate i.op i.body) a ((wordsOf 4 (n / 4) left).map (wordOf 32)) := by
  have hbytes : entryBytes .tableChannel = 4 := rfl
  simp only [writeEntries, h, hbytes, beq_self_eq_true, if_true]

theorem writeEntries_rescale {i : Issued} (h : i.op = .tableRescale) (now a n : Nat) (left : List Byte) (f : Files) :
    writeEntries i now a n left f =
      f.loadRescale now (loadImmediate i.op i.body) a ((wordsOf 8 (n / 8) left).map (wordOf 64)) := by
  have hbytes : entryBytes .tableRescale = 8 := rfl
  have hother : (Op.tableRescale == .tableChannel) = false := rfl
  simp only [writeEntries, h, hbytes, hother, Bool.false_eq_true, if_false]

/-- The instruction of a file load after a step: what is left of its source, or its end. -/
def afterEntries (i : Issued) (left : List Byte) : Issued :=
  { i with
    loaded := left.drop (bytesTaken i left)
    finished := if left.length ≤ bytesTaken i left then some .ok else none }

theorem loadEntries_eq (s : State) (b : Nat) (i : Issued) (left : List Byte) :
    loadEntries s b i left =
      (s.withFiles b (writeEntries i s.now (bFirst i.body + (bCount i.body - left.length / entryBytes i.op))
        (bytesTaken i left) left (s.unit b).files), afterEntries i left) := rfl

/-- Each step of a file load takes bytes off its source, or ends it. -/
theorem afterEntries_ne {i : Issued} (hf : i.finished = none) {left : List Byte} (hl : i.loaded ≠ [] → left = i.loaded) :
    afterEntries i left ≠ i := by
  intro heq
  have hfin : (afterEntries i left).finished = none := by rw [heq, hf]
  have hloaded : left.drop (bytesTaken i left) = i.loaded := congrArg Issued.loaded heq
  have hmore : bytesTaken i left < left.length := by
    by_contra hle
    simp [afterEntries, Nat.le_of_not_lt hle] at hfin
  have hlen := congrArg List.length hloaded
  have hne : i.loaded ≠ [] := by
    rw [← List.length_pos_iff, ← hlen, List.length_drop]; omega
  rw [List.length_drop, ← hl hne] at hlen
  have htaken : bytesTaken i left = 0 := by omega
  unfold bytesTaken at htaken
  split at htaken <;> omega

/-- A step that takes all of a source not begun before ends the load. -/
theorem afterEntries_all {i : Issued} (hl : i.loaded = []) {left : List Byte} (hall : bytesTaken i left = left.length) :
    afterEntries i left = { i with finished := some .ok } := by
  rw [afterEntries, hall, List.drop_length, if_pos le_rfl, ← hl]

theorem bytesTaken_all {i : Issued} {left : List Byte} (h : loadImmediate i.op i.body = false ∨ left.length ≤ 512) :
    bytesTaken i left = left.length := by
  unfold bytesTaken
  split
  · rcases h with h | h
    · simp_all
    · omega
  · rfl

/-- A load that waits for nobody, and whose source passes its check. -/
def LoadReady (s : State) (b : Nat) (i : Issued) : Prop :=
  i.loaded = [] ∧ loadWaits s b i = false ∧ loadSourceOk i (loadSource s i) = true

theorem length_loadSource (s : State) (i : Issued) : (loadSource s i).length = loadBytes i.op i.body :=
  length_readBytes _ _ _

section
variable {s : State} {b : Bib} {q : BitVec 14} {i : Issued} (h : Works s b q i) {c : Instr}
  (hc : loadCommand b q i.op = some c) (hop : i.op = .tableChannel ∨ i.op = .tableRescale)
include h hc hop

/-- A step of a channel or rescale load writes the entries of the bytes it takes. -/
theorem exec_load_entries (hgood : LoadReady s b.toNat i ∨ i.loaded ≠ []) {left : List Byte}
    (hleft : left = if i.loaded = [] then loadSource s i else i.loaded) :
    exec c s = .next (setIssued (s.withFiles b.toNat (writeEntries i s.now
      (bFirst i.body + (bCount i.body - left.length / entryBytes i.op)) (bytesTaken i left) left (s.unit b.toNat).files))
      b.toNat (afterEntries i left)) := by
  have hrun : loadRun b.toNat s i = loadEntries s b.toNat i left := by
    by_cases hl : i.loaded = []
    · obtain ⟨-, hw, hok⟩ := hgood.resolve_right (not_not.2 hl)
      rw [if_pos hl] at hleft
      rcases hop with hop | hop <;> simp [loadRun, hl, hw, hok, hleft, hop]
    · rw [if_neg hl] at hleft
      simp [loadRun, hl, hleft]
  rw [loadEntries_eq] at hrun
  have hne : i.op ≠ .tableCodebook := by rcases hop with hop | hop <;> simp [hop]
  rw [exec_load h hc hrun (afterEntries_ne (unfinished_of_works h) (fun hl => by rw [hleft, if_neg hl])),
    restageLoad_of_other hne]

/-- A load that writes its whole source in one step: every entry that it names, and its end. -/
theorem exec_load_whole (hgood : LoadReady s b.toNat i)
    (hall : loadImmediate i.op i.body = false ∨ (loadSource s i).length ≤ 512) :
    exec c s = .next (setIssued (s.withFiles b.toNat (writeEntries i s.now (bFirst i.body)
      (entryBytes i.op * bCount i.body) (loadSource s i) (s.unit b.toNat).files)) b.toNat
      { i with finished := some .ok }) := by
  have hlen : (loadSource s i).length = entryBytes i.op * bCount i.body := by
    rw [length_loadSource]; rcases hop with hop | hop <;> simp [hop, loadBytes, entryBytes]
  have hpos : 0 < entryBytes i.op := by unfold entryBytes; split <;> decide
  rw [exec_load_entries h hc hop (.inl hgood) (by rw [if_pos hgood.1]), bytesTaken_all hall,
    afterEntries_all hgood.1 (bytesTaken_all hall), hlen, Nat.mul_div_cancel_left _ hpos, Nat.sub_self, Nat.add_zero]

end

/-! ### Loads of programs (R243) -/

/-- A fold that changes one unit after another, each of them alone. -/
theorem unit_each {f : State → Nat → State} {g : UnitSt → UnitSt}
    (hf : ∀ t b n, (f t b).unit n = if n = b then g (t.unit n) else t.unit n) {l : List Nat} (hl : l.Nodup) (s : State)
    (n : Nat) : (s.each l f).unit n = if n ∈ l then g (s.unit n) else s.unit n := by
  induction l generalizing s with
  | nil => simp [State.each]
  | cons b l ih =>
    obtain ⟨hb, hl⟩ := List.nodup_cons.1 hl
    refine (ih hl (f s b)).trans ?_
    rw [hf]
    by_cases hn : n = b
    · subst hn; simp [hb]
    · simp [hn]

/-- The unit without its copies of the programs of `p`. -/
def UnitSt.withoutPrograms (p : Nat → Nat → Bool) (u : UnitSt) : UnitSt :=
  { u with programs := u.programs.filter (fun x => !p x.1 x.2.1) }

theorem UnitSt.withoutPrograms_of_none {p : Nat → Nat → Bool} {u : UnitSt}
    (h : ¬ u.programs.any (fun x => p x.1 x.2.1) = true) : u.withoutPrograms p = u := by
  have hall : u.programs.filter (fun x => !p x.1 x.2.1) = u.programs :=
    List.filter_eq_self.2 (fun x hx => by
      simp only [List.any_eq_true, not_exists, not_and] at h
      simp [h x hx])
  rw [withoutPrograms, hall]

/-- Every unit drops its copies of the programs discarded. -/
theorem unit_discardCopies (s : State) (p : Nat → Nat → Bool) (n : Nat) :
    (discardCopies s p).unit n = if n ∈ allBibs then (s.unit n).withoutPrograms p else s.unit n := by
  refine unit_each (fun t b n => ?_) List.nodup_range s n
  by_cases hany : (t.unit b).programs.any (fun x => p x.1 x.2.1) = true
  · rw [if_pos hany]
    by_cases hn : n = b
    · subst hn; rw [if_pos rfl, State.unit_onUnit_self]; rfl
    · rw [if_neg hn, State.unit_onUnit_ne t _ hn]
  · rw [if_neg hany]
    by_cases hn : n = b
    · subst hn; rw [if_pos rfl, UnitSt.withoutPrograms_of_none hany]
    · rw [if_neg hn]

/-- Discarding copies changes units, and nothing else. -/
theorem discardCopies_frame (s : State) (p : Nat → Nat → Bool) :
    ∃ u, discardCopies s p = { s with units := u } := by
  refine each_inv (fun t => ∃ u, t = { s with units := u }) _ ?_ _ _ ⟨_, rfl⟩
  rintro _ b ⟨u, rfl⟩
  split
  · exact ⟨_, rfl⟩
  · exact ⟨_, rfl⟩

/-- A unit that dropped its copies of a program holds none. -/
theorem heldProgram_of_without {u v : UnitSt} {p : Nat → Nat → Bool} {c k : Nat} (hp : p c k = true)
    (h : v.programs = (u.withoutPrograms p).programs) : heldProgram v c k = none := by
  rw [heldProgram, Option.map_eq_none_iff, List.find?_eq_none, h]
  intro x hx hck
  obtain ⟨rfl, rfl⟩ : x.1 = c ∧ x.2.1 = k := by simpa using hck
  have hkept := (List.mem_filter.1 hx).2
  simp [hp] at hkept

section
variable {s : State} {b : Bib} {q : BitVec 14} {i : Issued} (h : Works s b q i)
include h

/-- A program load ends OK with the record in its place in the scratchpad, and no unit holds a copy of it. -/
theorem exec_load_program (hop : i.op = .tableProgram) (hgood : LoadReady s b.toNat i) :
    ∃ t, exec (.tableProgram b q) s = .next t ∧
      t.mem = writeBytes s.mem (spadKey (s.programAt i.ctx (bProg i.body))) (loadSource s i) ∧
      placed t b i = some { i with finished := some .ok } ∧
      (∀ n ∈ allBibs, heldProgram (t.unit n) i.ctx (bProg i.body) = none) ∧ { t with units := s.units, mem := s.mem } = s := by
  obtain ⟨hl, hw, hok⟩ := hgood
  generalize ht : s.writeSpad (s.programAt i.ctx (bProg i.body)) (loadSource s i) = t
  generalize hp : (fun x y => x == i.ctx && y == bProg i.body) = p
  have hrun : loadRun b.toNat s i = (discardCopies t p, { i with finished := some .ok }) := by
    simp [loadRun, hl, hw, hok, hop, ht, hp, discardProgram]
  have hexec := exec_load h (c := .tableProgram b q) (by rw [hop]; rfl) hrun (finished_ne_of_works h _)
  rw [restageLoad_of_other (by simp [hop])] at hexec
  dsimp only at hexec
  have hunit : ∀ n, (t.unit n) = s.unit n := fun n => by rw [← ht]; rfl
  have hissued : ((discardCopies t p).unit b.toNat).issued = (s.unit b.toNat).issued := by
    rw [unit_discardCopies, hunit]; split <;> rfl
  refine ⟨_, hexec, ?_, ?_, fun n hn => ?_, ?_⟩
  · obtain ⟨u, hu⟩ := discardCopies_frame t p
    rw [hu, ← ht]; rfl
  · refine placed_setIssued rfl rfl ?_
    rw [placed, hissued]
    exact placed_of_works h
  · have hprograms : ((setIssued (discardCopies t p) b.toNat { i with finished := some .ok }).unit n).programs =
        ((discardCopies t p).unit n).programs := by
      by_cases hb : n = b.toNat
      · subst hb; rw [unit_setIssued]
      · rw [unit_setIssued_ne _ _ hb]
    rw [unit_discardCopies, if_pos hn] at hprograms
    have hk : p i.ctx (bProg i.body) = true := by rw [← hp]; simp only [beq_self_eq_true, Bool.and_self]
    exact heldProgram_of_without hk hprograms
  · obtain ⟨u, hu⟩ := discardCopies_frame t p
    rw [hu, ← ht]; rfl

/-! ### Loads of codebooks (R46, R209, R211) -/

/-- A codebook load that completes: its slot written, and what MG then stages. -/
theorem exec_load_book (hop : i.op = .tableCodebook) (hgood : LoadReady s b.toNat i) :
    exec (.tableCodebook b q) s = .next (setIssued (restage (s.withFiles b.toNat ((s.unit b.toNat).files.loadBook
      (loadImmediate i.op i.body) (bSlot i.body) (wordLE 256 (loadSource s i))))) b.toNat { i with finished := some .ok }) := by
  obtain ⟨hl, hw, hok⟩ := hgood
  have hrun : loadRun b.toNat s i = (s.withFiles b.toNat ((s.unit b.toNat).files.loadBook
      (loadImmediate i.op i.body) (bSlot i.body) (wordLE 256 (loadSource s i))), { i with finished := some .ok }) := by
    simp [loadRun, hl, hw, hok, hop, State.onUnit, State.withFiles]
  have hexec := exec_load h (c := .tableCodebook b q) (by rw [hop]; rfl) hrun (finished_ne_of_works h _)
  rw [hop] at hexec ⊢
  rw [hexec, restageLoad_codebook rfl]

end

/-- Settles O30: the step of a load is one of waiting, of refusing its source, and of writing; each kind writes its own copies,
and a codebook load stages again where a baton is staging. -/
theorem tableLoadsWriteTheirEntries : Obligations.TableLoadsWriteTheirEntries := by
  unfold Obligations.TableLoadsWriteTheirEntries
  intro s b q i h u bs imm ends files run good left n at_ part late
  have hrun : ∀ c, loadCommand b q i.op = some c → run c := fun c hc =>
    ⟨fun hl hw hok => exec_load_malformed h hc hl hw hok, fun hl hw => exec_load_waiting h hc hl hw⟩
  refine ⟨fun hop => ⟨hrun _ (by rw [hop]; rfl), fun hgood hidle => ?_, fun hgood hst hpassed hlate => ?_⟩,
    fun hop => ⟨hrun _ (by rw [hop]; rfl), fun hgood hall => ?_, fun hgood => ?_⟩,
    fun hop => ⟨hrun _ (by rw [hop]; rfl), fun hgood hall => ?_, fun hgood => ?_⟩,
    fun hop => ⟨hrun _ (by rw [hop]; rfl), fun hgood => exec_load_program h hop hgood⟩⟩
  · rw [exec_load_book h hop hgood, restage_of_idle (s := s.withFiles b.toNat _) hidle]
    rfl
  · have hstage := stageAll_sameButStaged (s.withFiles b.toNat (u.files.loadBook imm (bSlot i.body) (wordLE 256 bs)))
    obtain ⟨⟨_, _, _, hframe⟩, hunit⟩ := hstage
    obtain ⟨hfiles, hissued⟩ := hunit b.toNat
    refine ⟨_, exec_load_book h hop hgood, ?_⟩
    rw [restage_of_staging (s := s.withFiles b.toNat _) hst hpassed hlate]
    refine ⟨?_, placed_setIssued rfl rfl ?_, ?_⟩
    · rw [unit_setIssued]
      exact hfiles.trans (congrArg UnitSt.files (State.unit_setUnit_self s _ _))
    · rw [placed, hissued]
      exact (congrArg _ (congrArg _ (congrArg UnitSt.issued (State.unit_setUnit_self s _ _)))).trans (placed_of_works h)
    · rw [hframe]
      exact ⟨rfl, rfl, rfl, rfl, rfl, rfl⟩
  · have hexec := exec_load_whole h (c := .tableChannel b q) (by rw [hop]; rfl) (.inl hop) hgood hall
    have hbytes : entryBytes i.op = 4 := by rw [hop]; rfl
    rwa [writeEntries_channel hop, hbytes, Nat.mul_div_cancel_left _ (by decide)] at hexec
  · have hexec := exec_load_entries h (c := .tableChannel b q) (by rw [hop]; rfl) (.inl hop) hgood rfl
    have hbytes : entryBytes i.op = 4 := by rw [hop]; rfl
    rwa [writeEntries_channel hop, hbytes] at hexec
  · have hexec := exec_load_whole h (c := .tableRescale b q) (by rw [hop]; rfl) (.inr hop) hgood hall
    have hbytes : entryBytes i.op = 8 := by rw [hop]; rfl
    rwa [writeEntries_rescale hop, hbytes, Nat.mul_div_cancel_left _ (by decide)] at hexec
  · have hexec := exec_load_entries h (c := .tableRescale b q) (by rw [hop]; rfl) (.inr hop) hgood rfl
    have hbytes : entryBytes i.op = 8 := by rw [hop]; rfl
    rwa [writeEntries_rescale hop, hbytes] at hexec

end Sys2Proof.Machine
end

section
/-!
PROOFS. Rounding a magnitude to an integer: what RNE, RTZ and SR give of an exact quotient (R65 to R68).
-/

namespace Sys2Proof.Machine

/-- RNE gives the integer part, or the next integer where the remainder is above half, or at half of an odd one. -/
theorem roundMag_rne_cases (n d : Nat) :
    (roundMag .rne n d = roundMag .rtz n d ∧ (2 * (n % d) < d ∨ 2 * (n % d) = d ∧ n / d % 2 = 0)) ∨
      (roundMag .rne n d = roundMag .rtz n d + 1 ∧ (d < 2 * (n % d) ∨ 2 * (n % d) = d ∧ (n / d + 1) % 2 = 0)) := by
  simp only [roundMag]
  split
  · next h => simp only [Bool.or_eq_true, Bool.and_eq_true, decide_eq_true_eq] at h; omega
  · next h => simp only [Bool.or_eq_true, Bool.and_eq_true, decide_eq_true_eq] at h; omega

section
variable {n d : Nat} (hd : 0 < d)
include hd

/-- A quotient of naturals is its integer part and a remainder over the divisor. -/
theorem div_eq_add_mod_div : (n : ℚ) / d = (n / d : Nat) + ((n % d : Nat) : ℚ) / d := by
  have hd' : (d : ℚ) ≠ 0 := by exact_mod_cast hd.ne'
  have hn : (n : ℚ) = d * (n / d : Nat) + (n % d : Nat) := by exact_mod_cast (Nat.div_add_mod n d).symm
  rw [hn]; field_simp

theorem roundMag_rtz_le : (roundMag .rtz n d : ℚ) ≤ n / d := by
  rw [div_eq_add_mod_div hd]
  exact le_add_of_nonneg_right (by positivity)

theorem lt_roundMag_rtz : (n : ℚ) / d < roundMag .rtz n d + 1 := by
  have hmod : ((n % d : Nat) : ℚ) / d < 1 := by
    rw [div_lt_one (by exact_mod_cast hd)]; exact_mod_cast Nat.mod_lt n hd
  rw [div_eq_add_mod_div hd]
  exact add_lt_add_right hmod _

/-- Under RNE the result is within half a unit, and even where it is half a unit off. -/
theorem roundMag_rne_near : |(n : ℚ) / d - roundMag .rne n d| ≤ 1 / 2 ∧
    (|(n : ℚ) / d - roundMag .rne n d| = 1 / 2 → roundMag .rne n d % 2 = 0) := by
  have hd' : (0 : ℚ) < d := by exact_mod_cast hd
  have hdiv := div_eq_add_mod_div (n := n) hd
  have hfrac : ((n % d : Nat) : ℚ) / d * d = (n % d : Nat) := div_mul_cancel₀ _ hd'.ne'
  set x : ℚ := ((n % d : Nat) : ℚ) / d
  have hmod : ((n % d : Nat) : ℚ) < d := by exact_mod_cast Nat.mod_lt n hd
  have hx0 : 0 ≤ x := by positivity
  have hx1 : x < 1 := by nlinarith
  rcases roundMag_rne_cases n d with ⟨hround, hrest⟩ | ⟨hround, hrest⟩
  · have hoff : (n : ℚ) / d - roundMag .rne n d = x := by rw [hdiv, hround]; exact add_sub_cancel_left _ _
    rw [hoff, abs_of_nonneg hx0, hround]
    rcases hrest with hlt | ⟨heq, heven⟩
    · have hlt' : 2 * ((n % d : Nat) : ℚ) < d := by exact_mod_cast hlt
      have hhalf : x < 1 / 2 := by nlinarith
      exact ⟨hhalf.le, fun h => absurd h hhalf.ne⟩
    · have heq' : 2 * ((n % d : Nat) : ℚ) = d := by exact_mod_cast heq
      exact ⟨by nlinarith, fun _ => heven⟩
  · have hoff : (n : ℚ) / d - roundMag .rne n d = x - 1 := by
      rw [hdiv, hround]; push_cast; simp only [roundMag]; ring
    rw [hoff, abs_of_neg (by linarith), hround]
    rcases hrest with hlt | ⟨heq, heven⟩
    · have hlt' : (d : ℚ) < 2 * ((n % d : Nat) : ℚ) := by exact_mod_cast hlt
      have hhalf : 1 / 2 < x := by nlinarith
      exact ⟨by linarith, fun h => by linarith⟩
    · have heq' : 2 * ((n % d : Nat) : ℚ) = d := by exact_mod_cast heq
      exact ⟨by nlinarith, fun _ => heven⟩

/-- Under SR the next integer is taken exactly when the truncated 16-bit fraction plus the word reaches 2^16 (R68). -/
theorem roundMag_sr (w : BitVec 16) : roundMag (.sr w) n d =
    if 65536 ≤ ⌊((n : ℚ) / d - roundMag .rtz n d) * 65536⌋ + (w.toNat : Int) then roundMag .rtz n d + 1
    else roundMag .rtz n d := by
  have hfloor : ⌊((n : ℚ) / d - roundMag .rtz n d) * 65536⌋ = ((n % d * 65536 / d : Nat) : Int) := by
    have hoff : ((n : ℚ) / d - roundMag .rtz n d) * 65536 = ((n % d * 65536 : Nat) : ℚ) / d := by
      rw [div_eq_add_mod_div hd]; push_cast; simp only [roundMag]; ring
    rw [hoff, Rat.floor_natCast_div_natCast]; norm_cast
  rw [hfloor]
  simp only [roundMag, ge_iff_le]
  exact if_congr (by norm_cast) rfl rfl

end

/-! ### A signed number rounded to an integer -/

theorem abs_eq_natAbs_div (q : ℚ) : |q| = (q.num.natAbs : ℚ) / q.den := by
  rw [Rat.abs_def, Rat.divInt_eq_div, Int.cast_natCast, Int.cast_natCast]

theorem natAbs_roundInt (m : Round) (q : ℚ) : (roundInt m q).natAbs = roundMag m q.num.natAbs q.den := by
  unfold roundInt; split <;> simp

theorem roundInt_of_neg (m : Round) {q : ℚ} (h : q < 0) : roundInt m q = -(roundMag m q.num.natAbs q.den : Int) := by
  rw [roundInt, if_pos h]

theorem roundInt_of_nonneg (m : Round) {q : ℚ} (h : ¬ q < 0) : roundInt m q = (roundMag m q.num.natAbs q.den : Int) := by
  rw [roundInt, if_neg h]

theorem roundInt_nonpos (m : Round) {q : ℚ} (h : q < 0) : roundInt m q ≤ 0 := by
  rw [roundInt_of_neg m h]; omega

theorem roundInt_nonneg (m : Round) {q : ℚ} (h : ¬ q < 0) : 0 ≤ roundInt m q := by
  rw [roundInt_of_nonneg m h]; omega

/-- A number and its rounding are as far apart as their magnitudes. -/
theorem abs_sub_roundInt (m : Round) (q : ℚ) :
    |q - roundInt m q| = |(q.num.natAbs : ℚ) / q.den - roundMag m q.num.natAbs q.den| := by
  rw [← abs_eq_natAbs_div]
  by_cases h : q < 0
  · rw [roundInt_of_neg m h, abs_of_neg h, ← abs_neg]; push_cast; congr 1; ring
  · rw [roundInt_of_nonneg m h, abs_of_nonneg (not_lt.1 h)]; push_cast; rfl

theorem abs_roundInt (m : Round) (q : ℚ) : |(roundInt m q : ℚ)| = roundMag m q.num.natAbs q.den := by
  rw [← natAbs_roundInt, Nat.cast_natAbs, Int.cast_abs]

end Sys2Proof.Machine
end

section
/-!
PROOFS. Integer and codebook elements: what rounding to an integer gives, what an integer destination and a codebook
write and count, and the values of a group (R39, R41, R50, R51, R66, R68, R71, R72, R73, R78, R116).
-/

namespace Sys2Proof.Machine

/-! ### Rounding to an integer (R66 to R68) -/

/-- RTZ takes the integer toward zero. -/
theorem roundInt_rtz_near (q : ℚ) : |(roundInt .rtz q : ℚ)| ≤ |q| ∧ |q| < |(roundInt .rtz q : ℚ)| + 1 ∧
    0 ≤ (roundInt .rtz q : ℚ) * q := by
  rw [abs_roundInt, abs_eq_natAbs_div q]
  refine ⟨roundMag_rtz_le q.den_pos, lt_roundMag_rtz q.den_pos, ?_⟩
  by_cases h : q < 0
  · exact mul_nonneg_of_nonpos_of_nonpos (by exact_mod_cast roundInt_nonpos .rtz h) h.le
  · exact mul_nonneg (by exact_mod_cast roundInt_nonneg .rtz h) (not_lt.1 h)

theorem roundInt_rne_near (q : ℚ) : |q - roundInt .rne q| ≤ 1 / 2 ∧
    (|q - roundInt .rne q| = 1 / 2 → roundInt .rne q % 2 = 0) := by
  rw [abs_sub_roundInt]
  obtain ⟨hnear, heven⟩ := roundMag_rne_near (n := q.num.natAbs) q.den_pos
  refine ⟨hnear, fun h => ?_⟩
  have heven := heven h
  rw [← natAbs_roundInt] at heven
  omega

/-- SR takes the integer toward zero, or one further from zero. -/
theorem roundInt_sr (w : BitVec 16) (q : ℚ) : roundInt (.sr w) q =
    if 65536 ≤ ⌊(|q| - |(roundInt .rtz q : ℚ)|) * 65536⌋ + (w.toNat : Int) then
      (if q < 0 then roundInt .rtz q - 1 else roundInt .rtz q + 1)
    else roundInt .rtz q := by
  rw [abs_roundInt, abs_eq_natAbs_div q]
  have hsr := roundMag_sr (n := q.num.natAbs) q.den_pos w
  by_cases h : q < 0
  · rw [roundInt_of_neg _ h, roundInt_of_neg _ h, hsr, if_pos h]
    split
    · push_cast; ring
    · rfl
  · rw [roundInt_of_nonneg _ h, roundInt_of_nonneg _ h, hsr, if_neg h]
    split
    · push_cast; rfl
    · rfl

/-! ### Integer destinations (R71, R73, R78, R116) -/

/-- What an integer destination with limits lo and hi writes for a number, and what it counts. -/
theorem encodeInt_fin (m : Round) {lo hi : Int} (hle : lo ≤ hi) (z : Int) (q : ℚ) (s dz : Bool) :
    encodeInt m lo hi z (.fin q s) dz = (max lo (min hi (roundInt m q + z)),
      if roundInt m q + z < lo ∨ hi < roundInt m q + z ∨ (m = .rtz ∧ (q < ((lo - z : Int) : ℚ) ∨ ((hi - z : Int) : ℚ) < q))
      then .clip else if roundInt m q = 0 ∧ (q ≠ 0 ∨ dz = true) then .flush else .none) := by
  have hzero : roundInt m q + z = z ↔ roundInt m q = 0 := by omega
  simp only [encodeInt, Bool.and_eq_true, Bool.or_eq_true, decide_eq_true_eq]
  generalize roundInt m q + z = n at *
  by_cases hlow : n < lo
  · rw [if_pos hlow, if_pos (.inl hlow), min_eq_right (by omega), max_eq_left hlow.le]
  rw [if_neg hlow]
  by_cases hhigh : hi < n
  · rw [if_pos hhigh, if_pos (.inr (.inl hhigh)), min_eq_left hhigh.le, max_eq_right hle]
  rw [if_neg hhigh, min_eq_right (by omega), max_eq_right (by omega)]
  by_cases hbeyond : m = .rtz ∧ (q < ((lo - z : Int) : ℚ) ∨ ((hi - z : Int) : ℚ) < q)
  · rw [if_pos hbeyond, if_pos (.inr (.inr hbeyond))]
  have hkept : ¬ (n < lo ∨ hi < n ∨ m = .rtz ∧ (q < ((lo - z : Int) : ℚ) ∨ ((hi - z : Int) : ℚ) < q)) := by
    simp only [hlow, hhigh, hbeyond, or_self, not_false_eq_true]
  rw [if_neg hbeyond, if_neg hkept]
  by_cases hflush : n = z ∧ (q ≠ 0 ∨ dz = true)
  · rw [if_pos hflush, if_pos ⟨hzero.1 hflush.1, hflush.2⟩]
  · rw [if_neg hflush, if_neg (fun h => hflush ⟨hzero.2 h.1, h.2⟩)]

section
variable {d : Desc} {w : Nat} (z : Nat) (book : List Nat)

/-- Least code of an INT format: SYM leaves out the most negative (R71). -/
def intLo (d : Desc) (w : Nat) : Int := -(2 ^ (w - 1)) + (if dSym d then 1 else 0)

/-- Greatest code of an INT format. -/
def intHi (w : Nat) : Int := 2 ^ (w - 1) - 1

theorem intLo_le_intHi (d : Desc) (w : Nat) : intLo d w ≤ intHi w := by
  have hpow : (1 : Int) ≤ 2 ^ (w - 1) := one_le_pow₀ (by decide)
  unfold intLo intHi
  split <;> omega

theorem encodeElem_int (h : elemOf (dElem d) = some (.int w)) (m : Round) (t : XVal) (dz : Bool) :
    encodeElem d z book m t dz = (((encodeInt m (intLo d w) (intHi w) 0 t dz).1 % 2 ^ w).toNat,
      (encodeInt m (intLo d w) (intHi w) 0 t dz).2) := by
  simp only [encodeElem, h, intLo, intHi]; push_cast; rfl

theorem codeVal_int (h : elemOf (dElem d) = some (.int w)) (c : Nat) :
    codeVal d z book c = (xint (if c < 2 ^ (w - 1) then c else (c : Int) - 2 ^ w), false) := by
  simp only [codeVal, h]

theorem codeVal_uint (h : elemOf (dElem d) = some (.uint w)) (c : Nat) :
    codeVal d z book c = (xint ((c : Int) - z), false) := by
  simp only [codeVal, h]

theorem encodeElem_uint (h : elemOf (dElem d) = some (.uint w)) (m : Round) (t : XVal) (dz : Bool) :
    encodeElem d z book m t dz = ((encodeInt m 0 (2 ^ w - 1) z t dz).1.toNat,
      if zeroSide d w z t then .clip else (encodeInt m 0 (2 ^ w - 1) z t dz).2) := by
  simp only [encodeElem, h]; push_cast; rfl

/-- A number on a side whose limit is 0 (R116). -/
theorem zeroSide_fin (q : ℚ) (s : Bool) : zeroSide d w z (.fin q s) = true ↔
    dZpm d = 1 ∧ dSfmt d ≠ 0 ∧ ((q < 0 ∧ z = 0) ∨ (0 < q ∧ z + 1 = 2 ^ w)) := by
  have htop : z = 2 ^ w - 1 ↔ z + 1 = 2 ^ w := by have := Nat.one_le_two_pow (n := w); omega
  simp only [zeroSide, Bool.and_eq_true, Bool.or_eq_true, decide_eq_true_eq, htop, and_assoc]

theorem zeroSide_nan (s : Bool) : zeroSide d w z (.nan s) = false := by simp [zeroSide]

theorem zeroSide_inf (s : Bool) : zeroSide d w z (.inf s) = false := by simp [zeroSide]

/-- On a side whose limit is 0 every number is clipped to the zero point's code. -/
theorem clamp_zeroSide (m : Round) {q : ℚ} (h : (q < 0 ∧ z = 0) ∨ (0 < q ∧ z + 1 = 2 ^ w)) :
    max 0 (min (2 ^ w - 1 : Int) (roundInt m q + z)) = z := by
  have hpow : (1 : Int) ≤ 2 ^ w := one_le_pow₀ (by decide)
  rcases h with ⟨hneg, rfl⟩ | ⟨hpos, htop⟩
  · have hround := roundInt_nonpos m hneg
    rw [max_eq_left]
    · rfl
    · exact (min_le_right _ _).trans (by simpa using hround)
  · have hround := roundInt_nonneg m hpos.not_gt
    have htop' : (z : Int) = 2 ^ w - 1 := by
      have : ((z + 1 : Nat) : Int) = ((2 ^ w : Nat) : Int) := congrArg _ htop
      push_cast at this; omega
    rw [← htop', min_eq_left (by omega), max_eq_right (by omega)]

end

/-! ### The entry that a key puts lowest (R72, R73) -/

/-- Entry n of a list has the lowest key, and no entry before it has it too. -/
def Lowest (key : ℚ → ℚ) (l : List ℚ) (n : Nat) : Prop :=
  n < l.length ∧ ∀ c, c < l.length → key (l.getD n 0) ≤ key (l.getD c 0) ∧ (c < n → key (l.getD n 0) < key (l.getD c 0))

/-- The search goes on from the lowest entry of those seen. -/
theorem lowest_firstBest (key : ℚ → ℚ) (seen rest : List ℚ) {best : Nat} (h : Lowest key seen best) :
    Lowest key (seen ++ rest)
      (firstBest (fun a b => decide (key a < key b)) rest seen.length best (seen.getD best 0)) := by
  induction rest generalizing seen best with
  | nil => simpa [firstBest] using h
  | cons v rest ih =>
    obtain ⟨hbest, hlow⟩ := h
    have hold : ∀ c, c < seen.length → (seen ++ [v]).getD c 0 = seen.getD c 0 := fun c hc => by
      simp [List.getD_eq_getElem?_getD, List.getElem?_append_left hc]
    have hnew : (seen ++ [v]).getD seen.length 0 = v := by simp [List.getD_eq_getElem?_getD]
    have hsplit : ∀ c, c < (seen ++ [v]).length → c < seen.length ∨ c = seen.length := fun c hc => by
      rw [List.length_append, List.length_singleton] at hc; omega
    have happend : seen ++ v :: rest = (seen ++ [v]) ++ rest := by simp
    have hlength : (seen ++ [v]).length = seen.length + 1 := by simp
    rw [happend, firstBest]
    by_cases hv : key v < key (seen.getD best 0)
    · have hnext := ih (seen ++ [v]) (best := seen.length) ⟨by simp, fun c hc => ?_⟩
      · rw [hnew, hlength] at hnext
        rwa [if_pos (decide_eq_true hv)]
      · rw [hnew]
        rcases hsplit c hc with hc | rfl
        · rw [hold c hc]
          have hless := hv.trans_le (hlow c hc).1
          exact ⟨hless.le, fun _ => hless⟩
        · rw [hnew]; exact ⟨le_rfl, fun hlt => absurd hlt (lt_irrefl _)⟩
    · have hnext := ih (seen ++ [v]) (best := best) ⟨by rw [hlength]; omega, fun c hc => ?_⟩
      · rw [hold best hbest, hlength] at hnext
        rwa [if_neg (by simpa using hv)]
      · rw [hold best hbest]
        rcases hsplit c hc with hc | rfl
        · rw [hold c hc]; exact hlow c hc
        · rw [hnew]; exact ⟨not_lt.1 hv, fun hlt => absurd hlt (by omega)⟩

theorem lowest_argBest (key : ℚ → ℚ) {l : List ℚ} (h : l ≠ []) : Lowest key l (argBest key l) := by
  obtain ⟨e, es, rfl⟩ := List.exists_cons_of_ne_nil h
  exact lowest_firstBest key [e] es ⟨by simp, fun c hc => by
    obtain rfl : c = 0 := by simpa using hc
    exact ⟨le_rfl, fun hlt => absurd hlt (lt_irrefl _)⟩⟩


/-! ### Codebook elements (R72, R73, R78) -/

section
variable {d : Desc} {k : Nat} (z : Nat) (book : List Nat)

theorem length_bookVals (h : elemOf (dElem d) = some (.code k)) : (bookVals d book).length = 2 ^ k := by
  simp [bookVals, dWidth, h, Elem.width]

theorem encodeElem_code (h : elemOf (dElem d) = some (.code k)) (m : Round) (t : XVal) (dz : Bool) :
    encodeElem d z book m t dz = encodeCodebook (bookVals d book) t dz := by
  simp only [encodeElem, h]

/-- The code that a key puts lowest among the entries in use. -/
theorem lowest_bookVals (h : elemOf (dElem d) = some (.code k)) (key : ℚ → ℚ) :
    Lowest key (bookVals d book) (argBest key (bookVals d book)) :=
  lowest_argBest key (List.ne_nil_of_length_pos (by rw [length_bookVals book h]; exact Nat.two_pow_pos k))

theorem all_bookVals (h : elemOf (dElem d) = some (.code k)) (p : ℚ → Bool) :
    (bookVals d book).all p = true ↔ ∀ c, c < 2 ^ k → p ((bookVals d book).getD c 0) = true := by
  rw [List.all_eq_true, ← length_bookVals book h]
  constructor
  · intro hall c hc
    rw [List.getD_eq_getElem _ _ hc]
    exact hall _ (List.getElem_mem hc)
  · intro hall v hv
    obtain ⟨c, hc, rfl⟩ := List.getElem_of_mem hv
    have hp := hall c hc
    rwa [List.getD_eq_getElem _ _ hc] at hp

/-- What a codebook counts for a number: clipped where it lies outside the entries, flushed where its entry is 0. -/
theorem encodeCodebook_fin (entries : List ℚ) (q : ℚ) (s dz : Bool) :
    encodeCodebook entries (.fin q s) dz = (argBest (fun v => |q - v|) entries,
      if entries.all (fun v => decide (v < q)) = true ∨ entries.all (fun v => decide (q < v)) = true then .clip
      else if entries.getD (argBest (fun v => |q - v|) entries) 0 = 0 ∧ (q ≠ 0 ∨ dz = true) then .flush else .none) := by
  simp only [encodeCodebook, Bool.or_eq_true, Bool.and_eq_true, decide_eq_true_eq]
  split
  · rfl
  · split <;> rfl

end

/-! ### The values of a group (R50, R51) -/

/-- A code's value under a positive scale: the product, with the sign of the value. -/
theorem mul_scale {x v : ℚ} {n : Bool} (hv : 0 < v) (hn : x ≠ 0 → n = decide (x < 0)) (y : Bool) (hy : y = false) :
    (XVal.fin x n).mul (.fin v y) = .fin (x * v) n := by
  subst hy
  simp only [XVal.mul, xval, Bool.bne_false, mul_eq_zero, hv.ne', or_false, mul_neg_iff]
  by_cases hx : x = 0
  · rw [if_pos hx]
  · rw [if_neg hx, hn hx]
    simp [hv, hv.not_gt]

theorem impliedFactor_eq (d : Desc) : impliedFactor d = if dElem d = 0x10 ∧ dSfmt d = 1 then 1 / 64 else 1 := by
  rw [impliedFactor, show mkRat 1 64 = 1 / 64 by norm_num]

theorem impliedFactor_pos (d : Desc) : 0 < impliedFactor d := by
  rw [impliedFactor_eq]; split <;> norm_num

/-- Settles O57: one law for rounding, one for integer destinations with any limits, and one for the entry that a key puts
lowest, each read at the formats. -/
theorem integerAndCodebookConversion : Obligations.IntegerAndCodebookConversion := by
  unfold Obligations.IntegerAndCodebookConversion
  refine ⟨?round, ?int, ?uint, ?code, fun _ _ _ _ => rfl, ?group⟩
  case round =>
    intro q n z
    obtain ⟨hle, hlt, hsign⟩ := roundInt_rtz_near q
    obtain ⟨hnear, heven⟩ := roundInt_rne_near q
    exact ⟨hnear, heven, hle, hlt, hsign, fun w => roundInt_sr w q⟩
  case int =>
    intro d w z book h hi lo bits
    refine ⟨fun c _ => codeVal_int z book h c, fun m q s dz => ?_, fun m s dz => ⟨?_, ?_⟩⟩
    · rw [encodeElem_int z book h, encodeInt_fin m (intLo_le_intHi d w)]
      simp only [add_zero, sub_zero]
      rfl
    · rw [encodeElem_int z book h]; cases s <;> rfl
    · rw [encodeElem_int z book h]; cases s <;> rfl
  case uint =>
    intro d w z book h hi
    have hpos : (0 : Int) ≤ 2 ^ w - 1 := by have : (1 : Int) ≤ 2 ^ w := one_le_pow₀ (by decide); omega
    refine ⟨codeVal_uint z book h, fun m q s dz => ?_, fun m s dz => ⟨?_, ?_⟩⟩
    · intro n noSide
      rw [encodeElem_uint z book h, encodeInt_fin m hpos]
      refine ⟨fun hside => ?_, fun hside => ?_⟩
      · rw [if_pos ((zeroSide_fin z q s).2 hside), clamp_zeroSide z m hside.2.2, Int.toNat_natCast]
      · rw [if_neg (mt (zeroSide_fin z q s).1 hside)]
        have hlow : (((0 : Int) - z : Int) : ℚ) = -(z : ℚ) := by push_cast; ring
        have hhigh : ((2 ^ w - 1 - z : Int) : ℚ) = ((2 ^ w - 1 : Int) : ℚ) - z := by push_cast; ring
        rw [hlow, hhigh]
    · rw [encodeElem_uint z book h, zeroSide_nan]; cases s <;> rfl
    · rw [encodeElem_uint z book h, zeroSide_inf]; cases s <;> rfl
  case code =>
    intro d k z book m h e
    have hlen := length_bookVals book h
    refine ⟨fun q s dz => ?_, fun s dz => ?_⟩
    · obtain ⟨hlt, hlow⟩ := lowest_bookVals book h (fun v => |q - v|)
      have hout : ((bookVals d book).all (fun v => decide (v < q)) = true ∨
          (bookVals d book).all (fun v => decide (q < v)) = true) ↔
          (∀ c, c < 2 ^ k → e c < q) ∨ (∀ c, c < 2 ^ k → q < e c) := by
        simp only [all_bookVals book h, decide_eq_true_eq]; rfl
      rw [hlen] at hlt hlow
      rw [encodeElem_code z book h, encodeCodebook_fin]
      exact ⟨hlt, hlow, fun hclip => if_pos (hout.2 hclip), fun hkept => if_neg (mt hout.1 hkept)⟩
    · obtain ⟨hlt, hlow⟩ := lowest_bookVals book h (fun v => if s then v else -v)
      rw [hlen] at hlt hlow
      rw [encodeElem_code z book h, encodeElem_code z book h]
      refine ⟨rfl, rfl, hlt, fun c hc => ⟨?_, ?_⟩⟩
      · rintro rfl
        obtain ⟨hle, hless⟩ := hlow c hc
        exact ⟨neg_le_neg_iff.1 hle, fun hc => neg_lt_neg_iff.1 (hless hc)⟩
      · rintro rfl
        exact hlow c hc
  case group =>
    intro d z c book v x n dz hv hc hn
    have hfactor : v * impliedFactor d = if dElem d = 0x10 ∧ dSfmt d = 1 then v / 64 else v := by
      rw [impliedFactor_eq]; split <;> ring
    simp only [decodeGroup, List.map_cons, List.map_nil, hc]
    rw [mul_scale (mul_pos hv (impliedFactor_pos d)) hn _ rfl, hfactor]

end Sys2Proof.Machine
end

section
/-!
PROOFS. Conversion to a floating format: the values of codes, the grid point that each rounding takes, and what is written
and counted (R34, R35, R65 to R70, R73, R74, R78).
-/

namespace Sys2Proof.Machine

/-! ### Powers of two and the exponent of a number (R65) -/

theorem pow2_eq_zpow (e : Int) : pow2 e = (2 : ℚ) ^ e := by
  unfold pow2
  split
  · next h =>
    obtain ⟨n, rfl⟩ := Int.eq_ofNat_of_zero_le h
    simp
  · next h =>
    obtain ⟨n, hn⟩ := Int.eq_ofNat_of_zero_le (show 0 ≤ -e by omega)
    obtain rfl : e = -(n : Int) := by omega
    rw [neg_neg, Int.toNat_natCast, zpow_neg, zpow_natCast, Rat.mkRat_eq_div]
    push_cast
    exact one_div _

theorem fracAt_snd_pos (q : ℚ) (k : Int) : 0 < (fracAt q k).2 := by
  unfold fracAt
  split
  · exact Nat.mul_pos q.den_pos (Nat.two_pow_pos _)
  · exact q.den_pos

/-- The fraction is the magnitude over the power of two. -/
theorem fracAt_eq (q : ℚ) (k : Int) : ((fracAt q k).1 : ℚ) / (fracAt q k).2 = |q| / 2 ^ k := by
  rw [abs_eq_natAbs_div]
  unfold fracAt
  split
  · next h =>
    obtain ⟨n, rfl⟩ := Int.eq_ofNat_of_zero_le h
    rw [Int.toNat_natCast, zpow_natCast]
    push_cast
    rw [div_div]
  · next h =>
    obtain ⟨n, hn⟩ := Int.eq_ofNat_of_zero_le (show 0 ≤ -k by omega)
    obtain rfl : k = -(n : Int) := by omega
    rw [neg_neg, Int.toNat_natCast, zpow_neg, zpow_natCast, div_inv_eq_mul]
    push_cast
    ring

/-- ilog2 is the exponent of the greatest power of two not above the magnitude. -/
theorem ilog2_bounds {q : ℚ} (h : q ≠ 0) : (2 : ℚ) ^ ilog2 q ≤ |q| ∧ |q| < (2 : ℚ) ^ (ilog2 q + 1) := by
  have hnum : q.num.natAbs ≠ 0 := by simpa using h
  have hden : (0 : ℚ) < q.den := by exact_mod_cast q.den_pos
  set a := q.num.natAbs.log2
  set b := q.den.log2
  have ha : (2 : ℚ) ^ (a : Int) ≤ q.num.natAbs ∧ (q.num.natAbs : ℚ) < 2 ^ ((a : Int) + 1) := by
    exact ⟨by exact_mod_cast Nat.log2_self_le hnum, by exact_mod_cast Nat.lt_log2_self⟩
  have hb : (2 : ℚ) ^ (b : Int) ≤ q.den ∧ (q.den : ℚ) < 2 ^ ((b : Int) + 1) := by
    exact ⟨by exact_mod_cast Nat.log2_self_le q.den_pos.ne', by exact_mod_cast Nat.lt_log2_self⟩
  have hlow : (2 : ℚ) ^ ((a : Int) - b - 1) < |q| := by
    rw [abs_eq_natAbs_div, lt_div_iff₀ hden]
    calc (2 : ℚ) ^ ((a : Int) - b - 1) * q.den < 2 ^ ((a : Int) - b - 1) * 2 ^ ((b : Int) + 1) := by
          exact mul_lt_mul_of_pos_left hb.2 (by positivity)
      _ = 2 ^ (a : Int) := by rw [← zpow_add₀ two_ne_zero]; congr 1; ring
      _ ≤ q.num.natAbs := ha.1
  have hhigh : |q| < (2 : ℚ) ^ ((a : Int) - b + 1) := by
    rw [abs_eq_natAbs_div, div_lt_iff₀ hden]
    calc (q.num.natAbs : ℚ) < 2 ^ ((a : Int) + 1) := ha.2
      _ = 2 ^ ((a : Int) - b + 1) * 2 ^ (b : Int) := by rw [← zpow_add₀ two_ne_zero]; congr 1; ring
      _ ≤ 2 ^ ((a : Int) - b + 1) * q.den := mul_le_mul_of_nonneg_left hb.1 (by positivity)
  have hfrac := fracAt_eq q ((a : Int) - b)
  have hpos : (0 : ℚ) < (fracAt q ((a : Int) - b)).2 := by exact_mod_cast fracAt_snd_pos q _
  have hlog : ilog2 q = if (fracAt q ((a : Int) - b)).1 < (fracAt q ((a : Int) - b)).2 then (a : Int) - b - 1
      else (a : Int) - b := rfl
  rw [hlog]
  split
  · next hlt =>
    have hone : |q| / 2 ^ ((a : Int) - b) < 1 := by rw [← hfrac, div_lt_one hpos]; exact_mod_cast hlt
    rw [div_lt_one (by positivity)] at hone
    exact ⟨hlow.le, by rwa [sub_add_cancel]⟩
  · next hge =>
    have hone : 1 ≤ |q| / 2 ^ ((a : Int) - b) := by rw [← hfrac, one_le_div hpos]; exact_mod_cast not_lt.1 hge
    rw [one_le_div (by positivity)] at hone
    exact ⟨hone, hhigh⟩

/-! ### The grid of a format (R34, R65) -/

section
variable (f : FloatFmt)

/-- The distance of grid points in the binade that lies e binades above the lowest. -/
def FloatFmt.ulp (e : Nat) : ℚ := (2 : ℚ) ^ (1 - f.bias - f.mBits + e : Int)

theorem FloatFmt.ulp_pos (e : Nat) : 0 < f.ulp e := by unfold ulp; positivity

/-- The code that stands k grid points into a binade is k units of that binade; the binade ends with the first code of the
next. -/
theorem FloatFmt.magnitude_binade {e k : Nat} (hlow : e = 0 ∨ 2 ^ f.mBits ≤ k) (hhigh : k ≤ 2 * 2 ^ f.mBits) :
    f.magnitude (k + e * 2 ^ f.mBits) = k * f.ulp e := by
  have hpos : 0 < 2 ^ f.mBits := Nat.two_pow_pos _
  unfold magnitude ulp
  simp only [Nat.add_mul_div_right _ _ hpos, Nat.add_mul_mod_self_right, pow2_eq_zpow]
  rcases Nat.lt_or_ge k (2 ^ f.mBits) with hk | hk
  · obtain rfl : e = 0 := hlow.resolve_right (by omega)
    rw [Nat.div_eq_of_lt hk, Nat.mod_eq_of_lt hk, if_pos rfl]
    simp
  · rcases Nat.lt_or_ge k (2 * 2 ^ f.mBits) with hk' | hk'
    · have hdiv : k / 2 ^ f.mBits = 1 := Nat.div_eq_of_lt_le (by omega) (by omega)
      have hmod : k % 2 ^ f.mBits = k - 2 ^ f.mBits := by
        rw [Nat.mod_eq_sub_mod hk, Nat.mod_eq_of_lt (by omega)]
      rw [hdiv, hmod, if_neg (by omega), Nat.add_sub_cancel' hk]
      congr 2
      push_cast; ring
    · obtain rfl : k = 2 * 2 ^ f.mBits := by omega
      rw [Nat.mul_div_cancel _ hpos, Nat.mul_mod_left, if_neg (by omega)]
      push_cast
      rw [add_zero, mul_comm (2 : ℚ), mul_assoc, ← zpow_one_add₀ two_ne_zero]
      congr 2
      ring

/-- Binade and place in it of a code. -/
theorem FloatFmt.code_binade (c : Nat) : ∃ e k, c = k + e * 2 ^ f.mBits ∧ (e = 0 ∨ 2 ^ f.mBits ≤ k) ∧ k < 2 * 2 ^ f.mBits := by
  have hpos : 0 < 2 ^ f.mBits := Nat.two_pow_pos _
  have hdiv := Nat.div_add_mod c (2 ^ f.mBits)
  have hmod := Nat.mod_lt c hpos
  rcases Nat.eq_zero_or_pos (c / 2 ^ f.mBits) with h0 | h1
  · exact ⟨0, c, by omega, .inl rfl, by rw [h0] at hdiv; omega⟩
  · obtain ⟨e, he⟩ : ∃ e, c / 2 ^ f.mBits = e + 1 := ⟨_, (Nat.sub_add_cancel h1).symm⟩
    refine ⟨e, 2 ^ f.mBits + c % 2 ^ f.mBits, ?_, .inr (by omega), by omega⟩
    have hmul : 2 ^ f.mBits * (e + 1) = 2 ^ f.mBits + e * 2 ^ f.mBits := by ring
    rw [he] at hdiv
    omega

theorem FloatFmt.magnitude_strictMono : StrictMono f.magnitude := by
  refine strictMono_nat_of_lt_succ (fun c => ?_)
  obtain ⟨e, k, rfl, hlow, hhigh⟩ := f.code_binade c
  have hnext : k + e * 2 ^ f.mBits + 1 = (k + 1) + e * 2 ^ f.mBits := by ring
  rw [hnext, f.magnitude_binade hlow hhigh.le, f.magnitude_binade (hlow.imp_right (by omega)) hhigh]
  exact mul_lt_mul_of_pos_right (by push_cast; linarith) (f.ulp_pos e)

theorem FloatFmt.magnitude_zero : f.magnitude 0 = 0 := by
  simp [magnitude]

/-- Value of a code as R34 writes it. -/
theorem FloatFmt.magnitude_eq (c : Nat) : f.magnitude c =
    if c / 2 ^ f.mBits = 0 then (c : ℚ) * (2 : ℚ) ^ (1 - f.bias - f.mBits)
    else (1 + ((c % 2 ^ f.mBits : Nat) : ℚ) / (2 : ℚ) ^ f.mBits) * (2 : ℚ) ^ (((c / 2 ^ f.mBits : Nat) : Int) - f.bias) := by
  unfold magnitude
  simp only [pow2_eq_zpow]
  split
  · next h =>
    have hlt : c < 2 ^ f.mBits := by
      by_contra hge
      exact absurd h (Nat.div_pos (not_lt.1 hge) (Nat.two_pow_pos _)).ne'
    rw [Nat.mod_eq_of_lt hlt]
  · rw [zpow_sub₀ two_ne_zero _ (f.mBits : Int), zpow_natCast]
    push_cast
    field_simp

/-! ### The grid point that a rounding takes (R65 to R68) -/

/-- The number in units of its binade, as a quotient n / d that is rounded, and the binade e. -/
theorem FloatFmt.roundCode_binade {q : ℚ} (h : q ≠ 0) : ∃ n d e : Nat, 0 < d ∧ (n : ℚ) / d = |q| / f.ulp e ∧
    (∀ m, f.roundCode m q = roundMag m n d + e * 2 ^ f.mBits) ∧
    (e = 0 ∨ 2 ^ f.mBits ≤ roundMag .rtz n d) ∧ roundMag .rtz n d < 2 * 2 ^ f.mBits := by
  obtain ⟨hlow, hhigh⟩ := ilog2_bounds h
  set x : Int := max (ilog2 q) (1 - f.bias)
  obtain ⟨e, he⟩ := Int.eq_ofNat_of_zero_le (show 0 ≤ x - (1 - f.bias) by omega)
  have hd := fracAt_snd_pos q (x - f.mBits)
  have hulp : f.ulp e = 2 ^ (x - f.mBits) := by unfold ulp; congr 1; omega
  have hx := fracAt_eq q (x - f.mBits)
  rw [← hulp] at hx
  refine ⟨_, _, e, hd, hx, fun m => ?_, ?_, ?_⟩
  · have he' : (x - (1 - f.bias)).toNat = e := by omega
    rw [← he']; rfl
  · rcases Nat.eq_zero_or_pos e with h0 | hpos
    · exact .inl h0
    · right
      have hexp : x = ilog2 q := by omega
      have hquot : ((2 ^ f.mBits : Nat) : ℚ) < roundMag .rtz (fracAt q (x - f.mBits)).1 (fracAt q (x - f.mBits)).2 + 1 := by
        refine lt_of_le_of_lt ?_ (lt_roundMag_rtz hd)
        rw [hx, hulp, le_div_iff₀ (by positivity), hexp]
        refine le_of_eq_of_le ?_ hlow
        push_cast
        rw [← zpow_natCast, ← zpow_add₀ two_ne_zero]; congr 1; ring
      have hquot' : 2 ^ f.mBits < roundMag .rtz (fracAt q (x - f.mBits)).1 (fracAt q (x - f.mBits)).2 + 1 := by
        exact_mod_cast hquot
      omega
  · have hquot : (roundMag .rtz (fracAt q (x - f.mBits)).1 (fracAt q (x - f.mBits)).2 : ℚ) < (2 * 2 ^ f.mBits : Nat) := by
      refine lt_of_le_of_lt (roundMag_rtz_le hd) ?_
      rw [hx, hulp, div_lt_iff₀ (by positivity)]
      refine hhigh.trans_le ?_
      push_cast
      rw [← zpow_natCast, ← zpow_one_add₀ two_ne_zero, ← zpow_add₀ two_ne_zero]
      exact zpow_le_zpow_right₀ one_le_two (by omega)
    exact_mod_cast hquot

/-- RTZ takes the grid point at or below the magnitude, and the next one lies above it. -/
theorem FloatFmt.roundCode_rtz_bracket {q : ℚ} (h : q ≠ 0) :
    f.magnitude (f.roundCode .rtz q) ≤ |q| ∧ |q| < f.magnitude (f.roundCode .rtz q + 1) := by
  obtain ⟨n, d, e, hd, hx, hround, hlow, hhigh⟩ := f.roundCode_binade h
  have hnext : roundMag .rtz n d + e * 2 ^ f.mBits + 1 = (roundMag .rtz n d + 1) + e * 2 ^ f.mBits := by ring
  have hle := roundMag_rtz_le (n := n) hd
  have hlt := lt_roundMag_rtz (n := n) hd
  rw [hx, le_div_iff₀ (f.ulp_pos e)] at hle
  rw [hx, div_lt_iff₀ (f.ulp_pos e)] at hlt
  rw [hround, hnext, f.magnitude_binade hlow hhigh.le, f.magnitude_binade (hlow.imp_right (by omega)) hhigh]
  exact ⟨hle, by push_cast; exact hlt⟩

end

/-- Of a rising sequence, an end of the step around y that is at most half the step off is nearest, and another point is as
near only at half the step. -/
theorem nearest_of_bracket {g : Nat → ℚ} (hg : StrictMono g) {a n : Nat} {y : ℚ} (hle : g a ≤ y) (hlt : y < g (a + 1))
    (hn : n = a ∨ n = a + 1) (hhalf : |g n - y| ≤ (g (a + 1) - g a) / 2) (c : Nat) : |g n - y| ≤ |g c - y| ∧
      (c ≠ n → |g n - y| = |g c - y| → |g n - y| = (g (a + 1) - g a) / 2) := by
  rcases Nat.lt_or_ge a c with hc | hc
  · have hmono : g (a + 1) ≤ g c := hg.monotone hc
    rw [abs_of_pos (show 0 < g c - y by linarith)]
    rcases hn with rfl | rfl
    · rw [abs_of_nonpos (by linarith)] at hhalf ⊢
      exact ⟨by linarith, fun _ heq => by linarith⟩
    · rw [abs_of_pos (by linarith)] at hhalf ⊢
      exact ⟨by linarith, fun hne heq => absurd (hg.injective (by linarith : g c = g (a + 1))) hne⟩
  · have hmono : g c ≤ g a := hg.monotone hc
    rw [abs_of_nonpos (show g c - y ≤ 0 by linarith)]
    rcases hn with rfl | rfl
    · rw [abs_of_nonpos (by linarith)] at hhalf ⊢
      exact ⟨by linarith, fun hne heq => absurd (hg.injective (by linarith : g c = g n)) hne⟩
    · rw [abs_of_pos (by linarith)] at hhalf ⊢
      exact ⟨by linarith, fun _ heq => by linarith⟩

section
variable (f : FloatFmt)

/-- RNE takes a nearest grid point, the even code on a tie (R66). -/
theorem FloatFmt.roundCode_rne_nearest (hm : 1 ≤ f.mBits) {q : ℚ} (h : q ≠ 0) (c : Nat) :
    abs (f.magnitude (f.roundCode .rne q) - |q|) ≤ abs (f.magnitude c - |q|) ∧
      (c ≠ f.roundCode .rne q → abs (f.magnitude (f.roundCode .rne q) - |q|) = abs (f.magnitude c - |q|) →
        f.roundCode .rne q % 2 = 0) := by
  obtain ⟨n, d, e, hd, hx, hround, hlow, hhigh⟩ := f.roundCode_binade h
  obtain ⟨hle, hlt⟩ := f.roundCode_rtz_bracket h
  obtain ⟨hnear, heven⟩ := roundMag_rne_near (n := n) hd
  have hends : roundMag .rne n d = roundMag .rtz n d ∨ roundMag .rne n d = roundMag .rtz n d + 1 :=
    (roundMag_rne_cases n d).imp And.left And.left
  have hnext : f.roundCode .rtz q + 1 = (roundMag .rtz n d + 1) + e * 2 ^ f.mBits := by rw [hround]; ring
  have hstep : f.magnitude (f.roundCode .rtz q + 1) - f.magnitude (f.roundCode .rtz q) = f.ulp e := by
    rw [hnext, hround, f.magnitude_binade hlow hhigh.le, f.magnitude_binade (hlow.imp_right (by omega)) hhigh]
    push_cast; ring
  have hoff : abs (f.magnitude (f.roundCode .rne q) - |q|) = |(n : ℚ) / d - roundMag .rne n d| * f.ulp e := by
    have hmag : f.magnitude (f.roundCode .rne q) = roundMag .rne n d * f.ulp e := by
      rw [hround]
      exact f.magnitude_binade (hlow.imp_right (by omega)) (by omega)
    rw [hmag, hx, abs_sub_comm, ← abs_of_pos (f.ulp_pos e), ← abs_mul, abs_of_pos (f.ulp_pos e), sub_mul,
      div_mul_cancel₀ _ (f.ulp_pos e).ne']
  have hcodes : f.roundCode .rne q = f.roundCode .rtz q ∨ f.roundCode .rne q = f.roundCode .rtz q + 1 := by
    rw [hround, hround]; omega
  have hhalf : abs (f.magnitude (f.roundCode .rne q) - |q|) ≤
      (f.magnitude (f.roundCode .rtz q + 1) - f.magnitude (f.roundCode .rtz q)) / 2 := by
    rw [hstep, hoff]; nlinarith [f.ulp_pos e]
  obtain ⟨hbest, htie⟩ := nearest_of_bracket f.magnitude_strictMono hle hlt hcodes hhalf c
  refine ⟨hbest, fun hne heq => ?_⟩
  have hexact := htie hne heq
  rw [hstep, hoff] at hexact
  have hmid : |(n : ℚ) / d - roundMag .rne n d| = 1 / 2 := by
    have := (f.ulp_pos e).ne'
    field_simp at hexact ⊢
    linarith
  have hodd : 2 ∣ e * 2 ^ f.mBits := (dvd_pow_self 2 (by omega)).mul_left e
  have hmant := heven hmid
  rw [hround]
  omega

/-- Under SR the next grid point is taken exactly when the truncated 16-bit fraction plus the word reaches 2^16 (R68). -/
theorem FloatFmt.roundCode_sr {q : ℚ} (h : q ≠ 0) (w : BitVec 16) : f.roundCode (.sr w) q =
    if 65536 ≤ ⌊(|q| - f.magnitude (f.roundCode .rtz q)) /
        (f.magnitude (f.roundCode .rtz q + 1) - f.magnitude (f.roundCode .rtz q)) * 65536⌋ + (w.toNat : Int)
    then f.roundCode .rtz q + 1 else f.roundCode .rtz q := by
  obtain ⟨n, d, e, hd, hx, hround, hlow, hhigh⟩ := f.roundCode_binade h
  have hnext : roundMag .rtz n d + e * 2 ^ f.mBits + 1 = (roundMag .rtz n d + 1) + e * 2 ^ f.mBits := by ring
  have hfrac : (|q| - f.magnitude (f.roundCode .rtz q)) /
      (f.magnitude (f.roundCode .rtz q + 1) - f.magnitude (f.roundCode .rtz q)) = (n : ℚ) / d - roundMag .rtz n d := by
    rw [hround, hnext, f.magnitude_binade hlow hhigh.le, f.magnitude_binade (hlow.imp_right (by omega)) hhigh, hx]
    have := (f.ulp_pos e).ne'
    push_cast
    field_simp
    ring
  rw [hfrac, hround, roundMag_sr hd, hround]
  split
  · ring
  · rfl

/-- A grid point rounds to itself. -/
theorem FloatFmt.roundCode_magnitude (hm : 1 ≤ f.mBits) {c : Nat} (hc : c ≠ 0) {q : ℚ} (hq : |q| = f.magnitude c)
    (m : Round) : f.roundCode m q = c := by
  have hpos : 0 < |q| := by
    rw [hq, ← f.magnitude_zero]; exact f.magnitude_strictMono (Nat.pos_of_ne_zero hc)
  have h : q ≠ 0 := abs_pos.1 hpos
  obtain ⟨hle, hlt⟩ := f.roundCode_rtz_bracket h
  rw [hq] at hle hlt
  have hrtz : f.roundCode .rtz q = c := by
    have h1 := f.magnitude_strictMono.le_iff_le.1 hle
    have h2 := f.magnitude_strictMono.lt_iff_lt.1 hlt
    omega
  cases m with
  | rtz => exact hrtz
  | rne =>
    have hbest := (f.roundCode_rne_nearest hm h c).1
    rw [hq, sub_self, abs_zero] at hbest
    exact f.magnitude_strictMono.injective (sub_eq_zero.1 (abs_nonpos_iff.1 hbest))
  | sr w =>
    have hw := w.isLt
    rw [f.roundCode_sr h, hrtz, hq, sub_self, zero_div, zero_mul, Int.floor_zero, if_neg (by omega)]

end

/-! ### The formats (R35) -/

/-- The floating formats of R35. -/
def floatFormats : List FloatFmt := [f32, f16, bf16, e4m3, e5m2, e3m2, e2m3, e2m1]

/-- The format is one of up to 6 bits, without infinity and NaN. -/
def FloatFmt.small (f : FloatFmt) : Bool := decide (f.width ≤ 6)

/-- What a format writes for an infinity under SAT 0: NaN in E4M3, the greatest magnitude in a small format (R70, R73). -/
def FloatFmt.infWritten (f : FloatFmt) (s : Bool) : Nat :=
  if f = e4m3 then 0x7F else if f.small then f.signed s f.maxCode else f.signed s (f.maxCode + 1)

/-- What a format writes for a NaN (R35, R73). -/
def FloatFmt.nanWritten (f : FloatFmt) (s : Bool) : Nat :=
  if f.small then f.signed s f.maxCode else if f = e4m3 then 0x7F else f.maxCode + 1 + 2 ^ (f.mBits - 1)

theorem floatFormats_codes : ∀ f ∈ floatFormats, 1 ≤ f.mBits ∧ f.maxCode < 2 ^ (f.eBits + f.mBits) := by decide

/-- Infinity and NaN of a format: behind the finite codes, NaN alone in E4M3, or neither. -/
theorem floatFormats_special : ∀ f ∈ floatFormats,
    (f.infCode = some (f.maxCode + 1) ∧ f.nanCode = some (f.maxCode + 1 + 2 ^ (f.mBits - 1)) ∧ f ≠ e4m3 ∧ f.small = false) ∨
      f = e4m3 ∨ (f.infCode = none ∧ f.nanCode = none ∧ f ≠ e4m3 ∧ f.small = true) := by decide

section
variable {f : FloatFmt}

theorem FloatFmt.decode_signed (hf : f.maxCode < 2 ^ (f.eBits + f.mBits)) {c : Nat} (hc : c ≤ f.maxCode) (neg : Bool) :
    f.decode (f.signed neg c) = .fin (if neg then -f.magnitude c else f.magnitude c) neg := by
  have hlt : c < 2 ^ (f.eBits + f.mBits) := by omega
  have hsign : decide (f.signed neg c / 2 ^ (f.eBits + f.mBits) % 2 = 1) = neg := by
    cases neg <;> simp [signed, Nat.div_eq_of_lt hlt]
  have hmag : f.signed neg c % 2 ^ (f.eBits + f.mBits) = c := by
    cases neg <;> simp [signed, Nat.mod_eq_of_lt hlt]
  simp only [decode, hsign, hmag, if_pos hc]

theorem FloatFmt.encode_zero (m : Round) (sat ftz s dz : Bool) :
    f.encode m sat ftz (.fin 0 s) dz = (f.signed s 0, if dz then .flush else .none) := by
  simp only [encode, if_pos]

/-- The rounded number lies beyond the largest finite code, or under RTZ the number beyond its value (R69, R70). -/
def FloatFmt.Beyond (f : FloatFmt) (m : Round) (q : ℚ) : Prop :=
  f.maxCode < f.roundCode m q ∨ (m = .rtz ∧ f.magnitude f.maxCode < |q|)

section
variable {q : ℚ} (hq : q ≠ 0) {m : Round} (sat ftz s dz : Bool)
include hq

/-- RTZ and SAT write the largest finite code for a number beyond it. -/
theorem FloatFmt.encode_clipped (hbeyond : f.Beyond m q) (h : m = .rtz ∨ sat = true) :
    f.encode m sat ftz (.fin q s) dz = (f.signed s f.maxCode, .clip) := by
  have hlargest : (decide (m = .rtz) || sat) = true := by simpa using h
  simp only [encode, if_neg hq, hlargest, if_true]
  split
  · rfl
  · next hc =>
    obtain ⟨hm, hlarge⟩ := hbeyond.resolve_left hc
    rw [if_pos (by simp [hm, hlarge])]

/-- Under SAT 0 the other modes write what the format has for an infinity. -/
theorem FloatFmt.encode_overflow (hf : f ∈ floatFormats) (hbeyond : f.Beyond m q) (hm : m ≠ .rtz) :
    f.encode m false ftz (.fin q s) dz = (f.infWritten s, .clip) := by
  have hc : f.maxCode < f.roundCode m q := hbeyond.resolve_right (fun h => hm h.1)
  simp only [encode, if_neg hq, if_pos hc, hm, decide_false, Bool.or_self, Bool.false_eq_true, if_false, infWritten]
  rcases floatFormats_special f hf with ⟨hinf, -, hne, hsmall⟩ | rfl | ⟨hinf, hnan, hne, hsmall⟩
  · simp only [hinf, hne, hsmall, Bool.false_eq_true, if_false]
  · rfl
  · simp only [hinf, hnan, hne, hsmall, if_false, if_true]

/-- A result of zero, or a subnormal one under FTZ, is a zero of its sign (R74, R78). -/
theorem FloatFmt.encode_flushed (hf : f.maxCode < 2 ^ (f.eBits + f.mBits)) (hbeyond : ¬ f.Beyond m q)
    (h : f.roundCode m q = 0 ∨ (ftz = true ∧ f.roundCode m q < 2 ^ f.mBits)) :
    f.encode m sat ftz (.fin q s) dz = (f.signed s 0, .flush) := by
  obtain ⟨hc, hlarge⟩ := not_or.1 hbeyond
  have hlt : f.roundCode m q < 2 ^ (f.eBits + f.mBits) := by omega
  simp only [encode, if_neg hq, if_neg hc]
  rw [if_neg (by simpa using hlarge), if_pos]
  rcases h with h | ⟨rfl, h⟩
  · simp [h]
  · simp [subnormal, Nat.mod_eq_of_lt hlt, h]; omega

/-- Any other result is its code, and is not counted. -/
theorem FloatFmt.encode_kept (hf : f.maxCode < 2 ^ (f.eBits + f.mBits)) (hbeyond : ¬ f.Beyond m q)
    (h0 : f.roundCode m q ≠ 0) (h : ftz = false ∨ 2 ^ f.mBits ≤ f.roundCode m q) :
    f.encode m sat ftz (.fin q s) dz = (f.signed s (f.roundCode m q), .none) := by
  obtain ⟨hc, hlarge⟩ := not_or.1 hbeyond
  have hlt : f.roundCode m q < 2 ^ (f.eBits + f.mBits) := by omega
  simp only [encode, if_neg hq, if_neg hc]
  rw [if_neg (by simpa using hlarge), if_neg]
  rcases h with rfl | h
  · simp [h0]
  · simp [subnormal, Nat.mod_eq_of_lt hlt, h0, h]

end

theorem FloatFmt.encode_nan (hf : f ∈ floatFormats) (m : Round) (sat ftz s dz : Bool) :
    f.encode m sat ftz (.nan s) dz = (f.nanWritten s, .nan) := by
  unfold nanWritten
  rcases floatFormats_special f hf with ⟨-, hnan, hne, hsmall⟩ | rfl | ⟨-, hnan, -, hsmall⟩
  · simp only [encode, hnan, hne, hsmall, Bool.false_eq_true, if_false]
  · rfl
  · simp only [encode, hnan, hsmall, if_true]

/-- An infinity is clipped under SAT and where the format has none (R73, R78). -/
theorem FloatFmt.encode_inf (hf : f ∈ floatFormats) (m : Round) (sat ftz s dz : Bool) :
    f.encode m sat ftz (.inf s) dz = (if sat then f.signed s f.maxCode else f.infWritten s,
      if sat || decide (f = e4m3) || f.small then .clip else .none) := by
  cases sat
  · unfold infWritten
    rcases floatFormats_special f hf with ⟨hinf, -, hne, hsmall⟩ | rfl | ⟨hinf, hnan, hne, hsmall⟩
    · simp [encode, hinf, hne, hsmall]
    · rfl
    · simp [encode, hinf, hnan, hne, hsmall]
  · simp [encode]

/-- A finite code converts to itself, and nothing is counted. -/
theorem FloatFmt.encode_decode (hm : 1 ≤ f.mBits) (hf : f.maxCode < 2 ^ (f.eBits + f.mBits)) {c : Nat} (hc : c ≤ f.maxCode)
    (neg : Bool) (m : Round) (sat : Bool) : f.encode m sat false (f.decode (f.signed neg c)) false = (f.signed neg c, .none) := by
  rw [f.decode_signed hf hc]
  rcases Nat.eq_zero_or_pos c with rfl | hpos
  · rw [f.magnitude_zero, neg_zero, ite_self, encode_zero]; rfl
  · have hmag : 0 < f.magnitude c := by rw [← f.magnitude_zero]; exact f.magnitude_strictMono hpos
    have habs : |if neg = true then -f.magnitude c else f.magnitude c| = f.magnitude c := by
      cases neg
      · exact abs_of_pos hmag
      · exact (abs_neg _).trans (abs_of_pos hmag)
    have hround := f.roundCode_magnitude hm hpos.ne' habs m
    have hbeyond : ¬ f.Beyond m (if neg then -f.magnitude c else f.magnitude c) := by
      rw [Beyond, hround, habs]
      exact not_or.2 ⟨by omega, fun h => absurd h.2 (not_lt.2 (f.magnitude_strictMono.monotone hc))⟩
    rw [encode_kept (abs_pos.1 (by rw [habs]; exact hmag)) sat false neg false hf hbeyond (by rw [hround]; omega) (.inl rfl), hround]

end

/-- Settles O56: the grid of a format, the point of it that each mode takes, and what is written on either side of the largest
finite code. -/
theorem floatConversionRoundsOnce : Obligations.FloatConversionRoundsOnce := by
  unfold Obligations.FloatConversionRoundsOnce
  intro f hf mag code small inf
  obtain ⟨hm, hcodes⟩ := floatFormats_codes f hf
  refine ⟨f.magnitude_eq, fun c neg hc => ⟨f.decode_signed hcodes hc neg, f.encode_decode hm hcodes hc neg⟩, ?round, ?number,
    fun m sat ftz dz s => ⟨f.encode_nan hf m sat ftz s dz, f.encode_inf hf m sat ftz s dz, f.encode_zero m sat ftz s dz⟩⟩
  case round =>
    intro q hq y n a
    obtain ⟨hle, hlt⟩ := f.roundCode_rtz_bracket hq
    exact ⟨f.roundCode_rne_nearest hm hq, hle, hlt, f.roundCode_sr hq⟩
  case number =>
    intro m sat ftz dz q hq s c beyond
    refine ⟨fun hb => f.encode_clipped hq sat ftz s dz hb, ?_, fun hb => f.encode_flushed hq sat ftz s dz hcodes hb,
      fun hb => f.encode_kept hq sat ftz s dz hcodes hb⟩
    rintro hb hne rfl
    exact f.encode_overflow hq ftz s dz hf hb hne

end Sys2Proof.Machine
end

section
/-!
PROOFS. The power cap and the governor's duty, and background work: SCRUB, MARGIN and WEAR (R48, R122, R412, R413, R415,
R419, R420, R437).
-/

namespace Sys2Proof.Machine

/-! ### CAP (R417, R420) -/

theorem exec_cap {s : State} (hs : Running s) {msg : BitVec 64} (htype : bitsAt msg 0 8 = 2) (hres : bitsAt msg 16 16 = 0) :
    exec (.cap msg) s = .next { s with power := { s.power with pendingCap := some (bitsAt msg 32 16, bitsAt msg 8 8,
      match s.power.pendingCap with | some p => p.2.2 | none => 2) } } := by
  have htype' : (bitsAt msg 0 8).toNat = 2 := by rw [htype]; rfl
  change execCap msg s = _
  rw [execCap, live_of_running _ hs]
  simp only [htype', hres]
  rfl

/-- A window boundary without a CAP. -/
theorem applyCap_none {s : State} (h : s.power.pendingCap = none) : applyCap s = s := by
  rw [applyCap, h]

/-- A CAP that waits for a further window counts down. -/
theorem applyCap_waits {s : State} {w : BitVec 16} {q : BitVec 8} {n : Nat} (h : s.power.pendingCap = some (w, q, n))
    (hn : 1 < n) : applyCap s = { s with power := { s.power with pendingCap := some (w, q, n - 1) } } := by
  rw [applyCap, h]; exact if_neg (by omega)

/-- A CAP that is due is in force, with its event and its CAPACK. -/
theorem applyCap_due {s : State} {w : BitVec 16} {q : BitVec 8} {n : Nat} (h : s.power.pendingCap = some (w, q, n))
    (hn : n ≤ 1) : applyCap s = (State.postMg { s with power := { s.power with cap := w, capSeq := q, pendingCap := none } }
      .cap (q.setWidth 32) (w.setWidth 32) 0).emit (.budget (budgetMsg 3 q w 0)) := by
  rw [applyCap, h]; exact if_pos hn

/-- A window boundary reaches MG's events, the power state and the budget interface. -/
theorem applyCap_frame (s : State) : (applyCap s).mem = s.mem ∧ (applyCap s).tables = s.tables ∧
    (applyCap s).pace = s.pace ∧ ∀ m, m ≠ 0 → (applyCap s).unit m = s.unit m := by
  rcases h : s.power.pendingCap with _ | ⟨w, q, n⟩
  · rw [applyCap_none h]; exact ⟨rfl, rfl, rfl, fun _ _ => rfl⟩
  · rcases Nat.lt_or_ge 1 n with hn | hn
    · rw [applyCap_waits h hn]; exact ⟨rfl, rfl, rfl, fun _ _ => rfl⟩
    · rw [applyCap_due h hn]
      refine ⟨rfl, rfl, rfl, fun m hm => ?_⟩
      exact State.unit_post_ne { s with power := _ } 0 .cap none _ _ _ hm

/-! ### The governor (R419) -/

/-- The last number from 1 to n that p admits, 1 where it admits none. -/
theorem foldl_lastAdmitted (p : Nat → Prop) [DecidablePred p] (n : Nat) :
    let d := ((List.range n).map (· + 1)).foldl (fun d x => if p x then x else d) 1
    1 ≤ d ∧ d ≤ max 1 n ∧ (∀ x, d < x → x ≤ n → ¬ p x) ∧ (1 < d → p d) := by
  induction n with
  | zero => exact ⟨le_rfl, le_rfl, fun x hx hx' => absurd (hx.trans_le hx') (by simp), fun h => absurd h (by simp)⟩
  | succ n ih =>
    simp only [List.range_succ, List.map_append, List.map_cons, List.map_nil, List.foldl_append, List.foldl_cons,
      List.foldl_nil] at ih ⊢
    generalize ((List.range n).map (· + 1)).foldl (fun d x => if p x then x else d) 1 = d at ih
    obtain ⟨hpos, hle, hlast, hadm⟩ := ih
    by_cases hp : p (n + 1)
    · rw [if_pos hp]
      exact ⟨by omega, le_max_right _ _, fun x hx hx' => absurd hx' (by omega), fun _ => hp⟩
    · rw [if_neg hp]
      refine ⟨hpos, by omega, fun x hx hx' => ?_, hadm⟩
      rcases Nat.eq_or_lt_of_le hx' with rfl | hx'
      · exact hp
      · exact hlast x hx (by omega)

/-- The duty is the largest one that the cap admits, 1 where it admits none. -/
theorem dutyFor_largest (cap u : Nat) (f : ℚ) : 1 ≤ dutyFor cap u f ∧ dutyFor cap u f ≤ 16 ∧
    (∀ x, dutyFor cap u f < x → x ≤ 16 → (cap : ℚ) < u + (x : ℚ) * f / 16) ∧
    (1 < dutyFor cap u f → (u : ℚ) + (dutyFor cap u f : ℚ) * f / 16 ≤ cap) := by
  obtain ⟨hpos, hle, hlast, hadm⟩ := foldl_lastAdmitted (fun x => (u : ℚ) + (x : ℚ) * f / 16 ≤ cap) 16
  exact ⟨hpos, hle, fun x hx hx' => not_le.1 (hlast x hx hx'), hadm⟩

/-- What a governor window leaves: the cap as the boundary left it, and the duty under that cap. -/
theorem exec_governorWindow {s : State} (hs : Running s) :
    let v := applyCap { s with freeCtr := s.freeCtr + 1 }
    ∃ t, exec .governorWindow s = .next t ∧ t.mem = v.mem ∧ t.tables = v.tables ∧ t.pace = v.pace ∧
      (∀ m, m ≠ 0 → t.unit m = v.unit m) ∧ t.out = v.out ∧ t.power.cap = v.power.cap ∧ t.power.capSeq = v.power.capSeq ∧
      t.power.pendingCap = v.power.pendingCap ∧
      t.power.duty = wordOf 5 (if v.power.cap = 0xFFFF then 16 else dutyFor v.power.cap.toNat
        (Config.drawFixed s.storage.pwrcal s.freeCtr)
        ((Config.drawIssue s.storage.pwrcal s.freeCtr : ℚ) * 16 / s.power.duty.toNat)) := by
  intro v
  refine ⟨_, live_of_running _ hs, ?_⟩
  simp only
  split
  · exact ⟨rfl, rfl, rfl, fun m hm => State.unit_post_ne v 0 .powerFloor none _ _ _ hm, rfl, rfl, rfl, rfl, rfl⟩
  · exact ⟨rfl, rfl, rfl, fun _ _ => rfl, rfl, rfl, rfl, rfl, rfl⟩

/-! ### SCRUB (R412, R413) -/

/-- The state in which a background action is over. -/
def withoutAction (s : State) (a : BitVec 9 × BitVec 8 × BitVec 16) : State :=
  { s with mg := { s.mg with background := s.mg.background.erase a } }

/-- A bad region of a codebook file: every slot of that copy is invalid (R48). -/
theorem Files.spoil_books (f : Files) (region copy : Nat) : f.spoil 1 region (decide (copy = 0)) =
    if copy = 0 then { f with cbBadActive := List.range 64 }
    else { f with cbBadStaged := List.range 64, cbFixed := f.cbFixed.map (fun x => (x.1, List.range 64)) } := by
  by_cases h : copy = 0 <;> simp [spoil, h]

/-- A bad region of a channel file: its 1,024 entries of that copy (R122). -/
theorem Files.spoil_channels (f : Files) (region copy : Nat) : f.spoil 2 region (decide (copy = 0)) =
    if copy = 0 then { f with chBadActive := withRange f.chBadActive (1024 * region) 1024 }
    else { f with chBadNext := withRange f.chBadNext (1024 * region) 1024 } := by
  by_cases h : copy = 0 <;> simp [spoil, h]

/-- A bad region of a rescale table: its 512 entries of that copy (R122). -/
theorem Files.spoil_rescales (f : Files) (region copy : Nat) : f.spoil 3 region (decide (copy = 0)) =
    if copy = 0 then { f with rtBadActive := withRange f.rtBadActive (512 * region) 512 }
    else { f with rtBadNext := withRange f.rtBadNext (512 * region) 512 } := by
  by_cases h : copy = 0 <;> simp [spoil, h]

theorem takeAction_of_find {s : State} {n : Nat} {a : BitVec 9 × BitVec 8 × BitVec 16}
    (ha : s.mg.background.find? (fun x => decide (x.2.1 = wordOf 8 n)) = some a) :
    takeAction s n = some (a, withoutAction s a) := by
  rw [takeAction, ha]; rfl

section
variable {s : State} (hs : Running s) (hidle : s.pace.phase = 0) {a : BitVec 9 × BitVec 8 × BitVec 16}
include hs hidle

/-- SCRUB of the class that the running action has come to. -/
theorem exec_scrub (ha : s.mg.background.find? (fun x => decide (x.2.1 = 4)) = some a) {cls : BitVec 4}
    (hcls : (bitsAt a.2.2 0 4 = cls ∧ cls ≠ 0) ∨ (bitsAt a.2.2 0 4 = 0 ∧ cls.toNat = s.mg.scrubNext))
    (found : List (Nat × Nat × Nat)) :
    exec (.scrub cls found) s = .next
      (found.foldl (fun t p => scrubMismatch t p.1 cls.toNat p.2.1 p.2.2 false) (scrubEnds s a cls.toNat)) := by
  have hworks : workIdle s = true := by simp [workIdle, hidle]
  have hruns : runningScrub s = some a := ha
  change execScrub cls found s = _
  rw [execScrub, live_of_running _ hs, hworks, if_pos rfl, hruns]
  exact congrArg _ (if_pos hcls)

omit hs hidle in
/-- A scrub of one class is over with that class. -/
theorem scrubEnds_of_class (h : bitsAt a.2.2 0 4 ≠ 0) (cls : Nat) : scrubEnds s a cls = withoutAction s a := by
  rw [scrubEnds, if_neg (fun hc => h hc.1), if_neg h]; rfl

omit hs hidle in
/-- A mismatch in a class of a unit's files: its event, and the region of that copy invalid (R48, R122). -/
theorem scrubMismatch_files {b cls region copy : Nat} (hscrubs : scrubs b cls = true) (hheld : (s.unit b).held = true)
    (hcls : cls ≠ 4 ∧ cls ≠ 5) (hcopy : copy < 2) :
    scrubMismatch s b cls region copy false = (s.post b b .scrub none (wordOf 32 cls) (wordOf 32 region) (wordOf 32 copy)).onUnit b
      (fun u => { u with files := u.files.spoil cls region (decide (copy = 0)) }) := by
  have hmod : copy % 2 = copy := Nat.mod_eq_of_lt hcopy
  have hecc : wordOf 32 cls ||| ((bit false).setWidth 32 <<< 4) = wordOf 32 cls := by
    rw [show ((bit false).setWidth 32 <<< 4 : BitVec 32) = 0#32 by decide, BitVec.or_zero]
  rw [scrubMismatch, hscrubs, hheld, if_neg (by decide), hmod, hecc]
  split
  · next h => exact absurd rfl hcls.1
  · next h => exact absurd rfl hcls.2
  · rfl

/-- A scrub of one class that found one region of a unit's files bad. -/
theorem exec_scrub_mismatch (ha : s.mg.background.find? (fun x => decide (x.2.1 = 4)) = some a) {cls : BitVec 4}
    (hcls : bitsAt a.2.2 0 4 = cls) (hfiles : cls = 1 ∨ cls = 2 ∨ cls = 3) {b region copy : Nat}
    (hscrubs : scrubs b cls.toNat = true) (hheld : (s.unit b).held = true) (hcopy : copy < 2) :
    exec (.scrub cls [(b, region, copy)]) s = .next
      (((withoutAction s a).post b b .scrub none (cls.setWidth 32) (wordOf 32 region) (wordOf 32 copy)).onUnit b
        (fun u => { u with files := u.files.spoil cls.toNat region (decide (copy = 0)) })) := by
  have hne : cls ≠ 0 := by rcases hfiles with rfl | rfl | rfl <;> decide
  have hnum : cls.toNat ≠ 4 ∧ cls.toNat ≠ 5 ∧ wordOf 32 cls.toNat = cls.setWidth 32 := by
    rcases hfiles with rfl | rfl | rfl <;> decide
  obtain ⟨h4, h5, hword⟩ := hnum
  rw [exec_scrub hs hidle ha (.inl ⟨hcls, hne⟩), scrubEnds_of_class (by rw [hcls]; exact hne), List.foldl_cons,
    List.foldl_nil, scrubMismatch_files (s := withoutAction s a) hscrubs hheld ⟨h4, h5⟩ hcopy, hword]

end

/-! ### MARGIN (R363, R415) -/

theorem State.linkEnd_setLinkEnd_self (s : State) (k : Nat) (mg : Bool) (e : LinkEnd) :
    (s.setLinkEnd k mg e).linkEnd k mg = e := by
  unfold linkEnd setLinkEnd
  rw [link_setLink_self]
  cases mg <;> rfl

theorem State.linkEnd_setLinkEnd_other (s : State) (k : Nat) (mg : Bool) (e : LinkEnd) :
    (s.setLinkEnd k mg e).linkEnd k (!mg) = s.linkEnd k (!mg) := by
  unfold linkEnd setLinkEnd
  rw [link_setLink_self]
  cases mg <;> rfl

theorem State.margins_setLinkEnd (s : State) (k : Nat) (mg : Bool) (e : LinkEnd) :
    ((s.setLinkEnd k mg e).link k).margins = (s.link k).margins := by
  unfold setLinkEnd
  rw [link_setLink_self]
  cases mg <;> rfl

/-- An end that begins a retrain in ADVERTISE, over modes no faster (R363). -/
def LinkEnd.retrained (e : LinkEnd) (cause : BitVec 2) : LinkEnd :=
  { e with
    retraining := true, fails := 0, mismatches := 0, sets := 0, resends := 0, confirmed := false, cause := cause
    least := e.mode, st := .advertise }

theorem retrainEnd_of_active {s : State} {k : Nat} {mg : Bool} (h : (s.linkEnd k mg).st = .active) (cause : BitVec 2) :
    ∃ o, retrainEnd s k mg false cause =
      { s.setLinkEnd k mg ((s.linkEnd k mg).retrained cause) with out := o } := by
  rw [retrainEnd, if_pos h]
  exact ⟨_, rfl⟩

/-- A link in ACTIVE retrains at both ends; its margins stay. -/
theorem retrainLink_of_active {s : State} {k : Nat} (hmg : (s.linkEnd k true).st = .active)
    (hsl : (s.linkEnd k false).st = .active) (cause : BitVec 2) :
    ∃ l o, retrainLink s k false cause = { s with links := l, out := o } ∧
      (retrainLink s k false cause).linkEnd k true = (s.linkEnd k true).retrained cause ∧
      (retrainLink s k false cause).linkEnd k false = (s.linkEnd k false).retrained cause ∧
      ((retrainLink s k false cause).link k).margins = (s.link k).margins := by
  obtain ⟨o, ho⟩ := retrainEnd_of_active hmg cause
  set v := s.setLinkEnd k true ((s.linkEnd k true).retrained cause) with hv
  have hother : v.linkEnd k false = s.linkEnd k false := s.linkEnd_setLinkEnd_other k true _
  obtain ⟨o', ho'⟩ := retrainEnd_of_active (s := { v with out := o }) (mg := false) (k := k)
    ((congrArg LinkEnd.st hother).trans hsl) cause
  have hlink : retrainLink s k false cause =
      { v.setLinkEnd k false ((s.linkEnd k false).retrained cause) with out := o' } := by
    rw [retrainLink, ho, ho', ← hother]; rfl
  rw [hlink]
  refine ⟨_, _, rfl, ?_, v.linkEnd_setLinkEnd_self k false _, ?_⟩
  · exact (v.linkEnd_setLinkEnd_other k false _).trans (s.linkEnd_setLinkEnd_self k true _)
  · exact (v.margins_setLinkEnd k false _).trans (s.margins_setLinkEnd k true _)

/-- A table that lists a function's values, its zeros left out, reads as that function. -/
theorem tget_map_nonzero {w : Nat} (g : Nat → BitVec w) (l : List Nat) (j : Nat) :
    tget 0 ((l.map (fun i => (i, g i))).filter (fun p => decide (p.2 ≠ 0))) j = if j ∈ l then g j else 0 := by
  induction l with
  | nil => rfl
  | cons i l ih =>
    rw [List.map_cons]
    by_cases hg : g i = 0
    · rw [List.filter_cons_of_neg (by simpa using hg), ih]
      by_cases hj : j = i
      · subst hj; simp [hg]
      · simp [hj]
    · rw [List.filter_cons_of_pos (by simpa using hg), tget, ih]
      by_cases hj : i = j
      · subst hj; simp
      · rw [if_neg hj]; simp [Ne.symm hj]

/-- The margin listed for a lane of a stack, 255 where none is (log entry 33(p)). -/
def marginOf (found : List (Nat × Nat × Nat)) (k j : Nat) : Nat :=
  ((found.find? (fun p => decide (p.1 = k) && decide (p.2.1 = j))).map (fun p => p.2.2)).getD 255

/-- Some lane in use of stack k has a margin below MARGTH. -/
def WeakLane (s : State) (found : List (Nat × Nat × Nat)) (k : Nat) : Prop :=
  ∃ j ∈ lanesInUse (s.linkEnd k true), marginOf found k j < s.mg.margth.toNat

/-- The state with the margins of the lanes in use of stack k recorded. -/
def recordMargins (s : State) (found : List (Nat × Nat × Nat)) (k : Nat) : State :=
  s.setLink k { s.link k with
    margins := ((lanesInUse (s.linkEnd k true)).map (fun j => (j, satOf 8 (marginOf found k j)))).filter
      (fun p => decide (p.2 ≠ 0)) }

theorem linkEnd_recordMargins (s : State) (found : List (Nat × Nat × Nat)) (k : Nat) (mg : Bool) :
    (recordMargins s found k).linkEnd k mg = s.linkEnd k mg := by
  unfold recordMargins State.linkEnd
  rw [State.link_setLink_self]

theorem margins_recordMargins (s : State) (found : List (Nat × Nat × Nat)) (k j : Nat) :
    tget 0 ((recordMargins s found k).link k).margins j =
      if j ∈ lanesInUse (s.linkEnd k true) then satOf 8 (marginOf found k j) else 0 := by
  unfold recordMargins
  rw [State.link_setLink_self]
  exact tget_map_nonzero _ _ j

/-- A link in ACTIVE records its margins, and retrains where a lane is below MARGTH. -/
theorem measureLink_of_active {s : State} {k : Nat} (h : (s.linkEnd k true).st = .active) (found : List (Nat × Nat × Nat)) :
    (WeakLane s found k → measureLink s found k = retrainLink (recordMargins s found k) k false 2) ∧
      (¬ WeakLane s found k → measureLink s found k = recordMargins s found k) := by
  have hweak : (lanesInUse (s.linkEnd k true)).any (fun j => decide (marginOf found k j < s.mg.margth.toNat)) = true ↔
      WeakLane s found k := by
    simp only [List.any_eq_true, decide_eq_true_eq]; rfl
  rw [measureLink, if_pos h]
  exact ⟨fun hw => if_pos (hweak.2 hw), fun hw => if_neg (mt hweak.1 hw)⟩

/-- MARGIN of an action that names one stack. -/
theorem exec_margin {s : State} (hs : Running s) (hidle : s.pace.phase = 0) {a : BitVec 9 × BitVec 8 × BitVec 16}
    (ha : s.mg.background.find? (fun x => decide (x.2.1 = 5)) = some a) {k : Nat} (hk : k < 16)
    (hbits : ∀ j, j < 16 → bitAt a.2.2 j = decide (j = k)) (found : List (Nat × Nat × Nat)) :
    exec (.margin found) s = .next (measureLink (withoutAction s a) found k) := by
  have hworks : workIdle s = true := by simp [workIdle, hidle]
  have hstacks : (List.range 16).filter (fun j => bitAt a.2.2 j) = [k] := by
    rw [List.filter_congr (fun j hj => hbits j (List.mem_range.1 hj))]
    interval_cases k <;> rfl
  change execMargin found s = _
  rw [execMargin, live_of_running _ hs, hworks, if_pos rfl, takeAction_of_find (n := 5) ha]
  simp only [hstacks, List.foldl_cons, List.foldl_nil]

/-! ### WEAR (R437) -/

theorem exec_wear {s : State} (hs : Running s) (hidle : s.pace.phase = 0) {a : BitVec 9 × BitVec 8 × BitVec 16}
    (ha : s.mg.background.find? (fun x => decide (x.2.1 = 6)) = some a) (weak : List (Nat × Bool)) :
    exec (.wear weak) s = .next { s with
      mg := { s.mg with background := s.mg.background.erase a }
      finish := { s.finish with
        weak := satOf 10 (s.finish.weak.toNat + (weak.filter (fun p =>
          decide ((p.1 + 8192 - s.finish.wearPos.toNat) % 8192 < 64) && slotValid (tget 0 s.finish.slots p.1) && p.2)).length)
        wearPos := s.finish.wearPos + 64 } } := by
  have hworks : workIdle s = true := by simp [workIdle, hidle]
  change execWear weak s = _
  rw [execWear, live_of_running _ hs, hworks, if_pos rfl, takeAction_of_find (n := 6) ha]
  rfl

/-- Settles O47: a window boundary applies the cap and then sets the duty; each background command takes the action that runs
off MG's list and applies what it found (log entry 39(a) for a CAP that waits). -/
theorem powerAndBackgroundWork : Obligations.PowerAndBackgroundWork := by
  unfold Obligations.PowerAndBackgroundWork
  refine ⟨fun s msg hs htype hres => exec_cap hs htype hres, ?governor, ?scrub, ?margin,
    fun s a weak hs hidle ha => exec_wear hs hidle ha weak⟩
  case governor =>
    intro s hs fixed full
    obtain ⟨t, hexec, hmem, htables, hpace, hunits, hout, hcap, hseq, hpending, hduty⟩ := exec_governorWindow hs
    obtain ⟨fmem, ftables, fpace, funits⟩ := applyCap_frame { s with freeCtr := s.freeCtr + 1 }
    refine ⟨t, hexec, hmem.trans fmem, htables.trans ftables, hpace.trans fpace,
      fun m hm => (hunits m hm).trans (funits m hm), fun hnone => ?_, fun w q n hsome hn => ?_, fun w q n hsome hn => ?_, ?_⟩
    · rw [hcap, hpending, hout, applyCap_none (s := { s with freeCtr := s.freeCtr + 1 }) hnone]
      exact ⟨rfl, hnone, rfl⟩
    · rw [hcap, hseq, hpending, hout, applyCap_due (s := { s with freeCtr := s.freeCtr + 1 }) hsome hn]
      exact ⟨rfl, rfl, rfl, rfl⟩
    · rw [hcap, hpending, hout, applyCap_waits (s := { s with freeCtr := s.freeCtr + 1 }) hsome hn]
      exact ⟨rfl, rfl, rfl⟩
    · intro d cap
      obtain ⟨hpos, hle, hlast, hadm⟩ := dutyFor_largest t.power.cap.toNat fixed full
      rw [← hcap] at hduty
      by_cases hfree : t.power.cap = 0xFFFF
      · have hd : d = 16 := by
          rw [if_pos hfree] at hduty
          exact congrArg BitVec.toNat hduty
        exact ⟨fun _ => hd, by omega, by omega, fun h => absurd hfree h⟩
      · have hd : d = dutyFor t.power.cap.toNat fixed full := by
          rw [if_neg hfree] at hduty
          refine (congrArg BitVec.toNat hduty).trans (Nat.mod_eq_of_lt ?_)
          exact lt_of_le_of_lt hle (by decide)
        rw [hd]
        exact ⟨fun h => absurd h hfree, hpos, hle, fun _ => ⟨hlast, hadm⟩⟩
  case scrub =>
    intro s a hs hidle ha s0 cls
    refine ⟨fun hcls hlow hhigh => ?_, fun hcls hnext => ?_, fun hcls => ?_, fun b region copy hcls hheld hcopy => ?_⟩
    · have hnum : (wordOf 4 s.mg.scrubNext).toNat = s.mg.scrubNext := Nat.mod_eq_of_lt (by omega)
      rw [exec_scrub hs hidle ha (.inr ⟨hcls, hnum⟩), hnum, scrubEnds, if_pos ⟨hcls, hhigh⟩]
      rfl
    · rw [exec_scrub hs hidle ha (cls := 5) (.inr ⟨hcls, hnext.symm⟩), scrubEnds,
        if_neg (fun h => absurd h.2 (by decide)), if_pos hcls]
      rfl
    · rw [exec_scrub hs hidle ha (.inl ⟨rfl, hcls⟩), scrubEnds_of_class hcls]
      rfl
    · intro s1 spoiled
      have hspoils : (cls = 1 ∨ cls = 2 ∨ cls = 3) → ∀ n, cls.toNat = n → scrubs b n = true →
          spoiled (fun f => f.spoil n region (decide (copy = 0))) := by
        rintro hfiles n rfl hscrubs
        exact exec_scrub_mismatch hs hidle ha rfl hfiles hscrubs hheld hcopy
      refine ⟨fun h1 hkind => ?_, fun h2 hkind => ?_, fun h3 hkind => ?_⟩
      · have hscrubs : scrubs b 1 = true := by rcases hkind with hk | hk <;> simp [scrubs, hk]
        simpa only [Files.spoil_books] using hspoils (.inl h1) 1 (by rw [h1]; rfl) hscrubs
      · have hscrubs : scrubs b 2 = true := by simp [scrubs, hkind]
        simpa only [Files.spoil_channels] using hspoils (.inr (.inl h2)) 2 (by rw [h2]; rfl) hscrubs
      · have hscrubs : scrubs b 3 = true := by simp [scrubs, hkind]
        simpa only [Files.spoil_rescales] using hspoils (.inr (.inr h3)) 3 (by rw [h3]; rfl) hscrubs
  case margin =>
    intro s a k found hs hidle ha hk hbits hmg hsl lanes margin
    refine ⟨_, exec_margin hs hidle ha hk hbits found, ?_⟩
    have hrecorded := margins_recordMargins (withoutAction s a) found k
    obtain ⟨hretrain, hkept⟩ := measureLink_of_active (s := withoutAction s a) hmg found
    by_cases hweak : WeakLane (withoutAction s a) found k
    · obtain ⟨l, o, hframe, hup, hdown, hmargins⟩ := retrainLink_of_active
        (s := recordMargins (withoutAction s a) found k) (k := k) (by rw [linkEnd_recordMargins]; exact hmg)
        (by rw [linkEnd_recordMargins]; exact hsl) 2
      rw [hretrain hweak, hup, hdown, hmargins]
      rw [hframe]
      refine ⟨rfl, rfl, rfl, hrecorded, fun hall => ?_, fun _ => ⟨rfl, rfl, rfl, rfl, rfl, rfl⟩⟩
      obtain ⟨j, hj, hlt⟩ := hweak
      exact absurd (hall j hj) (not_le.2 hlt)
    · rw [hkept hweak, linkEnd_recordMargins, linkEnd_recordMargins]
      exact ⟨rfl, rfl, rfl, hrecorded, fun _ => ⟨rfl, rfl⟩, fun h => absurd h hweak⟩

end Sys2Proof.Machine
end

section
/-!
PROOFS. Internal errors: what is counted, what a mismatch spoils, the reset of a unit, and the stop of the complex (R48, R333,
R391, R392, R413, R427, R428, R457).
-/

namespace Sys2Proof.Machine

/-! ### What MG's completions in a unit's place leave alone (R330, R333) -/

/-- The states differ in memory, MG's tables and the trackers alone. -/
def SameButQueues (s t : State) : Prop := ∃ m x y, t = { s with mem := m, tables := x, trackers := y }

theorem SameButQueues.refl (s : State) : SameButQueues s s := ⟨s.mem, s.tables, s.trackers, rfl⟩

theorem SameButQueues.trans {s t v : State} (h : SameButQueues s t) (h' : SameButQueues t v) : SameButQueues s v := by
  obtain ⟨_, _, _, rfl⟩ := h
  obtain ⟨m, x, y, rfl⟩ := h'
  exact ⟨m, x, y, rfl⟩

theorem sameButQueues_ite {s t v : State} {c : Prop} [Decidable c] (h : SameButQueues s t) (h' : SameButQueues s v) :
    SameButQueues s (if c then t else v) := by
  split
  · exact h
  · exact h'

/-- A fold changes nothing that none of its steps changes. -/
theorem sameButQueues_each {α : Type} {f : State → α → State} (h : ∀ t a, SameButQueues t (f t a)) (s : State)
    (l : List α) : SameButQueues s (s.each l f) :=
  each_inv (SameButQueues s) f (fun t a ht => ht.trans (h t a)) l s (.refl s)

theorem settleQueue_sameButQueues (s : State) (q : Nat) : SameButQueues s (settleQueue s q) := by
  have owner : ∀ t : State, SameButQueues t (settleOwner t q) := by
    intro t
    unfold settleOwner
    split
    · obtain ⟨x, hx⟩ := settleContext_frame t _
      exact ⟨_, _, _, hx⟩
    · exact .refl t
  unfold settleQueue
  refine SameButQueues.trans ?_ (owner _)
  split
  · exact ⟨_, _, _, rfl⟩
  · exact .refl s

theorem writeRecord_sameButQueues (s : State) (q : Nat) (bs : List Byte) (n : Nat) :
    SameButQueues s (writeRecord s q bs n) := ⟨_, _, _, rfl⟩

theorem writeSlot_sameButQueues (s : State) (c k : Nat) (bs : List Byte) : SameButQueues s (writeSlot s c k bs) := ⟨_, _, _, rfl⟩

theorem closeNext_sameButQueues (s : State) (q : Nat) : SameButQueues s (closeNext s q) := by
  unfold closeNext
  exact SameButQueues.trans (sameButQueues_ite ⟨_, _, _, rfl⟩ ⟨_, _, _, rfl⟩) (writeRecord_sameButQueues _ _ _ _)

theorem closeVisible_sameButQueues (n : Nat) (s : State) (q : Nat) : SameButQueues s (closeVisible n s q) := by
  induction n generalizing s with
  | zero => exact .refl s
  | succ n ih =>
    rw [closeVisible]
    split
    · exact (closeNext_sameButQueues s q).trans (ih _)
    · exact .refl s

theorem closeUnissued_sameButQueues (s : State) (q : Nat) : SameButQueues s (closeUnissued s q) := by
  unfold closeUnissued
  exact closeVisible_sameButQueues _ s q

theorem answerClosing_sameButQueues (s : State) (p : Nat → Bool) : SameButQueues s (answerClosing s p) := by
  unfold answerClosing
  apply sameButQueues_each
  exact fun t x => closeUnissued_sameButQueues t x.1

theorem haltAll_sameButQueues (s : State) (i : Issued) (st : Status) : SameButQueues s (haltAll s i st) :=
  sameButQueues_each (fun _ _ => ⟨_, _, _, rfl⟩) s _

theorem settleEntry_sameButQueues (s : State) (n : Nat) : SameButQueues s (settleEntry s n) := by
  unfold settleEntry
  split
  · exact ⟨_, _, _, rfl⟩
  · exact .refl s

/-! ### What they do to a unit -/

/-- The units differ in the instructions that they hold alone, and one without instructions got none. -/
def UnitSt.SameButWork (u v : UnitSt) : Prop := ∃ l c n x y,
  v = { u with issued := l, chosen := c, instr := n, inbox := x, feed := y } ∧
    (u.issued = [] → l = []) ∧ (u.inbox = [] → x = [])

theorem UnitSt.SameButWork.refl (u : UnitSt) : u.SameButWork u := ⟨_, _, _, _, _, rfl, id, id⟩

theorem UnitSt.SameButWork.trans {u v w : UnitSt} (h : u.SameButWork v) (h' : v.SameButWork w) : u.SameButWork w := by
  obtain ⟨_, _, _, _, _, rfl, hl, hx⟩ := h
  obtain ⟨l, c, n, x, y, rfl, hl', hx'⟩ := h'
  exact ⟨l, c, n, x, y, rfl, hl' ∘ hl, hx' ∘ hx⟩

/-- The states differ in memory, MG's tables, the trackers and the instructions of the units alone. -/
structure SameButWork (s t : State) : Prop where
  /-- MG's own state stays. -/
  mg : t.mg = s.mg
  /-- The clock stays. -/
  now : t.now = s.now
  /-- Each unit loses instructions at most. -/
  unit : ∀ n, (s.unit n).SameButWork (t.unit n)

theorem SameButWork.refl (s : State) : SameButWork s s := ⟨rfl, rfl, fun _ => .refl _⟩

theorem SameButWork.trans {s t v : State} (h : SameButWork s t) (h' : SameButWork t v) : SameButWork s v :=
  ⟨h'.mg.trans h.mg, h'.now.trans h.now, fun n => (h.unit n).trans (h'.unit n)⟩

theorem SameButQueues.sameButWork {s t : State} (h : SameButQueues s t) : SameButWork s t := by
  obtain ⟨m, x, y, rfl⟩ := h
  exact ⟨rfl, rfl, fun _ => .refl _⟩

/-- A unit that loses instructions. -/
theorem sameButWork_onUnit (s : State) (b : Nat) {f : UnitSt → UnitSt} (h : (s.unit b).SameButWork (f (s.unit b))) :
    SameButWork s (s.onUnit b f) := by
  refine ⟨rfl, rfl, fun n => ?_⟩
  rcases eq_or_ne n b with rfl | hn
  · rw [State.unit_onUnit_self]; exact h
  · rw [State.unit_onUnit_ne s f hn]; exact .refl _

theorem sameButWork_foldl {α : Type} {f : State → α → State} (h : ∀ t a, SameButWork t (f t a)) (s : State) (l : List α) :
    SameButWork s (l.foldl f s) :=
  each_inv (SameButWork s) f (fun t a ht => ht.trans (h t a)) l s (.refl s)

theorem recordByMg_sameButWork (s : State) (b : Nat) (i : Issued) (st : Status) (par : Bool) :
    SameButWork s (recordByMg s b i st par) := by
  unfold recordByMg dropIssued
  refine (writeRecord_sameButQueues _ _ _ _).sameButWork.trans (sameButWork_onUnit _ _ ?_)
  exact ⟨_, _, _, _, _, rfl, fun h => by simp [UnitSt.without, h], id⟩

theorem abortByMg_sameButWork (s : State) (b : Nat) (i : Issued) : SameButWork s (abortByMg s b i) := by
  have hafter : ∀ t q, SameButQueues t (closeUnissued (settleQueue t q) q) := fun t q =>
    (settleQueue_sameButQueues t q).trans (closeUnissued_sameButQueues _ q)
  unfold abortByMg
  split
  · exact SameButWork.trans (recordByMg_sameButWork s b i _ _) (hafter _ _).sameButWork
  · refine SameButWork.trans ?_ (hafter _ _).sameButWork
    refine SameButWork.trans ?_ (sameButQueues_each settleEntry_sameButQueues _ _).sameButWork
    refine SameButWork.trans ?_ (recordByMg_sameButWork _ _ _ _ _)
    refine SameButQueues.sameButWork (SameButQueues.trans ?_ (haltAll_sameButQueues _ _ _))
    exact sameButQueues_ite (writeSlot_sameButQueues _ _ _ _) (.refl s)

theorem abortParked_sameButWork (s : State) (q : Nat) : SameButWork s (abortParked s q) := by
  unfold abortParked
  dsimp only
  split
  · have hq : ∀ v, SameButQueues s (s.setQueue q v) := fun _ => ⟨_, _, _, rfl⟩
    exact (hq _).sameButWork.trans (abortByMg_sameButWork _ _ _)
  · exact .refl s

/-- The unit gives up what it received and has not issued. -/
theorem returnInbox_sameButWork (s : State) (b : Nat) :
    SameButWork s (returnInbox s b) ∧ ((returnInbox s b).unit b).inbox = [] := by
  unfold returnInbox
  constructor
  · refine SameButWork.trans (SameButQueues.sameButWork ?_) (sameButWork_onUnit _ b ⟨_, _, _, _, _, rfl, id, fun _ => rfl⟩)
    exact sameButQueues_each (fun _ _ => ⟨_, _, _, rfl⟩) s _
  · rw [State.unit_onUnit_self]

theorem abortUnit_sameButWork (s : State) (b : Nat) : SameButWork s (abortUnit s b) := by
  have hparked : ∀ (t : State) (x : Nat × Queue),
      SameButWork t (if x.2.pre && decide (x.2.bib = wordOf 12 b) then abortParked t x.1 else t) := by
    intro t x
    split
    · exact abortParked_sameButWork t x.1
    · exact .refl t
  unfold abortUnit
  refine SameButWork.trans ?_ (sameButWork_onUnit _ b ⟨_, _, _, _, _, rfl, id, id⟩)
  refine SameButWork.trans ?_ (returnInbox_sameButWork _ b).1
  refine SameButWork.trans ?_ (sameButWork_foldl hparked _ _)
  exact sameButWork_foldl (fun t i => abortByMg_sameButWork t b i) s _

/-! ### Unit reset and fences -/

/-- The unit record of a unit in unit reset that reset itself at a cycle (R391, R392). -/
structure UnitSt.ErrorReset (u0 : UnitSt) (now : Nat) (u : UnitSt) : Prop where
  held : u.held = u0.held
  resetting : u.health.resetting = true
  resetAt : u.health.resetAt = some now
  issued : u.issued = []
  inbox : u.inbox = []
  files : u.files = {}
  pacer0 : u.pacer0 = u0.pacer0
  pacer1 : u.pacer1 = u0.pacer1

/-- The unit as a fence leaves it (R428). -/
def UnitSt.fencedFor (u : UnitSt) (c : Cause) : UnitSt :=
  { u with
    health := { u.health with
      fenced := true, epochFence := c == .falseStart, cause := c.code, syncedAt := none, mismatches := 0 }
    member := if c == .falseStart then .falseStart else u.member }

theorem UnitSt.ErrorReset.sameButWork {u0 u v : UnitSt} {now : Nat} (h : u0.ErrorReset now u) (h' : u.SameButWork v) :
    u0.ErrorReset now v := by
  obtain ⟨l, c, n, x, y, rfl, hl, hx⟩ := h'
  exact ⟨h.held, h.resetting, h.resetAt, hl h.issued, hx h.inbox, h.files, h.pacer0, h.pacer1⟩

theorem UnitSt.ErrorReset.fencedFor {u0 u : UnitSt} {now : Nat} (h : u0.ErrorReset now u) (c : Cause) :
    u0.ErrorReset now (u.fencedFor c) :=
  ⟨h.held, h.resetting, h.resetAt, h.issued, h.inbox, h.files, h.pacer0, h.pacer1⟩

/-- MG has fenced a unit, and nothing follows from it yet (R428, R429). -/
def fencedState (s : State) (b : Nat) (c : Cause) : State :=
  leaveBaton ((s.post 0 b .fence none (c.code.setWidth 32) 0 0).onUnit b (fun u => u.fencedFor c)) b

theorem unit_fencedState (s : State) {b : Nat} (hb : b ≠ 0) (c : Cause) :
    (fencedState s b c).unit b = (s.unit b).fencedFor c := by
  have h : (fencedState s b c).unit b =
      ((s.post 0 b .fence none (c.code.setWidth 32) 0 0).onUnit b (fun u => u.fencedFor c)).unit b := rfl
  rw [h, State.unit_onUnit_self, State.unit_post_ne s b _ _ _ _ _ hb]

/-- What a fence that changes something brings about. -/
theorem setFence_of_new {s : State} {b : Nat} {c : Cause}
    (h : ((s.unit b).health.fenced && decide ((s.unit b).health.cause = c.code) &&
      ((s.unit b).health.epochFence == (c == .falseStart))) = false) :
    setFence s b c = settlePmask (settleStaging (settleConfirm (if c == .falseStart then fencedState s b c
      else answerClosing (abortUnit (fencedState s b c) b) (fun n => n == b)))) := by
  unfold setFence
  dsimp only
  rw [h, if_neg Bool.false_ne_true]
  rfl

theorem settleFence_sameButWork (s : State) : SameButWork s (settlePmask (settleStaging (settleConfirm s))) := by
  obtain ⟨x, hx⟩ := settleConfirm_frame s
  obtain ⟨y, hy⟩ := settleStaging_frame (settleConfirm s)
  obtain ⟨z, hz⟩ := settlePmask_frame (settleStaging (settleConfirm s))
  rw [hz, hy, hx]
  exact ⟨rfl, rfl, fun _ => .refl _⟩

/-- A unit that MG fences anew: its record, and what MG completes in its place. -/
theorem setFence_sameButWork {s : State} {b : Nat} {c : Cause}
    (h : ((s.unit b).health.fenced && decide ((s.unit b).health.cause = c.code) &&
      ((s.unit b).health.epochFence == (c == .falseStart))) = false) :
    SameButWork (fencedState s b c) (setFence s b c) := by
  rw [setFence_of_new h]
  refine SameButWork.trans ?_ (settleFence_sameButWork _)
  split
  · exact .refl _
  · refine SameButWork.trans (abortUnit_sameButWork _ b) (SameButQueues.sameButWork ?_)
    apply answerClosing_sameButQueues

/-- The unit's record in unit reset (R391, R392). -/
def UnitSt.inReset (u : UnitSt) : UnitSt :=
  { held := u.held
    health := { u.health with resetting := true, syncedAt := none }
    member := .falseStart, lastQueue := u.lastQueue, events := u.events, lossNext := u.lossNext, evArrived := u.evArrived
    evSent := u.evSent && !u.evArrived.isEmpty
    farLap := u.farLap, farPar := u.farPar, pacer0 := u.pacer0, pacer1 := u.pacer1, reseed := u.reseed
    drawnRound := u.drawnRound, drawnReal := u.drawnReal, drawnBits := u.drawnBits }

/-- A unit that enters reset has given up its instructions before its record is reset. -/
theorem enterReset_eq (s : State) (b : Nat) : ∃ v, SameButWork s v ∧ enterReset s b = v.onUnit b UnitSt.inReset := by
  have hwork := abortUnit_sameButWork s b
  refine ⟨if kindOf b = some .tk then { abortUnit s b with
    trackers := resetTracker (abortUnit s b).trackers (indexOf b) } else abortUnit s b, ?_, rfl⟩
  split
  · exact ⟨hwork.mg, hwork.now, hwork.unit⟩
  · exact hwork

/-- The reset that a unit takes after an error, before MG fences it (R427). -/
def afterError (s : State) (b : Nat) : State :=
  (enterReset s b).onUnit b (fun u => { u with health := { u.health with ordered := false, resetAt := some s.now } })

theorem mg_afterError (s : State) (b : Nat) : (afterError s b).mg = s.mg := by
  obtain ⟨v, hv, h⟩ := enterReset_eq s b
  have hmg : (afterError s b).mg = (enterReset s b).mg := rfl
  rw [hmg, h]
  exact hv.mg

/-- A unit in unit reset has lost its instructions and tables, and keeps its pacers and what MG knows of it. -/
theorem unit_afterError (s : State) (b : Nat) :
    let u := (afterError s b).unit b
    (s.unit b).ErrorReset s.now u ∧ u.health.fenced = (s.unit b).health.fenced ∧
      u.health.cause = (s.unit b).health.cause := by
  obtain ⟨v, hv, h⟩ := enterReset_eq s b
  obtain ⟨l, c, n, x, y, hu, -, -⟩ := hv.unit b
  unfold afterError
  rw [h, State.unit_onUnit_self, State.unit_onUnit_self, hu]
  exact ⟨⟨rfl, rfl, rfl, rfl, rfl, rfl, rfl, rfl⟩, rfl, rfl⟩

/-- A second error reset comes within a second of the first (R427). -/
def ErrorAgain (s : State) (b : Nat) : Prop := ∃ since, (s.unit b).health.resetAt = some since ∧ s.now < since + secondCclk

theorem errorAgain_iff (s : State) (b : Nat) :
    (s.unit b).health.resetAt.any (fun t => decide (s.now < t + secondCclk)) = true ↔ ErrorAgain s b := by
  simp [Option.any_eq_true, ErrorAgain]

theorem errorReset_of_first {s : State} {b : Nat} (h : ¬ ErrorAgain s b) : errorReset s b = afterError s b := by
  unfold errorReset
  exact if_neg (mt (errorAgain_iff s b).1 h)

theorem errorReset_of_again {s : State} {b : Nat} (h : ErrorAgain s b) :
    errorReset s b = fence (afterError s b) b .repeated := by
  unfold errorReset
  exact if_pos ((errorAgain_iff s b).2 h)

/-- A fence for REPEAT leaves a KIND fence, and otherwise is the unit's fence (R428). -/
theorem fence_repeated {s : State} {b : Nat} (hb : b ≠ 0) {u0 : UnitSt} {now : Nat} (hu : u0.ErrorReset now (s.unit b)) :
    let t := fence s b .repeated
    t.mg = s.mg ∧ u0.ErrorReset now (t.unit b) ∧ (t.unit b).health.fenced = true ∧
      ((s.unit b).health.fenced = false ∨ (s.unit b).health.cause ≠ 2 → (t.unit b).health.cause = 8) := by
  unfold fence
  intro t
  by_cases hkind : (s.unit b).health.fenced = true ∧ (s.unit b).health.cause = 2
  · obtain ⟨hfenced, hcause⟩ := hkind
    have ht : t = s := by simp [t, hfenced, hcause, Cause.code]
    rw [ht]
    exact ⟨rfl, hu, hfenced, fun h => absurd h (by simp [hfenced, hcause])⟩
  · have ht : t = setFence s b .repeated := by
      refine if_neg (fun h => hkind ?_)
      have hrep : (Cause.repeated == Cause.falseStart) = false := rfl
      rw [hrep, Bool.false_and, Bool.or_false, Bool.and_eq_true] at h
      exact ⟨h.1, of_decide_eq_true h.2⟩
    rw [ht]
    cases hnew : (s.unit b).health.fenced && decide ((s.unit b).health.cause = Cause.repeated.code) &&
        ((s.unit b).health.epochFence == (Cause.repeated == Cause.falseStart)) with
    | true =>
      have hs : setFence s b .repeated = s := by
        unfold setFence
        exact if_pos hnew
      simp only [Bool.and_eq_true, decide_eq_true_eq] at hnew
      obtain ⟨⟨hfenced, hcause⟩, -⟩ := hnew
      rw [hs]
      exact ⟨rfl, hu, hfenced, fun _ => hcause⟩
    | false =>
      have hwork := setFence_sameButWork hnew
      have hunit := hwork.unit b
      rw [unit_fencedState s hb] at hunit
      refine ⟨hwork.mg, (hu.fencedFor .repeated).sameButWork hunit, ?_, fun _ => ?_⟩
      · obtain ⟨_, _, _, _, _, h, -, -⟩ := hunit
        rw [h]; rfl
      · obtain ⟨_, _, _, _, _, h, -, -⟩ := hunit
        rw [h]; rfl

/-- The reset of a unit after an error. -/
theorem errorReset_spec (s : State) {b : Nat} (hb : b ≠ 0) :
    let t := errorReset s b
    let u := t.unit b
    t.mg = s.mg ∧ (s.unit b).ErrorReset s.now u ∧
      (ErrorAgain s b → u.health.fenced = true ∧
        ((s.unit b).health.fenced = false ∨ (s.unit b).health.cause ≠ 2 → u.health.cause = 8)) ∧
      (¬ ErrorAgain s b → u.health.fenced = (s.unit b).health.fenced ∧ u.health.cause = (s.unit b).health.cause) := by
  obtain ⟨hreset, hfenced, hcause⟩ := unit_afterError s b
  by_cases h : ErrorAgain s b
  · obtain ⟨hmg, hr, hf, hc⟩ := fence_repeated hb hreset
    rw [hfenced, hcause] at hc
    simp only [errorReset_of_again h]
    exact ⟨hmg.trans (mg_afterError s b), hr, fun _ => ⟨hf, hc⟩, fun hn => absurd h hn⟩
  · simp only [errorReset_of_first h]
    exact ⟨mg_afterError s b, hreset, fun hn => absurd hn h, fun _ => ⟨hfenced, hcause⟩⟩

/-! ### What an event leaves of its unit -/

/-- An event posted by a unit about itself changes its events and counts alone. -/
theorem unit_post_self (s : State) (b : Nat) (v : Ev) (c : Option Nat) (x y z : BitVec 32) :
    ∃ e l n m, (s.post b b v c x y z).unit b =
      { s.unit b with errs := e, events := l, lossNext := n, health := { (s.unit b).health with evlost := m } } := by
  unfold State.post
  rw [State.unit_onUnit_self]
  unfold UnitSt.hold
  dsimp only
  split
  · exact ⟨_, _, _, _, rfl⟩
  · split
    · exact ⟨_, _, _, _, rfl⟩
    · exact ⟨_, _, _, _, rfl⟩

/-! ### The stop of the complex (R427) -/

theorem bitsAt_wordLE_byte {w : Nat} (hw : 8 ≤ w) (x : Byte) (bs : List Byte) : bitsAt (wordLE w (x :: bs)) 0 8 = x := by
  have hpow : (2 : Nat) ^ 8 ∣ 2 ^ w := pow_dvd_pow 2 hw
  have hx := x.isLt
  apply BitVec.eq_of_toNat_eq
  simp only [wordLE, wordOf, leNat, BitVec.extractLsb'_toNat, BitVec.toNat_ofNat, Nat.shiftRight_zero,
    Nat.mod_mod_of_dvd _ hpow]
  omega

theorem bitsAt_slotRecord_type (rtype : BitVec 8) (boot : BitVec 20) (rseq : BitVec 32) (body : BitVec 384)
    (time : BitVec 32) : bitsAt (slotRecord rtype boot rseq body time) 0 8 = rtype := by
  have hbyte : wordOf 8 (rtype.setWidth 32 ||| (0x100 : BitVec 32) ||| (boot.setWidth 32 <<< 12)).toNat = rtype := by
    rw [wordOf, BitVec.ofNat_toNat]
    ext i hi
    simp
  refine Eq.trans (bitsAt_wordLE_byte (by decide) _ _) hbyte

/-- The slot after the head holds the record that was written. -/
theorem slot_writeSlotRecord (s : State) (r : BitVec 8) (body : BitVec 384) : ∃ boot rseq time,
    tget 0 (writeSlotRecord s r body true).finish.slots (nextSlot s.finish).toNat = slotRecord r boot rseq body time :=
  ⟨_, _, _, tget_tset_self _ _ _ _⟩

/-- A record committed reaches the finish record and the mark of an update. -/
theorem commitRecord_frame (s : State) (r : BitVec 8 × BitVec 384) :
    ∃ f g, commitRecord s r = { s with finish := f, mg := { s.mg with begun := g } } := by
  unfold commitRecord
  split
  · exact ⟨_, _, rfl⟩
  · exact ⟨_, _, rfl⟩

theorem commitWaiting_frame (s : State) :
    ∃ f g, commitWaiting s = { s with finish := f, mg := { s.mg with begun := g } } := by
  refine each_inv (fun t => ∃ f g, t = { s with finish := f, mg := { s.mg with begun := g } }) commitRecord ?_ _ s
    ⟨s.finish, s.mg.begun, rfl⟩
  rintro t r ⟨_, _, rfl⟩
  obtain ⟨f, g, h⟩ := commitRecord_frame _ r
  exact ⟨f, g, h⟩

/-- A record queued waits, or is counted as lost. -/
theorem queueRecord_frame (s : State) (r : BitVec 8) (body : BitVec 384) :
    ∃ w n, queueRecord s r body = { s with finish := { s.finish with waiting := w, lost := n } } := by
  unfold queueRecord
  dsimp only
  split
  · exact ⟨_, _, rfl⟩
  · exact ⟨_, _, rfl⟩

theorem queueAccepted_frame (s : State) (e : Event) (bs : List Byte) :
    ∃ w n, queueAccepted s e bs = { s with finish := { s.finish with waiting := w, lost := n } } := by
  unfold queueAccepted
  dsimp only
  split
  · exact queueRecord_frame s _ _
  · split
    · exact queueRecord_frame s _ _
    · exact ⟨s.finish.waiting, s.finish.lost, rfl⟩

/-- An accepted event reaches the log, the scratchpad and what waits for the finish record. -/
theorem acceptEvent_frame (s : State) (e : Event) :
    ∃ l m w n, acceptEvent s e = { s with log := l, mem := m, finish := { s.finish with waiting := w, lost := n } } := by
  unfold acceptEvent
  dsimp only
  split
  · split
    · exact ⟨_, s.mem, s.finish.waiting, _, rfl⟩
    · exact ⟨_, s.mem, s.finish.waiting, s.finish.lost, rfl⟩
  · split
    · obtain ⟨w, n, h⟩ := queueAccepted_frame { s with log := { s.log with
        next := s.log.next + 1, backlog := s.log.backlog ++ [wordLE 256 (e.bytes s.log.next)] } } e (e.bytes s.log.next)
      exact ⟨_, _, w, n, h⟩
    · obtain ⟨w, n, h⟩ := queueAccepted_frame (writeLog { s with log := { s.log with next := s.log.next + 1 } } s.log.next
        (e.bytes s.log.next)) e (e.bytes s.log.next)
      exact ⟨_, _, w, n, h⟩

/-- The complex has stopped: MG_FATAL is on, nothing waits, and the rest of MG, the units and the tables stand (R427). -/
def Stopped (s t : State) : Prop :=
  { t.mg with begun := s.mg.begun } = { s.mg with fatal := true } ∧ t.units = s.units ∧ t.tables = s.tables ∧
    t.finish.waiting = [] ∧
    (s.finish.scanned = true → s.finish.pfailAt = none → ∃ h, t.finish.head = some h ∧
      bitsAt (tget 0 t.finish.slots h.toNat) 0 8 = 3)

theorem fatalStop_stopped (s : State) (array : BitVec 8) : Stopped s (fatalStop s array) := by
  unfold fatalStop
  dsimp only
  generalize Event.mk _ _ _ _ _ _ _ _ _ _ _ _ _ = e
  have hslot : ∃ v, (if s.finish.scanned && s.finish.pfailAt.isNone then
      writeSlotRecord (commitWaiting s) 3 (wordLE 384 (e.bytes s.log.next)) true else s) = v ∧
      (∃ f g, v = { s with finish := f, mg := { s.mg with begun := g } }) ∧
      (s.finish.scanned = true → s.finish.pfailAt = none → ∃ h, v.finish.head = some h ∧
        bitsAt (tget 0 v.finish.slots h.toNat) 0 8 = 3) := by
    obtain ⟨f, g, hc⟩ := commitWaiting_frame s
    split
    · refine ⟨_, rfl, ?_, fun _ _ => ⟨nextSlot (commitWaiting s).finish, rfl, ?_⟩⟩
      · rw [hc]; exact ⟨_, g, rfl⟩
      · obtain ⟨boot, rseq, time, hw⟩ := slot_writeSlotRecord (commitWaiting s) 3 (wordLE 384 (e.bytes s.log.next))
        rw [hw]
        exact bitsAt_slotRecord_type _ _ _ _ _
    · next hoff => exact ⟨s, rfl, ⟨s.finish, s.mg.begun, rfl⟩, fun h h' => absurd (by simp [h, h']) hoff⟩
  obtain ⟨v, hv, ⟨f, g, rfl⟩, hhead⟩ := hslot
  rw [hv]
  obtain ⟨l, m, w, n, ha⟩ := acceptEvent_frame { s with finish := f, mg := { s.mg with begun := g } } e
  rw [ha]
  exact ⟨rfl, rfl, rfl, rfl, hhead⟩

/-! ### The commands -/

theorem arrayHeld_of {s : State} {b : Nat} {array : BitVec 8} {k : Kind} (hheld : (s.unit b).held = true)
    (hk : kindOf b = some k) (ha : hasArray k array = true) : arrayHeld s b array = true := by
  simp [arrayHeld, hheld, hk, ha]

section
variable {s : State} (hs : Running s)
include hs

theorem exec_errorSingleBit {b : Bib} {array : BitVec 8} (ha : arrayHeld s b.toNat array = true) :
    let h := (s.unit b.toNat).health
    let n := satAdd h.cecnt 1
    let s1 := s.onUnit b.toNat (fun u => { u with health := { u.health with cecnt := n, corrected := true } })
    exec (.errorSingleBit b array) s = .next
      (if h.corrected then s1 else s1.post b.toNat b.toNat .corrected none (array.setWidth 32) (n.setWidth 32) 0) := by
  change execErrorSingleBit b array s = _
  rw [execErrorSingleBit, live_of_running _ hs]
  exact congrArg _ (if_pos ha)

/-- An uncorrectable error in an array that a scrub class covers is its mismatch. -/
theorem exec_errorUncorrectable_covered {b : Bib} {array : BitVec 8} (ha : arrayHeld s b.toNat array = true) {c : Nat}
    (hc : arrayClass array = some c) (region : Nat) (copy : BitVec 2) :
    exec (.errorUncorrectable b array region copy) s = .next (scrubMismatch s b.toNat c region copy.toNat true) := by
  change execErrorUncorrectable b array region copy s = _
  rw [execErrorUncorrectable, live_of_running _ hs]
  simp [ha, hc]

/-- An uncorrectable error in another array resets the unit, or stops the complex where MG has it. -/
theorem exec_errorUncorrectable_uncovered {b : Bib} {array : BitVec 8} (ha : arrayHeld s b.toNat array = true)
    (hc : arrayClass array = none) (region : Nat) (copy : BitVec 2) :
    exec (.errorUncorrectable b array region copy) s = .next (if b.toNat = 0 then fatalStop s array
      else errorReset (s.post b.toNat b.toNat .uncorrected none (array.setWidth 32) 0 0) b.toNat) := by
  change execErrorUncorrectable b array region copy s = _
  rw [execErrorUncorrectable, live_of_running _ hs]
  simp [ha, hc]

theorem exec_mgFatal {array : BitVec 8} (ha : hasArray .mg array = true) :
    exec (.mgFatal array) s = .next (fatalStop s array) := by
  change execMgFatal array s = _
  rw [execMgFatal, live_of_running _ hs, if_pos ha]

theorem exec_hang {b : Bib} {q : BitVec 14} {i : Issued} (hheld : (s.unit b.toNat).held = true)
    (hi : (openOf (s.unit b.toNat) q.toNat).find? (fun j => !waiting s b.toNat j) = some i) :
    exec (.hang b q) s = .next (errorReset (s.post b.toNat b.toNat .hang (some i.ctx) (q.setWidth 32)
      ((hOpcode i.head).setWidth 32) 0) b.toNat) := by
  change execHang b q s = _
  rw [execHang, live_of_running _ hs]
  simp [hi, hheld]

end

/-- A unit that is not fenced becomes a false start, fenced until it has resynchronised (R214, R428). -/
theorem falseStart_spec {s : State} {b : Nat} (hb : b ≠ 0) (h : (s.unit b).health.fenced = false) :
    let t := falseStart s b none
    (t.unit b).member = .falseStart ∧ (t.unit b).health.fenced = true ∧ (t.unit b).health.epochFence = true ∧
      (t.unit b).health.cause = 9 ∧ t.mem = s.mem := by
  unfold falseStart
  dsimp only
  generalize hs1 : s.post 0 b .falseStart none _ _ _ = s1
  have hunit : s1.unit b = s.unit b := by rw [← hs1, State.unit_post_ne s b _ _ _ _ _ hb]
  have hmem : s1.mem = s.mem := by rw [← hs1]; rfl
  have hsent : ∃ l o, sendResync (fence s1 b .falseStart) b = { fence s1 b .falseStart with links := l, out := o } := by
    unfold sendResync
    dsimp only
    split
    · exact sendBaton_frame _ _ _ _
    · exact ⟨_, _, rfl⟩
  have hfence : fence s1 b .falseStart = setFence s1 b .falseStart := by
    unfold fence
    exact if_neg (by simp [hunit, h])
  have hwork := (setFence_sameButWork (s := s1) (b := b) (c := .falseStart) (by simp [hunit, h])).unit b
  rw [unit_fencedState s1 hb, ← hfence] at hwork
  obtain ⟨l, o, hl⟩ := hsent
  obtain ⟨_, _, _, hframe⟩ := fence_falseStart_frame s1 b
  obtain ⟨_, _, _, _, _, hu, -, -⟩ := hwork
  rw [hl]
  refine ⟨?_, ?_, ?_, ?_, ?_⟩
  · exact (congrArg UnitSt.member hu).trans rfl
  · exact (congrArg (fun u => u.health.fenced) hu).trans rfl
  · exact (congrArg (fun u => u.health.epochFence) hu).trans rfl
  · exact (congrArg (fun u => u.health.cause) hu).trans rfl
  · exact (congrArg State.mem hframe).trans hmem

/-- A double-bit error in a codebook file is a mismatch of every slot of that copy, with bit 4 of its event set. -/
theorem scrubMismatch_books {s : State} {b region copy : Nat} (hheld : (s.unit b).held = true)
    (hk : kindOf b = some .cv ∨ kindOf b = some .pt) :
    scrubMismatch s b 1 region copy true =
      (s.post b b .scrub none 0x11 (wordOf 32 region) (wordOf 32 (copy % 2))).onUnit b (fun u => { u with files :=
        if copy % 2 = 0 then { u.files with cbBadActive := List.range 64 }
        else { u.files with
          cbBadStaged := List.range 64, cbFixed := u.files.cbFixed.map (fun x => (x.1, List.range 64)) } }) := by
  have hscrubs : scrubs b 1 = true := by rcases hk with hk | hk <;> simp [scrubs, hk]
  have harg : wordOf 32 1 ||| ((bit true).setWidth 32 <<< 4) = 0x11 := by decide
  unfold scrubMismatch
  rw [hscrubs, hheld, harg]
  simp only [Files.spoil_books]
  rfl

/-- A double-bit error in a unit's format table makes it a false start. -/
theorem scrubMismatch_formatTable {s : State} {b region copy : Nat} (hb : b ≠ 0) (hscrubs : scrubs b 4 = true)
    (hheld : (s.unit b).held = true) :
    ∃ x y z, scrubMismatch s b 4 region copy true = falseStart (s.post b b .scrub none x y z) b none := by
  unfold scrubMismatch
  rw [hscrubs, hheld]
  exact ⟨_, _, _, if_neg hb⟩

/-- A unit that has a format table of its own holds regions of scrub class 4. -/
theorem scrubs_formatTable {b : Nat} {k : Kind} (hk : kindOf b = some k) (h : hasArray k 0x14 = true) : scrubs b 4 = true := by
  cases k with
  | cv | se | pt | sp | sl | rl | mg => simp [scrubs, batonKind, hk]
  | tk => exact absurd h (by decide)

/-- A unit that resets itself after it has posted the error. -/
theorem errorReset_of_posted (s : State) {b : Nat} (hb : b ≠ 0) (v : Ev) (c : Option Nat) (x y z : BitVec 32) :
    let t := errorReset (s.post b b v c x y z) b
    let u := t.unit b
    t.mg = s.mg ∧ (s.unit b).ErrorReset s.now u ∧
      (ErrorAgain s b → u.health.fenced = true ∧
        ((s.unit b).health.fenced = false ∨ (s.unit b).health.cause ≠ 2 → u.health.cause = 8)) ∧
      (¬ ErrorAgain s b → u.health.fenced = (s.unit b).health.fenced ∧ u.health.cause = (s.unit b).health.cause) := by
  obtain ⟨e, l, n, m, hu⟩ := unit_post_self s b v c x y z
  obtain ⟨hmg, hr, hagain, hfirst⟩ := errorReset_spec (s.post b b v c x y z) hb
  unfold ErrorAgain at hagain hfirst ⊢
  rw [hu] at hr hagain hfirst
  exact ⟨hmg, ⟨hr.held, hr.resetting, hr.resetAt, hr.issued, hr.inbox, hr.files, hr.pacer0, hr.pacer1⟩, hagain, hfirst⟩

/-- Settles O48: a single-bit error is counted; an uncorrectable one is its region's mismatch, the unit's reset, or in MG the
stop of the complex. -/
theorem errorsAreHandledAsTheTableSays : Obligations.ErrorsAreHandledAsTheTableSays := by
  unfold Obligations.ErrorsAreHandledAsTheTableSays
  have hne : ∀ b : Bib, b ≠ 0 → b.toNat ≠ 0 := fun b hb h => hb (BitVec.eq_of_toNat_eq h)
  refine ⟨?_, ?_, ?_, ?_, ?_, ?_⟩
  · intro s b array k hs hheld hk ha
    exact exec_errorSingleBit hs (arrayHeld_of hheld hk ha)
  · intro s b region copy hs hheld hk
    have ha : arrayHeld s b.toNat 0x10 = true := by
      rcases hk with hk | hk <;> exact arrayHeld_of hheld hk rfl
    rw [exec_errorUncorrectable_covered hs ha rfl, scrubMismatch_books hheld hk]
  · intro s b region copy k hs hheld hb hk ha hfenced
    obtain ⟨x, y, z, h⟩ := scrubMismatch_formatTable (region := region) (copy := copy.toNat) (hne b hb)
      (scrubs_formatTable hk ha) hheld
    obtain ⟨e, l, n, m, hu⟩ := unit_post_self s b.toNat .scrub none x y z
    rw [exec_errorUncorrectable_covered hs (arrayHeld_of hheld hk ha) rfl, h]
    exact ⟨_, rfl, falseStart_spec (hne b hb) (by rw [hu]; exact hfenced)⟩
  · intro s b array region copy k hs hheld hb hk ha hc again
    obtain ⟨hmg, hr, hagain, hfirst⟩ := errorReset_of_posted s (hne b hb) .uncorrected none (array.setWidth 32) 0 0
    rw [exec_errorUncorrectable_uncovered hs (arrayHeld_of hheld hk ha) hc, if_neg (hne b hb)]
    exact ⟨_, rfl, hr.held.trans hheld, hr.resetting, hr.resetAt, hr.issued, hr.inbox, hr.files, hr.pacer0, hr.pacer1, hmg,
      hagain, hfirst⟩
  · intro s b q i hs hheld hb hi
    obtain ⟨hmg, hr, -, -⟩ := errorReset_of_posted s (hne b hb) .hang (some i.ctx) (q.setWidth 32)
      ((hOpcode i.head).setWidth 32) 0
    exact ⟨_, exec_hang hs hheld hi, hr.resetting, hr.resetAt, hr.issued, hmg⟩
  · intro s array region copy hs hheld ha
    have hmg : arrayHeld s (0 : Bib).toNat array = true := arrayHeld_of hheld rfl ha
    exact ⟨⟨_, exec_mgFatal hs ha, fatalStop_stopped s array⟩, fun hc =>
      ⟨_, exec_errorUncorrectable_uncovered hs hmg hc region copy, fatalStop_stopped s array⟩⟩

end Sys2Proof.Machine
end

section
/-!
PROOFS. The stream engine's classes on plain operands: SHUFFLE, PERMUTE and ELEMENT (R35, R244, R254, R255).
-/

namespace Sys2Proof.Machine

/-! ### Elements of an instruction without tiles -/

/-- Memory number of the element with processing index x of a plain destination. -/
def Issued.placeOf (i : Issued) (x : Nat) : Nat := addrKey (destAddr i (i.elementAt x).1 (i.elementAt x).2)

/-- Bytes of an element of a plain destination. -/
def Issued.destBytes (i : Issued) : Nat := plainBits (fFmt (i.field 4)) / 8

theorem elementAt_untiled {i : Issued} (h : i.tiled = false) (x : Nat) : i.elementAt x = (x / i.len, x % i.len) := by
  simp [Issued.elementAt, h]

/-- The element with a processing index lies within the instruction. -/
theorem elementAt_lt {i : Issued} (h : i.tiled = false) {x : Nat} (hx : x < i.elements) :
    (i.elementAt x).1 < i.height ∧ (i.elementAt x).2 < i.len := by
  rw [elementAt_untiled h]
  unfold Issued.elements at hx
  have hlen : 0 < i.len := Nat.pos_of_ne_zero (by rintro h0; simp [h0] at hx)
  exact ⟨Nat.div_lt_of_lt_mul (by rwa [Nat.mul_comm]), Nat.mod_lt _ hlen⟩

/-- Element (r, k) has processing index n · r + k. -/
theorem elementAt_index {i : Issued} (h : i.tiled = false) {k : Nat} (hk : k < i.len) (r : Nat) :
    i.elementAt (i.len * r + k) = (r, k) := by
  have hlen : 0 < i.len := by omega
  rw [elementAt_untiled h, Nat.mul_add_div hlen, Nat.div_eq_of_lt hk, Nat.mul_add_mod, Nat.mod_eq_of_lt hk, Nat.add_zero]

theorem index_lt {i : Issued} {r k : Nat} (hr : r < i.height) (hk : k < i.len) : i.len * r + k < i.elements := by
  unfold Issued.elements
  calc i.len * r + k < i.len * r + i.len := by omega
    _ = i.len * (r + 1) := by ring
    _ ≤ i.len * i.height := Nat.mul_le_mul_left _ hr
    _ = i.height * i.len := Nat.mul_comm _ _

theorem elementAt_injective {i : Issued} (h : i.tiled = false) {x y : Nat} (hxy : i.elementAt x = i.elementAt y) : x = y := by
  rw [elementAt_untiled h, elementAt_untiled h, Prod.mk.injEq] at hxy
  rw [← Nat.div_add_mod x i.len, ← Nat.div_add_mod y i.len, hxy.1, hxy.2]

/-! ### A job of up to 256 plain elements -/

/-- A class that is ELEMENT or a SHUFFLE is no other class. -/
theorem ne_of_elementClass {o o' : Op} (h : o = .element ∨ o.isShuffle = true) (helement : o' ≠ .element)
    (hshuffle : o'.isShuffle = false) : o ≠ o' := by
  rintro rfl
  rcases h with h | h
  · exact helement h
  · rw [hshuffle] at h
    exact Bool.false_ne_true h

/-- An ELEMENT or SHUFFLE of 1 to 256 plain elements that is about to begin: without tiles and mask, its destination elements
apart from each other. -/
structure PlainJob (i : Issued) : Prop where
  /-- The class converts or copies element by element. -/
  cls : i.op = .element ∨ i.op.isShuffle = true
  dest : isPlain (i.field 4) = true
  unmasked : i.field 5 = 0
  pos : i.pos = 0
  some : 0 < i.elements
  few : i.elements ≤ 256
  space : i.space = 0
  untiled : i.tiled = false
  outs : i.outs = []
  apart : ∀ x y, x < i.elements → y < i.elements → x ≠ y →
    i.placeOf x + i.destBytes ≤ i.placeOf y ∨ i.placeOf y + i.destBytes ≤ i.placeOf x

/-- Byte a belongs to no destination element. -/
def Issued.offDest (i : Issued) (a : Nat) : Prop := ∀ x < i.elements, a < i.placeOf x ∨ i.placeOf x + i.destBytes ≤ a

/-- The memory agrees with the state's outside the destination. -/
def Unwritten (s : State) (i : Issued) (m : Memory) : Prop := ∀ a, i.offDest a → readByte m a = readByte s.mem a

/-- A plain source element apart from the destination reads as before. -/
theorem plainCode_of_unwritten {s : State} {i : Issued} {m : Memory} (hm : Unwritten s i m) {a : Int} {bits : Nat}
    (hoff : ∀ x < i.elements, i.placeOf x + i.destBytes ≤ addrKey a ∨ addrKey a + bits / 8 ≤ i.placeOf x) :
    plainCode { s with mem := m } 0 a bits = plainCode s 0 a bits := by
  have hkey : plainKey 0 a = addrKey a := rfl
  unfold plainCode
  rw [hkey, readBytes_eq, readBytes_eq]
  refine congrArg leNat (List.map_congr_left (fun j hj => hm _ (fun x hx => ?_)))
  have hj := List.mem_range.1 hj
  have := hoff x hx
  omega

/-- What the run of an instruction's elements leaves once those before index p are done, element x writing `code x`. -/
structure WrittenTo (s : State) (i : Issued) (code : Nat → Nat) (p : Nat) (d : RunDone) : Prop where
  /-- Memory alone has changed. -/
  st : ∃ m, d.st = { s with mem := m } ∧ Unwritten s i m ∧
    ∀ x < p, readBytes m (i.placeOf x) i.destBytes = leBytes i.destBytes (code x)
  going : d.stopped = none
  inRange : d.past = false

/-- The run with one more element done. -/
def RunDone.after (d : RunDone) (r : ElemDone) : RunDone :=
  { d with st := r.st, slots := d.slots ++ [(r.slot, r.pre)]
           codes := d.codes ++ (r.code.elim [] (fun c => [(c.1, firstCount r.pre c.2)])), past := d.past || r.past }

/-- Each element, whatever was written before, writes `code` of its index. -/
def WritesCodes (s : State) (b : Nat) (i : Issued) (code : Nat → Nat) : Prop :=
  ∀ m p, p < i.elements → Unwritten s i m →
    let e := i.elementAt p
    let r := elemStep { s with mem := m } b i [] p e.1 e.2
    r.st = writePlain { s with mem := m } i e.1 e.2 (code p) ∧ r.past = false

section
variable {s : State} {b : Nat} {i : Issued} {code : Nat → Nat} (job : PlainJob i)
include job

theorem runGroup_cons (ts : Tiles) (blks : List (Nat × Blk × Option Blk)) (e : Nat × Nat) (es : List (Nat × Nat)) (p : Nat)
    (d : RunDone) :
    runGroup b i ts blks (e :: es) p d = runGroup b i ts blks es (p + 1) (d.after (elemStep d.st b i ts p e.1 e.2)) := by
  rw [runGroup]
  split
  case h_6 => rfl
  all_goals next hop => exact absurd hop (ne_of_elementClass job.cls (by decide) rfl)

/-- One element done. -/
theorem writtenTo_after (hcodes : WritesCodes s b i code) {p : Nat} (hp : p < i.elements) {d : RunDone}
    (hd : WrittenTo s i code p d) :
    WrittenTo s i code (p + 1) (d.after (elemStep d.st b i [] p (i.elementAt p).1 (i.elementAt p).2)) := by
  obtain ⟨⟨m, hm, hrest, hwritten⟩, hgoing, hin⟩ := hd
  obtain ⟨hst, hpast⟩ := hcodes m p hp hrest
  rw [hm]
  have hkey : plainKey i.space (destAddr i (i.elementAt p).1 (i.elementAt p).2) = i.placeOf p := by
    rw [job.space]; rfl
  have hlen : (leBytes i.destBytes (code p)).length = i.destBytes := length_leBytes _ _
  refine ⟨⟨writeBytes m (i.placeOf p) (leBytes i.destBytes (code p)), ?_, fun a ha => ?_, fun x hx => ?_⟩, hgoing, ?_⟩
  · refine hst.trans ?_
    unfold writePlain
    rw [hkey]
    rfl
  · rw [readByte_writeBytes_of_out (by rw [hlen]; exact ha p hp), hrest a ha]
  · rcases Nat.lt_succ_iff_lt_or_eq.1 hx with hlt | rfl
    · have hapart := job.apart x p (hlt.trans hp) hp (by omega)
      rw [readBytes_writeBytes_of_out (by rw [hlen]; exact hapart), hwritten x hlt]
    · have hself := readBytes_writeBytes_self m (i.placeOf x) (leBytes i.destBytes (code x))
      rwa [hlen] at hself
  · change (d.past || _) = false
    rw [hin, hpast]
    rfl

/-- The elements of a range done one after another. -/
theorem writtenTo_runGroup (hcodes : WritesCodes s b i code) (n : Nat) {a : Nat} (ha : a + n ≤ i.elements) {d : RunDone}
    (hd : WrittenTo s i code a d) :
    WrittenTo s i code (a + n) (runGroup b i [] [] ((List.range n).map (fun e => i.elementAt (a + e))) a d) := by
  induction n generalizing a d with
  | zero => exact hd
  | succ n ih =>
    have hshift : (fun e => i.elementAt (a + e)) ∘ Nat.succ = fun e => i.elementAt (a + 1 + e) := by
      funext e
      exact congrArg i.elementAt (by omega)
    rw [List.range_succ_eq_map, List.map_cons, List.map_map, hshift, runGroup_cons job]
    have hnext := ih (a := a + 1) (by omega) (writtenTo_after job hcodes (by omega) hd)
    rwa [show a + 1 + n = a + (n + 1) by omega] at hnext

end

/-- Lane group j of the instruction: its elements, twice where the whole instruction is one unit. -/
def Issued.laneGroup (i : Issued) (j : Nat) : List (Nat × Nat) × List (Nat × Nat) :=
  ((List.range (min 128 (i.elements - 128 * j))).map (fun e => i.elementAt (128 * j + e)),
    (List.range (min i.elements (128 * j + 128) - 128 * j)).map (fun e => i.elementAt (128 * j + e)))

theorem laneGroups_eq {i : Issued} (h : i.space = 0) :
    i.laneGroups 0 i.elements = (List.range (ceilDiv i.elements 128)).map i.laneGroup := by
  unfold Issued.laneGroups Issued.laneGroup
  simp [Issued.lanes, h]

/-- An instruction whose elements are all done, with their sums. -/
def Issued.elementsDone (i : Issued) (x : TileSum) : Issued :=
  { i.absorbOnly x with done := i.done + i.elements, pos := i.elements }

@[simp] theorem Issued.elementsDone_outs (i : Issued) (x : TileSum) : (i.elementsDone x).outs = i.outs := rfl
@[simp] theorem Issued.elementsDone_tiled (i : Issued) (x : TileSum) : (i.elementsDone x).tiled = i.tiled := rfl
@[simp] theorem Issued.elementsDone_elements (i : Issued) (x : TileSum) : (i.elementsDone x).elements = i.elements := rfl
@[simp] theorem Issued.elementsDone_pos (i : Issued) (x : TileSum) : (i.elementsDone x).pos = i.elements := rfl
@[simp] theorem Issued.elementsDone_done (i : Issued) (x : TileSum) : (i.elementsDone x).done = i.done + i.elements := rfl
@[simp] theorem Issued.elementsDone_finished (i : Issued) (x : TileSum) : (i.elementsDone x).finished = i.finished := rfl
@[simp] theorem Issued.elementsDone_queue (i : Issued) (x : TileSum) : (i.elementsDone x).queue = i.queue := rfl
@[simp] theorem Issued.elementsDone_slot (i : Issued) (x : TileSum) : (i.elementsDone x).slot = i.slot := rfl

section
variable {s : State} {b : Nat} {i : Issued} {code : Nat → Nat} (job : PlainJob i)
include job

/-- What a lane group reads and writes does not depend on memory. -/
theorem groupDenied_of_memory (m : Memory) (els : List (Nat × Nat)) :
    groupDenied { s with mem := m } i els = groupDenied s i els := by
  have hreads : ∀ r k, elemReads { s with mem := m } i r k = elemReads s i r k := by
    intro r k
    unfold elemReads
    split
    · next hop => exact absurd hop (ne_of_elementClass job.cls (by decide) rfl)
    all_goals rfl
  unfold groupDenied activeAt
  simp only [hreads, job.unmasked]
  rfl

/-- Lane groups that no grant denies, done one after another, from group j on. -/
theorem writtenTo_runGroups (hcodes : WritesCodes s b i code)
    (hgrant : ∀ g ∈ i.laneGroups 0 i.elements, groupDenied s i g.1 = false) (m : Nat) {j : Nat}
    (hm : j + m = ceilDiv i.elements 128) {d : RunDone} (hd : WrittenTo s i code (min i.elements (128 * j)) d) :
    WrittenTo s i code i.elements
      (runGroups b i [] [] ((List.range m).map (fun t => i.laneGroup (j + t))) (min i.elements (128 * j)) d) := by
  unfold ceilDiv at hm
  induction m generalizing j d with
  | zero =>
    have hall : min i.elements (128 * j) = i.elements := by omega
    rw [hall] at hd ⊢
    exact hd
  | succ m ih =>
    have hfirst : min i.elements (128 * j) = 128 * j := by omega
    have hshift : (fun t => i.laneGroup (j + t)) ∘ Nat.succ = fun t => i.laneGroup (j + 1 + t) := by
      funext t
      exact congrArg i.laneGroup (by omega)
    have hden : groupDenied d.st i (i.laneGroup j).1 = false := by
      obtain ⟨v, hv, -⟩ := hd.st
      rw [hv, groupDenied_of_memory job]
      refine hgrant _ ?_
      rw [laneGroups_eq job.space]
      exact List.mem_map_of_mem (List.mem_range.2 (by unfold ceilDiv; omega))
    have hlen : (i.laneGroup j).2.length = min i.elements (128 * j + 128) - 128 * j := by simp [Issued.laneGroup]
    have hnext : 128 * j + (min i.elements (128 * j + 128) - 128 * j) = min i.elements (128 * (j + 1)) := by omega
    rw [hfirst] at hd ⊢
    rw [List.range_succ_eq_map, List.map_cons, List.map_map, hshift, runGroups, hd.going, Nat.add_zero, hden, hlen, hnext]
    refine ih (by omega) ?_
    rw [← hnext]
    exact writtenTo_runGroup job hcodes _ (by omega) hd

/-- The whole instruction done as one progress unit. -/
theorem writtenTo_run (hcodes : WritesCodes s b i code)
    (hgrant : ∀ g ∈ i.laneGroups 0 i.elements, groupDenied s i g.1 = false) :
    WrittenTo s i code i.elements
      (runGroups b i [] [] (i.laneGroups 0 i.elements) 0 { st := s, slots := [], codes := [], stopped := none }) := by
  have hbegin : WrittenTo s i code (min i.elements (128 * 0)) { st := s, slots := [], codes := [], stopped := none } :=
    ⟨⟨s.mem, rfl, fun _ _ => rfl, fun x hx => absurd hx (by simp)⟩, rfl, rfl⟩
  have hrun := writtenTo_runGroups job hcodes hgrant (ceilDiv i.elements 128) (Nat.zero_add _) hbegin
  simpa [laneGroups_eq job.space] using hrun

omit job in
/-- Draws passed leave memory, and what the units hold of instructions. -/
theorem passDraws_spec (t : State) (n : Nat) : (passDraws t b i n).mem = t.mem ∧
    ((passDraws t b i n).unit b).issued = (t.unit b).issued := by
  unfold passDraws
  split
  · exact ⟨rfl, by rw [State.unit_onUnit_self]; rfl⟩
  · exact ⟨rfl, rfl⟩

/-- One progress unit of the job: every element is done. -/
theorem sePlainUnit_eq (hcodes : WritesCodes s b i code)
    (hgrant : ∀ g ∈ i.laneGroups 0 i.elements, groupDenied s i g.1 = false) :
    ∃ t x, sePlainUnit s b i = (t, i.elementsDone x) ∧ (t.unit b).issued = (s.unit b).issued ∧
      ∀ x < i.elements, readBytes t.mem (i.placeOf x) i.destBytes = leBytes i.destBytes (code x) := by
  have hclass : (i.op == .randomBernoulli) = false :=
    beq_false_of_ne (ne_of_elementClass job.cls (by decide) rfl)
  have hn : min (2 * min i.lanes 1024) (i.elements - i.pos) = i.elements := by
    have := job.few
    simp [Issued.lanes, job.space, job.pos]
    omega
  have hrun := writtenTo_run job hcodes hgrant
  unfold sePlainUnit
  rw [hn, hclass]
  dsimp only
  rw [job.pos]
  generalize runGroups b i [] [] (i.laneGroups 0 i.elements) 0 { st := s, slots := [], codes := [], stopped := none } = run
    at hrun ⊢
  obtain ⟨⟨m, hst, -, hwritten⟩, hgoing, hin⟩ := hrun
  obtain ⟨hmem, hissued⟩ := passDraws_spec (b := b) (i := i) { s with mem := m } 2
  refine ⟨passDraws { s with mem := m } b i 2, plainSums (plainDesc (fFmt (i.field 4))) run.codes, ?_, hissued,
    fun x hx => ?_⟩
  · simp [hgoing, notePermRange, hin, hst, Issued.elementsDone]
  · rw [hmem]
    exact hwritten x hx

/-- The job done by one step, its instruction ended. -/
theorem seRun_plainJob (hcodes : WritesCodes s b i code) (hfin : i.finished = none)
    (hgrant : ∀ g ∈ i.laneGroups 0 i.elements, groupDenied s i g.1 = false) :
    ∃ (t : State) (j : Issued), seRun b 1 s i = (t, { j with finished := some j.endStatus }) ∧ j.queue = i.queue ∧
      j.slot = i.slot ∧ j.done = i.done + i.elements ∧ (t.unit b).issued = (s.unit b).issued ∧
      ∀ x < i.elements, readBytes t.mem (i.placeOf x) i.destBytes = leBytes i.destBytes (code x) := by
  obtain ⟨t, x, hunit, hissued, hwritten⟩ := sePlainUnit_eq job hcodes hgrant
  have hopen : i.seDone = false := by
    have := job.some
    simp [Issued.seDone, job.outs, job.untiled, job.pos]
    omega
  have hdone : (i.elementsDone x).seDone = true := by simp [Issued.seDone, job.outs, job.untiled]
  have hstep : seUnit s b i = ({ t with freeCtr := t.freeCtr + 32 }, i.elementsDone x) := by
    unfold seUnit
    rw [job.untiled, if_neg Bool.false_ne_true, hunit]
  refine ⟨{ t with freeCtr := t.freeCtr + 32 }, i.elementsDone x, ?_, by simp, by simp, by simp, hissued, hwritten⟩
  rw [seRun, hopen, job.untiled]
  simp [hstep, hfin, hdone]
end
/-- A job carried out by its work command: its instruction stands ended, and its elements are written. -/
theorem exec_plainJob {s : State} {b : Bib} {q : BitVec 14} {i : Issued} (h : Works s b q i) {c : Instr}
    (hc : exec c s = .next (workOn s b.toNat q.toNat i.op (seRun b.toNat 1))) (job : PlainJob i) {code : Nat → Nat}
    (hcodes : WritesCodes s b.toNat i code) (hgrant : ∀ g ∈ i.laneGroups 0 i.elements, groupDenied s i g.1 = false) :
    ∃ t j, exec c s = .next t ∧ placed t b i = some j ∧ j.finished = some j.endStatus ∧ j.done = i.done + i.elements ∧
      ∀ x < i.elements, readBytes t.mem (i.placeOf x) i.destBytes = leBytes i.destBytes (code x) := by
  have hfin := unfinished_of_works h
  obtain ⟨t, j, hrun, hq, hs, hdone, hissued, hwritten⟩ := seRun_plainJob job hcodes hfin hgrant
  have hne : (seRun b.toNat 1 s i).2 ≠ i := by
    intro heq
    have hended := congrArg Issued.finished heq
    rw [hrun, hfin] at hended
    cases hended
  have hplaced : (placed t b i).isSome = true := by
    unfold placed
    rw [hissued]
    exact placed_of_works h
  refine ⟨setIssued t b.toNat { j with finished := some j.endStatus }, { j with finished := some j.endStatus }, ?_,
    placed_setIssued (j := { j with finished := some j.endStatus }) hq hs hplaced, rfl, hdone, hwritten⟩
  rw [hc, workOn_of_works h rfl _ hne, hrun]

/-! ### Places and sources of elements -/

theorem isStream_of_isPlain {f : BitVec 128} (h : isPlain f = true) : isStream f = false := by
  unfold isPlain at h
  unfold isStream
  rw [of_decide_eq_true h]
  rfl

/-- A class that converts or copies writes every element. -/
theorem destAddr_eq {i : Issued} (h : i.op = .element ∨ i.op.isShuffle = true) (r k : Nat) :
    destAddr i r k = plainAddr (i.field 4) (plainBits (fFmt (i.field 4))) r k := by
  have hevery : i.every = 1 := by
    unfold Issued.every
    rw [beq_false_of_ne (ne_of_elementClass h (o' := .unpackScales) (by decide) rfl),
      beq_false_of_ne (ne_of_elementClass h (o' := .unpackZpoints) (by decide) rfl)]
    rfl
  rw [destAddr, hevery, Nat.div_one]

/-- A plain source element as memory holds it. -/
theorem sourceElem_plain {s : State} {i : Issued} {n : Nat} (hp : isPlain (i.field n) = true) (hspace : i.space = 0)
    (r k : Nat) :
    sourceElem s i [] n r k =
      let c := plainCode s 0 (plainAddr (i.field n) (plainBits (fFmt (i.field n))) r k) (plainBits (fFmt (i.field n)))
      let v := codeVal (plainDesc (fFmt (i.field n))) 0 [] c
      ⟨v.1, v.2, c⟩ := by
  unfold sourceElem
  dsimp only
  rw [isStream_of_isPlain hp, hspace, if_neg Bool.false_ne_true]

/-- Element (r, k) of source n lies apart from every destination element. -/
def SourceApart (i : Issued) (n r k : Nat) : Prop :=
  let bits := plainBits (fFmt (i.field n))
  let a := addrKey (plainAddr (i.field n) bits r k)
  ∀ x < i.elements, i.placeOf x + i.destBytes ≤ a ∨ a + bits / 8 ≤ i.placeOf x

/-- A source element apart from the destination is read as it was. -/
theorem sourceElem_of_unwritten {s : State} {i : Issued} {m : Memory} (hm : Unwritten s i m) {n : Nat}
    (hp : isPlain (i.field n) = true) (hspace : i.space = 0) {r k : Nat} (hapart : SourceApart i n r k) :
    sourceElem { s with mem := m } i [] n r k = sourceElem s i [] n r k := by
  rw [sourceElem_plain hp hspace, sourceElem_plain hp hspace, plainCode_of_unwritten hm hapart]

/-! ### SHUFFLE (R255) -/

/-- The sources of a SHUFFLE that copies bits are plain, in the destination's format. -/
theorem copiesBits_source {i : Issued} (hcopy : copiesBits i.op i.slots i.descs = true) (hdest : isPlain (i.field 4) = true)
    (k : Nat) : isPlain (i.field (shuffleSource i k).1) = true ∧ fFmt (i.field (shuffleSource i k).1) = fFmt (i.field 4) := by
  have hsame : ∀ n d d', sameFormat (i.field n) (i.field 4) d d' = true →
      isPlain (i.field n) = true ∧ fFmt (i.field n) = fFmt (i.field 4) := by
    intro n d d' h
    simpa [sameFormat, isStream_of_isPlain hdest] using h
  have h2 : i.op = .shufInterleave → isPlain (i.field 2) = true ∧ fFmt (i.field 2) = fFmt (i.field 4) := by
    intro hop
    simp only [copiesBits, hop, Bool.and_eq_true] at hcopy
    exact hsame 2 _ _ (by simpa [Issued.field] using hcopy.2)
  simp only [copiesBits, Bool.and_eq_true] at hcopy
  have h1 := hsame 1 _ _ hcopy.1.2
  unfold shuffleSource
  split
  · next hop =>
    dsimp only
    split
    · exact h1
    · exact h2 hop
  all_goals exact h1

/-- One element of a SHUFFLE that copies bits. -/
theorem elemStep_shuffle {s : State} {b : Nat} {i : Issued} (hsh : i.op.isShuffle = true)
    (hcopy : copiesBits i.op i.slots i.descs = true) (hdest : isPlain (i.field 4) = true) (hmask : i.field 5 = 0)
    (p r k : Nat) :
    let d := elemStep s b i [] p r k
    d.st = writePlain s i r k (copyCode (fFmt (i.field 4))
      (sourceElem s i [] (shuffleSource i k).1 r (shuffleSource i k).2).code) ∧ d.past = false := by
  have hactive : activeAt s (i.field 5) r k = true := by simp [activeAt, hmask]
  have hperm : (i.op == .permute) = false := beq_false_of_ne (ne_of_elementClass (.inr hsh) (by decide) rfl)
  simp [elemStep, hactive, hperm, hcopy, hdest, elemOut, hsh]

/-- Reversing the order within a block of 2^p elements turns the p low bits of the index over. -/
theorem reversed_in_block (k p : Nat) : k / 2 ^ p * 2 ^ p + (2 ^ p - 1 - k % 2 ^ p) = k ^^^ (2 ^ p - 1) := by
  have hlt : k % 2 ^ p < 2 ^ p := Nat.mod_lt _ (Nat.two_pow_pos p)
  have hlow : 2 ^ p - 1 - k % 2 ^ p = 2 ^ p - (k % 2 ^ p + 1) := by omega
  apply Nat.eq_of_testBit_eq
  intro j
  rw [Nat.mul_comm, hlow, Nat.testBit_two_pow_mul_add _ (by omega), Nat.testBit_xor, Nat.testBit_two_pow_sub_one,
    Nat.testBit_two_pow_sub_succ hlt, Nat.testBit_mod_two_pow]
  by_cases hj : j < p
  · simp [hj]
  · simp [hj, Nat.testBit_div_two_pow, Nat.sub_add_cancel (Nat.le_of_not_lt hj)]

/-- The element that SHUFFLE reads, as R255 names it. -/
theorem shuffleSource_eq (i : Issued) (h : i.op.isShuffle = true) (k : Nat) : shuffleSource i k = match i.op with
      | .shufInterleave => if k % 2 = 0 then (1, k / 2) else (2, (k - 1) / 2)
      | .shufEven => (1, 2 * k)
      | .shufOdd => (1, 2 * k + 1)
      | .shufReverse => (1, k ^^^ (2 ^ bP i.body - 1))
      | _ => (1, (k - k % 2 ^ bP i.body) + (k + bSh i.body) % 2 ^ bP i.body) := by
  have hblock : ∀ p, k / 2 ^ p * 2 ^ p = k - k % 2 ^ p := by
    intro p
    have := Nat.div_add_mod' k (2 ^ p)
    omega
  cases hop : i.op <;> simp only [shuffleSource, hop]
  case shufInterleave =>
    split
    · rfl
    · rw [show k / 2 = (k - 1) / 2 by omega]
  case shufReverse => rw [reversed_in_block]
  case shufRotate => rw [hblock]
  all_goals simp [hop, Op.isShuffle] at h

/-! ### PERMUTE (R254) -/

/-- Bits outside those replaced stand. -/
theorem bitsAt_putBits_of_out {n w v : Nat} (x : BitVec n) (lo : Nat) (y : BitVec w) {a : Nat}
    (h : a + v ≤ lo ∨ lo + w ≤ a) : bitsAt (putBits x lo y) a v = bitsAt x a v := by
  ext j hj
  have hout : a + j < lo ∨ w ≤ a + j - lo := by omega
  unfold putBits
  simp only [BitVec.getElem_extractLsb', BitVec.getLsbD_or, BitVec.getLsbD_and, BitVec.getLsbD_not, BitVec.getLsbD_shiftLeft,
    BitVec.getLsbD_setWidth, BitVec.getLsbD_allOnes]
  by_cases hn : a + j < n
  · rcases hout with hlt | hge
    · simp [hn, hlt]
    · simp [hn, BitVec.getLsbD_of_ge y _ hge, Nat.not_lt.2 hge]
  · simp [hn, BitVec.getLsbD_of_ge x _ (Nat.le_of_not_lt hn)]

theorem fBase_permField (f : BitVec 128) : fBase (permField f) = fBase f :=
  bitsAt_putBits_of_out f 64 0 (.inl (by decide))

theorem fSk_permField (f : BitVec 128) : fSk (permField f) = fSk f :=
  bitsAt_putBits_of_out f 64 0 (.inl (by decide))

theorem fFmt_permField (f : BitVec 128) : fFmt (permField f) = fFmt f :=
  congrArg BitVec.toNat (bitsAt_putBits_of_out f 64 0 (.inr (by decide)))

/-- The element of source A that an index names: the row stride does not enter. -/
theorem plainAddr_permField (f : BitVec 128) (bits j : Nat) :
    plainAddr (permField f) bits 0 j = (fBase f).toNat + sInt (fSk f) * j * bits / 8 := by
  simp [plainAddr, fBase_permField, fSk_permField]

/-- One element of a PERMUTE to a plain destination. -/
theorem elemStep_permute {s : State} {b : Nat} {i : Issued} (hop : i.op = .permute) (hdest : isPlain (i.field 4) = true)
    (hmask : i.field 5 = 0) (p r k : Nat) :
    let f := i.field 1
    let w := plainBits (fFmt f)
    let j := plainCode s i.space (plainAddr (i.field 2) 32 r k) 32
    let code := plainCode s i.space ((fBase f).toNat + sInt (fSk f) * j * w / 8) w
    let v := codeVal (plainDesc (fFmt f)) 0 [] code
    (elemStep s b i [] p r k).st = writePlain s i r k (if j < bSn i.body then
        (encodeElem (plainDesc (fFmt (i.field 4))) 0 [] (seRound (s.unit b) b s.freeCtr i p r k) v.1 v.2).1
      else plainZero s (fFmt (i.field 4))) := by
  have hactive : activeAt s (i.field 5) r k = true := by simp [activeAt, hmask]
  have hcopy : copiesBits .permute i.slots i.descs = false := rfl
  intro f w j code v
  have hindex : permIndex s i r k = j := rfl
  by_cases hj : j < bSn i.body
  · simp [elemStep, hactive, hcopy, hdest, hop, elemOut, hindex, hj, Nat.not_le.2 hj, plainAddr_permField, fFmt_permField,
      v, code, w, f]
  · simp [elemStep, hactive, hdest, hop, hindex, hj, Nat.not_lt.1 hj]

/-! ### ELEMENT (R244) -/

/-- The sources that an ELEMENT reads: those that its program names, or A. -/
def Issued.readsField (i : Issued) (n : Nat) : Bool := if bPv i.body then programReads i.prog n else n == 1

/-- An ELEMENT's result from the elements of its sources. -/
def elementValue (u : UnitSt) (b free : Nat) (i : Issued) (elem : Nat → XVal × Bool) (p r k : Nat) : XVal × Bool :=
  let word (n : Nat) : BitVec 32 := if programReads i.prog n then toF32 (elem n).1 else 0
  if bPv i.body then (ofF32 (runProgram i.prog [word 1, word 2, word 3] (fun j md => rndWord u b free i p r k j md)), false)
  else elem 1

/-- One element of an ELEMENT to a plain destination. -/
theorem elemStep_element {s : State} {b : Nat} {i : Issued} (hop : i.op = .element) (hdest : isPlain (i.field 4) = true)
    (hmask : i.field 5 = 0) (p r k : Nat) {elem : Nat → XVal × Bool}
    (helem : ∀ n ∈ [1, 2, 3], i.readsField n = true →
      ((sourceElem s i [] n r k).v, (sourceElem s i [] n r k).dazzed) = elem n) :
    let d := elemStep s b i [] p r k
    let v := elementValue (s.unit b) b s.freeCtr i elem p r k
    d.st = writePlain s i r k
      (encodeElem (plainDesc (fFmt (i.field 4))) 0 [] (seRound (s.unit b) b s.freeCtr i p r k) v.1 v.2).1 ∧ d.past = false := by
  have hactive : activeAt s (i.field 5) r k = true := by simp [activeAt, hmask]
  have hcopy : copiesBits .element i.slots i.descs = false := rfl
  have hvalue : ((elemOut s b i [] p r k).v, (elemOut s b i [] p r k).dazzed) =
      elementValue (s.unit b) b s.freeCtr i elem p r k := by
    unfold elementValue
    by_cases hpv : bPv i.body = true
    · have hword : ∀ n ∈ [1, 2, 3], ((if programReads i.prog n then some (sourceElem s i [] n r k) else none).elim 0
          (fun d => toF32 d.v)) = if programReads i.prog n then toF32 (elem n).1 else 0 := by
        intro n hn
        by_cases hr : programReads i.prog n = true
        · rw [← helem n hn (by simp [Issued.readsField, hpv, hr]), if_pos hr, if_pos hr]
          rfl
        · rw [if_neg hr, if_neg hr]
          rfl
      have h1 := hword 1 (by simp)
      have h2 := hword 2 (by simp)
      have h3 := hword 3 (by simp)
      simp only [elemOut, hop, hpv, Op.isShuffle, if_true, List.map_cons, List.map_nil, h1, h2, h3]
      rfl
    · have h1 := helem 1 (by simp) (by simp [Issued.readsField, hpv])
      simp [elemOut, hop, hpv, Op.isShuffle, ← h1]
  rw [← hvalue]
  simp [elemStep, hactive, hop, hcopy, hdest]

/-! ### The commands -/

/-- The job from its plain destination, whose elements do not overlap. -/
theorem plainJob_of {i : Issued} (cls : i.op = .element ∨ i.op.isShuffle = true) (dest : isPlain (i.field 4) = true)
    (unmasked : i.field 5 = 0) (pos : i.pos = 0) (some : 0 < i.elements) (few : i.elements ≤ 256) (space : i.space = 0)
    (untiled : i.tiled = false) (outs : i.outs = [])
    (apart : ∀ r k r' k', r < i.height → r' < i.height → k < i.len → k' < i.len → (r, k) ≠ (r', k') →
      addrKey (destAddr i r k) + i.destBytes ≤ addrKey (destAddr i r' k') ∨
        addrKey (destAddr i r' k') + i.destBytes ≤ addrKey (destAddr i r k)) : PlainJob i := by
  refine ⟨cls, dest, unmasked, pos, some, few, space, untiled, outs, fun x y hx hy hxy => ?_⟩
  obtain ⟨hr, hk⟩ := elementAt_lt untiled hx
  obtain ⟨hr', hk'⟩ := elementAt_lt untiled hy
  exact apart _ _ _ _ hr hr' hk hk' (fun h => hxy (elementAt_injective untiled h))

/-- The command that carries a SHUFFLE out. -/
def shuffleCommand (b : Bib) (q : BitVec 14) (steps : Nat) : Op → Option Instr
  | .shufInterleave => some (.shuffleInterleave b q steps)
  | .shufEven => some (.shuffleEven b q steps)
  | .shufOdd => some (.shuffleOdd b q steps)
  | .shufReverse => some (.shuffleReverse b q steps)
  | .shufRotate => some (.shuffleRotate b q steps)
  | _ => none

theorem exec_shuffleCommand {s : State} (hs : s.mg.fatal = false) {b : Bib} {q : BitVec 14} {n : Nat} {o : Op} {c : Instr}
    (hc : shuffleCommand b q n o = some c) : exec c s = .next (workOn s b.toNat q.toNat o (seRun b.toNat n)) := by
  unfold shuffleCommand at hc
  split at hc <;> cases hc <;> exact live_of_running _ hs

/-- The code that a SHUFFLE that copies bits writes to the element with processing index x. -/
def shuffledCode (s : State) (i : Issued) (x : Nat) : Nat :=
  let bits := plainBits (fFmt (i.field 4))
  let q := shuffleSource i (i.elementAt x).2
  copyCode (fFmt (i.field 4)) (plainCode s 0 (plainAddr (i.field q.1) bits (i.elementAt x).1 q.2) bits)

theorem writesCodes_shuffle {s : State} {b : Nat} {i : Issued} (job : PlainJob i) (hsh : i.op.isShuffle = true)
    (hcopy : copiesBits i.op i.slots i.descs = true)
    (hapart : ∀ r k, r < i.height → k < i.len → SourceApart i (shuffleSource i k).1 r (shuffleSource i k).2) :
    WritesCodes s b i (shuffledCode s i) := by
  intro m p hp hm e
  obtain ⟨hr, hk⟩ := elementAt_lt job.untiled hp
  obtain ⟨hplain, hfmt⟩ := copiesBits_source hcopy job.dest e.2
  have hstep := elemStep_shuffle (s := { s with mem := m }) (b := b) hsh hcopy job.dest job.unmasked p e.1 e.2
  rw [sourceElem_of_unwritten hm hplain job.space (hapart _ _ hr hk), sourceElem_plain hplain job.space, hfmt] at hstep
  exact hstep

/-- The value of element (r, k) of a plain source. -/
def plainElem (s : State) (i : Issued) (n r k : Nat) : XVal × Bool :=
  let bits := plainBits (fFmt (i.field n))
  codeVal (plainDesc (fFmt (i.field n))) 0 [] (plainCode s 0 (plainAddr (i.field n) bits r k) bits)

/-- The code that an ELEMENT writes to the element with processing index x. -/
def elementCode (s : State) (b : Nat) (i : Issued) (x : Nat) : Nat :=
  let e := i.elementAt x
  let v := elementValue (s.unit b) b s.freeCtr i (fun n => plainElem s i n e.1 e.2) x e.1 e.2
  (encodeElem (plainDesc (fFmt (i.field 4))) 0 [] (seRound (s.unit b) b s.freeCtr i x e.1 e.2) v.1 v.2).1

theorem writesCodes_element {s : State} {b : Nat} {i : Issued} (job : PlainJob i) (hop : i.op = .element)
    (hplain : ∀ n ∈ [1, 2, 3], i.readsField n = true → isPlain (i.field n) = true)
    (hapart : ∀ n ∈ [1, 2, 3], i.readsField n = true → ∀ r k, r < i.height → k < i.len → SourceApart i n r k) :
    WritesCodes s b i (elementCode s b i) := by
  intro m p hp hm e
  obtain ⟨hr, hk⟩ := elementAt_lt job.untiled hp
  refine elemStep_element (s := { s with mem := m }) (b := b) hop job.dest job.unmasked p e.1 e.2
    (elem := fun n => plainElem s i n e.1 e.2) (fun n hn hread => ?_)
  rw [sourceElem_of_unwritten hm (hplain n hn hread) job.space (hapart n hn hread _ _ hr hk),
    sourceElem_plain (hplain n hn hread) job.space]
  rfl

/-- Settles O35: the elements of a job are written one after another into places apart from each other and from the sources,
so that each takes the code that its own sources give. -/
theorem shuffleAndPermuteMoveElements : Obligations.ShuffleAndPermuteMoveElements := by
  unfold Obligations.ShuffleAndPermuteMoveElements
  refine ⟨?_, ?_, ?_⟩
  · intro s b q i h hdest hmask hpos hsome hfew hspace huntiled hsh houts hcopy hgrant bits from_ dest source hapart hsource
      c hc
    have hfrom : ∀ k, from_ k = shuffleSource i k := fun k => (shuffleSource_eq i hsh k).symm
    have haddr := destAddr_eq (Or.inr hsh : i.op = .element ∨ _)
    have job : PlainJob i := plainJob_of (.inr hsh) hdest hmask hpos hsome hfew hspace huntiled houts (by
      simp only [haddr]
      exact hapart)
    have hplace : ∀ x, i.placeOf x = dest (i.elementAt x).1 (i.elementAt x).2 := fun x => congrArg addrKey (haddr _ _)
    have hcodes : WritesCodes s b.toNat i (shuffledCode s i) := writesCodes_shuffle job hsh hcopy (by
      intro r k hr hk x hx
      obtain ⟨hr', hk'⟩ := elementAt_lt huntiled hx
      rw [(copiesBits_source hcopy hdest k).2, hplace, ← hfrom]
      exact hsource _ _ _ _ hr' hr hk' hk)
    obtain ⟨t, j, hexec, hplaced, hended, hdone, hwritten⟩ :=
      exec_plainJob h (exec_shuffleCommand h.running hc) job hcodes hgrant
    refine ⟨t, j, hexec, hplaced, hended, hdone, fun r k hr hk => ?_⟩
    have hread := hwritten _ (index_lt hr hk)
    rw [hplace, shuffledCode, elementAt_index huntiled hk, ← hfrom] at hread
    exact hread
  · intro s b i p r k hdest hmask hop
    exact elemStep_permute hop hdest hmask p r k
  · intro s b q i h hop hdest hmask hpos hsome hfew hspace huntiled houts reads hplain hgrant u bits place hapart hsource elem
      word value
    have haddr := destAddr_eq (Or.inl hop : _ ∨ i.op.isShuffle = true)
    have job : PlainJob i := plainJob_of (.inl hop) hdest hmask hpos hsome hfew hspace huntiled houts (by
      simp only [haddr]
      exact hapart)
    have hplace : ∀ x, i.placeOf x = place 4 (i.elementAt x).1 (i.elementAt x).2 := fun x => congrArg addrKey (haddr _ _)
    have hcodes := writesCodes_element (s := s) (b := b.toNat) job hop hplain (by
      intro n hn hread r k hr hk x hx
      obtain ⟨hr', hk'⟩ := elementAt_lt huntiled hx
      rw [hplace]
      exact hsource n hn hread _ _ _ _ hr' hr hk' hk)
    have hexec : exec (.element b q 1) s = .next (workOn s b.toNat q.toNat i.op (seRun b.toNat 1)) := by
      rw [hop]
      exact live_of_running _ h.running
    obtain ⟨t, j, hexec, hplaced, hended, hdone, hwritten⟩ := exec_plainJob h hexec job hcodes hgrant
    refine ⟨t, j, hexec, hplaced, hended, hdone, fun r k hr hk => ?_⟩
    have hread := hwritten _ (index_lt hr hk)
    rw [hplace, elementCode, elementAt_index huntiled hk] at hread
    exact hread

end Sys2Proof.Machine
end

section
/-!
PROOFS. The converter's blocks: their sizes, and what the work on an instruction leaves of a state (R52, R53, R85, R89, R93,
R101, R140).
-/

namespace Sys2Proof.Machine

/-! ### Sizes of formed blocks (R52, R53, R85, R140) -/

@[simp] theorem length_chunksOf {α : Type} (n k : Nat) (l : List α) : (chunksOf n k l).length = k := by
  induction k generalizing l with
  | zero => rfl
  | succ k ih => simp [chunksOf, ih]

theorem length_of_mem_chunksOf {α : Type} {n k : Nat} {l c : List α} (h : c ∈ chunksOf n k l) : c.length ≤ n := by
  induction k generalizing l with
  | zero => simp [chunksOf] at h
  | succ k ih =>
    rcases List.mem_cons.1 h with rfl | h
    · simp
    · exact ih h

/-- A list put together from at most k pieces of at most n items. -/
theorem length_flatMap_le {α β : Type} {l : List α} {f : α → List β} {k n : Nat} (hl : l.length ≤ k)
    (hf : ∀ a ∈ l, (f a).length ≤ n) : (l.flatMap f).length ≤ k * n := by
  have hsum : ((l.map fun a => (f a).length).sum) ≤ (l.map fun a => (f a).length).length • n :=
    List.sum_le_card_nsmul _ _ (by simpa using hf)
  rw [List.length_flatMap]
  calc (l.map fun a => (f a).length).sum ≤ l.length * n := by simpa using hsum
    _ ≤ k * n := Nat.mul_le_mul_right n hl

theorem length_packCodes_le {w : Nat} {codes : List Nat} (h : codes.length ≤ 4096) :
    (packCodes w codes).length ≤ 512 * w := by
  unfold packCodes
  exact length_flatMap_le (by rw [length_chunksOf]; omega) (fun _ _ => (length_leBytes _ _).le)

@[simp] theorem length_encodeSlots (d : Desc) (v : ℚ) (z : Nat) (book : List Nat) (m : Nat → Round) (k : Nat)
    (l : List Slot) : (encodeSlots d v z book m k l).length = l.length := by
  induction l generalizing k with
  | nil => rfl
  | cons x xs ih => simp [encodeSlots, ih]

section
variable (d : Desc) (ocp : Bool) (zc : Nat → Nat) (book : List Nat) (m : Nat → Round) (slots : List Slot)

theorem length_encodeTile_codes : (encodeTile d ocp zc book m slots).codes.length ≤ 4096 := by
  unfold encodeTile
  by_cases hg : dGroup d = 0
  · rw [if_pos hg]
    refine length_flatMap_le (k := 32) (n := 128) (by simp) (fun p hp => ?_)
    rw [length_encodeSlots]
    exact length_of_mem_chunksOf (List.of_mem_zip hp).1
  · rw [if_neg hg]
    refine (length_flatMap_le (k := 4096 / dGroup d) (n := dGroup d) (by simp) (fun x hx => ?_)).trans
      (Nat.div_mul_le_self _ _)
    obtain ⟨p, hp, rfl⟩ := List.mem_map.1 hx
    rw [length_encodeSlots]
    exact length_of_mem_chunksOf (List.of_mem_zip hp).1

theorem length_encodeTile_scales : (encodeTile d ocp zc book m slots).scales.length = groupCount d ∧
    (encodeTile d ocp zc book m slots).zeros.length = groupCount d := by
  unfold encodeTile groupCount
  by_cases hg : dGroup d = 0 <;> simp [hg]

/-- The data tile of an encoded tile fits its block. -/
theorem length_payload_le : ((encodeTile d ocp zc book m slots).payload d).length ≤ bodyBytes d 0 :=
  length_packCodes_le (by rw [List.length_map]; exact length_encodeTile_codes ..)

/-- Its scale block does, too. -/
theorem length_scaleBody_le : ((encodeTile d ocp zc book m slots).scaleBody d).length ≤ bodyBytes d 1 := by
  obtain ⟨hscales, hzeros⟩ := length_encodeTile_scales d ocp zc book m slots
  have hcodes := length_flatMap_le (f := fun c => leBytes (scaleBytes (dSfmt d)) c) hscales.le
    (fun _ _ => (length_leBytes _ _).le)
  have hbody : bodyBytes d 1 = groupCount d * scaleBytes (dSfmt d) + (if dZpm d = 2 then groupCount d else 0) := rfl
  rw [Encoded.scaleBody, List.length_append, hbody]
  refine Nat.add_le_add hcodes ?_
  split
  · rw [List.length_map, hzeros]
  · exact Nat.le_refl 0

end

/-- The slot is taken into the side tile. -/
def Slot.isCaptured : Slot → Bool
  | .captured _ => true
  | _ => false

/-- A side tile with a place for every captured element. -/
theorem length_sideBody_le {n : Nat} {l : List Slot} (h : l.countP Slot.isCaptured ≤ n) :
    (sideBody n l).length ≤ 4 + 4 * n := by
  unfold sideBody
  simp only [List.length_append, length_leBytes, List.length_replicate]
  generalize hused : List.filterMap _ (l.zip (List.range l.length)) = used
  have hcount : used.length = l.countP Slot.isCaptured := by
    rw [← hused, List.length_filterMap_eq_countP]
    conv_rhs => rw [← List.map_fst_zip (l₁ := l) (l₂ := List.range l.length) (by simp), List.countP_map]
    refine List.countP_congr (fun p _ => ?_)
    obtain ⟨x, k⟩ := p
    cases x <;> simp [Slot.isCaptured]
  have := length_flatMap_le (le_refl used.length) (fun p _ => (length_leBytes 4 (p.1 + 65536 * p.2)).le)
  omega

/-- Capture takes at most n elements. -/
theorem countP_capture_le (n : Nat) (t : ℚ) {l : List Slot} (h : ∀ x ∈ l, x.isCaptured = false) :
    (capture n t l).countP Slot.isCaptured ≤ n := by
  unfold capture
  simp only
  generalize hranked : List.foldl (fun l x => rankIn x l) [] _ = ranked
  generalize htaken : (ranked.take n).map Prod.fst = taken
  have hlength : taken.length ≤ n := by simp [← htaken]
  have htake : (l.zip (List.range l.length)).countP (fun p => taken.contains p.2) ≤ taken.length := by
    have hsnd : (fun p : Slot × Nat => taken.contains p.2) = taken.contains ∘ Prod.snd := rfl
    rw [hsnd, ← List.countP_map, List.map_snd_zip (by simp), List.countP_eq_length_filter]
    exact (List.subperm_of_subset (List.nodup_range.filter _) (fun k hk => by
      simpa using (List.mem_filter.1 hk).2)).length_le
  rw [List.countP_map]
  refine (List.countP_mono_left (fun p hp hcap => ?_)).trans (htake.trans hlength)
  have hfree := h p.1 (List.of_mem_zip hp).1
  obtain ⟨x, k⟩ := p
  have hkept : ¬ Slot.isCaptured x = true := by rw [hfree]; exact Bool.false_ne_true
  rw [Function.comp_apply] at hcap
  split at hcap
  · split at hcap
    · split at hcap
      · assumption
      · exact absurd hcap Bool.false_ne_true
    · exact absurd hcap hkept
  · exact absurd hcap hkept

theorem isCaptured_of_mem_destSlots {rows : Nat} {outside : Nat → Bool} {us : List (XVal × Bool)} {x : Slot}
    (h : x ∈ destSlots rows outside us) : x.isCaptured = false := by
  obtain ⟨p, -, rfl⟩ := List.mem_map.1 h
  split
  · rfl
  · split <;> rfl

/-- The side tile of a destination tile fits its block (R136, R140). -/
theorem length_buildTile_side_le (d : Desc) (ocp before : Bool) (t : ℚ) (zc : Nat → Nat) (book : List Nat)
    (m : Nat → Round) (xs : List XVal) {l : List Slot} (h : ∀ x ∈ l, x.isCaptured = false) :
    (buildTile d ocp before t zc book m xs l).2.1.length ≤ bodyBytes d 2 := by
  refine length_sideBody_le ?_
  split
  · exact (List.countP_eq_zero.2 (fun x hx => by rw [h x hx]; exact Bool.false_ne_true)).le.trans (Nat.zero_le _)
  · exact countP_capture_le _ _ h

/-! ### The fields a converter names -/

/-- A converter's stream field is among those that it holds entries of. -/
theorem mem_streamFields {i : Issued} (hconv : i.op.isConv = true) {n : Nat} (hn : n = 1 ∨ n = 2 ∨ n = 3)
    (hs : isStream (i.field n) = true) : n ∈ streamFields i.slots := by
  unfold streamFields
  cases hop : opIn i.slots with
  | none => simp [Issued.op, hop, Op.isConv] at hconv
  | some o =>
    have ho : i.op = o := by simp [Issued.op, hop]
    have hs' : isStream (fieldOf i.slots n) = true := hs
    rw [ho] at hconv
    have hbuild : (o == .tableBuild) = false := beq_eq_false_iff_ne.2 (by
      rintro rfl
      exact absurd hconv Bool.false_ne_true)
    simp only [List.mem_filter, hs', hbuild]
    rcases hn with rfl | rfl | rfl <;> simp

theorem mem_allEntries {i : Issued} (hconv : i.op.isConv = true) {n : Nat} (hn : n = 1 ∨ n = 2 ∨ n = 3)
    (hs : isStream (i.field n) = true) {p : Nat × Nat} (hp : p ∈ entriesOf (i.field n) (i.desc n)) : p.1 ∈ i.allEntries := by
  have hmem : ∀ dest, isDest i.op n = dest → p.1 ∈ i.entries dest := fun dest hdest =>
    List.mem_flatMap.2 ⟨n, mem_streamFields hconv hn hs, by rw [if_pos hdest]; exact List.mem_map_of_mem hp⟩
  unfold Issued.allEntries
  cases hdest : isDest i.op n
  · exact List.mem_append_left _ (hmem _ hdest)
  · exact List.mem_append_right _ (hmem _ hdest)

/-- The entry of a field that takes blocks of a KIND. -/
def entryOf (f : BitVec 128) (kind : Nat) : Nat := if kind = 0 then fStream f else if kind = 1 then (fPair f).toNat else (fSide f).toNat

theorem mem_entriesOf {f : BitVec 128} {d : Desc} {p : Nat × Nat} : p ∈ entriesOf f d ↔
    p = (entryOf f 0, 0) ∨ (dSfmt d ≠ 0 ∧ p = (entryOf f 1, 1)) ∨ (dOcap d ≠ 0 ∧ p = (entryOf f 2, 2)) := by
  unfold entriesOf entryOf
  by_cases hs : dSfmt d = 0 <;> by_cases ho : dOcap d = 0 <;> simp [hs, ho]

theorem entryOf_of_mem {f : BitVec 128} {d : Desc} {p : Nat × Nat} (h : p ∈ entriesOf f d) : entryOf f p.2 = p.1 := by
  rcases mem_entriesOf.1 h with rfl | ⟨-, rfl⟩ | ⟨-, rfl⟩ <;> rfl

/-- A converter's destinations are F2 and F3 (R296). -/
theorem eq_of_isDest {o : Op} (hconv : o.isConv = true) {n : Nat} (h : isDest o n = true) : n = 2 ∨ n = 3 := by
  simp only [isDest, hconv, if_true, Bool.or_eq_true, Bool.and_eq_true, decide_eq_true_eq] at h
  exact h.imp id And.left

/-- Two instructions name the same blocks: the same one, at two points of its work. -/
structure Issued.SameJob (i k : Issued) : Prop where
  queue : k.queue = i.queue
  slot : k.slot = i.slot
  slots : k.slots = i.slots
  descs : k.descs = i.descs
  space : k.space = i.space

namespace Issued.SameJob

variable {i k l : Issued}

theorem refl (i : Issued) : i.SameJob i := ⟨rfl, rfl, rfl, rfl, rfl⟩

theorem trans (h : i.SameJob k) (h' : k.SameJob l) : i.SameJob l :=
  ⟨h'.queue.trans h.queue, h'.slot.trans h.slot, h'.slots.trans h.slots, h'.descs.trans h.descs, h'.space.trans h.space⟩

theorem symm (h : i.SameJob k) : k.SameJob i :=
  ⟨h.queue.symm, h.slot.symm, h.slots.symm, h.descs.symm, h.space.symm⟩

theorem op (h : i.SameJob k) : k.op = i.op := by unfold Issued.op; rw [h.slots]

theorem body (h : i.SameJob k) : k.body = i.body := by unfold Issued.body Issued.head; rw [h.slots]

theorem field (h : i.SameJob k) (n : Nat) : k.field n = i.field n := by unfold Issued.field; rw [h.slots]

theorem desc (h : i.SameJob k) (n : Nat) : k.desc n = i.desc n := by unfold Issued.desc; rw [h.descs]

theorem total (h : i.SameJob k) : k.total = i.total := by
  unfold Issued.total Issued.len Issued.height Issued.head
  rw [h.slots]

theorem hasRowSums (h : i.SameJob k) : k.hasRowSums = i.hasRowSums := by unfold Issued.hasRowSums; rw [h.op, h.body]

theorem allEntries (h : i.SameJob k) : k.allEntries = i.allEntries := by
  have hentries : ∀ dest, k.entries dest = i.entries dest := fun dest => by
    simp only [Issued.entries, h.slots, h.op, h.field, h.desc]
  unfold Issued.allEntries
  rw [hentries, hentries]

theorem inBlocks (h : i.SameJob k) (s : State) (a : Nat) : InBlocks s k a ↔ InBlocks s i a := by
  simp only [InBlocks, h.op, h.field, h.desc]

end Issued.SameJob

/-! ### Where blocks lie -/

/-- Two entries place their blocks alike (R453). -/
structure Stream.SamePlace (e e' : Stream) : Prop where
  space : e'.pspace = e.pspace
  base : e'.pbase = e.pbase
  high : e'.pbasehi = e.pbasehi
  blocks : e'.nblk = e.nblk

theorem Stream.SamePlace.refl (e : Stream) : e.SamePlace e := ⟨rfl, rfl, rfl, rfl⟩

theorem Stream.SamePlace.trans {e e' e'' : Stream} (h : e.SamePlace e') (h' : e'.SamePlace e'') : e.SamePlace e'' :=
  ⟨h'.space.trans h.space, h'.base.trans h.base, h'.high.trans h.high, h'.blocks.trans h.blocks⟩

theorem Stream.SamePlace.blockKey {e e' : Stream} (h : e.SamePlace e') (d : Desc) (kind : Nat) (tag : BitVec 16) :
    blockKey e' d kind tag = Machine.blockKey e d kind tag := by
  unfold Machine.blockKey
  rw [h.space, h.base, h.high, h.blocks]

/-! ### What the work on an instruction leaves -/

/-- What the work of instruction i on unit b may have changed from state s to state t: destination blocks, entries that it
names, its unit and the slice that serves it, the link of a slice, what the complex drives out, the free-value counter. -/
structure WorkedOn (b : Nat) (i : Issued) (s t : State) : Prop where
  parts : ∃ u x m o c l,
    t = { s with units := u, trackers := { s.trackers with streams := x }, mem := m, out := o, freeCtr := c, links := l }
  links : i.space = 0 → t.links = s.links
  others : ∀ n, n ≠ b → (i.space = 0 ∨ n ≠ i.slice) → t.unit n = s.unit n
  issued : (t.unit b).issued = (s.unit b).issued
  unnamed : ∀ n, n ∉ i.allEntries → t.stream n = s.stream n
  place : ∀ n, (s.stream n).SamePlace (t.stream n)
  mem : ∀ a, ¬ InBlocks s i a → readByte t.mem a = readByte s.mem a

section
variable {b : Nat} {i k : Issued} {s t v : State}

theorem WorkedOn.refl (b : Nat) (i : Issued) (s : State) : WorkedOn b i s s where
  parts := ⟨_, _, _, _, _, _, rfl⟩
  links _ := rfl
  others _ _ _ := rfl
  issued := rfl
  unnamed _ _ := rfl
  place _ := .refl _
  mem _ _ := rfl

theorem WorkedOn.inBlocks (h : WorkedOn b i s t) {a : Nat} (ha : InBlocks t i a) : InBlocks s i a := by
  obtain ⟨n, hdest, hstream, p, hp, tag, key, hkey, hrange⟩ := ha
  exact ⟨n, hdest, hstream, p, hp, tag, key, by rw [← hkey, (h.place p.1).blockKey], hrange⟩

theorem WorkedOn.trans (h : WorkedOn b i s t) (h' : WorkedOn b i t v) : WorkedOn b i s v where
  parts := by
    obtain ⟨_, _, _, _, _, _, rfl⟩ := h.parts
    obtain ⟨_, _, _, _, _, _, rfl⟩ := h'.parts
    exact ⟨_, _, _, _, _, _, rfl⟩
  links hs := (h'.links hs).trans (h.links hs)
  others n hn hs := (h'.others n hn hs).trans (h.others n hn hs)
  issued := h'.issued.trans h.issued
  unnamed n hn := (h'.unnamed n hn).trans (h.unnamed n hn)
  place n := (h.place n).trans (h'.place n)
  mem a ha := (h'.mem a (fun hin => ha (h.inBlocks hin))).trans (h.mem a ha)

theorem WorkedOn.ofJob (hk : i.SameJob k) (h : WorkedOn b k s t) : WorkedOn b i s t where
  parts := h.parts
  links hs := h.links (hk.space.trans hs)
  others n hn hs := h.others n hn (by unfold Issued.slice; rwa [hk.space])
  issued := h.issued
  unnamed n hn := h.unnamed n (by rwa [hk.allEntries])
  place := h.place
  mem a ha := h.mem a (by rwa [hk.inBlocks])

theorem WorkedOn.workFrame {b : Bib} (h : WorkedOn b.toNat i s t) : WorkFrame s t b i ∧ t.tables = s.tables := by
  obtain ⟨_, _, _, _, _, _, rfl⟩ := h.parts
  exact ⟨⟨h.others, h.unnamed, rfl, rfl, h.links, rfl⟩, rfl⟩

theorem WorkedOn.each {α : Type} {f : State → α → State} {l : List α} (h : ∀ t, ∀ a ∈ l, WorkedOn b i t (f t a)) (s : State) :
    WorkedOn b i s (s.each l f) :=
  List.foldlRecOn l f (motive := WorkedOn b i s) (.refl b i s) (fun t ht a ha => ht.trans (h t a ha))

theorem workedOn_setStream {n : Nat} {e : Stream} (hn : n ∈ i.allEntries) (he : (s.stream n).SamePlace e) :
    WorkedOn b i s (s.setStream n e) where
  parts := ⟨_, _, _, _, _, _, rfl⟩
  links _ := rfl
  others _ _ _ := rfl
  issued := rfl
  unnamed j hj := s.stream_setStream_ne e (by rintro rfl; exact hj hn)
  place j := by
    by_cases hj : j = n
    · subst hj
      rwa [State.stream_setStream_self]
    · rw [s.stream_setStream_ne e hj]
      exact .refl _
  mem _ _ := rfl

theorem workedOn_onUnit {n : Nat} {f : UnitSt → UnitSt} (hn : n = b ∨ i.space ≠ 0 ∧ n = i.slice)
    (hf : ∀ u, (f u).issued = u.issued) : WorkedOn b i s (s.onUnit n f) where
  parts := ⟨_, _, _, _, _, _, rfl⟩
  links _ := rfl
  others j hj hs := s.unit_onUnit_ne f (by
    rintro rfl
    rcases hn with rfl | ⟨hspace, rfl⟩
    · exact hj rfl
    · exact hs.elim hspace (fun h => h rfl))
  issued := by
    by_cases hb : b = n
    · subst hb
      rw [State.unit_onUnit_self, hf]
    · rw [s.unit_onUnit_ne f hb]
  unnamed _ _ := rfl
  place _ := .refl _
  mem _ _ := rfl

theorem issued_hold (u : UnitSt) (e : Event) : (u.hold e).issued = u.issued := by
  unfold UnitSt.hold
  simp only
  split
  · rfl
  · split <;> rfl

theorem workedOn_post (v : Ev) (c : Option Nat) (x y z : BitVec 32) : WorkedOn b i s (s.post b b v c x y z) := by
  unfold State.post
  exact workedOn_onUnit (.inl rfl) (fun u => issued_hold u _)

theorem workedOn_haltEntry {n : Nat} (hn : n ∈ i.allEntries) (st : Status) : WorkedOn b i s (haltEntry s n st) := by
  refine workedOn_setStream hn ?_
  beta_reduce
  split <;> exact ⟨rfl, rfl, rfl, rfl⟩

theorem workedOn_emit (o : Out) : WorkedOn b i s (s.emit o) where
  parts := ⟨_, _, _, _, _, _, rfl⟩
  links _ := rfl
  others _ _ _ := rfl
  issued := rfl
  unnamed _ _ := rfl
  place _ := .refl _
  mem _ _ := rfl

theorem workedOn_sendMsg (h : i.space ≠ 0) (toUnit : Bool) (n : Nat) (m : List Byte) :
    WorkedOn b i s (sendMsg s toUnit n m) := by
  obtain ⟨l, o, hsend⟩ := sendMsg_frame s toUnit n m
  rw [hsend]
  exact ⟨⟨_, _, _, _, _, _, rfl⟩, fun hs => absurd hs h, fun _ _ _ => rfl, rfl, fun _ _ => rfl, fun _ => .refl _, fun _ _ => rfl⟩

theorem workedOn_draw (n : Nat) : WorkedOn b i s { s with freeCtr := n } :=
  ⟨⟨_, _, _, _, _, _, rfl⟩, fun _ => rfl, fun _ _ _ => rfl, rfl, fun _ _ => rfl, fun _ => .refl _, fun _ _ => rfl⟩

theorem workedOn_writeBytes {key : Nat} {bs : List Byte} (h : ∀ a, key ≤ a → a < key + bs.length → InBlocks s i a) :
    WorkedOn b i s { s with mem := writeBytes s.mem key bs } where
  parts := ⟨_, _, _, _, _, _, rfl⟩
  links _ := rfl
  others _ _ _ := rfl
  issued := rfl
  unnamed _ _ := rfl
  place _ := .refl _
  mem a ha := readByte_writeBytes_of_out (by
    by_contra hout
    exact ha (h a (by omega) (by omega)))

end

/-! ### Writing -/

section
variable {b : Nat} {i : Issued} (hconv : i.op.isConv = true) {n : Nat} (hdest : isDest i.op n = true)
  (hstream : isStream (i.field n) = true)
include hconv hdest hstream

/-- One block written (R89, R93). -/
theorem workedOn_writeBlock (s : State) {p : Nat × Nat} (hp : p ∈ entriesOf (i.field n) (i.desc n)) (count : Nat)
    (poison ovf : Bool) {body : List Byte} (hbody : body.length ≤ bodyBytes (i.desc n) p.2) :
    WorkedOn b i s (writeBlock s i n p.2 count poison ovf body) := by
  have hentry := mem_allEntries hconv (.inr (eq_of_isDest hconv hdest)) hstream hp
  have hnum := entryOf_of_mem hp
  unfold entryOf at hnum
  unfold writeBlock
  simp only [hnum]
  split
  case isTrue hcross =>
    have hspace : i.space ≠ 0 := by
      intro h0
      simp [crosses, h0] at hcross
    unfold sendScale
    exact (workedOn_sendMsg hspace _ _ _).trans (workedOn_onUnit (.inr ⟨hspace, rfl⟩) (fun _ => rfl))
  case isFalse =>
    split
    · next key hkey =>
      refine (workedOn_writeBytes (fun a hlo hhi => ?_)).trans (workedOn_setStream hentry ⟨rfl, rfl, rfl, rfl⟩)
      split at hkey
      · exact absurd hkey (by simp)
      · rw [length_blockBytes] at hhi
        exact ⟨n, hdest, hstream, p, hp, _, key, hkey, hlo, by omega⟩
    · exact (workedOn_emit _).trans (workedOn_setStream hentry ⟨rfl, rfl, rfl, rfl⟩)

theorem workedOn_writeGood (s : State) (count : Nat) (ovf : Bool) {body sbody obody : List Byte}
    (hbody : body.length ≤ bodyBytes (i.desc n) 0) (hsbody : sbody.length ≤ bodyBytes (i.desc n) 1)
    (hobody : obody.length ≤ bodyBytes (i.desc n) 2) : WorkedOn b i s (writeGood s i n count ovf body sbody obody) := by
  have hdata := fun s => workedOn_writeBlock (b := b) hconv hdest hstream s (mem_entriesOf.2 (.inl rfl)) count false ovf hbody
  have hscale := fun h s => workedOn_writeBlock (b := b) hconv hdest hstream s (mem_entriesOf.2 (.inr (.inl ⟨h, rfl⟩))) count
    false false hsbody
  have hside := fun h s => workedOn_writeBlock (b := b) hconv hdest hstream s (mem_entriesOf.2 (.inr (.inr ⟨h, rfl⟩))) count
    false false hobody
  unfold writeGood
  by_cases hs : dSfmt (i.desc n) = 0 <;> by_cases ho : dOcap (i.desc n) = 0 <;> simp only [hs, ho, if_true, if_false]
  · exact hdata s
  · exact (hdata s).trans (hside ho _)
  · exact (hdata s).trans (hscale hs _)
  · exact ((hdata s).trans (hscale hs _)).trans (hside ho _)

/-- A whole position written poisoned, or left as it was (R101, R102). -/
theorem workedOn_writePoisonBut (keep : State → Nat → Nat → Bool) (s : State) (count : Nat) :
    WorkedOn b i s (writePoisonBut keep s i n count) := by
  refine WorkedOn.each (fun t p hp => ?_) s
  split
  · exact workedOn_setStream (mem_allEntries hconv (.inr (eq_of_isDest hconv hdest)) hstream hp) ⟨rfl, rfl, rfl, rfl⟩
  · exact workedOn_writeBlock hconv hdest hstream t hp count true false (by simp)

end

/-! ### Reading -/

section
variable {b : Nat} {i : Issued} (hconv : i.op.isConv = true) {n : Nat} (hn : n = 1 ∨ n = 2 ∨ n = 3)
  (hstream : isStream (i.field n) = true)
include hconv hn hstream

/-- Tags of a source field advanced past a position (R93). -/
theorem workedOn_advanceRead (s : State) : WorkedOn b i s (advanceRead s i n) := by
  refine WorkedOn.each (fun t p hp => ?_) s
  have hentry := mem_allEntries hconv hn hstream hp
  simp only
  split
  case isTrue hcross =>
    have hspace : i.space ≠ 0 := by
      intro h0
      simp [crosses, h0] at hcross
    refine .trans (workedOn_onUnit (.inr ⟨hspace, rfl⟩) ?_) (workedOn_setStream hentry ?_)
    · exact fun _ => rfl
    · exact ⟨rfl, rfl, rfl, rfl⟩
  case isFalse => exact workedOn_setStream hentry ⟨rfl, rfl, rfl, rfl⟩

theorem workedOn_haltField (s : State) (st : Status) : WorkedOn b i s (haltField s i n st) :=
  WorkedOn.each (fun _ _ hp => workedOn_haltEntry (mem_allEntries hconv hn hstream hp) st) s

end

theorem workedOn_positionEvents (s : State) (b : Nat) (i : Issued) (n : Nat) (p : PosRead) (pos : Nat) :
    WorkedOn b i s (positionEvents s b i n p pos) := by
  unfold positionEvents
  simp only
  split
  · exact workedOn_post _ _ _ _ _
  · exact workedOn_post _ _ _ _ _
  · exact .refl b i s

end Sys2Proof.Machine
end

section
/-!
PROOFS. The converter: every form of CONVERT and ROTATE makes progress and writes only its destination blocks (R63, R93, R97,
R106, R127, R160).
-/

namespace Sys2Proof.Machine

/-! ### A converter's fields -/

/-- What the layout of a CONVERT or ROTATE and the descriptor of its row sums fix (R125, R127, R296). -/
structure Converter (i : Issued) : Prop where
  conv : i.op.isConv = true
  source : isStream (i.field 1) = true
  dest : isStream (i.field 2) = true
  formed : i.hasRowSums = true → isStream (i.field 3) = true ∧ dElem (i.desc 3) = 1
  taken : i.op = .convRescale → bEns i.body = true → isStream (i.field 3) = true

theorem Converter.ofJob {i k : Issued} (hk : i.SameJob k) (h : Converter i) : Converter k where
  conv := by rw [hk.op]; exact h.conv
  source := by rw [hk.field]; exact h.source
  dest := by rw [hk.field]; exact h.dest
  formed := by rw [hk.hasRowSums, hk.field, hk.desc]; exact h.formed
  taken := by rw [hk.op, hk.body, hk.field]; exact h.taken

/-- The fields of a laid out instruction fit their positions (R296). -/
theorem fieldFits_of_layoutOk {kind : Kind} {sl : List SlotWord} (h : layoutOk kind sl = true) {o : Op}
    (ho : opIn sl = some o) : ((fieldUse o (fieldFlag o (hBody (headOf sl)))).zip [1, 2, 3, 4, 5, 6]).all
      (fun p => fieldFits p.1 (fieldOf sl p.2)) = true := by
  unfold layoutOk at h
  rw [ho] at h
  simp only [Bool.and_eq_true] at h
  tauto

theorem isStream_of_fits {f : BitVec 128} (h : fieldFits (.stream true) f = true) : isStream f = true := by
  simp only [fieldFits, Bool.not_true, Bool.and_false, Bool.false_or, Bool.and_eq_true] at h
  exact h.1

/-- F1 and F2 of every CONVERT and ROTATE are streams (R296). -/
theorem fieldUse_of_isConv {o : Op} (h : o.isConv = true) (flag : Bool) :
    ∃ rest, fieldUse o flag = .stream true :: .stream true :: rest := by
  unfold Op.isConv at h
  split at h
  case h_6 => exact absurd h Bool.false_ne_true
  all_goals exact ⟨_, rfl⟩

theorem converter_of_layoutOk {i : Issued} (hlayout : layoutOk .cv i.slots = true) (hconv : i.op.isConv = true)
    (hsums : i.hasRowSums = true → dElem (i.desc 3) = 1) : Converter i := by
  obtain ⟨o, ho⟩ : ∃ o, opIn i.slots = some o := by
    cases h : opIn i.slots with
    | none => simp [Issued.op, h, Op.isConv] at hconv
    | some o => exact ⟨o, rfl⟩
  have hop : i.op = o := by simp [Issued.op, ho]
  have hfits := fieldFits_of_layoutOk hlayout ho
  rw [← hop] at hfits
  have hf : ∀ n u, (u, n) ∈ (fieldUse i.op (fieldFlag i.op i.body)).zip [1, 2, 3, 4, 5, 6] → u = .stream true →
      isStream (i.field n) = true := by
    rintro n u hmem rfl
    exact isStream_of_fits (List.all_eq_true.1 hfits _ hmem)
  obtain ⟨rest, huse⟩ := fieldUse_of_isConv hconv (fieldFlag i.op i.body)
  refine ⟨hconv, hf 1 (.stream true) ?_ rfl, hf 2 (.stream true) ?_ rfl, fun hr => ⟨hf 3 (.stream true) ?_ rfl, hsums hr⟩,
    fun hresc hens => hf 3 (.stream true) ?_ rfl⟩
  · simp [huse]
  · simp [huse]
  · simp only [Issued.hasRowSums, Bool.and_eq_true, Bool.or_eq_true, beq_iff_eq] at hr
    obtain ⟨hi | hi, hflag⟩ := hr <;> simp [hi, fieldUse, fieldFlag, hflag]
  · simp [hresc, fieldUse, fieldFlag, hens]

/-! ### Formed destination positions -/

/-- A destination position that the instruction may write: of a destination field, with bodies that fit its blocks. -/
structure OutPos.Fits (i : Issued) (o : OutPos) : Prop where
  dest : isDest i.op o.field = true
  stream : isStream (i.field o.field) = true
  small : ∀ g, o.good = some g → g.body.length ≤ bodyBytes (i.desc o.field) 0 ∧
    g.sbody.length ≤ bodyBytes (i.desc o.field) 1 ∧ g.obody.length ≤ bodyBytes (i.desc o.field) 2

/-- Destination positions in the order of their writing: each fits, and the last of them completes its source position. -/
structure OutsOk (i : Issued) (l : List OutPos) : Prop where
  fits : ∀ o ∈ l, o.Fits i
  ends : ∀ o, l.getLast? = some o → o.last = true

theorem OutsOk.nil (i : Issued) : OutsOk i [] := ⟨by simp, by simp⟩

theorem OutsOk.singleton {i : Issued} {o : OutPos} (h : o.Fits i) (hlast : o.last = true) : OutsOk i [o] :=
  ⟨by simpa using h, by simpa using hlast⟩

theorem OutsOk.append {i : Issued} {l l' : List OutPos} (h : OutsOk i l) (h' : OutsOk i l') : OutsOk i (l ++ l') where
  fits o ho := (List.mem_append.1 ho).elim (h.fits o) (h'.fits o)
  ends o ho := by
    rw [List.getLast?_append] at ho
    cases hl : l'.getLast? with
    | none => exact h.ends o (by simpa [hl] using ho)
    | some x => exact h'.ends o (by simpa [hl] using ho)

theorem OutsOk.tail {i : Issued} {o : OutPos} {l : List OutPos} (h : OutsOk i (o :: l)) : OutsOk i l where
  fits x hx := h.fits x (List.mem_cons_of_mem _ hx)
  ends x hx := h.ends x (by rw [List.getLast?_cons, hx]; rfl)

/-- A position that another one follows is the only one that may leave its source position unfinished. -/
theorem OutsOk.tail_ne_nil {i : Issued} {o : OutPos} {l : List OutPos} (h : OutsOk i (o :: l)) (ho : o.last = false) : l ≠ [] := by
  rintro rfl
  exact Bool.false_ne_true (ho.symm.trans (h.ends o rfl))

theorem OutPos.Fits.ofJob {i k : Issued} (hk : i.SameJob k) {o : OutPos} (h : o.Fits k) : o.Fits i :=
  ⟨by rw [← hk.op]; exact h.dest, by rw [← hk.field]; exact h.stream, by rw [← hk.desc]; exact h.small⟩

theorem OutsOk.ofJob {i k : Issued} (hk : i.SameJob k) {l : List OutPos} (h : OutsOk k l) : OutsOk i l :=
  ⟨fun o ho => (h.fits o ho).ofJob hk, h.ends⟩

/-- What was formed and is poisoned still fits (R101). -/
theorem OutsOk.poisoned {i : Issued} {l : List OutPos} (h : OutsOk i l) : OutsOk i (l.map (fun o => { o with good := none })) where
  fits o ho := by
    obtain ⟨x, hx, rfl⟩ := List.mem_map.1 ho
    exact ⟨(h.fits x hx).dest, (h.fits x hx).stream, fun g hg => absurd hg (by simp)⟩
  ends o ho := by
    rw [List.getLast?_map] at ho
    obtain ⟨x, hx, rfl⟩ := Option.map_eq_some_iff.1 ho
    exact h.ends x hx

/-- Row sums go to F3 (R125). -/
theorem isDest_three {i : Issued} (h : i.hasRowSums = true) : isDest i.op 3 = true := by
  simp only [Issued.hasRowSums, Bool.and_eq_true, Bool.or_eq_true, beq_iff_eq] at h
  obtain ⟨hop | hop, -⟩ := h <;> rw [hop] <;> rfl

/-- A built tile fits the blocks of its descriptor: its data tile, scale block and side tile. -/
structure TileFits (d : Desc) (r : Encoded × List Byte × Bool × TileSum) : Prop where
  data : (r.1.payload d).length ≤ bodyBytes d 0
  scale : (r.1.scaleBody d).length ≤ bodyBytes d 1
  side : r.2.1.length ≤ bodyBytes d 2

theorem tileFits_buildTile {d : Desc} {ocp before : Bool} {t : ℚ} {zc : Nat → Nat} {book : List Nat} {m : Nat → Round}
    {xs : List XVal} {l : List Slot} (h : ∀ x ∈ l, x.isCaptured = false) : TileFits d (buildTile d ocp before t zc book m xs l) :=
  ⟨length_payload_le .., length_scaleBody_le .., length_buildTile_side_le _ _ _ _ _ _ _ _ h⟩

section
variable {i : Issued} (hi : Converter i)
include hi

theorem isDest_two : isDest i.op 2 = true := by simp [isDest, hi.conv]

theorem fits_poison (count : Nat) (last : Bool) : OutPos.Fits i { field := 2, count := count, last := last } :=
  ⟨isDest_two hi, hi.dest, fun g hg => absurd hg (by simp)⟩

theorem fits_tile {r : Encoded × List Byte × Bool × TileSum} (h : TileFits (i.desc 2) r) (count : Nat) :
    OutPos.Fits i
      { field := 2, count := count
        good := some { ovf := r.2.2.1, body := r.1.payload (i.desc 2), sbody := r.1.scaleBody (i.desc 2), obody := r.2.1,
                       sum := some r.2.2.2 } } where
  dest := isDest_two hi
  stream := hi.dest
  small g hg := by
    obtain rfl := Option.some.inj hg
    exact ⟨h.data, h.scale, h.side⟩

theorem fits_formConverted (s : State) (b p j rb t : Nat) (xs : List Decoded) : (formConverted s b i p j rb t xs).1.Fits i := by
  unfold formConverted
  exact fits_tile hi (tileFits_buildTile (fun _ hx => isCaptured_of_mem_destSlots hx)) _

/-- The row-sum tile fits its block: 4,096 binary32 words (R125). -/
theorem fits_rowSumOut (h : i.hasRowSums = true) (rb : Nat) : (rowSumOut i rb).Fits i := by
  obtain ⟨hstream, helem⟩ := hi.formed h
  refine ⟨isDest_three h, hstream, fun g hg => ?_⟩
  simp only [rowSumOut] at hg
  split at hg
  · exact absurd hg (by simp)
  · obtain rfl := Option.some.inj hg
    refine ⟨?_, Nat.zero_le _, Nat.zero_le _⟩
    have hbytes : bodyBytes (i.desc 3) 0 = 4096 * 4 := by
      have hwidth : dWidth (i.desc 3) = 32 := by unfold dWidth; rw [helem]; rfl
      change 512 * dWidth (i.desc 3) = _
      rw [hwidth]
    have hrow : (rowSumOut i rb).field = 3 := rfl
    rw [hrow, hbytes]
    refine length_flatMap_le ?_ (fun x _ => (length_bytesLE 4 x).le)
    simp only [fitTo, List.length_append, List.length_take, List.length_replicate]
    omega

/-- A position with the row-sum tile that it closes. -/
theorem outsOk_withRowSums {k : Issued} (hk : i.SameJob k) (p : Nat) {o : OutPos} (ho : o.Fits i) (hlast : o.last = true) :
    OutsOk i (withRowSums k p o) := by
  unfold withRowSums
  split
  · next hcloses =>
    simp only [closesRowSums, Bool.and_eq_true] at hcloses
    obtain ⟨⟨hsums, -⟩, -⟩ := hcloses
    have hrow := (fits_rowSumOut (hi.ofJob hk) hsums (p / tilesOf k.len)).ofJob hk
    refine ⟨fun x hx => ?_, fun x hx => ?_⟩
    · rcases List.mem_cons.1 hx with rfl | hx
      · exact ⟨ho.dest, ho.stream, ho.small⟩
      · rw [List.mem_singleton.1 hx]
        exact hrow
    · obtain rfl : rowSumOut k (p / tilesOf k.len) = x := by simpa using hx
      rfl
  · exact .singleton ho hlast

end

/-! ### Formed positions written while there is room -/

/-- What the writing of formed positions makes of an instruction k: the group's reads are kept while a position of it is owed. -/
structure Flushed (k k' : Issued) : Prop where
  job : k.SameJob k'
  pos : k.pos ≤ k'.pos
  owed : k'.pos = k.pos → k'.reads = k.reads ∧ (k.outs ≠ [] → k'.outs ≠ [])
  stopAs : k'.stopAs = k.stopAs
  finished : k'.finished = k.finished

theorem Flushed.refl (k : Issued) : Flushed k k := ⟨.refl k, le_rfl, fun _ => ⟨rfl, id⟩, rfl, rfl⟩

theorem Flushed.trans {k l m : Issued} (h : Flushed k l) (h' : Flushed l m) : Flushed k m where
  job := h.job.trans h'.job
  pos := h.pos.trans h'.pos
  owed hpos := by
    have hl : l.pos = k.pos := le_antisymm (hpos ▸ h'.pos) h.pos
    obtain ⟨hreads, houts⟩ := h.owed hl
    obtain ⟨hreads', houts'⟩ := h'.owed (hpos.trans hl.symm)
    exact ⟨hreads'.trans hreads, houts' ∘ houts⟩
  stopAs := h'.stopAs.trans h.stopAs
  finished := h'.finished.trans h.finished

/-- The instruction after one formed position: its place, and what does not enter its progress. -/
theorem writeOut_snd (s : State) (k : Issued) (o : OutPos) : ∃ c n a m w f u,
    (writeOut s k o).2 = { k with pos := if o.last then k.pos + 1 else k.pos, reads := if k.outs.isEmpty then [] else k.reads
                                  counts := c, done := n, amax := a, capmax := m, norm := w, nonfin := f, satur := u } := by
  unfold writeOut
  simp only
  split
  · split
    · exact ⟨_, _, _, _, _, _, _, rfl⟩
    · exact ⟨_, _, _, _, _, _, _, rfl⟩
  · exact ⟨_, _, _, _, _, _, _, rfl⟩

/-- One formed position written. -/
theorem workedOn_writeOut {k : Issued} (hconv : k.op.isConv = true) {o : OutPos} (ho : o.Fits k) (b : Nat) (s : State) :
    WorkedOn b k s (writeOut s k o).1 := by
  unfold writeOut
  simp only
  split
  · next g hg =>
    obtain ⟨hbody, hsbody, hobody⟩ := ho.small g hg
    exact workedOn_writeGood hconv ho.dest ho.stream s _ _ hbody hsbody hobody
  · have hpoison := fun keep => workedOn_writePoisonBut (b := b) hconv ho.dest ho.stream keep s o.count
    split <;> simp only <;> exact hpoison _

theorem flushed_writeOut {k : Issued} {o : OutPos} {rest : List OutPos} (h : OutsOk k k.outs) (hk : k.outs = o :: rest) (s : State) :
    Flushed k (writeOut s { k with outs := rest } o).2 ∧ (writeOut s { k with outs := rest } o).2.outs = rest := by
  obtain ⟨c, n, a, m, w, f, u, hout⟩ := writeOut_snd s { k with outs := rest } o
  rw [hk] at h
  rw [hout]
  refine ⟨⟨⟨rfl, rfl, rfl, rfl, rfl⟩, ?_, fun hpos => ?_, rfl, rfl⟩, rfl⟩
  · simp only
    split <;> omega
  · cases hlast : o.last
    · have hrest := h.tail_ne_nil hlast
      exact ⟨by simp [hrest], fun _ => hrest⟩
    · simp [hlast] at hpos

theorem flushOuts_spec {more : Issued → List OutPos} (b n : Nat) {k : Issued} (hk : Converter k) (houts : OutsOk k k.outs)
    (hmore : ∀ l, k.SameJob l → OutsOk k (more l)) (s : State) :
    WorkedOn b k s (flushOuts more n s k).1 ∧ OutsOk k (flushOuts more n s k).2.outs ∧ Flushed k (flushOuts more n s k).2 := by
  induction n generalizing k s with
  | zero => exact ⟨.refl b k s, houts, .refl k⟩
  | succ n ih =>
    have hnext : ∀ {l : Issued} {t : State}, WorkedOn b k s t → OutsOk k l.outs → Flushed k l →
        WorkedOn b k s (flushOuts more n t l).1 ∧ OutsOk k (flushOuts more n t l).2.outs ∧ Flushed k (flushOuts more n t l).2 := by
      intro l t hwork hl hflush
      obtain ⟨hwork', houts', hflush'⟩ := ih (hk.ofJob hflush.job) (hl.ofJob hflush.job.symm)
        (fun m hm => (hmore m (hflush.job.trans hm)).ofJob hflush.job.symm) t
      exact ⟨hwork.trans (hwork'.ofJob hflush.job), houts'.ofJob hflush.job, hflush.trans hflush'⟩
    rw [flushOuts]
    split
    · next o rest hcons =>
      split
      · exact ⟨.refl b k s, houts, .refl k⟩
      · obtain ⟨hflush, hrest⟩ := flushed_writeOut houts hcons s
        have hall := hcons ▸ houts
        have hjob : k.SameJob { k with outs := rest } := ⟨rfl, rfl, rfl, rfl, rfl⟩
        have hfits := (hall.fits o List.mem_cons_self).ofJob hjob.symm
        exact hnext ((workedOn_writeOut (hk.ofJob hjob).conv hfits b s).ofJob hjob) (by rw [hrest]; exact hall.tail) hflush
    · next hnil =>
      split
      · exact ⟨.refl b k s, houts, .refl k⟩
      · exact hnext (.refl b k s) (hmore k (.refl k)) ⟨⟨rfl, rfl, rfl, rfl, rfl⟩, le_rfl, fun _ => ⟨rfl, fun h => absurd hnil h⟩, rfl, rfl⟩

/-! ### Stopping -/

theorem outsOk_convPoison {k l : Issued} (hk : Converter k) (hl : k.SameJob l) : OutsOk k (convPoison l) := by
  unfold convPoison
  split
  · exact .nil k
  · split
    · next hcloses =>
      simp only [closesRowSums, Bool.and_eq_true] at hcloses
      obtain ⟨⟨hsums, -⟩, -⟩ := hcloses
      obtain ⟨hstream, -⟩ := hk.formed (hl.hasRowSums ▸ hsums)
      have hrow : OutPos.Fits k { field := 3, count := rowSumCount l.height (l.pos / tilesOf l.len) } :=
        ⟨isDest_three (hl.hasRowSums ▸ hsums), hstream, fun g hg => absurd hg (by simp)⟩
      refine ⟨fun o ho => ?_, fun o ho => ?_⟩
      · rcases List.mem_cons.1 ho with rfl | ho
        · exact fits_poison hk _ _
        · rw [List.mem_singleton.1 ho]
          exact hrow
      · obtain rfl : OutPos.mk 3 (rowSumCount l.height (l.pos / tilesOf l.len)) none true none = o := by simpa using ho
        rfl
    · exact .singleton (fits_poison hk _ _) rfl

theorem convPoison_eq_nil {k : Issued} : convPoison k = [] ↔ k.total ≤ k.pos := by
  unfold convPoison
  split
  · next h => simp [h]
  · next h =>
    split <;> simp [h]

/-- A stop begun or carried on: poisoned blocks are written while there is room, and the end comes with the last (R98, R104). -/
structure BlocksStopped (b : Nat) (s : State) (k : Issued) (t : State) (k' : Issued) : Prop where
  work : WorkedOn b k s t
  job : k.SameJob k'
  outs : OutsOk k k'.outs
  stopAs : k'.stopAs.isSome = true
  pos : k.pos ≤ k'.pos
  owed : k'.pos = k.pos → (k.outs ≠ [] ∨ k.pos < k.total) → k'.outs ≠ []
  ended : k.finished = none → k'.finished = none ∨ k.total ≤ k'.pos

theorem stopping_spec {k : Issued} (houts : OutsOk k k.outs) (st : Status) : k.SameJob (k.stopping st) ∧
    OutsOk k (k.stopping st).outs ∧ (k.stopping st).stopAs.isSome = true ∧ (k.stopping st).pos = k.pos ∧
    (k.stopping st).finished = k.finished ∧ (k.outs ≠ [] → (k.stopping st).outs ≠ []) := by
  unfold Issued.stopping
  split
  · next h => exact ⟨.refl k, houts, h, rfl, rfl, id⟩
  · exact ⟨⟨rfl, rfl, rfl, rfl, rfl⟩, houts.poisoned, rfl, rfl, rfl, fun h => by simpa using h⟩

/-- Poisoned blocks begun at a position stay owed until the position is written. -/
theorem outs_ne_nil_of_flushed_convPoison (n : Nat) {k : Issued} (hk : Converter k) (hnil : k.outs = []) (hleft : k.pos < k.total)
    (s : State) (hpos : (flushOuts convPoison (n + 1) s k).2.pos = k.pos) : (flushOuts convPoison (n + 1) s k).2.outs ≠ [] := by
  obtain ⟨o, rest, hcons⟩ := List.exists_cons_of_ne_nil (fun h => absurd (convPoison_eq_nil.1 h) (Nat.not_le.2 hleft))
  have hjob : k.SameJob { k with outs := convPoison k } := ⟨rfl, rfl, rfl, rfl, rfl⟩
  have hstep : flushOuts convPoison (n + 1) s k = flushOuts convPoison n s { k with outs := convPoison k } := by
    rw [flushOuts, hnil, hcons]
  rw [hstep] at hpos ⊢
  obtain ⟨-, -, hflush⟩ := flushOuts_spec 0 n (hk.ofJob hjob) ((outsOk_convPoison hk (.refl k)).ofJob hjob.symm)
    (fun m hm => outsOk_convPoison (hk.ofJob hjob) hm) s
  exact (hflush.owed hpos).2 (by simp [hcons])

theorem blocksStopped_stopOn (b : Nat) {k : Issued} (hk : Converter k) (houts : OutsOk k k.outs) (s : State) (st : Status) :
    BlocksStopped b s k (stopOn convPoison s k st).1 (stopOn convPoison s k st).2 := by
  obtain ⟨hjob, houts', hstopAs, hpos, hfin, hne⟩ := stopping_spec houts st
  unfold stopOn
  generalize k.stopping st = l at *
  have hl := hk.ofJob hjob
  obtain ⟨hwork, houtsl, hflush⟩ := flushOuts_spec b (4 * (k.total + 1)) hl (houts'.ofJob hjob.symm)
    (fun _ hm => outsOk_convPoison hl hm) s
  have howed : (flushOuts convPoison (4 * (k.total + 1)) s l).2.pos = k.pos → (k.outs ≠ [] ∨ k.pos < k.total) →
      (flushOuts convPoison (4 * (k.total + 1)) s l).2.outs ≠ [] := by
    intro heq hleft
    by_cases hnil : l.outs = []
    · refine outs_ne_nil_of_flushed_convPoison (4 * k.total + 3) hl hnil ?_ s (heq.trans hpos.symm)
      rw [hjob.total, hpos]
      exact hleft.resolve_left (fun h => hne h hnil)
    · exact (hflush.owed (heq.trans hpos.symm)).2 hnil
  have hall : BlocksStopped b s k (flushOuts convPoison (4 * (k.total + 1)) s l).1
      (flushOuts convPoison (4 * (k.total + 1)) s l).2 :=
    ⟨hwork.ofJob hjob, hjob.trans hflush.job, houtsl.ofJob hjob, hflush.stopAs ▸ hstopAs, hpos ▸ hflush.pos, howed,
      fun h => .inl (by rw [hflush.finished, hfin, h])⟩
  simp only
  split
  · next hend =>
    simp only [Bool.and_eq_true, List.isEmpty_iff] at hend
    have htotal := convPoison_eq_nil.1 hend.2
    rw [hall.job.total] at htotal
    exact { hall with job := hall.job.trans ⟨rfl, rfl, rfl, rfl, rfl⟩, ended := fun _ => .inr htotal }
  · exact hall

/-! ### Groups formed -/

/-- An instruction with other formed positions and row sums. -/
def Issued.formed (k : Issued) (o : List OutPos) (r : List (BitVec 32)) (bad : Bool) : Issued :=
  { k with outs := o, rows := r, rowsBad := bad }

theorem sameJob_formed (k : Issued) (o : List OutPos) (r : List (BitVec 32)) (bad : Bool) : k.SameJob (k.formed o r bad) :=
  ⟨rfl, rfl, rfl, rfl, rfl⟩

/-- What the forming of a group changes of an instruction: its formed positions grow, and its row sums change (R125). -/
def Forms (k k' : Issued) : Prop := ∃ o r bad, k' = k.formed o r bad ∧ OutsOk k o

theorem Forms.trans {k l m : Issued} (h : Forms k l) (h' : Forms l m) : Forms k m := by
  obtain ⟨_, _, _, rfl, -⟩ := h
  obtain ⟨o, r, bad, rfl, ho⟩ := h'
  exact ⟨o, r, bad, rfl, ho.ofJob (sameJob_formed ..)⟩

/-- One more position formed. -/
theorem forms_append {k : Issued} (hk : Converter k) (houts : OutsOk k k.outs) (r r' : List (BitVec 32)) (bad bad' : Bool) (p : Nat)
    {o : OutPos} (ho : o.Fits k) (hlast : o.last = true) :
    Forms k (k.formed (k.outs ++ withRowSums (k.formed k.outs r bad) p o) r' bad') :=
  ⟨_, _, _, rfl, houts.append (outsOk_withRowSums hk (sameJob_formed ..) p ho hlast)⟩

theorem Forms.outs {k k' : Issued} (h : Forms k k') : k.SameJob k' ∧ OutsOk k' k'.outs := by
  obtain ⟨o, r, bad, rfl, ho⟩ := h
  exact ⟨sameJob_formed .., ho.ofJob (sameJob_formed ..).symm⟩

theorem forms_formGood (s : State) (b : Nat) (l : List (List Decoded × (Nat × Nat))) (j : Nat) {k : Issued} (hk : Converter k)
    (houts : OutsOk k k.outs) : Forms k (formGood s b l j k) := by
  induction l generalizing j k with
  | nil => exact ⟨k.outs, k.rows, k.rowsBad, rfl, houts⟩
  | cons x rest ih =>
    rw [formGood]
    have hfits := fits_formConverted hk s b (k.pos + j) j x.2.1 x.2.2 x.1
    have hstep : ∀ r r' bad bad', Forms k (k.formed (k.outs ++ withRowSums (k.formed k.outs r bad) (k.pos + j)
        (formConverted s b k (k.pos + j) j x.2.1 x.2.2 x.1).1) r' bad') := fun r r' bad bad' =>
      forms_append hk houts r r' bad bad' _ hfits rfl
    have hnext : ∀ {l : Issued}, Forms k l → Forms k (formGood s b rest (j + 1) l) := fun h =>
      h.trans (ih (j + 1) (hk.ofJob h.outs.1) h.outs.2)
    split
    · exact hnext (hstep _ _ _ _)
    · exact hnext (hstep k.rows _ k.rowsBad _)

theorem forms_formBad (g j : Nat) {k : Issued} (hk : Converter k) (houts : OutsOk k k.outs) : Forms k (formBad g j k) := by
  induction g generalizing j k with
  | zero => exact ⟨k.outs, k.rows, k.rowsBad, rfl, houts⟩
  | succ g ih =>
    rw [formBad]
    have hstep : ∀ r r' bad bad', Forms k (k.formed (k.outs ++ withRowSums (k.formed k.outs r bad) (k.pos + j)
        { field := 2, count := k.destCount (k.pos + j) }) r' bad') := fun r r' bad bad' =>
      forms_append hk houts r r' bad bad' _ (fits_poison hk _ _) rfl
    have hnext : ∀ {l : Issued}, Forms k l → Forms k (formBad g (j + 1) l) := fun h =>
      h.trans (ih (j + 1) (hk.ofJob h.outs.1) h.outs.2)
    split
    · exact hnext (hstep _ _ _ _)
    · exact hnext (hstep k.rows _ k.rowsBad _)

theorem fail_eq (k : Issued) (st : Status) (pos : Nat) : ∃ x, k.fail st pos = { k with failed := x } := by
  unfold Issued.fail
  split
  · exact ⟨k.failed, rfl⟩
  · exact ⟨_, rfl⟩

theorem failGroup_eq (u : UnitSt) (k : Issued) : ∃ x, failGroup u k = { k with failed := x } := by
  unfold failGroup
  refine List.foldlRecOn _ _ (motive := fun l : Issued => ∃ x, l = { k with failed := x }) ⟨k.failed, rfl⟩ ?_
  rintro _ ⟨x, rfl⟩ p -
  split
  · obtain ⟨y, hy⟩ := fail_eq { k with failed := x } _ (k.pos + p.2)
    exact ⟨y, hy⟩
  · exact ⟨x, rfl⟩

/-- A group formed changes the unit's draws, formed positions, row sums and the failure kept. -/
theorem formGroup_spec (s : State) (b : Nat) {k : Issued} (hk : Converter k) (houts : OutsOk k k.outs) :
    WorkedOn b k s (formGroup s b k).1 ∧ ∃ x, Forms { k with failed := x } (formGroup s b k).2 := by
  unfold formGroup
  simp only
  split
  · refine ⟨?_, k.failed, forms_formGood s b _ 0 hk houts⟩
    split
    · refine .trans (workedOn_onUnit (.inl rfl) ?_) (workedOn_draw _)
      exact fun _ => rfl
    · exact workedOn_draw _
  · obtain ⟨x, hx⟩ := failGroup_eq (s.unit b) k
    have hjob : k.SameJob { k with failed := x } := ⟨rfl, rfl, rfl, rfl, rfl⟩
    refine ⟨.refl b k s, x, ?_⟩
    rw [hx]
    exact forms_formBad _ 0 (hk.ofJob hjob) (houts.ofJob hjob.symm)

/-! ### Progress -/

/-- The instruction k has come further than i: in positions, in positions read of its group, or to a stop that owes blocks. -/
def Issued.Ahead (i k : Issued) : Prop :=
  i.pos < k.pos ∨ k.pos = i.pos ∧
    (k.stopAs = none ∧ i.reads.length < k.reads.length ∨ k.stopAs.isSome = true ∧ k.outs ≠ [])

theorem Issued.Ahead.trans {i k l : Issued} (h : i.Ahead k) (hk : k.stopAs = none) (h' : k.Ahead l) : i.Ahead l := by
  unfold Issued.Ahead at *
  rcases h with h | ⟨hpos, ⟨-, hreads⟩ | ⟨hstop, -⟩⟩
  · rcases h' with h' | ⟨hpos', -⟩ <;> exact .inl (by omega)
  · rcases h' with h' | ⟨hpos', ⟨hstop, hreads'⟩ | hstopped⟩
    · exact .inl (by omega)
    · exact .inr ⟨by omega, .inl ⟨hstop, by omega⟩⟩
    · exact .inr ⟨by omega, .inr hstopped⟩
  · rw [hk] at hstop
    exact absurd hstop (by simp)

theorem Issued.Ahead.flush {i k k' : Issued} (h : i.Ahead k) (hf : Flushed k k') : i.Ahead k' := by
  have hle := hf.pos
  rcases h with h | ⟨hpos, h⟩
  · exact .inl (by omega)
  · by_cases hsame : k'.pos = k.pos
    · obtain ⟨hreads, houts⟩ := hf.owed hsame
      refine .inr ⟨hsame.trans hpos, ?_⟩
      rw [hf.stopAs, hreads]
      exact h.imp id (And.imp_right houts)
    · exact .inl (by omega)

/-- A stop brings an instruction further, or leaves it as far as it was. -/
theorem Issued.Ahead.stop {i k k' : Issued} {b : Nat} {s t : State} (h : i.Ahead k) (hk : k.stopAs.isSome = true)
    (hs : BlocksStopped b s k t k') : i.Ahead k' := by
  have hle := hs.pos
  rcases h with h | ⟨hpos, ⟨hnone, -⟩ | ⟨-, houts⟩⟩
  · exact .inl (by omega)
  · rw [hnone] at hk
    exact absurd hk (by simp)
  · by_cases hsame : k'.pos = k.pos
    · exact .inr ⟨hsame.trans hpos, .inr ⟨hs.stopAs, hs.owed hsame (.inl houts)⟩⟩
    · exact .inl (by omega)

/-- A stop begun with positions left brings the instruction further. -/
theorem BlocksStopped.ahead {k k' : Issued} {b : Nat} {s t : State} (hs : BlocksStopped b s k t k') (h : k.pos < k.total) :
    k.Ahead k' := by
  have hle := hs.pos
  by_cases hsame : k'.pos = k.pos
  · exact .inr ⟨hsame, .inr ⟨hs.stopAs, hs.owed hsame (.inr h)⟩⟩
  · exact .inl (by omega)

/-- Work on an instruction i that has brought it to k. -/
structure Underway (b : Nat) (s : State) (i : Issued) (t : State) (k : Issued) : Prop where
  work : WorkedOn b i s t
  job : i.SameJob k
  outs : OutsOk i k.outs
  ahead : i.Ahead k
  ended : k.finished = none ∨ i.total ≤ k.pos

theorem Underway.trans {b : Nat} {s t v : State} {i k l : Issued} (h : Underway b s i t k) (hk : k.stopAs = none)
    (h' : Underway b t k v l) : Underway b s i v l :=
  ⟨h.work.trans (h'.work.ofJob h.job), h.job.trans h'.job, h'.outs.ofJob h.job, h.ahead.trans hk h'.ahead, h.job.total ▸ h'.ended⟩

/-- A stop begun in the work on an instruction with positions left. -/
theorem BlocksStopped.underway {b : Nat} {s t : State} {k k' : Issued} (h : BlocksStopped b s k t k') (hleft : k.pos < k.total)
    (hfin : k.finished = none) : Underway b s k t k' :=
  ⟨h.work, h.job, h.outs, h.ahead hleft, h.ended hfin⟩

/-- An instruction that reads on: it does not stop, has positions left, and formed positions that fit. -/
structure Reading (k : Issued) : Prop where
  fields : Converter k
  outs : OutsOk k k.outs
  going : k.stopAs = none
  left : k.pos < k.total
  unfinished : k.finished = none

/-- What an instruction keeps of a position that it reads: the reading grows, nothing else of its progress. -/
structure ReadOn (k k' : Issued) : Prop where
  job : k.SameJob k'
  pos : k'.pos = k.pos
  outs : k'.outs = k.outs
  stopAs : k'.stopAs = k.stopAs
  finished : k'.finished = k.finished
  reads : k.reads.length ≤ k'.reads.length

theorem ReadOn.reading {k k' : Issued} (h : ReadOn k k') (hk : Reading k) : Reading k' :=
  ⟨hk.fields.ofJob h.job, by rw [h.outs]; exact hk.outs.ofJob h.job.symm, h.stopAs.trans hk.going,
    by rw [h.pos, h.job.total]; exact hk.left, h.finished.trans hk.unfinished⟩

/-- What is ahead of the instruction after a reading is ahead of it before. -/
theorem ReadOn.underway {b : Nat} {s t v : State} {k k' l : Issued} (h : ReadOn k k') (hwork : WorkedOn b k s t)
    (hl : Underway b t k' v l) : Underway b s k v l := by
  refine ⟨hwork.trans (hl.work.ofJob h.job), h.job.trans hl.job, hl.outs.ofJob h.job, ?_, h.job.total ▸ hl.ended⟩
  have hreads := h.reads
  have hpos := h.pos
  rcases hl.ahead with ha | ⟨hp, ⟨hs, hr⟩ | hs⟩
  · exact .inl (by omega)
  · exact .inr ⟨hp.trans hpos, .inl ⟨hs, by omega⟩⟩
  · exact .inr ⟨hp.trans hpos, .inr hs⟩

/-- An instruction with one more position read, and with the failure kept. -/
def Issued.took (k : Issued) (x : (Nat × Nat) × PosRead) (f : Option (Status × Nat)) : Issued :=
  { k with reads := k.reads ++ [x], failed := f }

theorem readOn_took (k : Issued) (x : (Nat × Nat) × PosRead) (f : Option (Status × Nat)) : ReadOn k (k.took x f) :=
  ⟨⟨rfl, rfl, rfl, rfl, rfl⟩, rfl, rfl, rfl, rfl, by simp [Issued.took]⟩

/-- A position taken, its group formed or not: the instruction is further and reads on. -/
theorem underway_forms {b : Nat} {s t : State} {k l : Issued} (hk : Reading k) (hwork : WorkedOn b k s t)
    {x : (Nat × Nat) × PosRead} {f : Option (Status × Nat)} (hl : Forms (k.took x f) l) :
    Underway b s k t l ∧ (l.stopAs = none → Reading l) := by
  have hjob : k.SameJob l := (readOn_took k x f).job.trans hl.outs.1
  have houts := hl.outs.2
  obtain ⟨o, r, bad, rfl, -⟩ := hl
  exact ⟨⟨hwork, hjob, houts.ofJob hjob, .inr ⟨rfl, .inl ⟨hk.going, by simp [Issued.formed, Issued.took]⟩⟩, .inl hk.unfinished⟩,
    fun _ => ⟨hk.fields.ofJob hjob, houts, hk.going, hk.left, hk.unfinished⟩⟩

/-- A source position that stops the instruction for SKEW (R98). -/
theorem underway_skew {b : Nat} {s t : State} {k : Issued} (hk : Reading k) (hwork : WorkedOn b k s t) (st : Status) :
    Underway b s k (stopOn convPoison t k st).1 (stopOn convPoison t k st).2 ∧
      ((stopOn convPoison t k st).2.stopAs = none → Reading (stopOn convPoison t k st).2) := by
  have hstop := blocksStopped_stopOn b hk.fields hk.outs t st
  have hunder := hstop.underway hk.left hk.unfinished
  refine ⟨⟨hwork.trans hunder.work, hunder.job, hunder.outs, hunder.ahead, hunder.ended⟩, fun hnone => ?_⟩
  have hsome := hstop.stopAs
  rw [hnone] at hsome
  exact absurd hsome Bool.false_ne_true

/-- One source position read (R97, R98): the instruction is further, and where it does not stop, it reads on from there. -/
theorem underway_readNext (s : State) (b : Nat) {k : Issued} (hk : Reading k) (arrived : List Byte) :
    Underway b s k (readNext s b k arrived).1 (readNext s b k arrived).2 ∧
      ((readNext s b k arrived).2.stopAs = none → Reading (readNext s b k arrived).2) := by
  unfold readNext
  simp only
  generalize readPosition s k 1 arrived = p
  have hwork : WorkedOn b k s (advanceRead (positionEvents s b k 1 p (k.pos + k.reads.length)) k 1) :=
    (workedOn_positionEvents s b k 1 p _).trans (workedOn_advanceRead hk.fields.conv (.inl rfl) hk.fields.source _)
  generalize advanceRead _ k 1 = s1 at *
  generalize hx : ((1, k.pos + k.reads.length), takePosition (s.unit b) k (k.pos + k.reads.length) p) = x
  have htook := (readOn_took k x k.failed).reading hk
  split
  · obtain ⟨f, hf⟩ := failGroup_eq (s.unit b) (k.took x k.failed)
    have hread : ReadOn k (k.took x f) := readOn_took k x f
    have hhalt := workedOn_haltField (b := b) hk.fields.conv (.inl rfl) hk.fields.source s1 .skew
    obtain ⟨hunder, hgoing⟩ := underway_skew (hread.reading hk) (.refl b _ (haltField s1 k 1 .skew)) (k.took x f).endStatus
    rw [show failGroup (s.unit b) { k with reads := k.reads ++ [x] } = k.took x f from hf]
    exact ⟨hread.underway (hwork.trans hhalt) hunder, hgoing⟩
  · split
    · exact underway_forms hk hwork (x := x) (f := k.failed) ⟨k.outs, k.rows, k.rowsBad, rfl, htook.outs⟩
    · obtain ⟨hform, f, hforms⟩ := formGroup_spec s1 b htook.fields htook.outs
      exact underway_forms hk (hwork.trans (hform.ofJob (readOn_took k x k.failed).job)) (x := x) (f := f) hforms

theorem underway_readStep (s : State) (b : Nat) {k : Issued} (hk : Reading k) (arrived : List (List Byte)) :
    Underway b s k (readStep s b k arrived).1 (readStep s b k arrived).2 ∧
      ((readStep s b k arrived).2.stopAs = none → Reading (readStep s b k arrived).2) := by
  obtain ⟨hfirst, hgoing⟩ := underway_readNext s b hk (arrived.headD [])
  unfold readStep
  simp only
  split
  · next hpair =>
    simp only [Bool.and_eq_true, Option.isNone_iff_eq_none] at hpair
    obtain ⟨hsecond, hgoing'⟩ := underway_readNext (readNext s b k (arrived.headD [])).1 b (hgoing hpair.2) (arrived.tail.headD [])
    exact ⟨hfirst.trans hpair.2 hsecond, hgoing'⟩
  · exact ⟨hfirst, hgoing⟩

/-- The row-sum tile of a RESCALE read (R127). -/
theorem readOn_takeRowSums (s : State) (b : Nat) {k : Issued} (hk : Reading k) :
    WorkedOn b k s (takeRowSums s b k).1 ∧ ReadOn k (takeRowSums s b k).2.1 := by
  unfold takeRowSums
  split
  · next htakes =>
    simp only [takesRowSums, Bool.and_eq_true, beq_iff_eq] at htakes
    obtain ⟨⟨⟨hop, hens⟩, -⟩, -⟩ := htakes
    have hstream := hk.fields.taken hop hens
    simp only
    generalize readPosition s k 3 [] = p
    have hwork : WorkedOn b k s (advanceRead (positionEvents s b k 3 p k.pos) k 3) :=
      (workedOn_positionEvents s b k 3 p _).trans (workedOn_advanceRead hk.fields.conv (.inr (.inr rfl)) hstream _)
    split
    · exact ⟨hwork, ⟨rfl, rfl, rfl, rfl, rfl⟩, rfl, rfl, rfl, rfl, le_rfl⟩
    · next x _ =>
      refine ⟨?_, ?_⟩
      · simp only
        split
        · exact hwork.trans (workedOn_haltField hk.fields.conv (.inr (.inr rfl)) hstream _ _)
        · exact hwork
      · obtain ⟨f, hf⟩ := fail_eq k x k.pos
        rw [hf]
        exact ⟨⟨rfl, rfl, rfl, rfl, rfl⟩, rfl, rfl, rfl, rfl, le_rfl⟩
  · exact ⟨.refl b k s, .refl k, rfl, rfl, rfl, rfl, le_rfl⟩

/-- Formed positions of an instruction under way written while there is room. -/
theorem Underway.drain {b : Nat} {s t : State} {i k : Issued} (h : Underway b s i t k) (hi : Converter i) (hfin : k.finished = none) :
    Underway b s i (drainOuts t k).1 (drainOuts t k).2 := by
  obtain ⟨hwork, houts, hflush⟩ := flushOuts_spec (more := fun _ => []) b (k.outs.length + 1) (hi.ofJob h.job)
    (h.outs.ofJob h.job.symm) (fun _ _ => .nil k) t
  exact ⟨h.work.trans (hwork.ofJob h.job), h.job.trans hflush.job, houts.ofJob h.job, h.ahead.flush hflush,
    .inl (hflush.finished.trans hfin)⟩

/-- One step that reads (R97). -/
theorem underway_reading (s : State) (b : Nat) {k : Issued} (hk : Reading k) (houts : k.outs = []) (arrived : List (List Byte)) :
    Underway b s k (convUnit s b k arrived).1 (convUnit s b k arrived).2 := by
  obtain ⟨hwork, hread⟩ := readOn_takeRowSums s b hk
  have hk' := hread.reading hk
  unfold convUnit
  simp only [hk.going, houts, Option.isSome_none, Bool.false_eq_true, if_false, ne_eq, not_true_eq_false]
  split
  · exact hread.underway hwork ((blocksStopped_stopOn b hk'.fields hk'.outs _ _).underway hk'.left hk'.unfinished)
  · obtain ⟨hstep, hgoing⟩ := underway_readStep (takeRowSums s b k).1 b hk' arrived
    refine hread.underway hwork ?_
    split
    · exact hstep
    · next hnone =>
      exact hstep.drain hk'.fields (hgoing (by simpa using hnone)).unfinished

/-! ### Steps -/

section
variable {b : Nat} {s t : State} {i k : Issued}

/-- An instruction under way is not as it was before its first position. -/
theorem Issued.Ahead.not_fresh (h : i.Ahead k) : k.fresh = false := by
  by_contra hfresh
  simp only [Bool.not_eq_false, Issued.fresh, Bool.and_eq_true, decide_eq_true_eq, List.isEmpty_iff,
    Option.isNone_iff_eq_none] at hfresh
  obtain ⟨⟨hpos, hreads⟩, hstop⟩ := hfresh
  rcases h with h | ⟨-, ⟨-, h⟩ | ⟨h, -⟩⟩
  · omega
  · rw [hreads] at h
    exact Nat.not_lt_zero _ h
  · rw [hstop] at h
    exact absurd h Bool.false_ne_true

theorem Issued.Ahead.ne (h : i.Ahead k) (hi : i.stopAs = none) : k ≠ i := by
  rintro rfl
  rcases h with h | ⟨-, ⟨-, h⟩ | ⟨h, -⟩⟩
  · exact lt_irrefl _ h
  · exact lt_irrefl _ h
  · rw [hi] at h
    exact absurd h Bool.false_ne_true

/-- One step more: poisoned blocks of a stop, formed tiles that waited, or positions read. -/
theorem Underway.convUnit (h : Underway b s i t k) (hi : Converter i) (hfin : k.finished = none) (hleft : k.convDone = false)
    (arrived : List (List Byte)) : Underway b s i (convUnit t b k arrived).1 (convUnit t b k arrived).2 := by
  have hk := hi.ofJob h.job
  have houts := h.outs.ofJob h.job.symm
  by_cases hstop : k.stopAs.isSome = true
  · have hs := blocksStopped_stopOn b hk houts t .ok
    rw [Machine.convUnit, if_pos hstop]
    exact ⟨h.work.trans (hs.work.ofJob h.job), h.job.trans hs.job, hs.outs.ofJob h.job, h.ahead.stop hstop hs,
      h.job.total ▸ hs.ended hfin⟩
  · have hgoing : k.stopAs = none := by simpa using hstop
    by_cases hnil : k.outs = []
    · have hpos : k.pos < k.total := by
        simp only [Issued.convDone, hnil, List.isEmpty_nil, Bool.true_and, decide_eq_false_iff_not] at hleft
        omega
      exact h.trans hgoing (underway_reading t b ⟨hk, houts, hgoing, hpos, hfin⟩ hnil arrived)
    · rw [Machine.convUnit, if_neg hstop, if_pos hnil]
      exact h.drain hi hfin

/-- An instruction that ends with its work done. -/
theorem Underway.finish (h : Underway b s i t k) (hdone : k.convDone = true) (st : Option Status) :
    Underway b s i t { k with finished := st } := by
  simp only [Issued.convDone, Bool.and_eq_true, decide_eq_true_eq] at hdone
  exact ⟨h.work, h.job.trans ⟨rfl, rfl, rfl, rfl, rfl⟩, h.outs, h.ahead, .inr (h.job.total ▸ hdone.2)⟩

theorem Underway.convRun (h : Underway b s i t k) (hi : Converter i) (hfin : k.finished = none) (n : Nat)
    (arrived : List (List Byte)) : Underway b s i (convRun b n t k arrived).1 (convRun b n t k arrived).2 := by
  induction n generalizing t k arrived with
  | zero => exact h
  | succ n ih =>
    rw [Machine.convRun]
    cases hdone : k.convDone
    · simp only [h.ahead.not_fresh, Bool.false_eq_true, if_false, Bool.false_and]
      split
      · exact h
      · have hstep := h.convUnit hi hfin hdone arrived
        split
        · exact hstep
        · next hunfin =>
          split
          · next hdone' => exact hstep.finish hdone' _
          · exact ih hstep (by simpa using hunfin) _
    · exact h.finish hdone _

/-- A run from an instruction that reads and does not wait. -/
theorem underway_convRun {n : Nat} (hn : 0 < n) (hk : Reading k) (houts : k.outs = []) {arrived : List (List Byte)}
    (hwaits : convWaits s k arrived = false)
    (hregion : ¬ (k.fresh = true ∧ bRgv k.body = true ∧ (s.lastUse (bRegion k.body)).tied = true ∧
      (s.lastUse (bRegion k.body)).st = 2)) :
    Underway b s k (convRun b n s k arrived).1 (convRun b n s k arrived).2 := by
  obtain ⟨n, rfl⟩ := Nat.exists_eq_succ_of_ne_zero hn.ne'
  have hdone : k.convDone = false := by
    have := hk.left
    simp [Issued.convDone]
    omega
  have hreg : (k.fresh && bRgv k.body && (s.lastUse (bRegion k.body)).tied
      && decide ((s.lastUse (bRegion k.body)).st = 2)) = false := by
    by_contra h
    simp only [Bool.not_eq_false, Bool.and_eq_true, decide_eq_true_eq] at h
    obtain ⟨⟨⟨hfresh, hrgv⟩, htied⟩, hst⟩ := h
    exact hregion ⟨hfresh, hrgv, htied, hst⟩
  have hstep := underway_reading s b hk houts arrived
  rw [Machine.convRun]
  simp only [hdone, hreg, hwaits, Bool.false_eq_true, if_false]
  split
  · exact hstep
  · next hunfin =>
    split
    · next hdone' => exact hstep.finish hdone' _
    · exact hstep.convRun hk.fields (by simpa using hunfin) n _

end

/-! ### The commands -/

/-- The command of a CONVERT or ROTATE. -/
def convertCommand (b : Bib) (q : BitVec 14) (steps : Nat) (arrived : List (List Byte)) : Op → Option Instr
  | .convPlain => some (.convertPlain b q steps arrived) | .convRescale => some (.convertRescale b q steps arrived)
  | .convTranspose => some (.convertTranspose b q steps arrived) | .convReepoch => some (.convertReepoch b q steps arrived)
  | .rotate => some (.rotate b q steps arrived) | _ => none

theorem exec_convertCommand {s : State} (hs : s.mg.fatal = false) {b : Bib} {q : BitVec 14} {steps : Nat}
    {arrived : List (List Byte)} {o : Op} {c : Instr} (hc : convertCommand b q steps arrived o = some c) : o.isConv = true ∧
      exec c s = .next (workOn s b.toNat q.toNat o (fun t k => convRun b.toNat steps t k arrived)) := by
  unfold convertCommand at hc
  split at hc <;> cases hc <;> exact ⟨rfl, live_of_running _ hs⟩

/-- BLOCK_POSITION is one step of the command (R97). -/
theorem exec_blockPosition_of_converter {s : State} {b : Bib} {q : BitVec 14} {i : Issued} (h : Works s b q i) (hi : Converter i)
    (arrived : List (List Byte)) :
    exec (.blockPosition b q arrived) s = .next (workOn s b.toNat q.toNat i.op (fun t k => convRun b.toNat 1 t k arrived)) := by
  have hreader : (streamFields i.slots).any (fun n => !isDest i.op n) = true :=
    List.any_eq_true.2 ⟨1, mem_streamFields hi.conv (.inl rfl) hi.source, by simp [isDest, hi.conv]⟩
  have hstep : readerStep s b.toNat i arrived = convRun b.toNat 1 s i arrived := by simp [readerStep, hi.conv]
  refine (live_of_running _ h.running).trans (congrArg _ ?_)
  simp [workOn, h.held, h.awake, h.first, hreader, hstep]

theorem workFrame_setIssued {s t : State} {b : Bib} {i : Issued} (hf : WorkFrame s t b i) (j : Issued) : WorkFrame s (setIssued t b.toNat j) b i := by
  obtain ⟨hothers, hunnamed, htrackers, hqueues, hlinks, hrest⟩ := hf
  exact ⟨fun n hn hs => (unit_setIssued_ne t j hn).trans (hothers n hn hs), hunnamed, htrackers, hqueues, hlinks, hrest⟩

/-- The instruction, put back after its work, stands where it stood. -/
theorem Underway.placed_setIssued {s t : State} {b : Bib} {q : BitVec 14} {i k : Issued} (hk : Underway b.toNat s i t k)
    (h : Works s b q i) : placed (setIssued t b.toNat k) b i = some k := by
  refine Sys2Proof.placed_setIssued hk.job.queue hk.job.slot ?_
  have hs := placed_of_works h
  unfold placed at hs ⊢
  rwa [hk.work.issued]

/-- Settles O32, by an invariant of the run: the instruction is further than it was, and owes only blocks that fit. -/
theorem convertersMakeProgress : Obligations.ConvertersMakeProgress := by
  intro s b q steps arrived i h hsteps hlayout hsums hleft houts hgoing hwaits hregion c hc
  obtain ⟨hconv, hexec⟩ := exec_convertCommand h.running (b := b) (q := q) (o := i.op) (c := c) (arrived := arrived) (steps := steps)
    (by cases hop : i.op <;> rw [hop] at hc <;> exact hc)
  have hi := converter_of_layoutOk hlayout hconv hsums
  have hrun : Underway b.toNat s i (convRun b.toNat steps s i arrived).1 (convRun b.toNat steps s i arrived).2 :=
    underway_convRun hsteps ⟨hi, by rw [houts]; exact .nil i, hgoing, hleft, unfinished_of_works h⟩ houts hwaits hregion
  refine ⟨?_, ?_⟩
  · have hchanged : (convRun b.toNat steps s i arrived).2 ≠ i := hrun.ahead.ne hgoing
    have hput := hexec.trans (congrArg _ (workOn_of_works h rfl (fun t k => convRun b.toNat steps t k arrived) hchanged))
    generalize convRun b.toNat steps s i arrived = r at *
    obtain ⟨hframe, htables⟩ := hrun.work.workFrame
    refine ⟨_, r.2, hput, hrun.placed_setIssued h, ?_, hrun.ended, workFrame_setIssued hframe _, htables, hrun.work.mem⟩
    rcases hrun.ahead with hp | ⟨-, ⟨-, hr⟩ | ⟨-, ho⟩⟩
    · exact .inl hp
    · exact .inr (.inl hr)
    · exact .inr (.inr ho)
  · rintro rfl
    rw [exec_blockPosition_of_converter h hi arrived, hexec]

end Sys2Proof.Machine
end

section
/-!
PROOFS. One position of a CONVERT PLAIN gives one destination block (R63, R82, R98, R101).
-/

namespace Sys2Proof.Machine

/-! ### A source position read from memory -/

/-- An entry past one block that was read (R93). -/
def Stream.pastRead (e : Stream) : Stream :=
  { e with rtag := e.rtag + 1, wtag := if e.pspace = 0 && !e.rest then e.rtag + 1 else e.wtag }

/-- Outside a slice no block of a position crosses a link. -/
theorem advanceRead_of_spad {i : Issued} (h : i.space = 0) (s : State) (n : Nat) :
    advanceRead s i n = s.each (entriesOf (i.field n) (i.desc n)) (fun t p => t.onStream p.1 Stream.pastRead) := by
  have hcross : ∀ e kind, crosses i e kind = false := fun e kind => by simp [crosses, h]
  simp only [advanceRead, hcross]
  rfl

/-- Entries changed one by one, none of them twice. -/
theorem stream_each_onStream (g : Stream → Stream) (j : Nat) {l : List (Nat × Nat)} (h : (l.map Prod.fst).Nodup) (s : State) :
    (s.each l (fun t p => t.onStream p.1 g)).stream j = if j ∈ l.map Prod.fst then g (s.stream j) else s.stream j := by
  unfold State.each
  induction l generalizing s with
  | nil => simp
  | cons p l ih =>
    rw [List.map_cons, List.nodup_cons] at h
    obtain ⟨hp, hl⟩ := h
    rw [List.foldl_cons, ih hl]
    by_cases hj : j = p.1
    · subst hj
      simp [hp]
    · have hmem : j ∈ (p :: l).map Prod.fst ↔ j ∈ l.map Prod.fst := by
        rw [List.map_cons, List.mem_cons]
        exact or_iff_right hj
      rw [s.stream_onStream_ne g hj]
      exact (if_congr hmem rfl rfl).symm

theorem onlyStreams_each_onStream (g : Stream → Stream) (l : List (Nat × Nat)) (s : State) :
    OnlyStreams s (s.each l (fun t p => t.onStream p.1 g)) :=
  List.foldlRecOn l _ (motive := OnlyStreams s) ⟨s.trackers.streams, rfl⟩ (fun _ ht _ _ => ht.trans ⟨_, rfl⟩)

/-- A failed position posts an event on its unit, and no more (R98). -/
theorem positionEvents_frame (s : State) (b : Nat) (i : Issued) (n : Nat) (p : PosRead) (pos : Nat) :
    ∃ u, positionEvents s b i n p pos = { s with units := u } := by
  unfold positionEvents
  simp only
  split
  · exact post_frame ..
  · exact post_frame ..
  · exact ⟨s.units, rfl⟩

theorem positionEvents_of_good (s : State) (b : Nat) (i : Issued) (n : Nat) {p : PosRead} (pos : Nat) (h : p.status = none) :
    positionEvents s b i n p pos = s := by
  unfold positionEvents
  rw [h]

/-! ### A destination block in memory -/

/-- Destination field F2 takes one block, at byte `key` of memory, for its next tag: no feed, no scales, no side tile (R89). -/
structure PlacedDest (s : State) (i : Issued) (key : Nat) : Prop where
  unfed : bDfeed i.body = 0
  spad : i.space = 0
  unscaled : dSfmt (i.desc 2) = 0
  flat : dOcap (i.desc 2) = 0
  key : blockKey (s.stream (fStream (i.field 2))) (i.desc 2) 0 (s.stream (fStream (i.field 2))).wtag = some key

/-- The state with a block written at `key` and the tag of F2's entry taken. -/
def blockWritten (s : State) (i : Issued) (key : Nat) (bs : List Byte) : State :=
  { s with mem := writeBytes s.mem key bs }.setStream (fStream (i.field 2))
    { s.stream (fStream (i.field 2)) with wtag := (s.stream (fStream (i.field 2))).wtag + 1 }

/-- A formed position's body: zeros where it is poisoned (R101). -/
def OutPos.body (i : Issued) (o : OutPos) : List Byte :=
  o.good.elim (List.replicate (bodyBytes (i.desc 2) 0) 0) OutTile.body

/-- A formed position's overflow flag. -/
def OutPos.ovf (o : OutPos) : Bool := o.good.elim false OutTile.ovf

section
variable {s : State} {i : Issued} {key : Nat} (h : PlacedDest s i key)
include h

theorem PlacedDest.entries : entriesOf (i.field 2) (i.desc 2) = [(fStream (i.field 2), 0)] := by
  simp [entriesOf, h.unscaled, h.flat]

theorem PlacedDest.nextTag (num : Nat) : nextTag s i num = (s.stream num).wtag := by
  simp [Machine.nextTag, crossing, h.spad]

theorem writeBlock_of_placed (count : Nat) (poison ovf : Bool) (body : List Byte) :
    writeBlock s i 2 0 count poison ovf body = blockWritten s i key (blockBytes (fTensor (i.field 2)) (i.fdis.getD 1 0) poison
      ovf (s.stream (fStream (i.field 2))).wtag i.epoch (wordOf 10 i.ctx) 0 count body) := by
  have hfeed : onFeed i 2 = false := by simp [onFeed, h.unfed]
  have hcross : crosses i (s.stream (fStream (i.field 2))) 0 = false := by simp [crosses]
  unfold writeBlock
  simp only [if_true, hcross, hfeed, h.nextTag, h.key, Bool.false_eq_true, if_false]
  rfl

/-- A formed position written: good, or poisoned where the block is not left in place (R89, R101, R102). -/
theorem writeOut_of_placed {o : OutPos} (hfield : o.field = 2) (hsrc : o.src = none)
    (hin : inPlace s i 2 (fStream (i.field 2)) 0 i.pos = false) : (writeOut s i o).1 =
      blockWritten s i key (blockBytes (fTensor (i.field 2)) (i.fdis.getD 1 0) o.good.isNone o.ovf
        (s.stream (fStream (i.field 2))).wtag i.epoch (wordOf 10 i.ctx) 0 o.count (o.body i)) := by
  have hout : outsideStack s i 2 (fStream (i.field 2)) 0 = false := by simp [outsideStack, h.spad]
  unfold writeOut
  simp only [hfield, hsrc]
  unfold OutPos.ovf OutPos.body
  cases o.good with
  | none =>
    simp only [writePoison, writePoisonBut, h.entries, State.each, List.foldl_cons, List.foldl_nil, hin, hout, Bool.or_self,
      Bool.false_eq_true, if_false]
    exact writeBlock_of_placed h _ _ _ _
  | some g =>
    simp only [writeGood, h.unscaled, h.flat, if_true]
    exact writeBlock_of_placed h _ _ _ _

end

/-- The only formed position written where there is room. -/
theorem drainOuts_singleton {s : State} {k : Issued} {o : OutPos} (hk : k.outs = [o]) (hroom : fieldFull s k o.field = false) :
    drainOuts s k = writeOut s { k with outs := [] } o := by
  have houts : (writeOut s { k with outs := [] } o).2.outs = [] := by
    obtain ⟨c, n, a, m, w, f, u, hout⟩ := writeOut_snd s { k with outs := [] } o
    rw [hout]
  unfold drainOuts
  rw [hk, List.length_singleton, flushOuts, hk]
  simp only [hroom, Bool.false_eq_true, if_false]
  rw [flushOuts, houts]

theorem any_congr_mem {α : Type} {l : List α} {p q : α → Bool} (h : ∀ x ∈ l, p x = q x) : l.any p = l.any q := by
  rw [Bool.eq_iff_iff, List.any_eq_true, List.any_eq_true]
  exact exists_congr (fun x => and_congr_right (fun hx => by rw [h x hx]))

/-- What is in place before a position is read is in place after: the tags of the sources were fixed at issue (R102). -/
theorem inPlace_of_read {s t : State} {i k : Issued} (hjob : i.SameJob k) (hrtags : k.rtags = i.rtags)
    (hconv : i.op.isConv = true) (hspace : i.space = 0) {num : Nat} (hnum : t.stream num = s.stream num)
    (hplace : ∀ n, (s.stream n).SamePlace (t.stream n))
    (hfixed : ∀ p ∈ entriesOf (i.field 1) (i.desc 1), (i.rtags.find? (fun x => decide (x.1 = p.1))).isSome = true)
    (n kind p : Nat) : inPlace t k n num kind p = inPlace s i n num kind p := by
  have htag : ∀ x ∈ entriesOf (i.field 1) (i.desc 1), k.sourceTag t x.1 p = i.sourceTag s x.1 p := by
    intro x hx
    obtain ⟨y, hy⟩ := Option.isSome_iff_exists.1 (hfixed x hx)
    unfold Issued.sourceTag
    rw [hrtags, hy]
  have hnext : nextTag t k num = nextTag s i num := by
    simp [nextTag, crossing, hjob.space, hspace, hnum]
  have hfeed : onFeed k n = onFeed i n := by simp only [onFeed, hjob.op, hjob.body]
  unfold inPlace
  simp only [hfeed, hnext, hnum, hjob.slots, hjob.op, hjob.field, hjob.desc, (hplace _).blockKey]
  congr 1
  refine List.any_congr rfl (fun m => ?_)
  by_cases hm : m = 1
  · subst hm
    congr 1
    exact any_congr_mem (fun x hx => by rw [htag x hx])
  · simp [hconv, hm]

/-! ### One position of a CONVERT PLAIN -/

/-- A CONVERT PLAIN of single positions without row sums, about to read its next one. -/
structure PlainPosition (i : Issued) : Prop where
  op : i.op = .convPlain
  sums : bRsum i.body = false
  single : i.groupSize = 1
  reads : i.reads = []
  outs : i.outs = []
  going : i.stopAs = none

/-- The instruction with a position read, the failure kept, and destination positions formed of it. -/
def Issued.owing (i : Issued) (x : (Nat × Nat) × PosRead) (f : Option (Status × Nat)) (l : List OutPos) : Issued :=
  (i.took x f).formed l i.rows i.rowsBad

theorem sameJob_owing (i : Issued) (x : (Nat × Nat) × PosRead) (f : Option (Status × Nat)) (l : List OutPos) :
    i.SameJob (i.owing x f l) := ⟨rfl, rfl, rfl, rfl, rfl⟩

section
variable {i : Issued} (hi : PlainPosition i)
include hi

theorem PlainPosition.hasRowSums : i.hasRowSums = false := by simp [Issued.hasRowSums, hi.sums]

/-- A position of an instruction without row sums is written alone. -/
theorem PlainPosition.withRowSums {k : Issued} (hk : i.SameJob k) (p : Nat) (o : OutPos) : withRowSums k p o = [o] := by
  unfold Machine.withRowSums closesRowSums
  rw [hk.hasRowSums, hi.hasRowSums]
  rfl

theorem PlainPosition.groupReads (u : UnitSt) (x : (Nat × Nat) × PosRead) (f : Option (Status × Nat)) :
    groupReads u (i.took x f) = [(x.2, i.place i.pos, if x.2.status.isNone && destInvalid u i (i.place i.pos).1 (i.place i.pos).2
      then some .checksum else x.2.status)] := by
  unfold Machine.groupReads Issued.took
  rw [hi.reads]
  rfl

/-- A position whose checks fail leaves a poisoned block to write, and its failure (R98, R99). -/
theorem PlainPosition.formGroup_failed (s : State) (b : Nat) {x : (Nat × Nat) × PosRead} {a : Status} (hx : x.2.status = some a) :
    formGroup s b (i.took x i.failed) = (s, i.owing x (i.fail a i.pos).failed
      [{ field := 2, count := i.destCount i.pos }]) := by
  have hreads := fun u => hi.groupReads u x i.failed
  have hfail : failGroup (s.unit b) (i.took x i.failed) = i.took x (i.fail a i.pos).failed := by
    unfold failGroup
    rw [hreads]
    have hlen : (i.took x i.failed).reads.length = 1 := by simp [Issued.took, hi.reads]
    rw [hlen]
    simp only [hx, Option.isNone_some, Bool.false_and, Bool.false_eq_true, if_false]
    change (i.took x i.failed).fail a i.pos = _
    unfold Issued.fail Issued.took
    split <;> rfl
  unfold formGroup
  simp only [hreads, hfail]
  rw [if_neg (by simp [hx]), show (i.took x i.failed).groupSize = 1 from hi.single, formBad, formBad]
  have hsums : (i.took x (i.fail a i.pos).failed).hasRowSums = false := hi.hasRowSums
  have hnone : (i.took x (i.fail a i.pos).failed).outs = [] := hi.outs
  simp only [hsums, Bool.false_eq_true, if_false, hi.withRowSums (readOn_took i x _).job, hnone, List.length_singleton, if_true,
    decide_true, Bool.and_true, List.nil_append]
  rfl

/-- The values that a good position gives its destination tile: decoded, and rotated where the formats ask it (R63, R129). -/
def Issued.plainValues (i : Issued) (p : PosRead) : List Decoded :=
  (chunksOf 128 32 p.vals).flatMap (rotateStep i (128 * (i.place i.pos).2))

theorem PlainPosition.groupValues (u : UnitSt) (x : (Nat × Nat) × PosRead) (f : Option (Status × Nat)) (st : Option Status) :
    groupValues u (i.took x f) [(x.2, i.place i.pos, st)] = [(i.plainValues x.2, i.place i.pos)] := by
  have hop : (i.took x f).op = .convPlain := hi.op
  unfold Machine.groupValues
  simp only [hop]
  rfl

/-- A position whose checks pass leaves its formed tile to write. -/
theorem PlainPosition.formGroup_good (s : State) (b : Nat) {x : (Nat × Nat) × PosRead} (hx : x.2.status = none)
    (hdest : destInvalid (s.unit b) i (i.place i.pos).1 (i.place i.pos).2 = false) :
    ∃ u n, formGroup s b (i.took x i.failed) = ({ s with units := u, freeCtr := n }, i.owing x i.failed
      [(formConverted s b i i.pos 0 (i.place i.pos).1 (i.place i.pos).2 (i.plainValues x.2)).1]) := by
  have hop : (i.took x i.failed).op = .convPlain := hi.op
  have hsums : (i.took x i.failed).hasRowSums = false := hi.hasRowSums
  have hnone : (i.took x i.failed).outs = [] := hi.outs
  have hplain : (Op.convPlain == Op.convRescale) = false := rfl
  unfold formGroup
  simp only [hi.groupReads, hx, hdest, Option.isNone_none, Bool.and_false, Bool.false_eq_true, if_false, hi.groupValues,
    List.all_cons, List.all_nil, hop, hplain, Bool.and_self, Bool.false_and, Bool.not_false, if_true]
  rw [formGood, formGood]
  simp only [hsums, Bool.false_eq_true, if_false, hi.withRowSums (readOn_took i x _).job, hnone, List.length_singleton, if_true,
    decide_true, Bool.and_true, List.nil_append]
  split
  · exact ⟨_, _, rfl⟩
  · exact ⟨_, _, rfl⟩

end

/-- A position that passes the converter's checks passes those of R97, and takes no entry that a scrub made invalid (R122). -/
theorem of_convStatus_eq_none {u : UnitSt} {i : Issued} {rb t : Nat} {p : PosRead} (h : convStatus u i rb t p = none) :
    p.status = none ∧ destInvalid u i rb t = false := by
  unfold convStatus at h
  split at h
  · exact absurd h (by simp)
  · next hst =>
    split at h
    · exact absurd h (by simp)
    · next hvalid =>
      refine ⟨hst, ?_⟩
      simp only [readsInvalid, Bool.or_eq_true, not_or, Bool.not_eq_true] at hvalid
      obtain ⟨⟨-, hdest⟩, -⟩ := hvalid
      exact hdest

theorem formConverted_congr {s t : State} {b : Nat} (hunit : t.unit b = s.unit b) (hfree : t.freeCtr = s.freeCtr) (i : Issued)
    (p j rb k : Nat) (xs : List Decoded) : formConverted t b i p j rb k xs = formConverted s b i p j rb k xs := by
  unfold formConverted
  rw [hunit, hfree]

/-- The state after a source position was read: its events posted, the tags of its entries advanced. -/
def afterRead (s : State) (b : Nat) (i : Issued) (p : PosRead) : State := advanceRead (positionEvents s b i 1 p i.pos) i 1

section
variable {s : State} {b : Nat} {i : Issued} (p : PosRead) (hspace : i.space = 0)
include hspace

theorem afterRead_frame : (afterRead s b i p).mem = s.mem ∧ (afterRead s b i p).freeCtr = s.freeCtr ∧
    (p.status = none → ∀ n, (afterRead s b i p).unit n = s.unit n) := by
  unfold afterRead
  rw [advanceRead_of_spad hspace]
  obtain ⟨u, hu⟩ := positionEvents_frame s b i 1 p i.pos
  obtain ⟨x, hx⟩ := onlyStreams_each_onStream Stream.pastRead (entriesOf (i.field 1) (i.desc 1)) (positionEvents s b i 1 p i.pos)
  rw [hx]
  refine ⟨by rw [hu], by rw [hu], fun h n => ?_⟩
  rw [positionEvents_of_good s b i 1 i.pos h]
  rfl

theorem stream_afterRead (hnodup : ((entriesOf (i.field 1) (i.desc 1)).map Prod.fst).Nodup) (n : Nat) :
    (afterRead s b i p).stream n =
      if n ∈ (entriesOf (i.field 1) (i.desc 1)).map Prod.fst then (s.stream n).pastRead else s.stream n := by
  obtain ⟨u, hu⟩ := positionEvents_frame s b i 1 p i.pos
  have hstream : (positionEvents s b i 1 p i.pos).stream n = s.stream n := by rw [hu]; rfl
  unfold afterRead
  rw [advanceRead_of_spad hspace, stream_each_onStream _ n hnodup, hstream]

end

/-- One step of a run that does not wait: its unit of work, and the end where all is written. -/
theorem convRun_one {s : State} {b : Nat} {i : Issued} {arrived : List (List Byte)} (hdone : i.convDone = false)
    (hregion : bRgv i.body = false) (hwaits : convWaits s i arrived = false) :
    ∃ f, convRun b 1 s i arrived = ((convUnit s b i arrived).1, { (convUnit s b i arrived).2 with finished := f }) := by
  rw [convRun]
  simp only [hdone, hregion, hwaits, Bool.and_false, Bool.false_and, Bool.false_eq_true, if_false]
  split
  · exact ⟨_, rfl⟩
  · split
    · exact ⟨_, rfl⟩
    · exact ⟨_, rfl⟩

/-- The position at hand as an instruction keeps it. -/
def Issued.taking (i : Issued) (u : UnitSt) (p : PosRead) : (Nat × Nat) × PosRead := ((1, i.pos), takePosition u i i.pos p)

section
variable {s : State} {b : Nat} {i : Issued} (hi : PlainPosition i)
include hi

/-- The step reads the position, forms it and writes it. -/
theorem PlainPosition.convUnit {t : State} {k : Issued} (hskew : (readPosition s i 1 []).status ≠ some .skew)
    (hform : formGroup (afterRead s b i (readPosition s i 1 [])) b
      (i.took (i.taking (s.unit b) (readPosition s i 1 [])) i.failed) = (t, k)) (hk : k.stopAs = none) :
    convUnit s b i [] = drainOuts t k := by
  have htakes : takeRowSums s b i = (s, i, false) := by simp [takeRowSums, takesRowSums, hi.op]
  have hnext : readNext s b i [] = (t, k) := by
    unfold readNext
    rw [hi.reads]
    have hsingle : ∀ x, ¬ (([] : List ((Nat × Nat) × PosRead)) ++ [x]).length < i.groupSize := fun x => by
      rw [hi.single]
      exact lt_irrefl 1
    simp only [hskew, if_false]
    rw [if_neg (hsingle _), ← hform]
    unfold afterRead Issued.took Issued.taking
    rw [hi.reads]
    rfl
  have hstep : readStep s b i [] = (t, k) := by
    unfold readStep
    simp only [hi.single, List.headD_nil, hnext]
    rfl
  unfold Machine.convUnit
  simp only [hi.going, hi.outs, Option.isSome_none, Bool.false_eq_true, if_false, ne_eq, not_true_eq_false, htakes, hstep, hk]

end

/-! ### The block of a position -/

/-- Status of the source position at hand with the converter's checks (R97, R98). -/
def Issued.statusAt (i : Issued) (u : UnitSt) (p : PosRead) : Option Status :=
  convStatus u i (i.place i.pos).1 (i.place i.pos).2 p

/-- The destination position that a CONVERT PLAIN forms of the source position p, and the failure it keeps. -/
structure PositionFormed (s : State) (b : Nat) (i : Issued) (p : PosRead) (o : OutPos) (f : Option (Status × Nat)) : Prop where
  field : o.field = 2
  src : o.src = none
  last : o.last = true
  count : o.count = i.destCount i.pos
  failed : ∀ a, i.statusAt (s.unit b) p = some a → o.good = none ∧ f = (i.fail a i.pos).failed
  passed : i.statusAt (s.unit b) p = none → f = i.failed ∧ o.good = (formConverted s b i i.pos 0 (i.place i.pos).1
    (i.place i.pos).2 ((chunksOf 128 32 (decodeSource (s.unit b) i (i.place i.pos).1 p)).flatMap
      (rotateStep i (128 * (i.place i.pos).2)))).1.good

/-- A formed tile is good, and counts as one position done. -/
theorem good_formConverted (s : State) (b : Nat) (i : Issued) (p j rb t : Nat) (xs : List Decoded) :
    ∃ g v, (formConverted s b i p j rb t xs).1.good = some g ∧ g.sum = some v := ⟨_, _, rfl, rfl⟩

theorem PositionFormed.isNone_good {s : State} {b : Nat} {i : Issued} {p : PosRead} {o : OutPos} {f : Option (Status × Nat)}
    (h : PositionFormed s b i p o f) : o.good.isNone = (i.statusAt (s.unit b) p).isSome := by
  cases hst : i.statusAt (s.unit b) p with
  | some a => rw [(h.failed a hst).1]; rfl
  | none =>
    obtain ⟨g, v, hg, -⟩ := good_formConverted s b i i.pos 0 (i.place i.pos).1 (i.place i.pos).2 _
    rw [(h.passed hst).2, hg]
    rfl

section
variable {s : State} {b : Nat} {i : Issued} (hi : PlainPosition i) (hspace : i.space = 0)
include hi hspace

theorem PlainPosition.formGroup (p : PosRead) : ∃ u n o f, PositionFormed s b i p o f ∧
    formGroup (afterRead s b i p) b (i.took (i.taking (s.unit b) p) i.failed) =
      ({ afterRead s b i p with units := u, freeCtr := n }, i.owing (i.taking (s.unit b) p) f [o]) := by
  have hstatus : (i.taking (s.unit b) p).2.status = i.statusAt (s.unit b) p := rfl
  cases hst : i.statusAt (s.unit b) p with
  | some a =>
    exact ⟨_, _, _, _, ⟨rfl, rfl, rfl, rfl, fun a' ha' => ⟨rfl, by rw [← Option.some.inj (hst.symm.trans ha')]⟩,
      fun hnone => absurd (hst.symm.trans hnone) (by simp)⟩, hi.formGroup_failed _ b (hstatus.trans hst)⟩
  | none =>
    obtain ⟨hp, hdest⟩ := of_convStatus_eq_none hst
    obtain ⟨-, hfree, hunit⟩ := afterRead_frame (s := s) (b := b) p hspace
    have hunit := hunit hp b
    obtain ⟨u, n, hform⟩ := hi.formGroup_good (afterRead s b i p) b (hstatus.trans hst) (by rw [hunit]; exact hdest)
    have hvals : (i.taking (s.unit b) p).2.vals = decodeSource (s.unit b) i (i.place i.pos).1 p := by
      change (if (i.statusAt (s.unit b) p).isNone then _ else _) = _
      rw [hst]
      rfl
    refine ⟨u, n, _, i.failed, ⟨rfl, rfl, rfl, rfl, fun a ha => absurd (hst.symm.trans ha) (by simp), fun _ => ⟨rfl, ?_⟩⟩, hform⟩
    rw [formConverted_congr hunit hfree, Issued.plainValues, hvals]

end

/-- A position of F2 has room where one more block of its entry has. -/
theorem fieldFull_eq_fieldCrowded_one (s : State) (i : Issued) (n : Nat) : fieldFull s i n = fieldCrowded s i n 1 := by
  have hone : ∀ e : Stream, e.crowded 1 = e.writerWaits := fun e => by
    have hzero : e.wtag + wordOf 16 0 = e.wtag := by simp [wordOf]
    simp [Stream.crowded, hzero]
  simp only [fieldFull, fieldCrowded, hone]

/-- A position of an instruction that does not wait has room for its block (R94). -/
theorem PlainPosition.fieldFull {s : State} {i : Issued} (hi : PlainPosition i) {arrived : List (List Byte)}
    (h : convWaits s i arrived = false) : fieldFull s i 2 = false := by
  have hstride : i.stride = 1 := by simp [Issued.stride, hi.single]
  unfold convWaits at h
  rw [hi.outs, hi.single, hstride] at h
  rw [fieldFull_eq_fieldCrowded_one]
  simp only [Bool.or_eq_false_iff, Bool.and_eq_false_iff, decide_eq_false_iff_not] at h
  obtain ⟨-, h | ⟨hroom, -⟩⟩ := h
  · exact absurd (by decide) h
  · exact hroom

theorem done_writeOut {k : Issued} {o : OutPos} {g : OutTile} {v : TileSum} (hg : o.good = some g) (hv : g.sum = some v) (s : State) :
    (writeOut s k o).2.done = k.done + 1 := by
  unfold writeOut
  rw [hg]
  simp only [hv]
  rfl

theorem PlacedDest.fieldFull {s : State} {i : Issued} {key : Nat} (h : PlacedDest s i key) :
    Machine.fieldFull s i 2 = (s.stream (fStream (i.field 2))).writerWaits := by
  simp [Machine.fieldFull, h.entries, h.nextTag]

/-- The formed position of a PLAIN written to its place: the block with its header, and the instruction one position on (R82,
R89). -/
theorem PositionFormed.drained {s t : State} {b key : Nat} {i : Issued} {p : PosRead} {o : OutPos} {f : Option (Status × Nat)}
    (ho : PositionFormed s b i p o f) (hdest : PlacedDest s i key) (hconv : i.op.isConv = true)
    (hroom : Machine.fieldFull s i 2 = false) (hin : inPlace s i 2 (fStream (i.field 2)) 0 i.pos = false)
    (hfixed : ∀ x ∈ entriesOf (i.field 1) (i.desc 1), (i.rtags.find? (fun y => decide (y.1 = x.1))).isSome = true)
    (hstream : t.stream (fStream (i.field 2)) = s.stream (fStream (i.field 2)))
    (hplace : ∀ n, (s.stream n).SamePlace (t.stream n)) (x : (Nat × Nat) × PosRead) :
    (drainOuts t (i.owing x f [o])).1 = blockWritten t i key (blockBytes (fTensor (i.field 2))
      (i.fdis.getD 1 0) (i.statusAt (s.unit b) p).isSome o.ovf (s.stream (fStream (i.field 2))).wtag i.epoch (wordOf 10 i.ctx) 0
      (i.destCount i.pos) (o.body i)) ∧
    (drainOuts t (i.owing x f [o])).2.pos = i.pos + 1 ∧
    (drainOuts t (i.owing x f [o])).2.failed = f ∧
    (i.statusAt (s.unit b) p = none → (drainOuts t (i.owing x f [o])).2.done = i.done + 1) := by
  have hplaced : ∀ {k : Issued}, i.SameJob k → PlacedDest t k key := fun hk =>
    ⟨by rw [hk.body]; exact hdest.unfed, hk.space.trans hdest.spad, by rw [hk.desc]; exact hdest.unscaled, by rw [hk.desc]; exact hdest.flat,
      by rw [hk.field, hk.desc, hstream]; exact hdest.key⟩
  have hfull : Machine.fieldFull t (i.owing x f [o]) o.field = false := by
    rw [ho.field, (hplaced (sameJob_owing ..)).fieldFull, (sameJob_owing ..).field, hstream, ← hdest.fieldFull]
    exact hroom
  have hdrain : drainOuts t (i.owing x f [o]) = writeOut t (i.owing x f []) o := drainOuts_singleton rfl hfull
  have hl := sameJob_owing i x f []
  obtain ⟨c, n, a, m, w, y, u, hout⟩ := writeOut_snd t (i.owing x f []) o
  rw [hdrain]
  refine ⟨?_, ?_, ?_, fun hst => ?_⟩
  · have hin' := inPlace_of_read hl rfl hconv hdest.spad hstream hplace hfixed 2 0 i.pos
    rw [writeOut_of_placed (hplaced hl) ho.field ho.src (by rw [hl.field]; exact hin'.trans hin), ho.isNone_good, ho.count, hl.field,
      hstream]
    rfl
  · rw [hout]
    simp only [ho.last, if_true]
    rfl
  · rw [hout]
    rfl
  · obtain ⟨g, v, hg, hv⟩ := good_formConverted s b i i.pos 0 (i.place i.pos).1 (i.place i.pos).2 _
    exact done_writeOut ((ho.passed hst).2.trans hg) hv t

theorem stream_blockWritten_self (s : State) (i : Issued) (key : Nat) (bs : List Byte) :
    (blockWritten s i key bs).stream (fStream (i.field 2)) =
      { s.stream (fStream (i.field 2)) with wtag := (s.stream (fStream (i.field 2))).wtag + 1 } := by
  unfold blockWritten
  exact State.stream_setStream_self ..

theorem stream_blockWritten_ne (s : State) {i : Issued} {n : Nat} (h : n ≠ fStream (i.field 2)) (key : Nat) (bs : List Byte) :
    (blockWritten s i key bs).stream n = s.stream n := by
  unfold blockWritten
  exact State.stream_setStream_ne _ _ h

/-- Settles O33: the position's entries advance, its tile is formed, and one block is written where its tag places it. -/
theorem convertWritesItsDestinationBlock : Obligations.ConvertWritesItsDestinationBlock := by
  intro s b q i key h hop hlayout hsums hregion hfeed hsingle hleft houts hreads hgoing hspace hwaits hscale hside hne hin _
    hsources hnodup e hkey pl p st hskew
  have hconv : i.op.isConv = true := by rw [hop]; rfl
  have hi : PlainPosition i := ⟨hop, hsums, hsingle, hreads, houts, hgoing⟩
  have hdest : PlacedDest s i key := ⟨hfeed, hspace, hscale, hside, hkey⟩
  -- the position is read
  have hstream : (afterRead s b.toNat i p).stream (fStream (i.field 2)) = s.stream (fStream (i.field 2)) := by
    rw [stream_afterRead p hspace hnodup, if_neg]
    rintro hmem
    obtain ⟨x, hx, heq⟩ := List.mem_map.1 hmem
    exact (hsources x hx).1 heq
  have hsource : (afterRead s b.toNat i p).stream (fStream (i.field 1)) = (s.stream (fStream (i.field 1))).pastRead := by
    have hfirst : fStream (i.field 1) ∈ (entriesOf (i.field 1) (i.desc 1)).map Prod.fst := List.mem_cons_self
    rw [stream_afterRead p hspace hnodup, if_pos hfirst]
  have hplace : ∀ n, (s.stream n).SamePlace ((afterRead s b.toNat i p).stream n) := fun n => by
    rw [stream_afterRead p hspace hnodup]
    split <;> exact ⟨rfl, rfl, rfl, rfl⟩
  have hchecks : p.status ≠ some .skew := fun hp => hskew (by
    change convStatus _ _ _ _ _ = _
    unfold convStatus
    rw [hp])
  -- its tile is formed and written
  obtain ⟨u, n, o, f, hformed, hform⟩ := hi.formGroup (b := b.toNat) hspace p
  obtain ⟨hstate, hpos, hfailed, hdone⟩ := hformed.drained (t := { afterRead s b.toNat i p with units := u, freeCtr := n }) hdest hconv
    (hi.fieldFull hwaits) hin (fun x hx => (hsources x hx).2) hstream hplace (i.taking (s.unit b.toNat) p)
  have hunit := hi.convUnit hchecks hform hgoing
  have hundone : i.convDone = false := by
    simp [Issued.convDone]
    omega
  obtain ⟨fin, hrun⟩ := convRun_one hundone hregion hwaits (b := b.toNat)
  rw [hunit] at hrun
  have hunder : Underway b.toNat s i (convRun b.toNat 1 s i []).1 (convRun b.toNat 1 s i []).2 :=
    underway_convRun one_pos ⟨converter_of_layoutOk hlayout hconv (fun hsum => absurd (hi.hasRowSums.symm.trans hsum) (by decide)),
      by rw [houts]; exact .nil i, hgoing, hleft, unfinished_of_works h⟩ houts hwaits
      (fun hlast => absurd (hregion.symm.trans hlast.2.1) (by decide))
  obtain ⟨-, hexec⟩ := exec_convertCommand h.running (c := .convertPlain b q 1 []) (steps := 1) (arrived := []) (o := i.op) (by rw [hop]; rfl)
  rw [workOn_of_works h rfl _ (hunder.ahead.ne hgoing)] at hexec
  have hplaced := hunder.placed_setIssued h
  rw [hrun] at hexec hplaced
  generalize drainOuts _ _ = r at *
  have hr1 : ∀ n, (setIssued r.1 b.toNat { r.2 with finished := fin }).stream n = r.1.stream n := fun _ => rfl
  refine ⟨_, _, o.ovf, o.body i, hexec, hplaced, hpos, ?_, fun a ha => ?_, fun hst => ?_, ?_, ?_⟩
  · have hcount : i.destCount i.pos = 128 * rowsIn i.height pl.1 := by simp [Issued.destCount, hop, pl]
    obtain ⟨hmem, -, -⟩ := afterRead_frame (s := s) (b := b.toNat) p hspace
    rw [← hcount]
    exact (congrArg State.mem hstate).trans (congrArg (fun m => writeBytes m key _) hmem)
  · obtain ⟨hgood, hf⟩ := hformed.failed a ha
    refine ⟨by rw [OutPos.body, hgood]; rfl, by rw [OutPos.ovf, hgood]; rfl, fun hfirst => ?_⟩
    change r.2.failed = _
    rw [hfailed, hf]
    simp [Issued.fail, hfirst]
  · obtain ⟨hf, hgood⟩ := hformed.passed hst
    obtain ⟨g, v, hg, -⟩ := good_formConverted s b.toNat i i.pos 0 pl.1 pl.2
      ((chunksOf 128 32 (decodeSource (s.unit b.toNat) i pl.1 p)).flatMap (rotateStep i (128 * pl.2)))
    have ho := hgood.trans hg
    exact ⟨hfailed.trans hf, hdone hst, g, hg, by rw [OutPos.body, ho]; rfl, by rw [OutPos.ovf, ho]; rfl⟩
  · rw [hr1, hstate, stream_blockWritten_self]
    exact congrArg (fun e => e.wtag + 1) hstream
  · rw [hr1, hstate, stream_blockWritten_ne _ hne]
    exact congrArg Stream.rtag hsource

end Sys2Proof.Machine
end

section
/-!
PROOFS. The FIT rule: the scale of a group is the least valid one that is at least A / Q, clamped at both ends (R49, R113).
-/

namespace Sys2Proof.Machine

/-! ### The greatest magnitude of a group (R111) -/

theorem foldl_mag_le_iff (l : List ℚ) (m B : ℚ) :
    l.foldl (fun m q => if m < |q| then |q| else m) m ≤ B ↔ m ≤ B ∧ ∀ u ∈ l, |u| ≤ B := by
  induction l generalizing m with
  | nil => simp
  | cons u l ih => rw [List.foldl_cons, ih, ← max_def_lt, max_le_iff, List.forall_mem_cons, and_assoc]

theorem maxMag_le_iff {l : List ℚ} {B : ℚ} : maxMag l ≤ B ↔ 0 ≤ B ∧ ∀ u ∈ l, |u| ≤ B :=
  foldl_mag_le_iff l 0 B

theorem maxMag_eq {l : List ℚ} {A : ℚ} (hall : ∀ u ∈ l, |u| ≤ A) (hex : ∃ u ∈ l, |u| = A) : maxMag l = A := by
  obtain ⟨u, hu, rfl⟩ := hex
  exact le_antisymm (maxMag_le_iff.2 ⟨abs_nonneg u, hall⟩) ((maxMag_le_iff.1 le_rfl).2 u hu)

/-! ### Smallest power of two that is at least a number -/

/-- Where the number is no power of two, its ceiling exponent lies one above its floor exponent. -/
theorem clog2_eq_clog {r : ℚ} (hr : 0 < r) : clog2 r = Int.clog 2 r := by
  obtain ⟨hlow, hhigh⟩ := ilog2_bounds hr.ne'
  have hfrac := fracAt_eq r (ilog2 r)
  have hden : ((fracAt r (ilog2 r)).2 : ℚ) ≠ 0 := by exact_mod_cast (fracAt_snd_pos r (ilog2 r)).ne'
  rw [abs_of_pos hr] at hlow hhigh hfrac
  have hexact : (fracAt r (ilog2 r)).1 = (fracAt r (ilog2 r)).2 ↔ r = (2 : ℚ) ^ ilog2 r := by
    rw [← Nat.cast_inj (R := ℚ), ← div_eq_one_iff_eq hden, hfrac, div_eq_one_iff_eq (by positivity)]
  have hclog : clog2 r = if (fracAt r (ilog2 r)).1 = (fracAt r (ilog2 r)).2 then ilog2 r else ilog2 r + 1 := rfl
  have hup : Int.clog 2 r ≤ ilog2 r + 1 := (Int.le_zpow_iff_clog_le one_lt_two hr).1 hhigh.le
  rw [hclog]
  split
  · next h =>
    have hpow := Int.clog_zpow (R := ℚ) one_lt_two (ilog2 r)
    rw [Nat.cast_ofNat, ← hexact.1 h] at hpow
    exact hpow.symm
  · next h =>
    have hlt := (Int.zpow_lt_iff_lt_clog one_lt_two hr).1 (lt_of_le_of_ne hlow (fun heq => h (hexact.2 heq.symm)))
    omega

/-! ### The valid scales of a format (R49) -/

/-- A value that some encoding of the scale format has. -/
def ValidScale (sfmt : Nat) (x : ℚ) : Prop := ∃ c, c < 2 ^ (8 * scaleBytes sfmt) ∧ scaleVal sfmt c = some x

/-- Least valid scale encoding. -/
def scaleMin (sfmt : Nat) : Nat := match sfmt with | 1 => 0 | 2 => 0x0080 | _ => 1

/-- Greatest valid scale encoding. -/
def scaleMax (sfmt : Nat) : Nat := match sfmt with | 1 => 0xFE | 2 => 0x7F7F | _ => 0x7E

/-- Value of a valid scale encoding; it rises with the code. -/
def scaleMag (sfmt c : Nat) : ℚ :=
  match sfmt with | 1 => (2 : ℚ) ^ ((c : Int) - 127) | 2 => bf16.magnitude c | _ => e4m3.magnitude c

theorem scaleMag_strictMono {sfmt : Nat} (h : sfmt = 1 ∨ sfmt = 2 ∨ sfmt = 3) : StrictMono (scaleMag sfmt) := by
  rcases h with rfl | rfl | rfl
  · intro a b hab
    exact zpow_lt_zpow_right₀ one_lt_two (by omega)
  · exact bf16.magnitude_strictMono
  · exact e4m3.magnitude_strictMono

theorem FloatFmt.magnitude_pos (f : FloatFmt) {c : Nat} (hc : 0 < c) : 0 < f.magnitude c := by
  rw [← f.magnitude_zero]
  exact f.magnitude_strictMono hc

/-- Every valid scale is positive: the code 0 is valid in E8M0 alone, as a power of two. -/
theorem scaleMag_pos {sfmt : Nat} (h : sfmt = 1 ∨ sfmt = 2 ∨ sfmt = 3) {c : Nat} (hc : scaleMin sfmt ≤ c) :
    0 < scaleMag sfmt c := by
  rcases h with rfl | rfl | rfl
  · exact zpow_pos two_pos _
  · exact bf16.magnitude_pos (Nat.lt_of_lt_of_le (by decide) hc)
  · exact e4m3.magnitude_pos hc

/-- The encodings with a value are those from the least to the greatest valid one. -/
theorem scaleVal_eq {sfmt : Nat} (h : sfmt = 1 ∨ sfmt = 2 ∨ sfmt = 3) {c : Nat} (hc : c < 2 ^ (8 * scaleBytes sfmt)) :
    scaleVal sfmt c = if scaleMin sfmt ≤ c ∧ c ≤ scaleMax sfmt then some (scaleMag sfmt c) else none := by
  rcases h with rfl | rfl | rfl
  · have hcode : c < 256 := hc
    have hvalid : (0 ≤ c ∧ c ≤ 0xFE) ↔ ¬ c = 0xFF := by omega
    simp only [scaleVal, scaleMin, scaleMax, scaleMag, pow2_eq_zpow, hvalid, ite_not]
  · rfl
  · rfl

theorem scaleMax_lt {sfmt : Nat} (h : sfmt = 1 ∨ sfmt = 2 ∨ sfmt = 3) : scaleMax sfmt < 2 ^ (8 * scaleBytes sfmt) := by
  rcases h with rfl | rfl | rfl <;> decide

theorem scaleVal_eq_some_iff {sfmt : Nat} (h : sfmt = 1 ∨ sfmt = 2 ∨ sfmt = 3) {c : Nat} {x : ℚ} :
    (c < 2 ^ (8 * scaleBytes sfmt) ∧ scaleVal sfmt c = some x) ↔
      (scaleMin sfmt ≤ c ∧ c ≤ scaleMax sfmt) ∧ scaleMag sfmt c = x := by
  constructor
  · rintro ⟨hc, hval⟩
    rwa [scaleVal_eq h hc, Option.ite_none_right_eq_some, Option.some.injEq] at hval
  · rintro ⟨hrange, rfl⟩
    have hc := hrange.2.trans_lt (scaleMax_lt h)
    exact ⟨hc, by rw [scaleVal_eq h hc, if_pos hrange]⟩

theorem validScale_iff {sfmt : Nat} (h : sfmt = 1 ∨ sfmt = 2 ∨ sfmt = 3) {x : ℚ} :
    ValidScale sfmt x ↔ ∃ c, (scaleMin sfmt ≤ c ∧ c ≤ scaleMax sfmt) ∧ scaleMag sfmt c = x :=
  exists_congr (fun _ => scaleVal_eq_some_iff h)

/-! ### The least code of a range whose scale is large enough (R113) -/

/-- Code c is the least from lo to hi whose scale is at least r, or hi where there is none. -/
structure LeastFit (g : Nat → ℚ) (lo hi : Nat) (r : ℚ) (c : Nat) : Prop where
  range : lo ≤ c ∧ c ≤ hi
  reaches : c = hi ∨ r ≤ g c
  least : ∀ n, lo ≤ n → n < c → g n < r

section
variable {g : Nat → ℚ} {lo hi c : Nat} {r : ℚ}

/-- Where a code of the range is large enough, so is the code chosen, and it is not above that one. -/
theorem LeastFit.le_of_reached (h : LeastFit g lo hi r c) (hg : StrictMono g) {n : Nat} (hn : lo ≤ n ∧ n ≤ hi)
    (hr : r ≤ g n) : r ≤ g c ∧ g c ≤ g n := by
  have hle : c ≤ n := not_lt.1 (fun hlt => (h.least n hn.1 hlt).not_ge hr)
  refine ⟨?_, hg.monotone hle⟩
  rcases h.reaches with rfl | hreach
  · exact hr.trans (hg.monotone hn.2)
  · exact hreach

/-- Where every code of the range is too small, the greatest is chosen. -/
theorem LeastFit.eq_hi (h : LeastFit g lo hi r c) (hall : ∀ n, lo ≤ n ∧ n ≤ hi → g n < r) : c = hi :=
  h.reaches.resolve_right (hall c h.range).not_ge

end

/-- RTZ takes the code below r, and the next one is above it. -/
theorem leastFit_scaleUp (f : FloatFmt) {lo hi : Nat} (hle : lo ≤ hi) {r : ℚ} (hr : 0 < r) :
    LeastFit f.magnitude lo hi r (scaleUp f lo hi r) := by
  obtain ⟨hbelow, habove⟩ := f.roundCode_rtz_bracket hr.ne'
  rw [abs_of_pos hr] at hbelow habove
  have hmono := f.magnitude_strictMono
  unfold scaleUp
  generalize f.roundCode .rtz r = a at *
  dsimp only
  split
  · next hhi => exact ⟨⟨hle, le_rfl⟩, .inl rfl, fun n _ hn => (hmono (hn.trans_le hhi)).trans_le hbelow⟩
  next hhi =>
  split
  · next hlt =>
    exact ⟨by omega, .inr (habove.le.trans (hmono.monotone (le_max_right _ _))),
      fun n hn hnc => (hmono.monotone (by omega)).trans_lt hlt⟩
  · next hge =>
    exact ⟨by omega, .inr ((not_lt.1 hge).trans (hmono.monotone (le_max_right _ _))),
      fun n hn hnc => (hmono (by omega)).trans_le hbelow⟩

/-- The E8M0 code is the exponent, clamped, above the bias. -/
theorem scaleFit_e8m0 {r : ℚ} (hr : 0 < r) : ((scaleFit 1 r : Nat) : Int) - 127 = max (-127) (min 127 (Int.clog 2 r)) := by
  have hcode : scaleFit 1 r = (min 127 (max (-127) (clog2 r)) + 127).toNat := rfl
  rw [hcode, clog2_eq_clog hr]
  omega

theorem leastFit_scaleFit {sfmt : Nat} (h : sfmt = 1 ∨ sfmt = 2 ∨ sfmt = 3) {r : ℚ} (hr : 0 < r) :
    LeastFit (scaleMag sfmt) (scaleMin sfmt) (scaleMax sfmt) r (scaleFit sfmt r) := by
  rcases h with rfl | rfl | rfl
  · have hcode := scaleFit_e8m0 hr
    have hreach := fun x : Int => Int.le_zpow_iff_clog_le (b := 2) one_lt_two (x := x) hr
    have hshort := fun x : Int => Int.zpow_lt_iff_lt_clog (b := 2) one_lt_two (x := x) hr
    simp only [Nat.cast_ofNat] at hreach hshort
    refine ⟨?_, ?_, fun n _ hn => (hshort _).2 (by omega)⟩
    · simp only [scaleMin, scaleMax]; omega
    · simp only [scaleMax, scaleMag, hreach]; omega
  · exact leastFit_scaleUp bf16 (by decide) hr
  · exact leastFit_scaleUp e4m3 (by decide) hr

/-! ### The scale of a group -/

/-- FIT places A / Q onto the scale format. -/
theorem chooseScale_fit {d : Desc} (zc : Nat) {book : List Nat} {us : List ℚ} (huint : dIsUint d = false) (hA : maxMag us ≠ 0)
    (hQ : targetMag d book ≠ 0) :
    (chooseScale d false zc book us).1 = scaleFit (dSfmt d) (maxMag us / targetMag d book) := by
  simp [chooseScale, huint, hA, hQ]

/-- A scale of at least A / Q brings every number of magnitude up to A within Q. -/
theorem abs_div_le_of_fit {A Q S u : ℚ} (hQ : 0 < Q) (hS : 0 < S) (hfit : A / Q ≤ S) (hu : |u| ≤ A) : |u / S| ≤ Q := by
  rw [abs_div, abs_of_pos hS, div_le_iff₀ hS]
  calc |u| ≤ A := hu
    _ ≤ S * Q := (div_le_iff₀ hQ).1 hfit
    _ = Q * S := mul_comm S Q

/-- The ends of the bfloat16 scales. -/
theorem scaleMag_bf16_ends : scaleMag 2 (scaleMin 2) = (2 : ℚ) ^ (-126 : Int) ∧
    scaleMag 2 (scaleMax 2) = (2 - (2 : ℚ) ^ (-7 : Int)) * 2 ^ 127 := by
  norm_num [scaleMag, scaleMin, scaleMax, FloatFmt.magnitude_eq, bf16]

/-- The ends of the E4M3 scales. -/
theorem scaleMag_e4m3_ends : scaleMag 3 (scaleMin 3) = (2 : ℚ) ^ (-9 : Int) ∧ scaleMag 3 (scaleMax 3) = 448 := by
  norm_num [scaleMag, scaleMin, scaleMax, FloatFmt.magnitude_eq, e4m3]

/-- Settles O58: in each scale format the code chosen is the least of the valid ones, which rise with their codes, whose scale
is at least A / Q, or the greatest. -/
theorem fitScaleIsTheLeastThatHolds : Obligations.FitScaleIsTheLeastThatHolds := by
  unfold Obligations.FitScaleIsTheLeastThatHolds
  intro d zc book us A hsfmt huint hA hall hex Q valid hQ
  have hmax : maxMag us = A := maxMag_eq hall hex
  have hcode := chooseScale_fit zc huint (hmax.trans_ne hA.ne') hQ.ne'
  rw [hmax] at hcode
  rw [hcode]
  have hr : 0 < A / Q := div_pos hA hQ
  have hmono := scaleMag_strictMono hsfmt
  have hfit := leastFit_scaleFit hsfmt hr
  have hvalid : ∀ x, valid x ↔ _ := fun x => validScale_iff hsfmt
  obtain ⟨-, hval⟩ := (scaleVal_eq_some_iff hsfmt).2 ⟨hfit.range, rfl⟩
  have hpos := scaleMag_pos hsfmt hfit.range.1
  have hends := And.intro (hmono.monotone hfit.range.1) (hmono.monotone hfit.range.2)
  refine ⟨_, hval, (hvalid _).2 ⟨_, hfit.range, rfl⟩, ?least, ?clamped, ?e8m0, ?bf16, ?e4m3⟩
  case least =>
    rintro ⟨x, hx, hle⟩
    obtain ⟨n, hn, rfl⟩ := (hvalid x).1 hx
    have hreach := (hfit.le_of_reached hmono hn hle).1
    refine ⟨hreach, fun y hy hle => ?_, fun u hu => abs_div_le_of_fit hQ hpos hreach (hall u hu)⟩
    obtain ⟨m, hm, rfl⟩ := (hvalid y).1 hy
    exact (hfit.le_of_reached hmono hm hle).2
  case clamped =>
    intro hsmall x hx
    obtain ⟨n, hn, rfl⟩ := (hvalid x).1 hx
    rw [hfit.eq_hi (fun n hn => hsmall _ ((hvalid _).2 ⟨n, hn, rfl⟩))]
    exact hmono.monotone hn.2
  case e8m0 =>
    intro h
    rw [h, ← scaleFit_e8m0 hr]
    rfl
  case bf16 =>
    intro h
    obtain ⟨hlow, hhigh⟩ := scaleMag_bf16_ends
    rw [← hlow, ← hhigh, ← h]
    exact hends
  case e4m3 =>
    intro h
    obtain ⟨hlow, hhigh⟩ := scaleMag_e4m3_ends
    rw [← hlow, ← hhigh, ← h]
    exact hends

end Sys2Proof.Machine
end

section
/-!
PROOFS. The beats of a table block: where each entry lies, what the control word holds, and the entries of an absent and of
a NaN activation (R151, R153, R154).
-/

namespace Sys2Proof.Machine

/-! ### Chunks of a list, and lists filled up -/

theorem getElem?_chunksOf {α : Type} (n : Nat) {k m : Nat} (h : m < k) (l : List α) :
    (chunksOf n k l)[m]? = some ((l.drop (n * m)).take n) := by
  induction k generalizing m l with
  | zero => exact absurd h (Nat.not_lt_zero m)
  | succ k ih =>
    cases m with
    | zero => simp [chunksOf]
    | succ m =>
      rw [chunksOf, List.getElem?_cons_succ, ih (Nat.lt_of_succ_lt_succ h), List.drop_drop, Nat.mul_succ, Nat.add_comm n]

section
variable {α : Type} {w : Nat} {l : List (List α)} (h : ∀ x ∈ l, x.length = w)
include h

theorem length_flatten_of_uniform : l.flatten.length = l.length * w := by
  rw [List.length_flatten, List.sum_eq_card_nsmul _ w (by simpa using h), List.length_map, smul_eq_mul]

/-- Item v of list j, among lists of one length put one behind the other. -/
theorem getElem?_flatten_of_uniform (j : Nat) {v : Nat} (hv : v < w) : l.flatten[w * j + v]? = (l.getD j [])[v]? := by
  induction l generalizing j with
  | nil => simp
  | cons x l ih =>
    have hx : x.length = w := h x List.mem_cons_self
    cases j with
    | zero => rw [List.flatten_cons, Nat.mul_zero, Nat.zero_add, List.getElem?_append_left (by omega)]; rfl
    | succ j =>
      have hoff : w * (j + 1) + v - x.length = w * j + v := by rw [hx, Nat.mul_succ]; omega
      rw [List.flatten_cons, List.getElem?_append_right (by rw [hx, Nat.mul_succ]; omega), hoff,
        ih (fun y hy => h y (List.mem_cons_of_mem x hy)), List.getD_cons_succ]

end

section
variable {α : Type} {n : Nat} (d : α) {l : List α} (h : l.length ≤ n)
include h

theorem fitTo_of_short : fitTo n d l = l ++ List.replicate (n - l.length) d := by
  rw [fitTo, List.take_of_length_le h]

theorem length_fitTo_of_short : (fitTo n d l).length = n := by
  rw [fitTo_of_short d h, List.length_append, List.length_replicate]
  omega

theorem getElem?_fitTo_of_lt {j : Nat} (hj : j < l.length) : (fitTo n d l)[j]? = l[j]? := by
  rw [fitTo_of_short d h, List.getElem?_append_left hj]

theorem getElem?_fitTo_of_ge {j : Nat} (hj : l.length ≤ j) (hn : j < n) : (fitTo n d l)[j]? = some d := by
  rw [fitTo_of_short d h, List.getElem?_append_right hj, List.getElem?_replicate, if_pos (by omega)]

end

/-! ### The control word of a beat (R153) -/

theorem controlFields_read (f l p : BitVec 1) (k : BitVec 2) (e : BitVec 4) (c : BitVec 10) (tag : BitVec 16)
    (tensor : BitVec 24) (m : BitVec 96)
    (hm : m = (f.setWidth 96 ||| (l.setWidth 96 <<< 1) ||| (p.setWidth 96 <<< 2) ||| (k.setWidth 96 <<< 3)
      ||| (e.setWidth 96 <<< 8) ||| (c.setWidth 96 <<< 12) ||| (tag.setWidth 96 <<< 32) ||| (tensor.setWidth 96 <<< 64))) :
    (bitsAt m 0 1 = f ∧ bitsAt m 1 1 = l ∧ bitsAt m 2 1 = p ∧ bitsAt m 3 2 = k ∧ bitsAt m 8 4 = e ∧ bitsAt m 12 10 = c ∧
      bitsAt m 32 16 = tag ∧ bitsAt m 64 24 = tensor) ∧
    (bitsAt m 5 3 = 0 ∧ bitsAt m 22 10 = 0 ∧ bitsAt m 48 16 = 0 ∧ bitsAt m 88 8 = 0) := by
  subst hm
  and_intros <;> ext i hi <;> interval_cases i <;> simp

/-- The fields of a control word, and the bits between them (R153). -/
theorem beatControl_fields (first last poison : Bool) {k c : Nat} (hk : k - 1 < 4) (hc : c < 1024) (e : BitVec 4)
    (tag : BitVec 16) (tensor : BitVec 24) :
    let m := beatControl first last poison k e c tag tensor
    (bitAt m 0 = first ∧ bitAt m 1 = last ∧ bitAt m 2 = poison ∧ (bitsAt m 3 2).toNat = k - 1 ∧ bitsAt m 8 4 = e ∧
      (bitsAt m 12 10).toNat = c ∧ bitsAt m 32 16 = tag ∧ bitsAt m 64 24 = tensor) ∧
    (bitsAt m 5 3 = 0 ∧ bitsAt m 22 10 = 0 ∧ bitsAt m 48 16 = 0 ∧ bitsAt m 88 8 = 0) := by
  intro m
  obtain ⟨⟨hf, hl, hp, hw, he, hn, ht, hx⟩, hzero⟩ := controlFields_read (bit first) (bit last) (bit poison) (wordOf 2 (k - 1)) e
    (wordOf 10 c) tag tensor m (by
      rw [← ofNat_eq_setWidth 96 2 (k - 1) hk (by decide), ← ofNat_eq_setWidth 96 10 c hc (by decide)]
      simp only [m, beatControl, Nat.mod_eq_of_lt hc])
  refine ⟨⟨bitAt_of_bits hf, bitAt_of_bits hl, bitAt_of_bits hp, ?_, he, ?_, ht, hx⟩, hzero⟩
  · rw [hw, BitVec.toNat_ofNat]
    exact Nat.mod_eq_of_lt hk
  · rw [hn, BitVec.toNat_ofNat]
    exact Nat.mod_eq_of_lt hc

/-- Whatever the width and context, a poisoned block's control word has POISON set. -/
theorem poison_beatControl (first last : Bool) (k c : Nat) (e : BitVec 4) (tag : BitVec 16) (tensor : BitVec 24) :
    bitAt (beatControl first last true k e c tag tensor) 2 = true := by
  simp [beatControl, bit]

/-! ### The beats of a table block (R154) -/

section
variable {k c : Nat} {e : BitVec 4} {tag : BitVec 16} {tensor : BitVec 24} {es : List (List (BitVec 32))}

@[simp] theorem length_tableBeats : (tableBeats k e c tag tensor es).length = 4096 / perBeat k := by
  simp [tableBeats]

theorem getElem?_tableBeats {j : Nat} (h : j < 4096 / perBeat k) : (tableBeats k e c tag tensor es)[j]? =
    some ⟨beatControl (decide (j = 0)) (decide (j + 1 = 4096 / perBeat k)) false k e c tag tensor,
      fitTo 1024 0 ((es.drop (perBeat k * j)).take (perBeat k)).flatten⟩ := by
  simp [tableBeats, getElem?_chunksOf _ h, List.getElem?_range h, List.zip, List.getElem?_zipWith]

end

/-- Entry v of activation r of beat j is lane 2^k r + v; lanes past the entries are 0. -/
theorem lanes_of_beat {k a j : Nat} {es : List (List (BitVec 32))} (huniform : ∀ x ∈ es, x.length = 2 ^ k)
    (hlen : a * (j + 1) ≤ es.length) (ha : 2 ^ k * a ≤ 1024) :
    let lanes := fitTo 1024 0 ((es.drop (a * j)).take a).flatten
    lanes.length = 1024 ∧
      (∀ r v, r < a → v < 2 ^ k → lanes[2 ^ k * r + v]? = (es.getD (a * j + r) [])[v]?) ∧
      ∀ l, 2 ^ k * a ≤ l → l < 1024 → lanes[l]? = some 0 := by
  have hbeat : ∀ x ∈ (es.drop (a * j)).take a, x.length = 2 ^ k := fun x hx =>
    huniform x (List.mem_of_mem_drop (List.mem_of_mem_take hx))
  have hsize : ((es.drop (a * j)).take a).flatten.length = 2 ^ k * a := by
    rw [Nat.mul_succ] at hlen
    rw [length_flatten_of_uniform hbeat, List.length_take, List.length_drop, Nat.min_eq_left (by omega), Nat.mul_comm]
  have hshort := hsize.trans_le ha
  refine ⟨length_fitTo_of_short 0 hshort, fun r v hr hv => ?_, fun l hlo hhi => getElem?_fitTo_of_ge 0 hshort (hsize.trans_le hlo) hhi⟩
  have hlane : 2 ^ k * r + v < 2 ^ k * a :=
    calc 2 ^ k * r + v < 2 ^ k * (r + 1) := by rw [Nat.mul_succ]; omega
      _ ≤ 2 ^ k * a := Nat.mul_le_mul_left _ hr
  rw [getElem?_fitTo_of_lt 0 hshort (hlane.trans_eq hsize.symm), getElem?_flatten_of_uniform hbeat r hv, List.getD_eq_getElem?_getD,
    List.getElem?_take_of_lt hr, List.getElem?_drop, ← List.getD_eq_getElem?_getD]

/-- Activations per beat, the beats of a block, and the lanes that a beat uses, for each code width. -/
theorem perBeat_of_width {k : Nat} (h : k = 1 ∨ k = 2 ∨ k = 3 ∨ k = 4) :
    perBeat k = (if k = 4 then 64 else if k = 3 then 128 else 256) ∧
    4096 / perBeat k = (if k = 4 then 64 else if k = 3 then 32 else 16) ∧
    0 < perBeat k ∧ perBeat k * (4096 / perBeat k) = 4096 ∧ 2 ^ k * perBeat k ≤ 1024 ∧ k - 1 < 4 := by
  rcases h with rfl | rfl | rfl | rfl <;> decide

/-- A table block's beats: where each entry lies, and what the control word holds (R153, R154). -/
theorem tableBeats_layout {k c : Nat} (e : BitVec 4) (tag : BitVec 16) (tensor : BitVec 24) {es : List (List (BitVec 32))}
    (hk : k = 1 ∨ k = 2 ∨ k = 3 ∨ k = 4) (hlen : es.length = 4096) (huniform : ∀ x ∈ es, x.length = 2 ^ k) (hc : c < 1024)
    {n v : Nat} (hn : n < 4096) (hv : v < 2 ^ k) :
    let beats := tableBeats k e c tag tensor es
    let a := perBeat k
    ∃ x, beats[n / a]? = some x ∧ x.lanes.length = 1024 ∧ x.lanes[2 ^ k * (n % a) + v]? = (es.getD n [])[v]? ∧
      (∀ l, 2 ^ k * a ≤ l → l < 1024 → x.lanes[l]? = some 0) ∧
      bitAt x.control 0 = decide (n / a = 0) ∧ bitAt x.control 1 = decide (n / a + 1 = beats.length) ∧
      bitAt x.control 2 = false ∧ (bitsAt x.control 3 2).toNat = k - 1 ∧ bitsAt x.control 8 4 = e ∧
      (bitsAt x.control 12 10).toNat = c ∧ bitsAt x.control 32 16 = tag ∧ bitsAt x.control 64 24 = tensor ∧
      bitsAt x.control 5 3 = 0 ∧ bitsAt x.control 22 10 = 0 ∧ bitsAt x.control 48 16 = 0 ∧ bitsAt x.control 88 8 = 0 := by
  intro beats a
  obtain ⟨-, -, hpos, hwhole, hlanes, hwidth⟩ := perBeat_of_width hk
  have hj : n / a < 4096 / a := by
    rw [Nat.div_lt_iff_lt_mul hpos, Nat.mul_comm]
    exact hn.trans_eq hwhole.symm
  have hbeat : a * (n / a + 1) ≤ es.length := by
    rw [hlen]
    exact (Nat.mul_le_mul_left a hj).trans_eq hwhole
  obtain ⟨hsize, hentry, hrest⟩ := lanes_of_beat huniform hbeat hlanes
  have hentry := hentry (n % a) v (Nat.mod_lt n hpos) hv
  rw [Nat.div_add_mod] at hentry
  obtain ⟨⟨hf, hl, hp, hw, he, hctx, ht, hx⟩, hzero⟩ := beatControl_fields (decide (n / a = 0)) (decide (n / a + 1 = 4096 / a)) false
    hwidth hc e tag tensor
  exact ⟨_, getElem?_tableBeats hj, hsize, hentry, hrest, hf, by rw [length_tableBeats]; exact hl, hp, hw, he, hctx, ht, hx, hzero⟩

/-! ### Entries of an activation (R151) -/

/-- A NaN activation gives NaN entries alone, whatever the weights. -/
theorem tableEntries_nan (vs : List XVal) {x : XVal} (h : x.isNan = true) :
    tableEntries vs (some x) = (vs.map (fun _ => 0x7FC00000#32), .nan) := by
  cases x with
  | nan s =>
    have hentry : ∀ v, f32.encode .rne true false ((XVal.nan s).mul v) false = (0x7FC00000, .nan) := fun v => by
      cases v <;> rfl
    simp [tableEntries, hentry, h]
  | inf s => exact absurd h Bool.false_ne_true
  | fin q s => exact absurd h Bool.false_ne_true

end Sys2Proof.Machine
end

section
/-!
PROOFS. TABLE BUILD: a position read, its beats on the feed, one position read ahead, and FEED_BEAT (R149, R151, R152, R155,
R199).
-/

namespace Sys2Proof.Machine

/-! ### The source of a build -/

/-- The entries that field F1 of a build names are among its own. -/
theorem mem_allEntries_of_build {i : Issued} (hop : i.op = .tableBuild) (hstream : isStream (i.field 1) = true) {p : Nat × Nat}
    (hp : p ∈ entriesOf (i.field 1) (i.desc 1)) : p.1 ∈ i.allEntries := by
  have hdest : isDest i.op 1 = false := by rw [hop]; rfl
  have hfield : 1 ∈ streamFields i.slots := by
    unfold streamFields
    cases ho : opIn i.slots with
    | none => simp [Issued.op, ho] at hop
    | some o =>
      have hs : isStream (fieldOf i.slots 1) = true := hstream
      simp [hs]
  exact List.mem_append_left _ (List.mem_flatMap.2 ⟨1, hfield, by rw [if_pos hdest]; exact List.mem_map_of_mem hp⟩)

/-- What reading a position may change of a unit: its events, and the blocks that crossed to a slice. -/
def UnitSt.ReadOnly (u v : UnitSt) : Prop :=
  ∃ e l n h c, v = { u with errs := e, events := l, lossNext := n, health := h, slice := c }

theorem UnitSt.ReadOnly.refl (u : UnitSt) : u.ReadOnly u := ⟨_, _, _, _, _, rfl⟩

theorem UnitSt.ReadOnly.trans {u v w : UnitSt} (h : u.ReadOnly v) (h' : v.ReadOnly w) : u.ReadOnly w := by
  obtain ⟨_, _, _, _, _, rfl⟩ := h
  obtain ⟨_, _, _, _, _, rfl⟩ := h'
  exact ⟨_, _, _, _, _, rfl⟩

/-- One entry of a source field past the block that was read (R93). -/
def readEntry (i : Issued) (t : State) (x : Nat × Nat) : State :=
  (if crosses i (t.stream x.1) x.2 then t.onUnit i.slice (fun u => { u with slice := { u.slice with
      scaleIn := u.slice.scaleIn.filter (fun y => decide (y.1 ≠ (wordOf 16 x.1, (t.stream x.1).rtag))) } }) else t).setStream x.1
    (t.stream x.1).pastRead

theorem advanceRead_eq (s : State) (i : Issued) (n : Nat) :
    advanceRead s i n = s.each (entriesOf (i.field n) (i.desc n)) (readEntry i) := rfl

section
variable (i : Issued) (t : State) (x : Nat × Nat)

theorem mem_readEntry : (readEntry i t x).mem = t.mem := by
  unfold readEntry
  split <;> rfl

theorem stream_readEntry_self : (readEntry i t x).stream x.1 = (t.stream x.1).pastRead := by
  unfold readEntry
  exact State.stream_setStream_self ..

theorem stream_readEntry_ne {n : Nat} (h : n ≠ x.1) : (readEntry i t x).stream n = t.stream n := by
  unfold readEntry
  rw [State.stream_setStream_ne _ _ h]
  split <;> rfl

/-- A block that crosses a link leaves the slice's store of such blocks. -/
theorem readOnly_readEntry (b : Nat) : (t.unit b).ReadOnly ((readEntry i t x).unit b) := by
  unfold readEntry
  rw [State.unit_setStream]
  split
  · by_cases hb : b = i.slice
    · rw [hb, State.unit_onUnit_self]
      exact ⟨_, _, _, _, _, rfl⟩
    · rw [State.unit_onUnit_ne _ _ hb]
      exact .refl _
  · exact .refl _

theorem workedOn_readEntry (b : Nat) (hx : x.1 ∈ i.allEntries) : WorkedOn b i t (readEntry i t x) := by
  unfold readEntry
  refine .trans ?_ (workedOn_setStream hx ?_)
  · split
    · next hcross =>
      have hspace : i.space ≠ 0 := by
        intro h0
        simp [crosses, h0] at hcross
      exact workedOn_onUnit (.inr ⟨hspace, rfl⟩) (fun _ => rfl)
    · exact .refl b i t
  · split <;> exact ⟨rfl, rfl, rfl, rfl⟩

end

theorem haltField_onlyStreams (s : State) (i : Issued) (n : Nat) (st : Status) : OnlyStreams s (haltField s i n st) :=
  onlyStreams_each_onStream _ _ _

/-- Halting an entry keeps its read tag. -/
theorem rtag_haltField (s : State) (i : Issued) (n : Nat) (st : Status) (j : Nat) :
    ((haltField s i n st).stream j).rtag = (s.stream j).rtag := by
  refine State.each_field (fun t => (t.stream j).rtag) _ (fun t x => ?_) _ _
  unfold haltEntry
  by_cases hx : j = x.1
  · rw [hx, State.stream_onStream_self]
    split <;> rfl
  · rw [State.stream_onStream_ne _ _ hx]

/-- The state after a build has read the position at hand: its events posted, its source advanced, or halted at a SKEW (R98). -/
def afterBuildRead (s : State) (b : Nat) (i : Issued) (p : PosRead) : State :=
  if p.status = some .skew then haltField (afterRead s b i p) i 1 .skew else afterRead s b i p

section
variable {s : State} {b : Nat} {i : Issued} (p : PosRead)

theorem workedOn_afterBuildRead (hop : i.op = .tableBuild) (hstream : isStream (i.field 1) = true) :
    WorkedOn b i s (afterBuildRead s b i p) := by
  have hentry : ∀ x ∈ entriesOf (i.field 1) (i.desc 1), x.1 ∈ i.allEntries := fun x hx => mem_allEntries_of_build hop hstream hx
  have hread : WorkedOn b i s (afterRead s b i p) :=
    (workedOn_positionEvents s b i 1 p i.pos).trans (WorkedOn.each (fun t x hx => workedOn_readEntry i t x b (hentry x hx)) _)
  unfold afterBuildRead
  split
  · exact hread.trans (WorkedOn.each (fun _ x hx => workedOn_haltEntry (hentry x hx) _) _)
  · exact hread

theorem mem_afterBuildRead : (afterBuildRead s b i p).mem = s.mem := by
  have hread : (afterRead s b i p).mem = s.mem := by
    obtain ⟨u, hu⟩ := positionEvents_frame s b i 1 p i.pos
    exact (State.each_field State.mem _ (mem_readEntry i) _ _).trans (by rw [hu])
  unfold afterBuildRead
  split
  · obtain ⟨x, hx⟩ := haltField_onlyStreams (afterRead s b i p) i 1 .skew
    rw [hx]
    exact hread
  · exact hread

/-- The data entry stands one block further. -/
theorem rtag_afterBuildRead (hnodup : ((entriesOf (i.field 1) (i.desc 1)).map Prod.fst).Nodup) :
    ((afterBuildRead s b i p).stream (fStream (i.field 1))).rtag = (s.stream (fStream (i.field 1))).rtag + 1 := by
  have hread : ((afterRead s b i p).stream (fStream (i.field 1))).rtag = (s.stream (fStream (i.field 1))).rtag + 1 := by
    obtain ⟨l, hl⟩ : ∃ l, entriesOf (i.field 1) (i.desc 1) = (fStream (i.field 1), 0) :: l := ⟨_, rfl⟩
    rw [hl, List.map_cons, List.nodup_cons] at hnodup
    obtain ⟨hother, -⟩ := hnodup
    obtain ⟨u, hu⟩ := positionEvents_frame s b i 1 p i.pos
    have hrest : ∀ t : State, (t.each l (readEntry i)).stream (fStream (i.field 1)) = t.stream (fStream (i.field 1)) := fun t =>
      List.foldlRecOn l (readEntry i) (motive := fun v => v.stream (fStream (i.field 1)) = t.stream (fStream (i.field 1))) rfl
        (fun v hv x hx => (stream_readEntry_ne i v x (fun hn => hother (List.mem_map.2 ⟨x, hx, hn.symm⟩))).trans hv)
    unfold afterRead
    rw [advanceRead_eq, hl, hu]
    exact congrArg Stream.rtag ((hrest _).trans (stream_readEntry_self i _ (fStream (i.field 1), 0)))
  unfold afterBuildRead
  split
  · exact (rtag_haltField _ i 1 .skew _).trans hread
  · exact hread

theorem readOnly_positionEvents (n pos : Nat) : (s.unit b).ReadOnly ((positionEvents s b i n p pos).unit b) := by
  have hpost : ∀ v c x y z, (s.unit b).ReadOnly ((s.post b b v c x y z).unit b) := fun v c x y z => by
    obtain ⟨e, l, n, m, h⟩ := unit_post_self s b v c x y z
    exact ⟨e, l, n, _, _, h⟩
  unfold positionEvents
  dsimp only
  split
  · exact hpost ..
  · exact hpost ..
  · exact .refl _

theorem readOnly_afterBuildRead : (s.unit b).ReadOnly ((afterBuildRead s b i p).unit b) := by
  have hread : (s.unit b).ReadOnly ((afterRead s b i p).unit b) :=
    each_inv (fun t => (s.unit b).ReadOnly (t.unit b)) (readEntry i) (fun t x ht => ht.trans (readOnly_readEntry i t x b)) _ _
      (readOnly_positionEvents p 1 i.pos)
  unfold afterBuildRead
  split
  · obtain ⟨x, hx⟩ := haltField_onlyStreams (afterRead s b i p) i 1 .skew
    rw [hx]
    exact hread
  · exact hread

end

/-! ### A build's step (R152) -/

/-- Counts apart, two instructions are the same, and the second has nothing formed that its feed still sends. -/
def Issued.Settled (i k : Issued) : Prop :=
  ∃ c a m n f x d, k = { i with counts := c, amax := a, capmax := m, norm := n, nonfin := f, satur := x, done := d, outs := [] }

theorem Issued.Settled.reading {i k : Issued} (h : i.Settled k) (s : State) (b : Nat) :
    k.pos = i.pos ∧ k.total = i.total ∧ k.reads = i.reads ∧ k.stopAs = i.stopAs ∧ buildWaits s b k = buildWaits s b i ∧
      readPosition s k 1 [] = readPosition s i 1 [] ∧ ∀ p, afterBuildRead s b k p = afterBuildRead s b i p := by
  obtain ⟨_, _, _, _, _, _, _, rfl⟩ := h
  exact ⟨rfl, rfl, rfl, rfl, rfl, rfl, fun _ => rfl⟩

/-- A block whose last beat has left is counted, and the next position can be sent (R155). -/
theorem settled_settleBlock {u : UnitSt} {i : Issued} (h : feedOwned u i = false) : i.Settled (settleBlock u i) := by
  unfold settleBlock
  split
  · rw [h, if_neg Bool.false_ne_true]
    split
    · split
      · exact ⟨_, _, _, _, _, _, _, rfl⟩
      · exact ⟨_, _, _, _, _, _, _, rfl⟩
    · exact ⟨_, _, _, _, _, _, _, rfl⟩
  · next houts => exact ⟨_, _, _, _, _, _, _, by rw [← houts]⟩

theorem settleBlock_of_owned {u : UnitSt} {i : Issued} (h : feedOwned u i = true) : settleBlock u i = i := by
  unfold settleBlock
  split
  · exact if_pos h
  · rfl

theorem feedOwned_of_empty {u : UnitSt} (i : Issued) (h : u.feed = []) : feedOwned u i = false := by simp [feedOwned, h]

theorem feed_ne_nil_of_owned {u : UnitSt} {i : Issued} (h : feedOwned u i = true) : u.feed ≠ [] := by
  intro hfeed
  rw [feedOwned_of_empty i hfeed] at h
  exact Bool.false_ne_true h

section
variable {s : State} {b : Nat} {i : Issued}

/-- A build whose positions are all taken, or that stops, ends once its beats have left. -/
theorem buildRun_one_of_ended (howned : feedOwned (s.unit b) (settleBlock (s.unit b) i) = false)
    (hend : (settleBlock (s.unit b) i).total ≤ (settleBlock (s.unit b) i).pos) :
    buildRun b 1 s i = (s, { settleBlock (s.unit b) i with
      finished := some ((settleBlock (s.unit b) i).stopAs.getD (settleBlock (s.unit b) i).endStatus) }) := by
  rw [buildRun]
  simp [howned, hend]

theorem buildRun_one_of_waiting (howned : feedOwned (s.unit b) i = true) (hreads : i.reads ≠ []) : buildRun b 1 s i = (s, i) := by
  have hfeed := feed_ne_nil_of_owned howned
  have hwaits : buildWaits s b i = true := by
    have hlen := List.length_pos_iff.2 hreads
    have hfull : ¬ i.reads.length + 1 < 2 := by omega
    simp [buildWaits, buildReads, hfeed, hfull]
  rw [buildRun, settleBlock_of_owned howned]
  by_cases hend : (i.stopAs.isSome || decide (i.total ≤ i.pos)) = true
  · simp only [howned, hend, Bool.and_self, if_true]
  · simp only [howned, hend, hwaits, Bool.and_false, Bool.false_eq_true, if_false, if_true]

theorem buildRun_one_of_going (hgoing : (settleBlock (s.unit b) i).stopAs = none)
    (hleft : (settleBlock (s.unit b) i).pos < (settleBlock (s.unit b) i).total)
    (hwaits : buildWaits s b (settleBlock (s.unit b) i) = false) :
    buildRun b 1 s i = buildUnit s b (settleBlock (s.unit b) i) := by
  have hnot : decide ((settleBlock (s.unit b) i).total ≤ (settleBlock (s.unit b) i).pos) = false := by simpa using hleft
  rw [buildRun]
  simp [hgoing, hnot, hwaits, buildRun]

/-- With no position held and a written source, a position can be read whether or not the feed holds beats. -/
theorem buildWaits_of_unread (hreads : i.reads = []) (hleft : i.pos < i.total)
    (hready : ∀ x ∈ entriesOf (i.field 1) (i.desc 1), (s.stream x.1).readerWaits = false) : buildWaits s b i = false := by
  have hempty : fieldEmpty s i 1 = false := by
    rw [fieldEmpty, List.any_eq_false]
    exact fun x hx => by rw [hready x hx]; exact Bool.false_ne_true
  simp [buildWaits, buildReads, hreads, hleft, hempty]
  split <;> decide

/-- A build reads a position, and sends it at once where its feed is empty. -/
theorem buildUnit_of_unread (hreads : i.reads = []) :
    let p := readPosition s i 1 []
    let t := afterBuildRead s b i p
    let k := { i with reads := [((1, i.pos), p)] }
    buildUnit s b i = if (t.unit b).feed = [] then sendPosition t b { i with reads := [] } p else (t, k) := by
  unfold buildUnit
  simp only [hreads, List.isEmpty_nil, Bool.not_true, Bool.and_false, Bool.false_eq_true, if_false, List.length_nil, Nat.add_zero,
    List.nil_append, List.isEmpty_iff]
  rfl

end

/-- What the unit does as it begins to send position p of build i: the beats that its feed takes, and the instruction k that
goes on (R98, R150 to R154). -/
structure PositionSent (u : UnitSt) (i : Issued) (p : PosRead) (beats : List Beat) (k : Issued) : Prop where
  queue : k.queue = i.queue
  slot : k.slot = i.slot
  further : i.pos < k.pos
  unfinished : k.finished = i.finished
  nonempty : beats ≠ []
  good : buildStatus u (i.desc 1) (liveFormats u i) p = none →
    beats = tableBeats (buildK (liveFormats u i)) i.epoch i.ctx p.d.tag p.d.tensor
      ((tableInputs (liveFormats u i) (rowsIn i.height (i.place i.pos).1) (i.place i.pos).2 p).map (fun x =>
        (tableEntries ((List.range (2 ^ buildK (liveFormats u i))).map (weightValue u (liveFormats u i).wdesc)) x).1))
  poisoned : ∀ st, buildStatus u (i.desc 1) (liveFormats u i) p = some st →
    (∀ x ∈ beats, bitAt x.control 2 = true) ∧ beats.length = if st = .skew then i.total - i.pos else 1

theorem tableBeats_ne_nil (k : Nat) (e : BitVec 4) (c : Nat) (tag : BitVec 16) (tensor : BitVec 24) (es : List (List (BitVec 32))) :
    tableBeats k e c tag tensor es ≠ [] := by
  have hpos : 0 < 4096 / perBeat k := by unfold perBeat; split <;> decide
  rw [← List.length_pos_iff, length_tableBeats]
  exact hpos

theorem length_poisonBeats (k : Nat) (e : BitVec 4) (c : Nat) (tag : BitVec 16) (tensor : BitVec 24) (n : Nat) :
    (poisonBeats k e c tag tensor n).length = n := by simp [poisonBeats]

theorem poison_of_mem_poisonBeats {k : Nat} {e : BitVec 4} {c : Nat} {tag : BitVec 16} {tensor : BitVec 24} {n : Nat} {x : Beat}
    (h : x ∈ poisonBeats k e c tag tensor n) : bitAt x.control 2 = true := by
  obtain ⟨j, -, rfl⟩ := List.mem_map.1 h
  exact poison_beatControl ..

/-- The feed of the unit, empty before, takes the beats of the position: its table block, or poisoned blocks. -/
theorem sendPosition_sent {s : State} {b : Nat} {i : Issued} (p : PosRead) (hfeed : (s.unit b).feed = []) (hleft : i.pos < i.total) :
    ∃ f k, sendPosition s b i p = (s.onUnit b f, k) ∧ (∀ u, (f u).issued = u.issued) ∧
      PositionSent (s.unit b) i p (f (s.unit b)).feed k := by
  cases hst : buildStatus (s.unit b) (i.desc 1) (liveFormats (s.unit b) i) p with
  | none =>
    simp only [sendPosition, hst]
    refine ⟨_, _, rfl, fun _ => rfl, ?_⟩
    refine ⟨rfl, rfl, Nat.lt_succ_self _, rfl, ?_, fun _ => ?_, fun _ h => absurd (hst.symm.trans h) (by simp)⟩
    · simp only [hfeed, List.nil_append]
      exact tableBeats_ne_nil _ _ _ _ _ _
    · simp only [hfeed, List.nil_append, List.map_map]
      rfl
  | some x =>
    simp only [sendPosition, poisonRest, hst]
    generalize hn : (if x = .skew then i.total - i.pos else 1) = n
    have hpos : 0 < n := by
      rw [← hn]
      split <;> omega
    have hfail : ∀ st pos, (i.fail st pos).queue = i.queue ∧ (i.fail st pos).slot = i.slot ∧ (i.fail st pos).finished = i.finished :=
      fun st pos => by unfold Issued.fail; split <;> exact ⟨rfl, rfl, rfl⟩
    obtain ⟨hq, hs, hf⟩ := hfail x i.pos
    refine ⟨_, _, rfl, ?_, ?_⟩
    · exact fun _ => rfl
    refine ⟨hq, hs, Nat.lt_add_of_pos_right hpos, hf, ?_, fun h => absurd (hst.symm.trans h) (by simp), fun st h => ?_⟩
    · simp only [hfeed, List.nil_append]
      rw [← List.length_pos_iff, length_poisonBeats]
      exact hpos
    · obtain rfl := Option.some.inj (hst.symm.trans h)
      simp only [hfeed, List.nil_append]
      exact ⟨fun y hy => poison_of_mem_poisonBeats hy, (length_poisonBeats ..).trans hn.symm⟩

/-- What was sent does not depend on the counts of blocks before, nor on the events posted meanwhile. -/
theorem PositionSent.congr {u v : UnitSt} {i k l : Issued} {p : PosRead} {beats : List Beat} (hu : u.ReadOnly v) (hi : i.Settled k)
    (h : PositionSent v { k with reads := [] } p beats l) : PositionSent u i p beats l := by
  obtain ⟨_, _, _, _, _, rfl⟩ := hu
  obtain ⟨_, _, _, _, _, _, _, rfl⟩ := hi
  exact ⟨h.queue, h.slot, h.further, h.unfinished, h.nonempty, h.good, h.poisoned⟩

/-! ### The command -/

theorem exec_tableBuild {s : State} {b : Bib} {q : BitVec 14} {i : Issued} (h : Works s b q i) (hop : i.op = .tableBuild)
    (hne : (buildRun b.toNat 1 s i).2 ≠ i) : exec (.tableBuild b q 1) s =
      .next (setIssued (buildRun b.toNat 1 s i).1 b.toNat (buildRun b.toNat 1 s i).2) :=
  (live_of_running _ h.running).trans (congrArg _ (workOn_of_works h hop _ hne))

section
variable {s : State} {b : Bib} {q : BitVec 14} {i : Issued} (h : Works s b q i) (hop : i.op = .tableBuild)
  (hstream : isStream (i.field 1) = true)
include h hop

/-- A build that waits for its feed leaves the state. -/
theorem exec_tableBuild_of_waiting (howned : feedOwned (s.unit b.toNat) i = true) (hreads : i.reads ≠ []) :
    exec (.tableBuild b q 1) s = .next s :=
  (live_of_running _ h.running).trans (congrArg _ (workOn_of_waiting h hop _ (buildRun_one_of_waiting howned hreads)))

/-- A build whose positions are all taken ends when its beats have left (R155). -/
theorem exec_tableBuild_of_ended (hfeed : (s.unit b.toNat).feed = []) (hend : i.total ≤ i.pos) :
    let k := settleBlock (s.unit b.toNat) i
    exec (.tableBuild b q 1) s = .next (setIssued s b.toNat { k with finished := some (k.stopAs.getD k.endStatus) }) := by
  intro k
  have hsettled := settled_settleBlock (feedOwned_of_empty i hfeed)
  have hrun := buildRun_one_of_ended (feedOwned_of_empty k hfeed) (by
    obtain ⟨_, _, _, _, _, _, _, hk⟩ := hsettled
    rw [hk]
    exact hend)
  rw [exec_tableBuild h hop, hrun]
  rw [hrun]
  intro heq
  have hfin := congrArg Issued.finished heq
  rw [unfinished_of_works h] at hfin
  cases hfin

omit hop in
/-- The instruction put back after its work: it stands where it stood, and the frame of its work holds. -/
theorem placed_of_workedOn {v : State} (hwork : WorkedOn b.toNat i s v) {k : Issued} (hq : k.queue = i.queue) (hs : k.slot = i.slot) :
    placed (setIssued v b.toNat k) b i = some k ∧ WorkFrame s (setIssued v b.toNat k) b i := by
  refine ⟨placed_setIssued hq hs ?_, workFrame_setIssued hwork.workFrame.1 k⟩
  have hplaced := placed_of_works h
  unfold placed at hplaced ⊢
  rwa [hwork.issued]

include hstream

/-- A build that holds beats of a position reads the next one into its other tile buffer, and the feed stays (R152). -/
theorem exec_tableBuild_of_owned (hreads : i.reads = []) (hgoing : i.stopAs = none) (howned : feedOwned (s.unit b.toNat) i = true)
    (hleft : i.pos < i.total) (hready : ∀ p ∈ entriesOf (i.field 1) (i.desc 1), (s.stream p.1).readerWaits = false) :
    let k := { i with reads := [((1, i.pos), readPosition s i 1 [])] }
    ∃ t, exec (.tableBuild b q 1) s = .next t ∧ placed t b i = some k ∧ t.mem = s.mem ∧ WorkFrame s t b i ∧
      (t.unit b.toNat).feed = (s.unit b.toNat).feed := by
  intro k
  have hfeed : ((afterBuildRead s b.toNat i (readPosition s i 1 [])).unit b.toNat).feed = (s.unit b.toNat).feed := by
    obtain ⟨_, _, _, _, _, hu⟩ := readOnly_afterBuildRead (s := s) (b := b.toNat) (i := i) (readPosition s i 1 [])
    rw [hu]
  have hrun : buildRun b.toNat 1 s i = (afterBuildRead s b.toNat i (readPosition s i 1 []), k) := by
    have hgo := buildRun_one_of_going (s := s) (b := b.toNat) (i := i)
    rw [settleBlock_of_owned howned] at hgo
    rw [hgo hgoing hleft (buildWaits_of_unread hreads hleft hready), buildUnit_of_unread hreads, hfeed,
      if_neg (feed_ne_nil_of_owned howned)]
  have hne : k ≠ i := fun heq => absurd ((congrArg Issued.reads heq).trans hreads) (List.cons_ne_nil _ _)
  obtain ⟨hplaced, hframe⟩ := placed_of_workedOn h (workedOn_afterBuildRead (readPosition s i 1 []) hop hstream) (k := k) rfl rfl
  have hexec := exec_tableBuild h hop (by rw [hrun]; exact hne)
  rw [hrun] at hexec
  refine ⟨_, hexec, hplaced, mem_afterBuildRead _, hframe, ?_⟩
  rw [unit_setIssued]
  exact hfeed

/-- A build with an empty feed takes one position of a written source, and holds its beats. -/
theorem exec_tableBuild_of_empty (hnodup : ((entriesOf (i.field 1) (i.desc 1)).map Prod.fst).Nodup) (hreads : i.reads = [])
    (hgoing : i.stopAs = none) (hfeed : (s.unit b.toNat).feed = []) (hleft : i.pos < i.total)
    (hready : ∀ p ∈ entriesOf (i.field 1) (i.desc 1), (s.stream p.1).readerWaits = false) :
    ∃ t k, exec (.tableBuild b q 1) s = .next t ∧ placed t b i = some k ∧ t.mem = s.mem ∧ WorkFrame s t b i ∧
      PositionSent (s.unit b.toNat) i (readPosition s i 1 []) (t.unit b.toNat).feed k ∧
      (t.stream (fStream (i.field 1))).rtag = (s.stream (fStream (i.field 1))).rtag + 1 := by
  have hsettled := settled_settleBlock (feedOwned_of_empty i hfeed)
  have hread := readOnly_afterBuildRead (s := s) (b := b.toNat) (i := i) (readPosition s i 1 [])
  have hempty : ((afterBuildRead s b.toNat i (readPosition s i 1 [])).unit b.toNat).feed = [] := by
    obtain ⟨_, _, _, _, _, hu⟩ := hread
    rw [hu]
    exact hfeed
  have hrun : ∃ f k, buildRun b.toNat 1 s i = ((afterBuildRead s b.toNat i (readPosition s i 1 [])).onUnit b.toNat f, k) ∧
      (∀ u, (f u).issued = u.issued) ∧ PositionSent (s.unit b.toNat) i (readPosition s i 1 [])
        (f ((afterBuildRead s b.toNat i (readPosition s i 1 [])).unit b.toNat)).feed k := by
    obtain ⟨hpos, htotal, hkreads, hstop, hwaits, hposition, hafter⟩ := hsettled.reading s b.toNat
    have hkleft : (settleBlock (s.unit b.toNat) i).pos < (settleBlock (s.unit b.toNat) i).total := by rwa [hpos, htotal]
    obtain ⟨f, k, hsend, hf, hsent⟩ := sendPosition_sent (i := { settleBlock (s.unit b.toNat) i with reads := [] })
      (readPosition s i 1 []) hempty hkleft
    refine ⟨f, k, ?_, hf, hsent.congr hread hsettled⟩
    rw [buildRun_one_of_going (hstop.trans hgoing) hkleft (hwaits.trans (buildWaits_of_unread hreads hleft hready)),
      buildUnit_of_unread (hkreads.trans hreads), hposition, hafter, if_pos hempty, hsend]
  obtain ⟨f, k, hrun, hf, hsent⟩ := hrun
  have hne : k ≠ i := by
    rintro rfl
    exact lt_irrefl _ hsent.further
  obtain ⟨hplaced, hframe⟩ := placed_of_workedOn h ((workedOn_afterBuildRead (readPosition s i 1 []) hop hstream).trans
    (workedOn_onUnit (.inl rfl) hf)) hsent.queue hsent.slot
  have hexec := exec_tableBuild h hop (by rw [hrun]; exact hne)
  rw [hrun] at hexec
  refine ⟨_, k, hexec, hplaced, mem_afterBuildRead _, hframe, ?_, rtag_afterBuildRead _ hnodup⟩
  rw [unit_setIssued, State.unit_onUnit_self]
  exact hsent

end

/-! ### FEED_BEAT (R155) -/

theorem exec_feedBeat {s : State} (hs : Running s) {b : Bib} (hk : kindOf b.toNat = some .pt) {x : Beat} {xs : List Beat}
    (hfeed : (s.unit b.toNat).feed = x :: xs) : exec (.feedBeat b) s =
      .next ((s.emit (.beat b x.control x.lanes)).setUnit b.toNat { s.unit b.toNat with feed := xs }) := by
  change execFeedBeat b s = _
  rw [execFeedBeat, live_of_running _ hs]
  simp only [hk, hfeed]

/-- Settles O31: a step of the build reads at most one position, and its feed takes the beats of one; their layout is that of
the chunks that a block is cut into. -/
theorem tableBuildFeedsItsArray : Obligations.TableBuildFeedsItsArray := by
  unfold Obligations.TableBuildFeedsItsArray
  intro s b
  refine ⟨?_, ?_, ?_, ?_⟩
  · intro q i h hop hstream hnodup u p k pl
    refine ⟨?_, ?_, ?_, ?_⟩
    · intro hreads hgoing hfeed hleft hready
      obtain ⟨t, j, hexec, hplaced, hmem, hframe, hsent, hrtag⟩ :=
        exec_tableBuild_of_empty h hop hstream hnodup hreads hgoing hfeed hleft hready
      exact ⟨t, j, hexec, hplaced, hsent.further, hsent.unfinished.trans (unfinished_of_works h), hsent.nonempty, hmem, hframe, hsent.good,
        hrtag, hsent.poisoned⟩
    · intro hreads hgoing howned hleft hready
      obtain ⟨t, hexec, hplaced, hmem, hframe, hfeed⟩ := exec_tableBuild_of_owned h hop hstream hreads hgoing howned hleft hready
      have hfin : i.finished = none := unfinished_of_works h
      exact ⟨t, _, hexec, hplaced, rfl, hfin, rfl, hfeed, hmem, hframe⟩
    · exact exec_tableBuild_of_ended h hop
    · exact exec_tableBuild_of_waiting h hop
  · intro hs hk x xs hfeed
    exact exec_feedBeat hs hk hfeed
  · intro k e c tag tensor es hk hlen huniform hc beats a
    obtain ⟨ha, hcount, -⟩ := perBeat_of_width hk
    refine ⟨length_tableBeats.trans hcount, fun n v hn hv => ?_⟩
    have hlayout := tableBeats_layout e tag tensor hk hlen huniform hc hn hv
    rwa [ha] at hlayout
  · exact fun vs => ⟨rfl, fun x hx => tableEntries_nan vs hx⟩

end Sys2Proof.Machine
end

section
/-!
PROOFS. Marshal's commands: the end of an UPDATE on canonical tables, and where a queue is listed twice (R402, R410).
-/

namespace Sys2Proof.Machine

/-! ### The end of an UPDATE on canonical tables (R402, R410) -/

/-- In a canonical table every entry listed is the one read. -/
theorem tget_of_mem_twf {α : Type} [DecidableEq α] {d : α} {t : Tab α} (h : twf d t = true) {c : Nat × α} (hc : c ∈ t) :
    tget d t c.1 = c.2 := by
  obtain ⟨hrise, -⟩ := (twf_iff d t).1 h
  clear h
  induction t with
  | nil => simp at hc
  | cons x t ih =>
    obtain ⟨hlt, hrise⟩ := List.pairwise_cons.1 hrise
    rcases List.mem_cons.1 hc with rfl | hc
    · simp [tget]
    · rw [tget, if_neg (hlt c hc).ne]
      exact ih hc hrise

/-- The reserved stream engine is quiet when every queue bound to it is OFF. -/
theorem reservedQuiet_of_off {s : State} (ht : twf {} s.tables.queues = true)
    (hoff : ∀ q, (s.queue q).bib = 0x070 → (s.queue q).st = .off) : reservedQuiet s = true := by
  have hnone : s.tables.queues.filter (fun x => decide (x.2.bib = 0x070) && decide (s.ownerOf x.1 ≠ some 0) && x.2.st != .off) = [] := by
    rw [List.filter_eq_nil_iff]
    intro x hx
    have hread : s.queue x.1 = x.2 := tget_of_mem_twf ht hx
    have hx := hoff x.1
    rw [hread] at hx
    simp only [Bool.and_eq_true, decide_eq_true_eq, bne_iff_ne]
    rintro ⟨⟨hbib, -⟩, hst⟩
    exact hst (hx hbib)
  unfold reservedQuiet queuesWhere
  rw [hnone]
  rfl

theorem mg_queueRecord (s : State) (r : BitVec 8) (body : BitVec 384) : (queueRecord s r body).mg = s.mg := by
  obtain ⟨w, n, h⟩ := queueRecord_frame s r body
  rw [h]

theorem storage_queueRecord (s : State) (r : BitVec 8) (body : BitVec 384) : (queueRecord s r body).storage = s.storage := by
  obtain ⟨w, n, h⟩ := queueRecord_frame s r body
  rw [h]

/-- The end of an UPDATE whose image is good: Coach runs, and the command is over (R402, R410). -/
theorem finishUpdate_frame {s : State} (hv : s.mg.vres = 0) : (finishUpdate s).mg = { s.mg with
      mode := .coach, mbusy := false, updbusy := false, updint := false, update := none, installed := false, begun := false
      mres := 0, mresVres := 0 } ∧ (finishUpdate s).storage.image = s.storage.image := by
  unfold finishUpdate endUpdate setMres startCoach
  dsimp only
  split <;> simp [mg_queueRecord, storage_queueRecord, hv, Status.byte]

/-- On canonical tables UPDATE_INSTALL ends the UPDATE once every queue bound to the reserved engine is OFF (R402, R410). -/
theorem exec_updateInstall_of_off {s : State} (hs : Running s) (ht : TablesOk s) {p : BitVec 32 × BitVec 32}
    (hp : s.mg.update = some p) (hinstalled : s.mg.installed = true) (hv : s.mg.vres = 0)
    (hoff : ∀ q, (s.queue q).bib = 0x070 → (s.queue q).st = .off) :
    ∃ t, exec .updateInstall s = .next t ∧ t.mg = { s.mg with
      mode := .coach, mbusy := false, updbusy := false, updint := false, update := none, installed := false, begun := false
      mres := 0, mresVres := 0 } ∧ t.storage.image = s.storage.image := by
  obtain ⟨-, hqueues, -⟩ := ht
  refine ⟨finishUpdate s, ?_, finishUpdate_frame hv⟩
  change execUpdateInstall s = _
  rw [execUpdateInstall, live_of_running _ hs, hp]
  simp only [hinstalled, reservedQuiet_of_off hqueues hoff, if_true]

/-! ### The end of an UPDATE where a queue is listed twice -/

/-- An UPDATE waits at its end; queue 5 is listed twice, and only the second entry, which no read gives, names the reserved
stream engine. -/
def shadowedQueue : State :=
  { State.reset with
    mg := { State.reset.mg with update := some (0, 0), installed := true }
    tables := { State.reset.tables with queues := [(5, { bib := 1 }), (5, { bib := 0x070, st := .run })] } }

theorem bib_shadowedQueue (q : Nat) : (shadowedQueue.queue q).bib ≠ 0x070 := by
  by_cases hq : q = 5
  · subst hq
    decide
  · have hdefault : shadowedQueue.queue q = {} := tget_of_notMem _ _ _ (by
      intro c hc hk
      simp only [shadowedQueue, List.mem_cons, List.not_mem_nil, or_false] at hc
      rcases hc with rfl | rfl <;> exact hq hk.symm)
    rw [hdefault]
    decide

/-- UPDATE_INSTALL looks at every entry listed, and waits. -/
theorem exec_updateInstall_shadowedQueue : exec .updateInstall shadowedQueue = .next shadowedQueue := by
  have hbusy : reservedQuiet shadowedQueue = false := by decide
  have hup : shadowedQueue.mg.update = some (0, 0) := rfl
  have hinstalled : shadowedQueue.mg.installed = true := rfl
  change execUpdateInstall shadowedQueue = _
  rw [execUpdateInstall, live_of_running _ rfl, hup]
  simp only [hinstalled, hbusy, if_true, Bool.false_eq_true, if_false]

/-- Refutes O49: the clause on the end of an UPDATE does not ask for canonical tables. In a state that lists a queue twice, the
entry that a read gives leaves the reserved engine alone, UPDATE_INSTALL waits for the other one, and MODE stays NONE. With
`TablesOk` the clause holds (`exec_updateInstall_of_off`). -/
theorem not_marshalCommands : ¬ Obligations.MarshalCommands := by
  unfold Obligations.MarshalCommands
  rintro ⟨-, -, -, -, hinstalled, -⟩
  obtain ⟨hoff, -⟩ := hinstalled shadowedQueue (0, 0) rfl rfl rfl rfl
  obtain ⟨t, hexec, hmode, -⟩ := hoff (fun q hq => absurd hq (bib_shadowedQueue q))
  rw [exec_updateInstall_shadowedQueue] at hexec
  obtain rfl := Host.Outcome.next.inj hexec
  exact absurd hmode (by decide)

end Sys2Proof.Machine
end

section
/-!
PROOFS. Trackers: what an event, a fallback request and a staging leave of them, reports and partials that arrive, and the
close of the previous record (R175 to R178, R181, R185, R187, R189 to R191).
-/

namespace Sys2Proof.Machine

/-! ### What MG does on an event of a tracker (R211, R218, R219, R222) -/

/-- The trackers, the pace and every fence stand as they stood. -/
structure KeepsTrackers (s t : State) : Prop where
  trackers : t.trackers = s.trackers
  pace : t.pace = s.pace
  fenced : ∀ n, (t.unit n).health.fenced = (s.unit n).health.fenced

namespace KeepsTrackers

variable {s t v : State}

theorem refl (s : State) : KeepsTrackers s s := ⟨rfl, rfl, fun _ => rfl⟩

theorem trans (h : KeepsTrackers s t) (h' : KeepsTrackers t v) : KeepsTrackers s v :=
  ⟨h'.trackers.trans h.trackers, h'.pace.trans h.pace, fun n => (h'.fenced n).trans (h.fenced n)⟩

theorem tracked (h : KeepsTrackers s t) (n : Nat) : t.tracked n = s.tracked n := by
  unfold State.tracked
  rw [h.trackers]

theorem watch (h : KeepsTrackers s t) (n : Nat) : t.watch n = s.watch n := by
  unfold State.watch
  rw [h.trackers]

end KeepsTrackers

theorem keepsTrackers_ite {s t v : State} {c : Prop} [Decidable c] (h : KeepsTrackers s t) (h' : KeepsTrackers s v) :
    KeepsTrackers s (if c then t else v) := by
  split
  · exact h
  · exact h'

theorem baton_keepsTrackers (s : State) (x : Baton) : KeepsTrackers s { s with baton := x } := ⟨rfl, rfl, fun _ => rfl⟩

/-- An event posted by a unit about itself. -/
theorem post_keepsTrackers (s : State) (b : Nat) (v : Ev) (c : Option Nat) (x y z : BitVec 32) :
    KeepsTrackers s (s.post b b v c x y z) := by
  refine ⟨rfl, rfl, fun n => ?_⟩
  by_cases hn : n = b
  · subst hn
    obtain ⟨_, _, _, _, hu⟩ := unit_post_self s n v c x y z
    rw [hu]
  · rw [State.unit_post_ne s b v c x y z hn]

theorem postLapSummary_keepsTrackers (s : State) : KeepsTrackers s (postLapSummary s) := by
  unfold postLapSummary
  split
  · split
    · exact ⟨rfl, rfl, fun _ => rfl⟩
    · exact .refl s
  · exact .refl s

theorem sendStage_keepsTrackers (s : State) (b : Nat) : KeepsTrackers s (sendStage s b) := by
  unfold sendStage
  simp only
  generalize hf : (fun u : UnitSt => { u with ftabStaged := s.baton.ftab, lmapStaged := s.baton.lmap }) = f
  obtain ⟨l, o, h⟩ := sendBaton_frame (s.onUnit b f) true b
    (batonMsg 0x20 s.baton.seq (s.baton.epoch + 1) b (lapAfter s) (annRpt s) false (stagedDigest s b))
  rw [h]
  refine ⟨rfl, rfl, fun n => ?_⟩
  change ((s.onUnit b f).unit n).health.fenced = _
  by_cases hn : n = b
  · subst hn; rw [State.unit_onUnit_self, ← hf]
  · rw [State.unit_onUnit_ne s f hn]

theorem stageAll_keepsTrackers (s : State) : KeepsTrackers s (stageAll s) :=
  each_inv (KeepsTrackers s) sendStage (fun t b h => h.trans (sendStage_keepsTrackers t b)) _ _ ⟨rfl, rfl, fun _ => rfl⟩

theorem rebuild_keepsTrackers (s : State) : KeepsTrackers s (rebuild s) := by
  have hstage := stageAll_keepsTrackers s
  unfold rebuild
  split
  · exact keepsTrackers_ite (.refl s) (keepsTrackers_ite hstage (keepsTrackers_ite hstage (.refl s)))
  · exact .refl s

theorem dropReturn_keepsTrackers (s : State) : KeepsTrackers s (dropReturn s) := by
  unfold dropReturn
  refine keepsTrackers_ite (.refl s) (.trans ?_ (rebuild_keepsTrackers _))
  exact ⟨rfl, rfl, fun _ => rfl⟩

theorem acceptRequest_keepsTrackers (s : State) (l : Nat) : KeepsTrackers s (acceptRequest s l).1 := by
  unfold acceptRequest
  simp only
  split
  · refine .trans (.trans ?_ (postLapSummary_keepsTrackers _)) (rebuild_keepsTrackers _)
    exact ⟨rfl, rfl, fun _ => rfl⟩
  · exact .refl s

theorem signalStumble_keepsTrackers (s : State) (prev : Bool) : KeepsTrackers s (signalStumble s prev) := by
  have hsummary : ∀ x, KeepsTrackers s (postLapSummary { s with baton := x }) := fun x =>
    (baton_keepsTrackers s x).trans (postLapSummary_keepsTrackers _)
  unfold signalStumble
  exact keepsTrackers_ite (hsummary _) ((hsummary _).trans (dropReturn_keepsTrackers _))

/-! ### What a step on a tracked entry leaves (R177, R185, R191) -/

/-- The pace, every fence and every watch stand as they stood. -/
structure KeepsWatches (s t : State) : Prop where
  watches : t.trackers.watches = s.trackers.watches
  pace : t.pace = s.pace
  fenced : ∀ n, (t.unit n).health.fenced = (s.unit n).health.fenced

namespace KeepsWatches

variable {s t v : State}

theorem refl (s : State) : KeepsWatches s s := ⟨rfl, rfl, fun _ => rfl⟩

theorem trans (h : KeepsWatches s t) (h' : KeepsWatches t v) : KeepsWatches s v :=
  ⟨h'.watches.trans h.watches, h'.pace.trans h.pace, fun n => (h'.fenced n).trans (h.fenced n)⟩

theorem watch (h : KeepsWatches s t) (n : Nat) : t.watch n = s.watch n := by
  unfold State.watch
  rw [h.watches]

end KeepsWatches

theorem KeepsTrackers.keepsWatches {s t : State} (h : KeepsTrackers s t) : KeepsWatches s t :=
  ⟨by rw [h.trackers], h.pace, h.fenced⟩

theorem setTracked_keepsWatches (s : State) (n : Nat) (e : Tracked) : KeepsWatches s (s.setTracked n e) :=
  ⟨rfl, rfl, fun _ => rfl⟩

/-- The entry with the mark of a fallback request in its current or previous record. -/
def Tracked.marked (e : Tracked) (prev mark : Bool) : Tracked :=
  if prev then { e with prev := { e.prev with requested := mark } } else { e with cur := { e.cur with requested := mark } }

theorem Tracked.marked_same (e : Tracked) (prev : Bool) :
    e.marked prev (if prev then e.prev.requested else e.cur.requested) = e := by
  cases prev <;> rfl

/-- The event of a fallback check that finds its share of flags exceeded (R146). -/
def fallbackEvent (s : State) (n : Nat) (prev : Bool) : State :=
  s.post (tkOfEntry n) (tkOfEntry n) .fallback (some (s.tracked n).cfg.ctx.toNat) (wordOf 32 n)
    ((s.tracked n).cfg.layer.setWidth 32) (if prev then (s.tracked n).prev else (s.tracked n).cur).flagged

/-- The request that follows it, and what MG does on one that it accepts (R219, R221, R222). -/
def fallbackRequest (s : State) (prev : Bool) (l : Nat) : State :=
  let a := acceptRequest s l
  if !a.2 then a.1
  else if prev then { a.1 with baton := { a.1.baton with dirtyPrev := true } }
  else dropReturn { a.1 with baton := { a.1.baton with dirtyCur := true } }

theorem fallbackCheck_eq (s : State) (n : Nat) (prev : Bool) : fallbackCheck s n prev =
    if (s.tracked n).cfg.fben && flagsHigh (s.tracked n).cfg (if prev then (s.tracked n).prev else (s.tracked n).cur) then
      if alreadyAsked s prev (s.tracked n).cfg.layer then fallbackEvent s n prev
      else fallbackRequest ((fallbackEvent s n prev).setTracked n ((s.tracked n).marked prev true)) prev
        (s.tracked n).cfg.layer.toNat
    else s := by
  cases prev <;> rfl

theorem fallbackRequest_keepsTrackers (s : State) (prev : Bool) (l : Nat) : KeepsTrackers s (fallbackRequest s prev l) := by
  have haccept := acceptRequest_keepsTrackers s l
  unfold fallbackRequest
  exact keepsTrackers_ite haccept (keepsTrackers_ite (haccept.trans (baton_keepsTrackers _ _))
    ((haccept.trans (baton_keepsTrackers _ _)).trans (dropReturn_keepsTrackers _)))

/-- A fallback check marks at most its entry's record. -/
theorem fallbackCheck_spec (s : State) (n : Nat) (prev : Bool) :
    KeepsWatches s (fallbackCheck s n prev) ∧ (∀ m, m ≠ n → (fallbackCheck s n prev).tracked m = s.tracked m) ∧
      ∃ mark, (fallbackCheck s n prev).tracked n = (s.tracked n).marked prev mark := by
  have hevent : KeepsTrackers s (fallbackEvent s n prev) := post_keepsTrackers s _ _ _ _ _ _
  have hunmarked : ∀ {t}, KeepsTrackers s t → KeepsWatches s t ∧ (∀ m, m ≠ n → t.tracked m = s.tracked m) ∧
      ∃ mark, t.tracked n = (s.tracked n).marked prev mark := fun h =>
    ⟨h.keepsWatches, fun m _ => h.tracked m, _, (h.tracked n).trans ((s.tracked n).marked_same prev).symm⟩
  rw [fallbackCheck_eq]
  generalize (if prev = true then (s.tracked n).prev else (s.tracked n).cur) = r
  split
  · split
    · exact hunmarked hevent
    · have hrequest := fallbackRequest_keepsTrackers
        ((fallbackEvent s n prev).setTracked n ((s.tracked n).marked prev true)) prev (s.tracked n).cfg.layer.toNat
      refine ⟨(hevent.keepsWatches.trans (setTracked_keepsWatches _ _ _)).trans hrequest.keepsWatches, fun m hm => ?_,
        true, ?_⟩
      · rw [hrequest.tracked, State.tracked_setTracked_ne _ _ hm, hevent.tracked]
      · rw [hrequest.tracked, State.tracked_setTracked_self]
  · exact hunmarked (.refl s)

theorem stageEntry_eq (s : State) (n : Nat) : ∃ g, stageEntry s n = s.setTracked n { s.tracked n with staged := some g } ∧
    g.value = (s.tracked n).prop ∧ g.base = (s.tracked n).cfg.abase ∧ g.count = (s.tracked n).cfg.acount ∧ g.got = 0 ∧
    g.need = stillNeeded s (s.tracked n).cfg.cvmask := ⟨_, rfl, rfl, rfl, rfl, rfl, rfl⟩

theorem stageEntry_keepsWatches (s : State) (n : Nat) : KeepsWatches s (stageEntry s n) := setTracked_keepsWatches s n _

/-! ### A watch that closes (R189 to R191) -/

theorem stumbleEntry_keepsWatches (ctx : BitVec 10) (layer : BitVec 12) (s : State) (n : Nat) :
    KeepsWatches s (stumbleEntry ctx layer s n) := by
  unfold stumbleEntry
  simp only
  split
  · exact .refl s
  · refine KeepsWatches.trans ?_ (fallbackCheck_spec _ n false).1
    split
    · have hset := setTracked_keepsWatches s n ((s.tracked n).propose (s.tracked n).cur.amax 2)
      split
      · exact hset.trans (stageEntry_keepsWatches _ n)
      · exact hset
    · exact .refl s

/-- A record closed by its watch. -/
def WatchRec.close (r : WatchRec) (x : Watch) : WatchRec :=
  { r with closed := true, ncur := normOf r, stumbled := isStumble x (normOf r) }

/-- The watch after it closes its current or previous record. -/
def Watch.close (x : Watch) (prev : Bool) : Watch :=
  if prev then { x with prev := x.prev.close x } else { x with cur := x.cur.close x }

/-- The record that a watch closes. -/
def Watch.open (x : Watch) (prev : Bool) : WatchRec := if prev then x.prev else x.cur

theorem closeWatch_eq (s : State) (w : Nat) (prev : Bool) : closeWatch s w prev =
    if isStumble (s.watch w) (normOf ((s.watch w).open prev)) then
      let t := (s.setWatch w ((s.watch w).close prev)).post (tkOfWatch w) (tkOfWatch w) .stumble
        (some (s.watch w).ctx.toNat) (wordOf 32 w) (normOf ((s.watch w).open prev)) (s.watch w).avg
      (t.trackers.tracked.map Prod.fst).foldl (stumbleEntry (s.watch w).ctx (s.watch w).layer) (signalStumble t prev)
    else s.setWatch w ((s.watch w).close prev) := by
  cases prev <;> rfl

/-- A close leaves the record closed; a stumble reaches events, the baton and tracked entries, and no watch. -/
theorem closeWatch_keepsWatches (s : State) (w : Nat) (prev : Bool) :
    KeepsWatches (s.setWatch w ((s.watch w).close prev)) (closeWatch s w prev) := by
  have hfold : ∀ ctx layer (t : State) (l : List Nat), KeepsWatches t (l.foldl (stumbleEntry ctx layer) t) :=
    fun ctx layer t l => each_inv (KeepsWatches t) (stumbleEntry ctx layer)
      (fun v n h => h.trans (stumbleEntry_keepsWatches ctx layer v n)) l t (.refl t)
  rw [closeWatch_eq]
  split
  · refine KeepsWatches.trans ?_ (hfold _ _ _ _)
    exact ((post_keepsTrackers _ _ _ _ _ _ _).trans (signalStumble_keepsTrackers _ _)).keepsWatches
  · exact .refl _

theorem watch_closeWatch_setWatch (s : State) (w : Nat) (x : Watch) (prev : Bool) :
    (closeWatch (s.setWatch w x) w prev).watch w = x.close prev := by
  rw [(closeWatch_keepsWatches _ _ _).watch, State.watch_setWatch_self, State.watch_setWatch_self]

theorem closeWatch_of_quiet {s : State} {w : Nat} (h : (s.watch w).stb = false) (prev : Bool) :
    closeWatch s w prev = s.setWatch w ((s.watch w).close prev) := by
  have hquiet : isStumble (s.watch w) (normOf ((s.watch w).open prev)) = false := by simp [isStumble, h]
  rw [closeWatch_eq, hquiet, if_neg Bool.false_ne_true]

/-! ### Reports and partials that arrive (R175, R176, R187) -/

/-- A stamp is that of the running lap. -/
def StampNow (s : State) (lap8 : BitVec 8) (par : Bool) : Prop := lap8 = bitsAt s.pace.lap 0 8 ∧ par = s.pace.parity

/-- A stamp is that of the previous lap, and its settle window is open. -/
def StampBefore (s : State) (lap8 : BitVec 8) (par : Bool) : Prop :=
  (∃ start rerun, s.trackers.settle = .settling start rerun) ∧ lap8 = s.trackers.prevLap8 ∧ par = s.trackers.prevPar

theorem recordFor_of_now {s : State} {lap8 : BitVec 8} {par : Bool} (h : StampNow s lap8 par) :
    recordFor s lap8 par = some false := by
  simp [recordFor, h.1, h.2]

theorem recordFor_of_before {s : State} {lap8 : BitVec 8} {par : Bool} (hn : ¬ StampNow s lap8 par)
    (h : StampBefore s lap8 par) : recordFor s lap8 par = some true := by
  obtain ⟨⟨start, rerun, hsettle⟩, rfl, rfl⟩ := h
  unfold StampNow at hn
  simp only [recordFor, hsettle]
  rw [if_neg (by simpa using hn), if_pos (by simp)]

theorem recordFor_of_late {s : State} {lap8 : BitVec 8} {par : Bool} (hn : ¬ StampNow s lap8 par)
    (hb : ¬ StampBefore s lap8 par) : recordFor s lap8 par = none := by
  unfold StampNow at hn
  unfold StampBefore at hb
  rw [recordFor, if_neg (by simpa using hn)]
  cases hsettle : s.trackers.settle with
  | settling start rerun => exact if_neg (by simpa [hsettle] using hb)
  | idle => rfl
  | scanning start rerun => rfl

/-- REPORT_MERGE of a report to an enabled entry of a tracker that is not fenced. -/
theorem exec_reportMerge {s : State} (hs : Running s) {r : Report} {rest : List Report} (hr : s.trackers.reports = r :: rest)
    (hf : (s.unit (tkOfEntry r.entry.toNat)).health.fenced = false) (hen : (s.tracked r.entry.toNat).cfg.en = true) :
    let n := r.entry.toNat
    let e := s.tracked n
    let s0 : State := { s with trackers := { s.trackers with reports := rest } }
    exec .reportMerge s = .next (match recordFor s r.lap8 r.par with
      | some false => s0.setTracked n { e with cur := e.cur.merge r.data }
      | some true => s0.setTracked n { e with prev := e.prev.merge r.data }
      | none => statsLate s0 (tkOfEntry n) n false e.cfg.ctx.toNat r.lap8 r.par) := by
  intro n e s0
  have hopen : ((s0.unit (tkOfEntry n)).health.fenced || !(s0.tracked n).cfg.en) = false := by
    change ((s.unit (tkOfEntry n)).health.fenced || !(s.tracked n).cfg.en) = false
    rw [hf, hen]; rfl
  change execReportMerge s = _
  rw [execReportMerge, live_of_running _ hs, hr]
  change Host.Outcome.next (mergeReport s0 r) = _
  rw [mergeReport, if_neg (by rw [hopen]; decide)]
  rfl

theorem statsLate_of_entry (s : State) (tk n ctx : Nat) (lap8 : BitVec 8) (par : Bool) : statsLate s tk n false ctx lap8 par =
    s.post tk tk .statsLate (some ctx) (wordOf 32 n) (lap8.setWidth 32 ||| ((bit par).setWidth 32 <<< 8)) 0 := by
  have hentry : wordOf 32 n ||| ((bit false).setWidth 32 <<< 16) = wordOf 32 n := by simp [bit]
  rw [statsLate, hentry]

/-- A watch that takes a partial into its current or previous record (R187). -/
def Watch.taking (x : Watch) (p : Partial) (prev : Bool) : Watch :=
  if prev then { x with prev := x.prev.add p } else { x with cur := x.cur.add p }

/-- NORM_PARTIAL whose stamp names an open record of an enabled watch of a tracker that is not fenced. -/
theorem exec_normPartial {s : State} (hs : Running s) {p : Partial} {rest : List Partial}
    (hp : s.trackers.partials = p :: rest) (hf : (s.unit (tkOfWatch p.watch.toNat)).health.fenced = false)
    (hen : (s.watch p.watch.toNat).en = true) {prev : Bool} (hrec : recordFor s p.lap8 p.par = some prev)
    (hopen : ((s.watch p.watch.toNat).open prev).closed = false) :
    let n := p.watch.toNat
    let t := State.setWatch { s with trackers := { s.trackers with partials := rest } } n ((s.watch n).taking p prev)
    exec .normPartial s = .next (if p.close then closeWatch t n prev else t) := by
  intro n t
  change execNormPartial s = _
  rw [execNormPartial, live_of_running _ hs, hp]
  change Host.Outcome.next (mergePartial { s with trackers := { s.trackers with partials := rest } } p) = _
  have htaken : ((s.unit (tkOfWatch n)).health.fenced || !(s.watch n).en) = false := by
    rw [hf, hen]; rfl
  have hrec' : recordFor { s with trackers := { s.trackers with partials := rest } } p.lap8 p.par = some prev := hrec
  rw [mergePartial]
  simp only [hrec']
  refine congrArg _ ((if_neg ?_).trans (if_neg ?_))
  · change ¬ ((s.unit (tkOfWatch n)).health.fenced || !(s.watch n).en) = true
    rw [htaken]; decide
  · change ¬ ((s.watch n).open prev).closed = true
    rw [hopen]; decide

/-! ### The close scan (R177, R178, R181) -/

theorem Tracked.propose_spec (e : Tracked) (h : BitVec 16) (src : BitVec 2) : ∃ p v c,
    e.propose h src = { e with prop := p, pvalid := v, psrc := c } ∧
      (e.cfg.pinp = false → h ≠ 0 → p = proposalOf e.cfg h ∧ v = true ∧ c = src) ∧
      (e.cfg.pinp = true ∨ h = 0 → p = e.prop ∧ v = e.pvalid ∧ c = e.psrc) := by
  unfold Tracked.propose
  split
  · next hskip =>
    refine ⟨e.prop, e.pvalid, e.psrc, rfl, fun hpin hne => ?_, fun _ => ⟨rfl, rfl, rfl⟩⟩
    rw [hpin, Bool.false_or, decide_eq_true_eq] at hskip
    exact absurd hskip hne
  · next hgoes => exact ⟨_, _, _, rfl, fun _ _ => ⟨rfl, rfl, rfl⟩, fun hskip => absurd (by simpa using hskip) hgoes⟩

/-- The entry after its ring takes a committed amax (R181). -/
def Tracked.rolled (e : Tracked) (a : BitVec 16) : Tracked :=
  { e with ring := tset 0 e.ring e.head.toNat a, head := e.head + 1, fill := if e.fill.toNat < 32 then e.fill + 1 else e.fill }

theorem Tracked.commit_eq (e : Tracked) (r : Record) : e.commit r =
    { (e.rolled r.amax).propose (e.rolled r.amax).historyMax 1 with last := { r with requested := false } } := rfl

theorem Tracked.propose_with_prev (e : Tracked) (r : Record) (h : BitVec 16) (src : BitVec 2) :
    Tracked.propose { e with prev := r } h src = { e.propose h src with prev := r } := by
  unfold Tracked.propose
  dsimp only
  split <;> rfl

theorem Tracked.historyMax_eq (e : Tracked) : e.historyMax =
    (List.range (min (e.cfg.hlen.toNat + 1) e.fill.toNat)).foldl
      (fun m j => maxBf m (tget 0 e.ring ((e.head.toNat + 31 - j) % 32))) 0 := by
  have hslot : ∀ j, e.head.toNat + 32 - (j + 1) = e.head.toNat + 31 - j := fun j => Nat.add_sub_add_right _ 1 j
  unfold Tracked.historyMax
  simp only [hslot]

/-- The previous record has no part in a commit but for what is committed. -/
theorem Tracked.commit_with_prev (e : Tracked) (r r1 r2 : Record) (mark : Bool) :
    { Tracked.commit { e with prev := r1 } { r with requested := mark } with prev := r2 } = { e.commit r with prev := r2 } := by
  have hrolled : (Tracked.rolled { e with prev := r1 } r.amax) = { e.rolled r.amax with prev := r1 } := rfl
  have hmax : Tracked.historyMax { e.rolled r.amax with prev := r1 } = (e.rolled r.amax).historyMax := rfl
  rw [Tracked.commit_eq, Tracked.commit_eq, hrolled, hmax, Tracked.propose_with_prev]

/-- An entry after the close scan has reached it: committed where it is enabled and `commits`, its previous record empty but
for the mark of a request. -/
def Tracked.afterScan (e : Tracked) (commits mark : Bool) : Tracked :=
  { (if commits && e.cfg.en then e.commit e.prev else e) with prev := { requested := mark } }

theorem scanEntry_spec (commit : Bool) (s : State) (n : Nat) :
    KeepsWatches s (scanEntry commit s n) ∧ (∀ m, m ≠ n → (scanEntry commit s n).tracked m = s.tracked m) ∧
      ∃ mark, (scanEntry commit s n).tracked n =
        (s.tracked n).afterScan (commit && !(s.unit (tkOfEntry n)).health.fenced) mark := by
  unfold scanEntry
  simp only
  split
  · next hskip =>
    refine ⟨setTracked_keepsWatches s n _, fun m hm => State.tracked_setTracked_ne _ _ hm, false, ?_⟩
    have hout : ((commit && !(s.unit (tkOfEntry n)).health.fenced) && (s.tracked n).cfg.en) = false := by
      simp only [scanned, Bool.not_and, Bool.not_not, Bool.or_eq_true, Bool.not_eq_true'] at hskip
      rcases hskip with h | h <;> simp [h]
    rw [State.tracked_setTracked_self, Tracked.afterScan, hout]
    rfl
  · next hscan =>
    obtain ⟨hkeeps, hothers, mark, hmark⟩ := fallbackCheck_spec s n true
    refine ⟨hkeeps.trans (setTracked_keepsWatches _ n _), fun m hm => ?_, mark, ?_⟩
    · rw [State.tracked_setTracked_ne _ _ hm, hothers m hm]
    · obtain ⟨hen, hfree⟩ : (s.tracked n).cfg.en = true ∧ (s.unit (tkOfEntry n)).health.fenced = false := by
        simpa [scanned] using hscan
      rw [State.tracked_setTracked_self, hmark, Tracked.afterScan, hen, hfree]
      cases commit
      · rfl
      · exact Tracked.commit_with_prev _ _ _ _ _

/-- The scan of entries listed once each: it reaches those listed, and no other. -/
theorem scanEntries_spec (commit : Bool) {s : State} {l : List Nat} (hl : l.Nodup) :
    KeepsWatches s (l.foldl (scanEntry commit) s) ∧
      (∀ n, n ∉ l → (l.foldl (scanEntry commit) s).tracked n = s.tracked n) ∧
      ∀ n ∈ l, ∃ mark, (l.foldl (scanEntry commit) s).tracked n =
        (s.tracked n).afterScan (commit && !(s.unit (tkOfEntry n)).health.fenced) mark := by
  induction l generalizing s with
  | nil => exact ⟨.refl s, fun _ _ => rfl, fun n hn => absurd hn List.not_mem_nil⟩
  | cons a l ih =>
    obtain ⟨ha, hnodup⟩ := List.nodup_cons.1 hl
    obtain ⟨hkeeps, hothers, hself⟩ := scanEntry_spec commit s a
    obtain ⟨hkeeps', hothers', hscanned⟩ := ih (s := scanEntry commit s a) hnodup
    rw [List.foldl_cons]
    refine ⟨hkeeps.trans hkeeps', fun n hn => ?_, fun n hn => ?_⟩
    · obtain ⟨hna, hnl⟩ := List.ne_and_not_mem_of_not_mem_cons hn
      rw [hothers' n hnl, hothers n hna]
    · rcases List.mem_cons.1 hn with rfl | hnl
      · rw [hothers' n ha]
        exact hself
      · have hna : n ≠ a := fun h => ha (h ▸ hnl)
        rw [← hothers n hna, ← hkeeps.fenced]
        exact hscanned n hnl

/-- The tracked entries and the pace stand as they stood, and no watch looks for stumbles that did not. -/
structure KeepsTracked (s t : State) : Prop where
  tracked : t.trackers.tracked = s.trackers.tracked
  pace : t.pace = s.pace
  stb : ∀ w, (t.watch w).stb = (s.watch w).stb

theorem KeepsTracked.trans {s t v : State} (h : KeepsTracked s t) (h' : KeepsTracked t v) : KeepsTracked s v :=
  ⟨h'.tracked.trans h.tracked, h'.pace.trans h.pace, fun w => (h'.stb w).trans (h.stb w)⟩

theorem setWatch_keepsTracked (s : State) (w : Nat) {x : Watch} (h : x.stb = (s.watch w).stb) :
    KeepsTracked s (s.setWatch w x) := by
  refine ⟨rfl, rfl, fun v => ?_⟩
  by_cases hv : v = w
  · subst hv
    rw [State.watch_setWatch_self, h]
  · rw [State.watch_setWatch_ne _ _ hv]

theorem Watch.stb_close (x : Watch) (prev : Bool) : (x.close prev).stb = x.stb := by
  cases prev <;> rfl

theorem Watch.stb_commit (x : Watch) (n : BitVec 32) : (x.commit n).stb = x.stb := by
  unfold Watch.commit
  simp only
  split
  · rfl
  · split <;> rfl

/-- The scan of a watch that looks for no stumble (R178, R189, R192). -/
theorem scanWatch_keepsTracked (commit : Bool) {s : State} {w : Nat} (h : (s.watch w).stb = false) :
    KeepsTracked s (scanWatch commit s w) := by
  unfold scanWatch
  simp only
  split
  · exact setWatch_keepsTracked s w rfl
  · have hclosed : KeepsTracked s (if (s.watch w).prev.closed = true then s else closeWatch s w true) := by
      split
      · exact ⟨rfl, rfl, fun _ => rfl⟩
      · rw [closeWatch_of_quiet h]
        exact setWatch_keepsTracked s w (Watch.stb_close _ _)
    refine hclosed.trans (setWatch_keepsTracked _ w ?_)
    cases commit
    · rfl
    · exact Watch.stb_commit _ _

theorem scanWatches_keepsTracked (commit : Bool) {s : State} (h : ∀ w, (s.watch w).stb = false) (l : List Nat) :
    KeepsTracked s (l.foldl (scanWatch commit) s) :=
  each_inv (KeepsTracked s) (scanWatch commit)
    (fun _ w ht => ht.trans (scanWatch_keepsTracked commit ((ht.stb w).trans (h w)))) l s ⟨rfl, rfl, fun _ => rfl⟩

/-- The pace stands, and tracked entries differ in values staged for adoption, those of `p` alone. -/
def SameButAdoptions (p : Nat → Prop) (s t : State) : Prop :=
  t.pace = s.pace ∧ ∀ n, ∃ g, t.tracked n = { s.tracked n with staged := g } ∧ (¬ p n → g = (s.tracked n).staged)

theorem SameButAdoptions.refl (p : Nat → Prop) (s : State) : SameButAdoptions p s s := ⟨rfl, fun _ => ⟨_, rfl, fun _ => rfl⟩⟩

theorem SameButAdoptions.trans {p : Nat → Prop} {s t v : State} (h : SameButAdoptions p s t)
    (h' : SameButAdoptions p t v) : SameButAdoptions p s v := by
  refine ⟨h'.1.trans h.1, fun n => ?_⟩
  obtain ⟨g, hg, hout⟩ := h.2 n
  obtain ⟨g', hg', hout'⟩ := h'.2 n
  refine ⟨g', by rw [hg', hg], fun hp => ?_⟩
  rw [hout' hp, hg]
  exact hout hp

theorem KeepsTrackers.sameButAdoptions {s t : State} (h : KeepsTrackers s t) (p : Nat → Prop) : SameButAdoptions p s t :=
  ⟨h.pace, fun n => ⟨_, h.tracked n, fun _ => rfl⟩⟩

theorem stageEntry_sameButAdoptions {p : Nat → Prop} {n : Nat} (hp : p n) (s : State) :
    SameButAdoptions p s (stageEntry s n) := by
  obtain ⟨g, hg, -⟩ := stageEntry_eq s n
  rw [hg]
  refine ⟨rfl, fun m => ?_⟩
  by_cases hm : m = n
  · subst hm
    exact ⟨_, State.tracked_setTracked_self _ _ _, fun hout => absurd hp hout⟩
  · exact ⟨_, State.tracked_setTracked_ne _ _ hm, fun _ => rfl⟩

theorem thresholdEvents_keepsTrackers (s : State) (n : Nat) : KeepsTrackers s (thresholdEvents s n) := by
  have hone : ∀ (t : State) (c : Prop) [Decidable c] b v x y z u, KeepsTrackers t (if c then t.post b b v x y z u else t) :=
    fun _ _ _ _ _ _ _ _ _ => keepsTrackers_ite (post_keepsTrackers _ _ _ _ _ _ _) (.refl _)
  exact ((hone _ _ _ _ _ _ _ _).trans (hone _ _ _ _ _ _ _ _)).trans (hone _ _ _ _ _ _ _ _)

theorem followEntry_sameButAdoptions {p : Nat → Prop} {n : Nat} (hp : p n) (s : State) :
    SameButAdoptions p s (followEntry s n) := by
  have hevents := (thresholdEvents_keepsTrackers s n).sameButAdoptions p
  unfold followEntry
  simp only
  split
  · exact hevents.trans (stageEntry_sameButAdoptions hp _)
  · exact hevents

/-- Clearing the marks empties every previous record. -/
theorem clearMarks_spec (s : State) :
    (clearMarks s).pace = s.pace ∧ ∀ n, (clearMarks s).tracked n = { s.tracked n with prev := {} } := by
  have hfold : ∀ (l : List Nat) (t : State),
      let u := l.foldl (fun t n => t.setTracked n { t.tracked n with prev := {} }) t
      u.pace = t.pace ∧ ∀ n, u.tracked n = if n ∈ l then { t.tracked n with prev := {} } else t.tracked n := by
    intro l
    induction l with
    | nil => exact fun t => ⟨rfl, fun n => (if_neg List.not_mem_nil).symm⟩
    | cons a l ih =>
      intro t
      obtain ⟨hpace, htracked⟩ := ih (t.setTracked a { t.tracked a with prev := {} })
      refine ⟨hpace, fun n => (htracked n).trans ?_⟩
      by_cases hna : n = a
      · subst hna
        simp
      · simp [State.tracked_setTracked_ne _ _ hna, hna]
  obtain ⟨hpace, htracked⟩ := hfold (s.trackers.tracked.map Prod.fst) s
  refine ⟨hpace, fun n => (htracked n).trans ?_⟩
  split
  · rfl
  · next hout =>
    have hempty : s.tracked n = {} := tget_of_notMem _ _ _ (fun c hc hk => hout (List.mem_map.2 ⟨c, hc, hk⟩))
    rw [hempty]

/-- What the close scan makes of a tracked entry whose tracker is fenced or not (R177, R178). -/
def Tracked.closed (e : Tracked) (rerun fenced : Bool) : Tracked :=
  { (if !rerun && !fenced && e.cfg.en then e.commit e.prev else e) with prev := {} }

/-- An entry that the close scan has committed: the record stands in its ring and LAST, and the history proposes (R178, R181). -/
theorem Tracked.committed_spec {e e' : Tracked} {g : Option Staging}
    (h : e' = { e.commit e.prev with prev := {}, staged := g }) :
    let top := (List.range (min (e.cfg.hlen.toNat + 1) e'.fill.toNat)).foldl
      (fun m j => maxBf m (tget 0 e'.ring ((e'.head.toNat + 31 - j) % 32))) 0
    e'.prev = {} ∧ e'.cur = e.cur ∧ e'.cfg = e.cfg ∧ e'.adopted = e.adopted ∧
      e'.last = { e.prev with requested := false } ∧ e'.head = e.head + 1 ∧
      (∀ j, tget 0 e'.ring j = if j = e.head.toNat then e.prev.amax else tget 0 e.ring j) ∧
      e'.fill = (if e.fill.toNat < 32 then e.fill + 1 else e.fill) ∧
      (e.cfg.pinp = false → top ≠ 0 → e'.prop = proposalOf e.cfg top ∧ e'.pvalid = true ∧ e'.psrc = 1) ∧
      (e.cfg.pinp = true ∨ top = 0 → e'.prop = e.prop ∧ e'.pvalid = e.pvalid ∧ e'.psrc = e.psrc) := by
  obtain ⟨p, v, c, hcommit, hproposed, hkept⟩ := (e.rolled e.prev.amax).propose_spec (e.rolled e.prev.amax).historyMax 1
  rw [Tracked.commit_eq, hcommit] at h
  subst h
  intro top
  have htop : top = (e.rolled e.prev.amax).historyMax := (Tracked.historyMax_eq _).symm
  rw [← htop] at hproposed hkept
  refine ⟨rfl, rfl, rfl, rfl, rfl, rfl, fun j => ?_, rfl, hproposed, hkept⟩
  by_cases hj : j = e.head.toNat
  · rw [if_pos hj, hj]
    exact tget_tset_self _ _ _ _
  · rw [if_neg hj]
    exact tget_tset_ne _ _ _ hj

/-- The close scan of listed-once entries, where no watch looks for stumbles. -/
theorem closeScan_spec {s : State} (hnodup : (s.trackers.tracked.map Prod.fst).Nodup) (hstb : ∀ w, (s.watch w).stb = false)
    (rerun : Bool) :
    (closeScan s rerun).trackers.settle = .idle ∧ (closeScan s rerun).pace = s.pace ∧ ∀ n, ∃ g,
      (closeScan s rerun).tracked n =
        { (s.tracked n).closed rerun (s.unit (tkOfEntry n)).health.fenced with staged := g } ∧
      (rerun = true ∨ (s.tracked n).cfg.en = false → g = (s.tracked n).staged) := by
  obtain ⟨hscan, hout, hin⟩ := scanEntries_spec (!rerun) hnodup
  have hscanned : ∀ n, ∃ mark, ((s.trackers.tracked.map Prod.fst).foldl (scanEntry (!rerun)) s).tracked n =
      (s.tracked n).afterScan (!rerun && !(s.unit (tkOfEntry n)).health.fenced) mark := by
    intro n
    by_cases hn : n ∈ s.trackers.tracked.map Prod.fst
    · exact hin n hn
    · have hempty : s.tracked n = {} := tget_of_notMem _ _ _ (fun c hc hk => hn (List.mem_map.2 ⟨c, hc, hk⟩))
      refine ⟨false, ?_⟩
      rw [hout n hn, hempty, Tracked.afterScan, if_neg (by simp)]
  unfold closeScan
  simp only
  generalize (s.trackers.tracked.map Prod.fst).foldl (scanEntry (!rerun)) s = s1 at hscan hscanned ⊢
  have hwatch := scanWatches_keepsTracked (!rerun) (fun w => by rw [hscan.watch]; exact hstb w)
    (s1.trackers.watches.map Prod.fst)
  generalize (s1.trackers.watches.map Prod.fst).foldl (scanWatch (!rerun)) s1 = s2 at hwatch ⊢
  have hfollow : SameButAdoptions (fun n => rerun = false ∧ scanned s n = true) s2
      (if rerun = true then s2 else ((s.trackers.tracked.map Prod.fst).filter (scanned s)).foldl followEntry s2) := by
    split
    · exact .refl _ s2
    · next hcommit =>
      exact List.foldlRecOn _ followEntry (motive := SameButAdoptions _ s2) (.refl _ s2) (fun t ht n hn =>
        ht.trans (followEntry_sameButAdoptions ⟨Bool.eq_false_iff.2 hcommit, (List.mem_filter.1 hn).2⟩ t))
  generalize (if rerun = true then s2 else ((s.trackers.tracked.map Prod.fst).filter (scanned s)).foldl followEntry s2) = s3
    at hfollow ⊢
  obtain ⟨hpace, hclear⟩ := clearMarks_spec s3
  refine ⟨trivial, ?_, fun n => ?_⟩
  · exact hpace.trans (hfollow.1.trans (hwatch.pace.trans hscan.pace))
  · obtain ⟨mark, hmark⟩ := hscanned n
    obtain ⟨g, hg, hstays⟩ := hfollow.2 n
    have htracked : s2.tracked n = s1.tracked n := by unfold State.tracked; rw [hwatch.tracked]
    refine ⟨g, (hclear n).trans ?_, fun h => ?_⟩
    · rw [hg, htracked, hmark]
      rfl
    · rw [hstays (by rintro ⟨hr, hs⟩; rcases h with h | h <;> simp_all [scanned]), htracked, hmark, Tracked.afterScan,
        if_neg (by rcases h with h | h <;> simp [h])]

/-! ### The statements -/

/-- Settles O41: a report and a partial go where their stamp sends them, and each tracked entry is reached by the close scan
once, its watches finding nothing. -/
theorem trackersMergeReportsAndClose : Obligations.TrackersMergeReportsAndClose := by
  unfold Obligations.TrackersMergeReportsAndClose
  refine ⟨fun s r rest hs hr => ?_, fun a d => ⟨rfl, rfl, rfl, rfl, rfl, rfl, rfl, rfl⟩, fun s p rest hs hp => ?_,
    fun s start rerun hs hsettle => ?_, fun s start rerun hs hsettle hnodup hstb => ?_⟩
  · intro n e s0 now before hf hen
    have hexec := exec_reportMerge hs hr hf hen
    refine ⟨fun hn => ?_, fun hn hb => ?_, fun hn hb => ?_⟩
    · rw [hexec, recordFor_of_now hn]
    · rw [hexec, recordFor_of_before hn hb]
    · rw [hexec, recordFor_of_late hn hb]
      exact congrArg _ (statsLate_of_entry _ _ _ _ _ _)
  · intro n w s0 plus now before hf hen
    refine ⟨fun hn hopen => ?_, fun hn hb hopen => ?_⟩
    · have htaking : w.taking p false = { w with cur := plus w.cur } := rfl
      rw [exec_normPartial hs hp hf hen (recordFor_of_now hn) hopen, htaking]
    · have htaking : w.taking p true = { w with prev := plus w.prev } := rfl
      rw [exec_normPartial hs hp hf hen (recordFor_of_before hn hb) hopen, htaking]
  · change execSettleWindowEnd s = _
    rw [execSettleWindowEnd, live_of_running _ hs, hsettle]
  · obtain ⟨hidle, hpace, hentry⟩ := closeScan_spec hnodup hstb rerun
    generalize ht : closeScan s rerun = t at hidle hpace hentry
    refine ⟨t, ?_, hidle, hpace, fun n => ?_⟩
    · change execCloseScanDone s = _
      rw [execCloseScanDone, live_of_running _ hs, hsettle, ← ht]
    · obtain ⟨g, hg, hstays⟩ := hentry n
      refine ⟨fun hr => ?_, fun hr hoff => ?_, fun hr hen hf' => ?_⟩
      · rw [hg, hstays (.inl hr), hr]
        rfl
      · rw [hg, hstays (.inr hoff), Tracked.closed, if_neg (by simp [hoff])]
      · have hfree : (s.unit (tkOfEntry n)).health.fenced = false := hf'
        refine Tracked.committed_spec (g := g) (hg.trans ?_)
        rw [Tracked.closed, if_pos (by simp [hr, hen, hfree])]

/-- Settles O42: the watch that the partial closes judges the record that the partial was added to. -/
theorem aWatchFindsAStumble : Obligations.AWatchFindsAStumble := by
  unfold Obligations.AWatchFindsAStumble
  intro s p rest hs hp hclose hlap hpar w hf hen hopen
  have hexec := exec_normPartial hs hp hf hen (recordFor_of_now ⟨hlap, hpar⟩) hopen
  refine ⟨_, hexec.trans (congrArg _ (if_pos hclose)), ?_⟩
  rw [watch_closeWatch_setWatch]
  refine ⟨rfl, rfl, ?_⟩
  change isStumble (w.taking p false) (normOf (w.cur.add p)) = true ↔ _
  simp only [isStumble, Bool.and_eq_true, Bool.or_eq_true, decide_eq_true_eq, and_assoc]
  rfl

end Sys2Proof.Machine
end

section
/-!
PROOFS. SCALE and ADOPT_ACK: proposals, pins, staged values and their acknowledgement (R181 to R183, R299).
-/

namespace Sys2Proof.Machine

/-! ### Converters that a staged value waits for (R183) -/

theorem bitAt_or_one {c : Nat} (hc : c < 64) (m : BitVec 64) (k : Nat) :
    bitAt (m ||| (1#64 <<< k)) c = (bitAt m c || decide (c = k)) := by
  have hone : (1#64 <<< k).getLsbD c = decide (c = k) := by
    rw [BitVec.getLsbD_shiftLeft, BitVec.getLsbD_one, decide_eq_true hc, Bool.true_and, Bool.eq_iff_iff]
    simp only [Bool.and_eq_true, Bool.not_eq_true', decide_eq_false_iff_not, decide_eq_true_eq]
    omega
  rw [bitAt, BitVec.getLsbD_or, hone]

/-- A mask put together bit by bit. -/
theorem bitAt_foldl_mask (p : Nat → Bool) {c : Nat} (hc : c < 64) (k : Nat) :
    bitAt ((List.range k).foldl (fun m j => if p j then m ||| (1#64 <<< j) else m) 0) c = (decide (c < k) && p c) := by
  induction k with
  | zero => simp
  | succ k ih =>
    rw [List.range_succ, List.foldl_append, List.foldl_cons, List.foldl_nil]
    have hbit : bitAt (if p k then (List.range k).foldl (fun m j => if p j then m ||| (1#64 <<< j) else m) 0 ||| (1#64 <<< k)
        else (List.range k).foldl (fun m j => if p j then m ||| (1#64 <<< j) else m) 0) c =
        ((decide (c < k) && p c) || (decide (c = k) && p k)) := by
      split
      · next hk => rw [bitAt_or_one hc, ih, hk, Bool.and_true]
      · next hk => rw [ih, Bool.eq_false_iff.2 hk, Bool.and_false, Bool.or_false]
    rw [hbit]
    by_cases hk : c = k
    · subst hk; simp
    · have hlt : c < k + 1 ↔ c < k := by omega
      simp [hk, hlt]

/-- A converter is still needed where the set names it and it serves. -/
theorem bitAt_stillNeeded (s : State) (need : BitVec 64) {c : Nat} (hc : c < 64) :
    bitAt (stillNeeded s need) c = (bitAt need c && s.serving (0x011 + c)) := by
  rw [stillNeeded, bitAt_foldl_mask (fun c => bitAt need c && s.serving (firstBib .cv + c)) hc, decide_eq_true hc,
    Bool.true_and]
  rfl

/-- Every converter of a set that serves has acknowledged. -/
theorem stillNeeded_acknowledged_iff (s : State) (need got : BitVec 64) : stillNeeded s need &&& ~~~got = 0 ↔
    ∀ c < 64, bitAt need c = true → s.serving (0x011 + c) = true → bitAt got c = true := by
  have hbit : ∀ c < 64, bitAt (stillNeeded s need &&& ~~~got) c =
      (bitAt need c && s.serving (0x011 + c) && !bitAt got c) := fun c hc => by
    rw [bitAt, BitVec.getLsbD_and, BitVec.getLsbD_not, decide_eq_true hc, Bool.true_and, ← bitAt_stillNeeded s need hc]
  constructor
  · intro h c hc hneed hserves
    have hc' := hbit c hc
    rw [h, hneed, hserves] at hc'
    simpa using hc'
  · intro h
    refine BitVec.eq_of_getLsbD_eq (fun c hc => ?_)
    have hall := h c hc
    change bitAt _ c = _
    rw [hbit c hc]
    simp_all

/-! ### What an acknowledgement settles (R183) -/

/-- A staged value completes where every converter that it still needs has acknowledged. -/
def Staging.settled (g : Staging) (s : State) : Staging :=
  if g.complete.isNone && decide (stillNeeded s g.need &&& ~~~g.got = 0) then { g with complete := some s.now } else g

/-- A staged value that was not complete settles in its completion alone. -/
theorem Staging.settled_spec (s : State) {g : Staging} (hopen : g.complete = none) :
    let g' := g.settled s
    g'.got = g.got ∧ g'.value = g.value ∧ g'.need = g.need ∧
      (stillNeeded s g.need &&& ~~~g.got = 0 → g'.complete = some s.now) ∧
      (stillNeeded s g.need &&& ~~~g.got ≠ 0 → g'.complete = none) := by
  unfold Staging.settled
  by_cases hall : stillNeeded s g.need &&& ~~~g.got = 0
  · rw [if_pos (by rw [hopen, hall]; rfl)]
    exact ⟨rfl, rfl, rfl, fun _ => rfl, fun h => absurd hall h⟩
  · rw [if_neg (by rw [decide_eq_false hall, Bool.and_false]; decide)]
    exact ⟨rfl, rfl, rfl, fun h => absurd h hall, fun _ => hopen⟩

/-- One entry of `settleStaging`. -/
def settleEntryStaging (t : State) (x : Nat × Tracked) : State :=
  match x.2.staged with
  | some g =>
    if g.complete.isNone && decide (stillNeeded t g.need &&& ~~~g.got = 0) then
      t.setTracked x.1 { x.2 with staged := some { g with complete := some t.now } }
    else t
  | none => t

theorem settleStaging_eq (s : State) : settleStaging s = s.trackers.tracked.foldl settleEntryStaging s := rfl

theorem settleEntryStaging_frame (t : State) (x : Nat × Tracked) : ∃ y, settleEntryStaging t x = { t with trackers := y } := by
  unfold settleEntryStaging
  split
  · split
    · exact ⟨_, rfl⟩
    · exact ⟨t.trackers, rfl⟩
  · exact ⟨t.trackers, rfl⟩

theorem tracked_settleEntryStaging_ne (t : State) {x : Nat × Tracked} {n : Nat} (h : n ≠ x.1) :
    (settleEntryStaging t x).tracked n = t.tracked n := by
  unfold settleEntryStaging
  split
  · split
    · exact State.tracked_setTracked_ne _ _ h
    · rfl
  · rfl

/-- An entry that the list does not name stays. -/
theorem foldl_settleEntryStaging_frame {l : List (Nat × Tracked)} {n : Nat} (h : ∀ x ∈ l, n ≠ x.1) (t : State) :
    (∃ y, l.foldl settleEntryStaging t = { t with trackers := y }) ∧
      (l.foldl settleEntryStaging t).tracked n = t.tracked n := by
  refine List.foldlRecOn l settleEntryStaging
    (motive := fun u => (∃ y, u = { t with trackers := y }) ∧ u.tracked n = t.tracked n) ⟨⟨_, rfl⟩, rfl⟩ ?_
  rintro _ ⟨⟨y, rfl⟩, hn⟩ x hx
  obtain ⟨y', hy'⟩ := settleEntryStaging_frame { t with trackers := y } x
  exact ⟨⟨y', hy'⟩, (tracked_settleEntryStaging_ne _ (h x hx)).trans hn⟩

/-- An entry just set settles by its own staged value, whatever else is staged. -/
theorem tracked_settleStaging_setTracked (s : State) (n : Nat) {e : Tracked} {g : Staging} (hg : e.staged = some g) :
    (settleStaging (s.setTracked n e)).tracked n = { e with staged := some (g.settled s) } := by
  have hne : e ≠ {} := by rintro rfl; cases hg
  have hlist : (s.setTracked n e).trackers.tracked = s.trackers.tracked.filter (fun c => decide (c.1 < n)) ++ [(n, e)]
      ++ s.trackers.tracked.filter (fun c => decide (n < c.1)) := by
    change tset {} s.trackers.tracked n e = _
    rw [tset, if_neg hne]
  have hlow : ∀ x ∈ s.trackers.tracked.filter (fun c => decide (c.1 < n)), n ≠ x.1 := fun x hx => by
    have := of_decide_eq_true (List.mem_filter.1 hx).2; omega
  have hhigh : ∀ x ∈ s.trackers.tracked.filter (fun c => decide (n < c.1)), n ≠ x.1 := fun x hx => by
    have := of_decide_eq_true (List.mem_filter.1 hx).2; omega
  rw [settleStaging_eq, hlist, List.foldl_append, List.foldl_append, List.foldl_cons, List.foldl_nil]
  obtain ⟨⟨y, hy⟩, hself⟩ := foldl_settleEntryStaging_frame hlow (s.setTracked n e)
  rw [(foldl_settleEntryStaging_frame hhigh _).2]
  rw [State.tracked_setTracked_self] at hself
  rw [hy] at hself ⊢
  unfold settleEntryStaging Staging.settled
  rw [hg]
  dsimp only
  change State.tracked (if g.complete.isNone && decide (stillNeeded s g.need &&& ~~~g.got = 0) then _ else _) n = _
  split
  · exact State.tracked_setTracked_self _ _ _
  · rw [hself, ← hg]

/-- ADOPT_ACK of a converter that serves, for an entry with a staged value that needs it. -/
theorem exec_adoptAck {s : State} (hs : Running s) {n : BitVec 14} {cv : BitVec 6} {g : Staging}
    (hg : (s.tracked n.toNat).staged = some g) (hneed : bitAt g.need cv.toNat = true)
    (hserves : s.serving (0x011 + cv.toNat) = true) :
    exec (.adoptAck n cv) s = .next (settleStaging (s.setTracked n.toNat
      { s.tracked n.toNat with staged := some { g with got := g.got ||| (1#64 <<< cv.toNat) } })) := by
  change execAdoptAck n cv s = _
  rw [execAdoptAck, live_of_running _ hs, hg]
  exact congrArg _ (if_pos (by rw [hneed]; exact hserves))

/-! ### SCALE (R181, R182, R299) -/

/-- The command that executes a SCALE. -/
def scaleCommand (b : Bib) (q : BitVec 14) : Op → Option Instr
  | .scalePropose => some (.scalePropose b q)
  | .scalePin => some (.scalePin b q)
  | .scaleAdopt => some (.scaleAdopt b q)
  | _ => none

theorem exec_scaleCommand {s : State} (hs : s.mg.fatal = false) {b : Bib} {q : BitVec 14} {o : Op} {c : Instr}
    (hc : scaleCommand b q o = some c) : exec c s = .next (workOn s b.toNat q.toNat o (onExecutor scaleRun)) := by
  unfold scaleCommand at hc
  split at hc <;> cases hc <;> exact live_of_running _ hs

theorem onExecutor_of_fenced {run : State → Issued → State × Issued} {s : State} {i : Issued}
    (h : (s.unit (executor i)).health.fenced = true) :
    onExecutor run s i = (s, { i with finished := some .wrongState }) := by
  rw [onExecutor, h, if_pos rfl]

theorem onExecutor_of_free {run : State → Issued → State × Issued} {s : State} {i : Issued}
    (h : (s.unit (executor i)).health.fenced = false) : onExecutor run s i = run s i := by
  rw [onExecutor, h, if_neg Bool.false_ne_true]

/-- A SCALE done: its entry, and its instruction with the summary of R299. -/
def scaleDone (s : State) (b : Bib) (i : Issued) (x : Tracked) (empty : Bool) : State :=
  setIssued (s.setTracked (hTrk i.head) x) b.toNat { i with
    finished := some .ok
    summary := some { scaleSummary x with status := if empty || !x.pvalid then some .empty else none } }

section
variable {s : State} {i : Issued}

theorem scaleSummary_of_proposed (x : Tracked) :
    scaleSummary x = { scaleSummary x with status := if false || !x.pvalid then some .empty else none } := by
  unfold scaleSummary
  cases x.pvalid <;> rfl

/-- PROPOSE VALUE. -/
theorem scaleRun_value (hop : i.op = .scalePropose) (hsel : (bitsAt i.body 0 2).toNat = 2) :
    scaleRun s i = (s.setTracked (hTrk i.head) { s.tracked (hTrk i.head) with prop := bitsAt i.body 16 16, pvalid := true, psrc := 3 },
      { i with finished := some .ok, summary := some (scaleSummary
        { s.tracked (hTrk i.head) with prop := bitsAt i.body 16 16, pvalid := true, psrc := 3 }) }) := by
  simp only [scaleRun, hop, hsel]
  rfl

/-- PROPOSE CURRENT and HISTORY. -/
theorem scaleRun_found (hop : i.op = .scalePropose) (hsel : (bitsAt i.body 0 2).toNat ≠ 2) :
    let e := s.tracked (hTrk i.head)
    let h := proposeInput e (bitsAt i.body 0 2).toNat
    let x := e.propose h (if (bitsAt i.body 0 2).toNat = 0 then 1 else 2)
    scaleRun s i = (s.setTracked (hTrk i.head) x, { i with
      finished := some .ok
      summary := some (if h = 0 then { scaleSummary x with status := some .empty } else scaleSummary x) }) := by
  have hfound : (decide ((bitsAt i.body 0 2).toNat ≠ 2)) = true := decide_eq_true hsel
  simp only [scaleRun, hop, if_neg hsel, hfound, beq_self_eq_true, Bool.true_and, decide_eq_true_eq]
  rfl

theorem scaleRun_pin (hop : i.op = .scalePin) :
    let x := { s.tracked (hTrk i.head) with cfg := { (s.tracked (hTrk i.head)).cfg with pinp := bitAt i.body 2 } }
    scaleRun s i = (s.setTracked (hTrk i.head) x, { i with finished := some .ok, summary := some (scaleSummary x) }) := by
  simp only [scaleRun, hop]
  rfl

theorem scaleRun_adopt (hop : i.op = .scaleAdopt) :
    scaleRun s i = (stageEntry (s.setTracked (hTrk i.head) (s.tracked (hTrk i.head))) (hTrk i.head),
      { i with finished := some .ok, summary := some (scaleSummary (s.tracked (hTrk i.head))) }) := by
  simp only [scaleRun, hop]
  rfl

end

section
variable {s : State} {b : Bib} {q : BitVec 14} {i : Issued} (h : Works s b q i) {c : Instr}
  (hc : scaleCommand b q i.op = some c)
include h hc

/-- The tracker that holds the entry, fenced since the issue, brings WRONG_STATE (R170, R313). -/
theorem exec_scale_fenced (hf : (s.unit (executor i)).health.fenced = true) :
    exec c s = .next (setIssued s b.toNat { i with finished := some .wrongState }) := by
  have hrun := onExecutor_of_fenced (run := scaleRun) hf
  rw [exec_scaleCommand h.running hc, workOn_of_works h rfl _ (by rw [hrun]; exact finished_ne_of_works h _), hrun]

theorem exec_scale (hf : (s.unit (executor i)).health.fenced = false) {t : State} {sum : Summary}
    (hr : scaleRun s i = (t, { i with finished := some .ok, summary := some sum })) :
    exec c s = .next (setIssued t b.toNat { i with finished := some .ok, summary := some sum }) := by
  have hrun := (onExecutor_of_free (run := scaleRun) hf).trans hr
  have hne : { i with finished := some Status.ok, summary := some sum } ≠ i := by
    intro heq
    have hfin := congrArg Issued.finished heq
    rw [unfinished_of_works h] at hfin
    cases hfin
  rw [exec_scaleCommand h.running hc, workOn_of_works h rfl _ (by rw [hrun]; exact hne), hrun]

end

/-- A PROPOSE from an input other than +0, of an entry that is not pinned. -/
theorem Tracked.propose_of_unpinned {e : Tracked} (hpin : e.cfg.pinp = false) {h : BitVec 16} (hne : h ≠ 0) (src : BitVec 2) :
    e.propose h src = { e with prop := proposalOf e.cfg h, pvalid := true, psrc := src } := by
  rw [Tracked.propose, if_neg (by rw [hpin, Bool.false_or, decide_eq_true_eq]; exact hne)]

theorem Tracked.propose_zero (e : Tracked) (src : BitVec 2) : e.propose 0 src = e := by
  rw [Tracked.propose, if_pos (by simp)]

section
variable {s : State} {b : Bib} {q : BitVec 14} {i : Issued} (h : Works s b q i) (hop : i.op = .scalePropose)
  (hf : (s.unit (executor i)).health.fenced = false)
include h hop hf

/-- PROPOSE CURRENT and HISTORY with something to propose from (R181). -/
theorem exec_propose_found {sel : Nat} (hsel : (bitsAt i.body 0 2).toNat = sel) (hne : sel ≠ 2)
    (hpin : (s.tracked (hTrk i.head)).cfg.pinp = false) {m : BitVec 16}
    (hm : proposeInput (s.tracked (hTrk i.head)) sel = m) (hm0 : m ≠ 0) :
    exec (.scalePropose b q) s = .next (scaleDone s b i { s.tracked (hTrk i.head) with
      prop := proposalOf (s.tracked (hTrk i.head)).cfg m, pvalid := true, psrc := if sel = 0 then 1 else 2 } false) := by
  subst hsel
  have hrun := scaleRun_found (s := s) hop hne
  simp only [hm, if_neg hm0, Tracked.propose_of_unpinned hpin hm0] at hrun
  rw [exec_scale h (by rw [hop]; rfl) hf hrun, scaleSummary_of_proposed]
  rfl

/-- PROPOSE CURRENT and HISTORY with nothing to propose from: the entry stays. -/
theorem exec_propose_empty {sel : Nat} (hsel : (bitsAt i.body 0 2).toNat = sel) (hne : sel ≠ 2)
    (hm : proposeInput (s.tracked (hTrk i.head)) sel = 0) :
    exec (.scalePropose b q) s = .next (scaleDone s b i (s.tracked (hTrk i.head)) true) := by
  subst hsel
  have hrun := scaleRun_found (s := s) hop hne
  simp only [hm, Tracked.propose_zero, if_true] at hrun
  rw [exec_scale h (by rw [hop]; rfl) hf hrun]
  rfl

end

/-- A table entry set twice. -/
theorem tset_tset {α : Type} [DecidableEq α] (d : α) (t : Tab α) (k : Nat) (v w : α) :
    tset d (tset d t k v) k w = tset d t k w := by
  have hlow : ∀ l : Tab α, (l.filter (fun c => decide (k < c.1))).filter (fun c => decide (c.1 < k)) = [] := fun l => by
    simp only [List.filter_filter, List.filter_eq_nil_iff, Bool.and_eq_true, decide_eq_true_eq]
    omega
  have hhigh : ∀ l : Tab α, (l.filter (fun c => decide (c.1 < k))).filter (fun c => decide (k < c.1)) = [] := fun l => by
    simp only [List.filter_filter, List.filter_eq_nil_iff, Bool.and_eq_true, decide_eq_true_eq]
    omega
  have hself : ∀ p : Nat × α → Bool, p (k, v) = false → (if v = d then [] else [(k, v)]).filter p = [] := fun p hp => by
    split
    · rfl
    · simp [hp]
  simp only [tset, List.filter_append, List.filter_filter, Bool.and_self, hlow, hhigh, List.append_nil, List.nil_append,
    hself (fun c => decide (c.1 < k)) (by simp), hself (fun c => decide (k < c.1)) (by simp)]

theorem setTracked_setTracked (s : State) (n : Nat) (x y : Tracked) : (s.setTracked n x).setTracked n y = s.setTracked n y := by
  simp only [State.setTracked, tset_tset]

/-- Settles O38: a SCALE sets its own entry, and an acknowledgement settles the entry that it is for. -/
theorem scaleProposesAdoptsAndPins : Obligations.ScaleProposesAdoptsAndPins := by
  unfold Obligations.ScaleProposesAdoptsAndPins
  refine ⟨fun s b q i h => ?_, fun s n cv g hs hg hneed hserves hopen => ?_⟩
  · intro n e sel ends fenced
    refine ⟨fun c hc hf => exec_scale_fenced h hc hf, fun hop hf => ?_, fun hop hf => ?_, fun hop hf => ?_⟩
    · have hc : scaleCommand b q i.op = some (.scalePropose b q) := by rw [hop]; rfl
      refine ⟨fun hsel => ?_, fun hsel hpin hne => ?_, fun hsel hpin hne => ?_, fun hsel hzero => ?_, fun hsel hzero => ?_⟩
      · rw [exec_scale h hc hf (scaleRun_value hop hsel), scaleSummary_of_proposed]
        rfl
      · exact exec_propose_found h hop hf hsel (by decide) hpin rfl hne
      · exact exec_propose_found h hop hf hsel (by decide) hpin rfl hne
      · exact exec_propose_empty h hop hf hsel (by decide) hzero
      · exact exec_propose_empty h hop hf hsel (by decide) hzero
    · have hc : scaleCommand b q i.op = some (.scalePin b q) := by rw [hop]; rfl
      rw [exec_scale h hc hf (scaleRun_pin hop), scaleSummary_of_proposed]
      rfl
    · have hc : scaleCommand b q i.op = some (.scaleAdopt b q) := by rw [hop]; rfl
      obtain ⟨g, hg, hvalue, hbase, hcount, hgot, hneed⟩ := stageEntry_eq (s.setTracked n e) n
      rw [State.tracked_setTracked_self] at hg hvalue hbase hcount hneed
      refine ⟨g, ?_, hvalue, hbase, hcount, hgot, fun c hlt => ?_⟩
      · rw [exec_scale h hc hf (scaleRun_adopt hop), scaleSummary_of_proposed, hg, setTracked_setTracked]
        rfl
      · rw [hneed, bitAt_stillNeeded _ _ hlt]
        rfl
  · have hall := stillNeeded_acknowledged_iff s g.need (g.got ||| (1#64 <<< cv.toNat))
    have hsettled := tracked_settleStaging_setTracked s n.toNat
      (e := { s.tracked n.toNat with staged := some { g with got := g.got ||| (1#64 <<< cv.toNat) } }) rfl
    obtain ⟨x, hframe⟩ := settleStaging_frame (s.setTracked n.toNat
      { s.tracked n.toNat with staged := some { g with got := g.got ||| (1#64 <<< cv.toNat) } })
    obtain ⟨hgot, hvalue, hset, hdone, hwaits⟩ := Staging.settled_spec s
      (g := { g with got := g.got ||| (1#64 <<< cv.toNat) }) hopen
    refine ⟨_, _, exec_adoptAck hs hg hneed hserves, by rw [hsettled], hgot, hvalue, hset, fun h => ?_, fun h => ?_, ?_, ?_⟩
    · exact hdone (hall.2 (by rwa [hgot] at h))
    · obtain ⟨c, hc, hneeds, hcserves, hlacks⟩ := h
      rw [hgot] at hlacks
      refine hwaits (fun h0 => ?_)
      rw [hall.1 h0 c hc hneeds hcserves] at hlacks
      cases hlacks
    · rw [hframe]
      rfl
    · rw [hframe]
      rfl

end Sys2Proof.Machine
end

section
/-!
PROOFS. INSTRUCTION_COMPLETE of the only issued instruction of a queue on a near unit (R173, R187, R307, R310, R311, R320).
-/

namespace Sys2Proof.Machine

/-! ### What a completion leaves alone (R168, R292, R307) -/

/-- The states differ in stream entries, last-use entries and what is driven out alone. -/
def SameButStreams (s t : State) : Prop :=
  ∃ x l o, t = { s with trackers := { s.trackers with streams := x }, tables := { s.tables with lastUse := l }, out := o }

theorem SameButStreams.refl (s : State) : SameButStreams s s := ⟨_, _, _, rfl⟩

theorem SameButStreams.trans {s t v : State} (h : SameButStreams s t) (h' : SameButStreams t v) : SameButStreams s v := by
  obtain ⟨_, _, _, rfl⟩ := h
  obtain ⟨x, l, o, rfl⟩ := h'
  exact ⟨x, l, o, rfl⟩

theorem sameButStreams_each {α : Type} {f : State → α → State} (h : ∀ t a, SameButStreams t (f t a)) (l : List α) (s : State) :
    SameButStreams s (s.each l f) :=
  each_inv (SameButStreams s) f (fun t a ht => ht.trans (h t a)) l s (.refl s)

theorem onStream_sameButStreams (s : State) (n : Nat) (f : Stream → Stream) : SameButStreams s (s.onStream n f) := ⟨_, _, _, rfl⟩

theorem settleEntry_sameButStreams (s : State) (n : Nat) : SameButStreams s (settleEntry s n) := by
  unfold settleEntry
  split
  · exact onStream_sameButStreams s n _
  · exact .refl s

theorem closeFields_sameButStreams (s : State) (i : Issued) : SameButStreams s (closeFields s i) := by
  refine .trans (sameButStreams_each (fun t n => ?_) _ s) (sameButStreams_each settleEntry_sameButStreams _ _)
  split
  · exact sameButStreams_each (fun v (p : Nat × Nat) => onStream_sameButStreams v p.1 _) _ t
  · exact .refl t

theorem undoOpens_sameButStreams (s : State) (i : Issued) : SameButStreams s (undoOpens s i) := by
  refine sameButStreams_each (fun t x => ?_) _ s
  split
  · exact onStream_sameButStreams t _ _
  · exact ⟨_, _, _, rfl⟩

theorem releaseRegion_sameButStreams (s : State) (i : Issued) (st : Status) : SameButStreams s (releaseRegion s i st) := by
  unfold releaseRegion
  simp only
  split
  · exact ⟨_, _, _, rfl⟩
  · exact .refl s

/-! ### Summary and report (R173, R259) -/

/-- The instruction as a completion takes it: WRONG_STATE found after issue completes as at issue (R307). -/
def Issued.voided (i : Issued) (st : Status) : Issued := if st = .wrongState then { i with atIssue := true } else i

/-- The state once a near unit has posted an instruction's summary. -/
def afterSummary (s : State) (i : Issued) (st : Status) : State :=
  if i.postsSummary then writeSlot s i.ctx (hSumslot i.head) (summaryOf s i st) else s

theorem postSummary_of_near {b : Nat} (hb : isFar b = false) (s : State) (i : Issued) (st : Status) :
    postSummary s b i st = afterSummary s i st := by
  simp [postSummary, afterSummary, hb]

theorem afterSummary_frame (s : State) (i : Issued) (st : Status) :
    ∃ m q, afterSummary s i st = { s with mem := m, tables := { s.tables with sumSeq := q } } := by
  unfold afterSummary
  split
  · exact ⟨_, _, rfl⟩
  · exact ⟨s.mem, s.tables.sumSeq, rfl⟩

/-- The report of a completing instruction of a near unit (R173). -/
def reportOf (s : State) (i : Issued) (st : Status) : Report :=
  let c : Counts := if st = .ok then i.counts else {}
  { entry := wordOf 14 (hTrk i.head), lap8 := bitsAt s.pace.lap 0 8, par := s.pace.parity
    data := { amax := i.amax, capmax := i.capmax, nan := c.nan, clip := c.clip, flush := c.flush
              overflow := c.ovfl, flagged := c.flagged, otiles := c.otiles } }

/-- The reports that a completion on a near unit sends. -/
def reportsOf (s : State) (b : Nat) (i : Issued) (st : Status) : List Report :=
  if !i.atIssue && reportsFrom b && !(s.unit b).health.fenced && hTen i.head then [reportOf s i st] else []

/-- A near unit's statistics reach the reports and partials under way alone. -/
theorem sendStatistics_of_near {b : Nat} (hb : isFar b = false) (s : State) (i : Issued) (st : Status) :
    ∃ p, sendStatistics s b i st = { s with trackers := { s.trackers with
      reports := s.trackers.reports ++ reportsOf s b i st, partials := p } } := by
  have hstamp : stampOf s b = (bitsAt s.pace.lap 0 8, s.pace.parity) := by simp [stampOf, State.lapOf, hb]
  unfold sendStatistics reportsOf
  cases hquiet : i.atIssue || !reportsFrom b || (s.unit b).health.fenced with
  | true =>
    have hnone : (!i.atIssue && reportsFrom b && !(s.unit b).health.fenced && hTen i.head) = false := by
      simp only [Bool.or_eq_true, Bool.not_eq_true'] at hquiet
      rcases hquiet with (h | h) | h <;> simp [h]
    rw [if_pos rfl, hnone, if_neg Bool.false_ne_true, List.append_nil]
    exact ⟨s.trackers.partials, rfl⟩
  | false =>
    have hsends : (!i.atIssue && reportsFrom b && !(s.unit b).health.fenced && hTen i.head) = hTen i.head := by
      simp only [Bool.or_eq_false_iff, Bool.not_eq_false'] at hquiet
      simp [hquiet]
    rw [if_neg Bool.false_ne_true, hsends, hstamp]
    have hreports : ∀ r, (if hTen i.head = true then sendReport s b r else s) = { s with trackers := { s.trackers with
        reports := s.trackers.reports ++ (if hTen i.head = true then [r] else []) } } := fun r => by
      cases hTen i.head <;> simp [sendReport, hb]
    simp only [hreports]
    cases hWen i.head with
    | false => exact ⟨s.trackers.partials, rfl⟩
    | true =>
      simp only [sendPartial, noteClose, hb, Bool.false_and, Bool.false_eq_true, if_true, if_false]
      exact ⟨_, rfl⟩

/-! ### The end of an instruction (R310, R311, R320) -/

/-- The instruction ended in a lap of this parity, its record still owed. -/
def Issued.endedIn (i : Issued) (par : Bool) : Issued := { i with ended := some par }

/-- The state in which a near unit's instruction has completed, before its close forms: summary and statistics sent, its
queue halted where the status asks for it. -/
def endedState (s : State) (b : Nat) (i : Issued) (st : Status) (p : List Partial) : State :=
  let s1 := afterSummary s i st
  haltQueue (setIssued { s1 with trackers := { s1.trackers with
    reports := s1.trackers.reports ++ reportsOf s b i st, partials := p } } b (i.endedIn s.pace.parity)) i.queue st

theorem endInstr_of_near {s : State} {b : Nat} {i : Issued} (hb : isFar b = false) (hi : i.space = 0)
    (st : Status) : ∃ p, SameButStreams (endedState s b (i.voided st) st p) (endInstr s b i st) := by
  have hforget : forgetScales s (i.voided st) = s := by
    have hspace : (i.voided st).space = 0 := by unfold Issued.voided; split <;> exact hi
    rw [forgetScales, if_pos hspace]
  obtain ⟨p, hp⟩ := sendStatistics_of_near hb (afterSummary s (i.voided st) st) (i.voided st) st
  have hframe := afterSummary_frame s (i.voided st) st
  have hsame : reportsOf (afterSummary s (i.voided st) st) b (i.voided st) st = reportsOf s b (i.voided st) st := by
    obtain ⟨m, x, h⟩ := hframe
    rw [h]
    rfl
  have hlap : (s.lapOf b).2 = s.pace.parity := by simp [State.lapOf, hb]
  refine ⟨p, ?_⟩
  unfold endInstr
  have hvoided : (if decide (st = .wrongState) = true then { i with atIssue := true } else i) = i.voided st := by
    simp [Issued.voided]
  simp only [hvoided, hforget, postSummary_of_near hb, hp, hsame, hlap, hb, Bool.false_eq_true, if_false]
  refine .trans ?_ (releaseRegion_sameButStreams _ _ _)
  split
  · exact undoOpens_sameButStreams _ _
  · split
    · exact .refl _
    · split
      · exact sameButStreams_each settleEntry_sameButStreams _ _
      · exact closeFields_sameButStreams _ _

/-! ### The record (R310, R311) -/

/-- The only instruction of a queue in a list. -/
def Sole (l : List Issued) (q : Nat) (i : Issued) : Prop := l.filter (fun j => decide (j.queue = q)) = [i]

section
variable {l : List Issued} {q : Nat} {i j : Issued}

theorem Sole.mem (h : Sole l q i) : i ∈ l ∧ i.queue = q := by
  have hmem : i ∈ l.filter (fun j => decide (j.queue = q)) := by rw [h]; exact List.mem_singleton_self i
  obtain ⟨hin, hq⟩ := List.mem_filter.1 hmem
  exact ⟨hin, of_decide_eq_true hq⟩

theorem Sole.eq (h : Sole l q i) (hj : j ∈ l) (hq : j.queue = q) : j = i := by
  have hmem : j ∈ l.filter (fun j => decide (j.queue = q)) := List.mem_filter.2 ⟨hj, decide_eq_true hq⟩
  rw [h] at hmem
  exact List.mem_singleton.1 hmem

theorem Sole.find? (h : Sole l q i) (p : Issued → Bool) :
    l.find? (fun j => decide (j.queue = q) && p j) = [i].find? p := by
  rw [← h, List.find?_filter]
  congr 1
  funext j
  simp

theorem Sole.oldest {u : UnitSt} (h : Sole u.issued q i) : oldestIssued u q = some i := by
  rw [oldestIssued, ← List.head?_filter, h]
  rfl

/-- The instruction put back in another shape is the only one of its queue, and the others stay. -/
theorem Sole.putIssued (h : Sole l q i) (hq : j.queue = i.queue) (hs : j.slot = i.slot) :
    Sole (putIssued j l) q j ∧
      (Machine.putIssued j l).filter (fun x => decide (x.queue ≠ q)) = l.filter (fun x => decide (x.queue ≠ q)) := by
  have hiq := h.mem.2
  unfold Sole at h ⊢
  induction l with
  | nil => cases h
  | cons x xs ih =>
    by_cases hx : x.queue = q
    · rw [List.filter_cons_of_pos (by simpa using hx)] at h
      obtain ⟨rfl, hrest⟩ := List.cons.inj h
      have hput : Machine.putIssued j (x :: xs) = j :: xs := by simp [Machine.putIssued, hq, hs]
      rw [hput]
      constructor
      · rw [List.filter_cons_of_pos (by simp [hq, hx]), hrest]
      · rw [List.filter_cons_of_neg (by simp [hq, hx]), List.filter_cons_of_neg (by simp [hx])]
    · rw [List.filter_cons_of_neg (by simpa using hx)] at h
      have hne : x.queue ≠ j.queue := by rw [hq, hiq]; exact hx
      have hput : Machine.putIssued j (x :: xs) = x :: Machine.putIssued j xs := by simp [Machine.putIssued, hne]
      obtain ⟨hsole, hothers⟩ := ih h
      rw [hput]
      constructor
      · rw [List.filter_cons_of_neg (by simpa using hx), hsole]
      · rw [List.filter_cons_of_pos (by simpa using hx), List.filter_cons_of_pos (by simpa using hx), hothers]

/-- The unit without the only instruction of a queue holds none of it, and all others. -/
theorem Sole.issued_without {u : UnitSt} (h : Sole u.issued q i) :
    (u.without i).issued = u.issued.filter (fun j => decide (j.queue ≠ q)) := by
  refine List.filter_congr (fun j hj => ?_)
  by_cases hq : j.queue = q
  · have hji := h.eq hj hq
    subst hji
    simp [hq]
  · simp [h.mem.2, hq]

end

/-- Settling a queue that is not SUSPENDING reaches at most the state of its context. -/
theorem settleQueue_frame_of_not_suspending {s : State} {q : Nat} (h : (s.queue q).st ≠ .suspending) :
    ∃ x, settleQueue s q = { s with tables := { s.tables with contexts := x } } := by
  have hstays : settleQueue s q = settleOwner s q := by simp [settleQueue, h]
  rw [hstays, settleOwner]
  split
  · exact settleContext_frame s _
  · exact ⟨s.tables.contexts, rfl⟩

/-- The state in which the record of a near unit's only instruction of a queue stands, and the instruction has left its unit. -/
def recordedState (s : State) (b q : Nat) (j : Issued) (st : Status) (par : Bool) (c : Tab Context) : State :=
  let t := writeRecord s q (recordOf b j st par) j.slots.length
  dropIssued { t with tables := { t.tables with contexts := c } } b j

section
variable (s : State) (b q : Nat) (j : Issued) (st : Status) (par : Bool) (c : Tab Context)

theorem queue_recordedState : (recordedState s b q j st par c).queue q = { s.queue q with
    seq := (s.queue q).seq + 1, ctail := (s.queue q).ctail + 1, head := (s.queue q).head + wordOf 16 j.slots.length
    owed := (s.queue q).owed - 1 } :=
  queue_writeRecord s q (recordOf b j st par) j.slots.length

theorem queue_recordedState_ne {p : Nat} (h : p ≠ q) : (recordedState s b q j st par c).queue p = s.queue p :=
  State.queue_setQueue_ne _ _ h

theorem mem_recordedState : (recordedState s b q j st par c).mem = writeBytes s.mem
    (spadKey ((s.queue q).cbase.toNat + 48 * ((s.queue q).ctail.toNat % 2 ^ ((s.queue q).csize.toNat + 4))))
    ((recordOf b j st par).take 4 ++ bytesLE 2 ((s.queue q).seq + 1) ++ (recordOf b j st par).drop 6) := rfl

theorem unit_recordedState : (recordedState s b q j st par c).unit b =
    { (s.unit b).without j with instr := satAdd (s.unit b).instr 1 } := State.unit_onUnit_self _ _ _

theorem unit_recordedState_ne {n : Nat} (h : n ≠ b) : (recordedState s b q j st par c).unit n = s.unit n :=
  State.unit_onUnit_ne _ _ h

theorem trackers_recordedState : (recordedState s b q j st par c).trackers = s.trackers := rfl

end

theorem flushRecords_of_sole {s : State} {b q : Nat} {j : Issued} {st : Status} {par : Bool} (hb : isFar b = false)
    (hj : Sole (s.unit b).issued q j) (hfin : j.finished = some st) (hend : j.ended = some par)
    (hst : (s.queue q).st ≠ .suspending) (n : Nat) :
    ∃ c, flushRecords b q (n + 1) s = recordedState s b q j st par c := by
  have hq := hj.mem.2
  obtain ⟨c, hc⟩ := settleQueue_frame_of_not_suspending (s := writeRecord s q (recordOf b j st par) j.slots.length) (q := q)
    (by rw [queue_writeRecord]; exact hst)
  have hrecord : postRecord s b j st par = { writeRecord s q (recordOf b j st par) j.slots.length with
      tables := { (writeRecord s q (recordOf b j st par) j.slots.length).tables with contexts := c } } := by
    rw [← hc]
    simp [postRecord, hb, hq]
  refine ⟨c, ?_⟩
  rw [flushRecords, hj.oldest]
  simp only [hfin, hend, hrecord]
  change flushRecords b q n (recordedState s b q j st par c) = _
  have hnone : oldestIssued ((recordedState s b q j st par c).unit b) q = none := by
    rw [unit_recordedState, oldestIssued, hj.issued_without, ← List.head?_filter, List.filter_filter]
    rw [List.filter_eq_nil_iff.2 (by simp)]
    rfl
  cases n with
  | zero => rfl
  | succ n => rw [flushRecords, hnone]

/-! ### The completion (R311) -/

theorem Issued.voided_eq {i : Issued} (h : i.atIssue = false) (st : Status) :
    i.voided st = { i with atIssue := decide (st = .wrongState) } := by
  unfold Issued.voided
  split
  · next hst => simp [hst]
  · next hst => simp [hst, ← h]

/-- The halt of a running queue (R320). -/
theorem queue_haltQueue_of_run {s : State} {q : Nat} (st : Status) (h : (s.queue q).st = .run) :
    (haltQueue s q st).queue q = { s.queue q with
      st := if st.halting && (s.queue q).halte then .halted else .run
      hstat := if st.halting && (s.queue q).halte then st.byte else (s.queue q).hstat } := by
  cases hhalts : st.halting && (s.queue q).halte with
  | true => simp only [haltQueue, hhalts, h, beq_self_eq_true, Bool.and_self, if_true, State.queue_setQueue_self]
  | false =>
    simp only [haltQueue, hhalts, Bool.false_and, Bool.false_eq_true, if_false]
    rw [← h]

theorem haltQueue_frame (s : State) (q : Nat) (st : Status) :
    ∃ x, haltQueue s q st = { s with tables := { s.tables with queues := x } } ∧ ∀ p, p ≠ q → (haltQueue s q st).queue p = s.queue p := by
  unfold haltQueue
  simp only
  split
  · exact ⟨_, rfl, fun p hp => State.queue_setQueue_ne s _ hp⟩
  · exact ⟨s.tables.queues, rfl, fun _ _ => rfl⟩

/-- What the end of a near unit's instruction `j` leaves for its record to find: the queue halted or running, the
summary in memory, the report under way and the instruction ended. -/
structure EndedAs (s t : State) (b : Nat) (j : Issued) (st : Status) : Prop where
  queue : t.queue j.queue = { s.queue j.queue with
    st := if st.halting && (s.queue j.queue).halte then .halted else .run
    hstat := if st.halting && (s.queue j.queue).halte then st.byte else (s.queue j.queue).hstat }
  queues : ∀ p, p ≠ j.queue → t.queue p = s.queue p
  mem : t.mem = (afterSummary s j st).mem
  unit : t.unit b = { s.unit b with issued := putIssued (j.endedIn s.pace.parity) (s.unit b).issued }
  units : ∀ n, n ≠ b → t.unit n = s.unit n
  reports : t.trackers.reports = s.trackers.reports ++ reportsOf s b j st

theorem endedAs_endedState {s : State} {b : Nat} {j : Issued} (st : Status) (p : List Partial)
    (hrun : (s.queue j.queue).st = .run) : EndedAs s (endedState s b j st p) b j st := by
  obtain ⟨m, x, hsum⟩ := afterSummary_frame s j st
  have hmem : (afterSummary s j st).mem = m := by rw [hsum]
  unfold endedState
  rw [hsum]
  simp only
  generalize hv : setIssued _ b _ = v
  have hvq : ∀ n, v.queue n = s.queue n := fun n => by rw [← hv]; rfl
  obtain ⟨y, hhalt, hqueues⟩ := haltQueue_frame v j.queue st
  constructor
  case queue => rw [queue_haltQueue_of_run st (by rw [hvq]; exact hrun), hvq]
  case queues => exact fun p hp => (hqueues p hp).trans (hvq p)
  all_goals rw [hhalt]
  case mem => rw [hmem, ← hv]; rfl
  case unit => rw [← hv]; exact unit_setIssued _ _ _
  case units => intro n hn; rw [← hv]; exact unit_setIssued_ne _ _ hn
  case reports => rw [← hv]; rfl

theorem SameButStreams.endedAs {s t v : State} {b : Nat} {j : Issued} {st : Status} (h : SameButStreams t v)
    (ht : EndedAs s t b j st) : EndedAs s v b j st := by
  obtain ⟨_, _, _, rfl⟩ := h
  exact { ht with }

/-- The only instruction of a running queue completes: its record is written and it leaves its unit. -/
theorem completeIssued_of_sole {s : State} {b q : Nat} {i : Issued} {st : Status} (hb : isFar b = false) (hi : i.space = 0)
    (hsole : Sole (s.unit b).issued q i) (hfin : i.finished = some st) (hrun : (s.queue q).st = .run) :
    ∃ t c, EndedAs s t b (i.voided st) st ∧
      completeIssued s b i st = recordedState t b q ((i.voided st).endedIn s.pace.parity) st s.pace.parity c := by
  have hq := hsole.mem.2
  obtain ⟨hvq, hvs, hvf⟩ : (i.voided st).queue = i.queue ∧ (i.voided st).slot = i.slot ∧
      (i.voided st).finished = i.finished := by
    unfold Issued.voided; split <;> exact ⟨rfl, rfl, rfl⟩
  obtain ⟨p, hp⟩ := endInstr_of_near hb hi st
  have hends := hp.endedAs (endedAs_endedState st p (by rw [hvq, hq]; exact hrun))
  have hsolet : Sole ((endInstr s b i st).unit b).issued q ((i.voided st).endedIn s.pace.parity) := by
    rw [hends.unit]
    exact (hsole.putIssued (j := (i.voided st).endedIn s.pace.parity) hvq hvs).1
  have hstate := congrArg Queue.st hends.queue
  rw [hvq, hq] at hstate
  have hlives : ((endInstr s b i st).queue q).st ≠ .suspending ∧ ((endInstr s b i st).queue q).st ≠ .closing := by
    rw [hstate]
    simp only
    split <;> exact ⟨by decide, by decide⟩
  obtain ⟨n, hn⟩ : ∃ n, ((endInstr s b i st).unit b).issued.length = n + 1 :=
    Nat.exists_eq_succ_of_ne_zero (Nat.ne_of_gt (List.length_pos_of_mem hsolet.mem.1))
  obtain ⟨c, hc⟩ := flushRecords_of_sole hb hsolet (hvf.trans hfin) rfl hlives.1 n
  refine ⟨_, c, hends, ?_⟩
  have hnotClosing : ((recordedState (endInstr s b i st) b q ((i.voided st).endedIn s.pace.parity) st s.pace.parity c).queue q).st
      ≠ .closing := by
    rw [queue_recordedState]
    exact hlives.2
  have hcomplete : completeIssued s b i st = closeUnissued (flushRecords b i.queue ((endInstr s b i st).unit b).issued.length
      (endInstr s b i st)) i.queue := rfl
  rw [hcomplete, hn, hq, hc, closeUnissued_of_not_closing hnotClosing]

theorem exec_instructionComplete_of_sole {s : State} {b : Bib} {q : BitVec 14} {i : Issued} {st : Status} (hrun : s.mg.fatal = false)
    (hscales : scalesOut s b.toNat i = false) (hsole : Sole (s.unit b.toNat).issued q.toNat i) (hfin : i.finished = some st)
    (hend : i.ended = none) : exec (.instructionComplete b q) s = .next (completeIssued s b.toNat i st) := by
  have hpicks : (s.unit b.toNat).issued.find? (fun j =>
      decide (j.queue = q.toNat) && j.finished.isSome && j.ended.isNone) = some i := by
    simp only [Bool.and_assoc]
    rw [hsole.find? (fun j => j.finished.isSome && j.ended.isNone)]
    simp [hfin, hend]
  have hturn : inTurn s b.toNat i = true := by
    unfold inTurn
    rw [hsole.mem.2, hsole.find? (fun j => j.ended.isNone)]
    simp [hend]
  change execInstructionComplete b q s = _
  unfold execInstructionComplete
  rw [live_of_running _ hrun, hpicks]
  simp [hfin, hscales, hturn]

/-- The record of an instruction that has ended, as at issue for WRONG_STATE (R307, R310). -/
theorem recordOf_voided {i : Issued} (hissue : i.atIssue = false) (b : Nat) (st : Status) (par : Bool) :
    recordOf b ((i.voided st).endedIn par) st par =
      if st = .wrongState then recordBytes i.head b st 0xFFFFFFFF 0 {} i.lap par
      else recordBytes i.head (recordBib b i) st (i.failed.elim 0xFFFFFFFF (fun p => wordOf 32 p.2)) (wordOf 32 i.done)
        i.counts i.lap par := by
  unfold Issued.voided
  split
  · rfl
  · have hended : (i.endedIn par).atIssue = false := hissue
    rw [recordOf, hended]
    rfl

/-- Settles O25: the only instruction of its queue ends, is the oldest one with a record owed, and leaves nothing behind it. -/
theorem completionWritesTheRecord : Obligations.CompletionWritesTheRecord := by
  intro s b q i st hrunning hfar hspace hscales hfilter hfin hend hissue hrun
  have hsole : Sole (s.unit b.toNat).issued q.toNat i := hfilter
  have hq := hsole.mem.2
  obtain ⟨t, c, hends, hdone⟩ := completeIssued_of_sole hfar hspace hsole hfin hrun
  have hexec := exec_instructionComplete_of_sole hrunning hscales hsole hfin hend
  rw [hdone] at hexec
  have hvoided := Issued.voided_eq hissue st
  obtain ⟨hqueue, hqueues, hmem, hunit, hunits, hreports⟩ := hends
  rw [hvoided] at hmem hreports
  have hfields : (i.voided st).queue = q.toNat ∧ (i.voided st).slots = i.slots := by
    rw [hvoided]
    exact ⟨hq, rfl⟩
  rw [hfields.1] at hqueue
  simp only [hfields.1] at hqueues
  have hsolet : Sole (t.unit b.toNat).issued q.toNat ((i.voided st).endedIn s.pace.parity) ∧
      (t.unit b.toNat).issued.filter (fun j => decide (j.queue ≠ q.toNat)) =
        (s.unit b.toNat).issued.filter (fun j => decide (j.queue ≠ q.toNat)) := by
    rw [hunit, hvoided]
    exact hsole.putIssued rfl rfl
  refine ⟨_, hexec, ?_, ?_, ?_, ?_, ?_, ?_, ?_⟩
  · rw [queue_recordedState, hqueue]
    change ({ s.queue q.toNat with
      seq := _, ctail := _, head := (s.queue q.toNat).head + wordOf 16 (i.voided st).slots.length
      owed := _, st := _, hstat := _ } : Queue) = _
    rw [hfields.2]
  · exact fun p hp => (queue_recordedState_ne _ _ _ _ _ _ _ hp).trans (hqueues p hp)
  · rw [mem_recordedState, hqueue, hmem, recordOf_voided hissue]
    rfl
  · rw [unit_recordedState]
    exact hsolet.1.issued_without.trans hsolet.2
  · rw [unit_recordedState, hunit]
  · exact fun n hn => (unit_recordedState_ne _ _ _ _ _ _ _ hn).trans (hunits n hn)
  · rw [trackers_recordedState, hreports]
    rfl

end Sys2Proof.Machine
end

section
/-!
PROOFS. STATS, SAMPLE and SUMMARY: what they read, write and report (R174, R299, R388, R389).
-/

namespace Sys2Proof.Machine

/-! ### A position of a STATS (R98, R174) -/

/-- The entries of the stream that a STATS reads are among its own. -/
theorem mem_allEntries_of_stats {i : Issued} (hop : i.op = .stats) (hstream : isStream (i.field 1) = true) {x : Nat × Nat}
    (hx : x ∈ entriesOf (i.field 1) (i.desc 1)) : x.1 ∈ i.allEntries := by
  have hdest : isDest i.op 1 = false := by rw [hop]; rfl
  have hfield : 1 ∈ streamFields i.slots := by
    unfold streamFields
    cases ho : opIn i.slots with
    | none => simp [Issued.op, ho] at hop
    | some o =>
      have hs : isStream (fieldOf i.slots 1) = true := hstream
      have hclass : (o == .tableBuild) = false := by
        have hsame : o = .stats := by simpa [Issued.op, ho] using hop
        rw [hsame]
        rfl
      simp [hs, hclass]
  exact List.mem_append_left _ (List.mem_flatMap.2 ⟨1, hfield, by rw [if_pos hdest]; exact List.mem_map_of_mem hx⟩)

/-- What a STATS that has ended says, or that it goes on. -/
def Issued.StatsEnded (k : Issued) : Prop :=
  k.finished = none ∨ (k.finished = some k.endStatus ∧ k.summary = some (statsSummary k))

/-- The work of a STATS on unit b has brought instruction i to k, without a write to memory. -/
structure Measured (b : Nat) (s : State) (i : Issued) (t : State) (k : Issued) : Prop where
  work : WorkedOn b i s t
  mem : t.mem = s.mem
  out : kindOf b ≠ some .sl → t.out = s.out
  job : i.SameJob k
  pos : i.pos ≤ k.pos
  ended : k.StatsEnded

section
variable {b : Nat} {s t v : State} {i k l : Issued}

theorem Measured.refl (hi : i.StatsEnded) : Measured b s i s i :=
  ⟨.refl b i s, rfl, fun _ => rfl, .refl i, le_rfl, hi⟩

theorem Measured.trans (h : Measured b s i t k) (h' : Measured b t k v l) : Measured b s i v l where
  work := h.work.trans (h'.work.ofJob h.job)
  mem := h'.mem.trans h.mem
  out hb := (h'.out hb).trans (h.out hb)
  job := h.job.trans h'.job
  pos := h.pos.trans h'.pos
  ended := h'.ended

/-- What moved the position on, and the work after it. -/
theorem Measured.onward (h : Measured b s i t k) (hpos : i.pos < k.pos) (h' : Measured b t k v l) :
    Measured b s i v l ∧ i.pos < l.pos := ⟨h.trans h', hpos.trans_le h'.pos⟩

/-- The work done, and the end reported. -/
theorem Measured.finish (h : Measured b s i t k) :
    Measured b s i t { k with finished := some k.endStatus, summary := some (statsSummary k) } :=
  { h with
    job := h.job.trans ⟨rfl, rfl, rfl, rfl, rfl⟩
    ended := .inr ⟨rfl, rfl⟩ }

end

section
variable {s : State} {b : Nat} {i : Issued}

theorem workedOn_afterStatsRead (hop : i.op = .stats) (hstream : isStream (i.field 1) = true) (p : PosRead) :
    WorkedOn b i s (afterBuildRead s b i p) := by
  have hentry : ∀ x ∈ entriesOf (i.field 1) (i.desc 1), x.1 ∈ i.allEntries := fun x hx => mem_allEntries_of_stats hop hstream hx
  have hread : WorkedOn b i s (afterRead s b i p) :=
    (workedOn_positionEvents s b i 1 p i.pos).trans (WorkedOn.each (fun t x hx => workedOn_readEntry i t x b (hentry x hx)) _)
  unfold afterBuildRead
  split
  · exact hread.trans (WorkedOn.each (fun _ x hx => workedOn_haltEntry (hentry x hx) _) _)
  · exact hread

theorem out_readEntry (i : Issued) (t : State) (x : Nat × Nat) : (readEntry i t x).out = t.out := by
  unfold readEntry
  split <;> rfl

theorem out_afterBuildRead (p : PosRead) : (afterBuildRead s b i p).out = s.out := by
  have hread : (afterRead s b i p).out = s.out := by
    obtain ⟨u, hu⟩ := positionEvents_frame s b i 1 p i.pos
    exact (State.each_field State.out _ (out_readEntry i) _ _).trans (by rw [hu])
  unfold afterBuildRead
  split
  · obtain ⟨x, hx⟩ := haltField_onlyStreams (afterRead s b i p) i 1 .skew
    rw [hx]
    exact hread
  · exact hread

theorem sameJob_failAt (i : Issued) (st : Status) (n x : Nat) : i.SameJob { i.fail st n with pos := x } := by
  obtain ⟨y, hy⟩ := fail_eq i st n
  rw [hy]
  exact ⟨rfl, rfl, rfl, rfl, rfl⟩

/-- Values taken in reach the sums and counts of a STATS alone. -/
theorem takeStats_eq (i : Issued) (vals : List XVal) :
    ∃ x a n o e c y z, i.takeStats vals = { i with
      counts := x, amax := a, capmax := n, norm := o, nonfin := e, satur := c, sawNan := y, sawInf := z } :=
  ⟨_, _, _, _, _, _, _, _, rfl⟩

/-- A position of a STATS reads its block as a build does, and takes one position or, at a SKEW, all that are left. -/
theorem statsPosition_spec (s : State) (b : Nat) (i : Issued) (hpos : i.pos < i.total) :
    ∃ k, statsPosition s b i = (afterBuildRead s b i (readPosition s i 1 []), k) ∧ i.SameJob k ∧ i.pos < k.pos ∧
      k.finished = i.finished := by
  have hfin : ∀ st n, (i.fail st n).finished = i.finished := fun st n => by
    obtain ⟨y, hy⟩ := fail_eq i st n
    rw [hy]
  unfold statsPosition afterBuildRead
  dsimp only
  generalize readPosition s i 1 [] = p
  cases hp : p.status with
  | some x =>
    dsimp only
    by_cases hx : some x = some Status.skew
    · cases hx
      rw [if_pos rfl]
      exact ⟨_, rfl, sameJob_failAt i _ _ _, hpos, hfin _ _⟩
    · rw [if_neg hx]
      split
      · next h => exact absurd h hx
      · exact ⟨_, rfl, sameJob_failAt i _ _ _, Nat.lt_succ_self _, hfin _ _⟩
      · next h => cases h
  | none =>
    have hnot : ¬ none = some Status.skew := by decide
    dsimp only
    rw [if_neg hnot]
    cases statsInvalid (s.unit b) i (i.place i.pos).1 with
    | true =>
      simp only [if_true]
      exact ⟨_, rfl, sameJob_failAt i _ _ _, Nat.lt_succ_self _, hfin _ _⟩
    | false =>
      cases sourceFormat (s.unit b) i (i.place i.pos).1 (i.place i.pos).2 (128 * rowsIn i.height (i.place i.pos).1) p with
      | true =>
        simp only [if_true, Bool.false_eq_true, if_false]
        generalize List.filterMap _ _ = vals
        obtain ⟨_, _, _, _, _, _, _, _, htake⟩ := takeStats_eq i vals
        rw [htake]
        exact ⟨_, rfl, ⟨rfl, rfl, rfl, rfl, rfl⟩, Nat.lt_succ_self _, rfl⟩
      | false =>
        simp only [Bool.false_eq_true, if_false]
        exact ⟨_, rfl, sameJob_failAt i _ _ _, Nat.lt_succ_self _, hfin _ _⟩

/-- A STATS on a plain operand takes it whole. -/
theorem statsPlain_spec (s : State) (i : Issued) : i.SameJob (statsPlain s i) ∧ (statsPlain s i).pos = max 1 i.total ∧
    (statsPlain s i).finished = i.finished := by
  unfold statsPlain
  dsimp only
  generalize List.flatten _ = good
  generalize List.map _ good = vals
  obtain ⟨_, _, _, _, _, _, _, _, htake⟩ := takeStats_eq i vals
  rw [htake]
  split
  · exact ⟨⟨rfl, rfl, rfl, rfl, rfl⟩, rfl, rfl⟩
  · unfold Issued.fail
    split <;> exact ⟨⟨rfl, rfl, rfl, rfl, rfl⟩, rfl, rfl⟩

end

/-! ### The run of a STATS (R174, R354) -/

theorem statsTotal_of_sameJob {i k : Issued} (h : i.SameJob k) : k.statsTotal = i.statsTotal := by
  unfold Issued.statsTotal
  rw [h.field, h.total]
  unfold Issued.len Issued.head
  rw [h.slots]

/-- The end of a STATS. -/
def Issued.statsDone (i : Issued) : Issued := { i with finished := some i.endStatus, summary := some (statsSummary i) }

section
variable {s : State} {b : Nat} {i : Issued}

/-- A STATS with nothing left ends. -/
theorem statsRun_of_done (h : i.statsTotal ≤ i.pos) : statsRun b 1 s i = (s, i.statsDone) := by
  rw [statsRun, if_pos h]
  rfl

/-- One step of a STATS that does not wait: its position, or its plain operand, and the end where all is read. -/
theorem statsRun_measured (hop : i.op = .stats) (hfin : i.finished = none) (hleft : i.pos < i.statsTotal)
    (hwait : (isStream (i.field 1) && (entriesOf (i.field 1) (i.desc 1)).any (fun p => (s.stream p.1).readerWaits)) = false) :
    ∃ t k, statsRun b 1 s i = (t, k) ∧ Measured b s i t k ∧ i.pos < k.pos := by
  obtain ⟨t, k, hstep, hmeasured, hon, hkfin⟩ : ∃ t k,
      (if isStream (i.field 1) then statsPosition s b i else (s, statsPlain s i)) = (t, k) ∧
      Measured b s i t k ∧ i.pos < k.pos ∧ k.finished = none := by
    split
    · next hstream =>
      have htotal : i.pos < i.total := by
        unfold Issued.statsTotal at hleft
        rw [if_pos hstream] at hleft
        split at hleft <;> omega
      obtain ⟨k, hk, hjob, hon, hkfin⟩ := statsPosition_spec s b i htotal
      rw [hfin] at hkfin
      exact ⟨_, k, hk, ⟨workedOn_afterStatsRead hop hstream _, mem_afterBuildRead _, fun _ => out_afterBuildRead _, hjob,
        hon.le, .inl hkfin⟩, hon, hkfin⟩
    · next hplain =>
      obtain ⟨hjob, hpos, hkfin⟩ := statsPlain_spec s i
      have hon : i.pos < (statsPlain s i).pos := by
        unfold Issued.statsTotal at hleft
        rw [if_neg hplain] at hleft
        split at hleft <;> omega
      rw [hfin] at hkfin
      exact ⟨s, _, rfl, ⟨.refl b i s, rfl, fun _ => rfl, hjob, hon.le, .inl hkfin⟩, hon, hkfin⟩
  rw [statsRun, if_neg (by omega), hwait]
  simp only [Bool.false_eq_true, if_false, hstep]
  split
  · exact ⟨_, _, rfl, hmeasured.finish, hon⟩
  · exact ⟨_, _, rfl, hmeasured, hon⟩

/-- The scale blocks that a slice asks for cross its link. -/
theorem space_of_scalesDue {x : Nat × Desc} (h : x ∈ scalesDue s i) : i.space ≠ 0 := by
  obtain ⟨n, -, hn⟩ := List.mem_flatMap.1 h
  obtain ⟨y, -, hy⟩ := List.mem_filterMap.1 hn
  intro h0
  simp [crosses, h0] at hy

theorem workedOn_askScale (h : i.space ≠ 0) (x : Nat × Desc) : WorkedOn b i s (askScale s i x) := by
  unfold askScale
  dsimp only
  split
  · exact .refl b i s
  · exact (workedOn_sendMsg h _ _ _).trans (workedOn_onUnit (.inr ⟨h, rfl⟩) (fun _ => rfl))

theorem mem_askScale (i : Issued) (s : State) (x : Nat × Desc) : (askScale s i x).mem = s.mem := by
  unfold askScale
  dsimp only
  split
  · rfl
  · obtain ⟨l, o, hsend⟩ := sendMsg_frame s true i.slice _
    rw [hsend]
    rfl

/-- A step of a STATS that has not finished: a position denied, scale blocks asked for, a wait, a position taken or the end. -/
theorem statsWork_measured (hop : i.op = .stats) (hfin : i.finished = none) :
    Measured b s i (statsWork s b 1 i).1 (statsWork s b 1 i).2 := by
  have hstays : Measured b s i s i := .refl (.inl hfin)
  unfold statsWork
  split
  · next hdenied =>
    simp only [Bool.and_eq_true, decide_eq_true_eq] at hdenied
    obtain ⟨⟨-, hleft⟩, -⟩ := hdenied
    have hfailed : Measured b s i s { i.fail .denied i.pos with pos := i.statsTotal } := by
      obtain ⟨y, hy⟩ := fail_eq i .denied i.pos
      rw [hy]
      exact ⟨.refl b i s, rfl, fun _ => rfl, ⟨rfl, rfl, rfl, rfl, rfl⟩, hleft.le, .inl hfin⟩
    exact hfailed.finish
  · split
    · next hasks =>
      simp only [Bool.and_eq_true, decide_eq_true_eq] at hasks
      exact ⟨.each (fun t x hx => workedOn_askScale (space_of_scalesDue hx) x) s,
        State.each_field State.mem _ (mem_askScale i) _ _, fun hb => absurd hasks.1 hb, .refl i, le_rfl, .inl hfin⟩
    · by_cases hdone : i.statsTotal ≤ i.pos
      · rw [statsRun_of_done hdone]
        exact hstays.finish
      · cases hwait : isStream (i.field 1) && (entriesOf (i.field 1) (i.desc 1)).any (fun p => (s.stream p.1).readerWaits) with
        | true =>
          rw [statsRun, if_neg hdone, if_pos hwait]
          exact hstays
        | false =>
          obtain ⟨t, k, hrun, hmeasured, -⟩ := statsRun_measured (b := b) hop hfin (by omega) hwait
          rw [hrun]
          exact hmeasured

end

/-- One of the steps that STATS is given: nothing once it has finished. -/
def statsStep (b : Nat) (r : State × Issued) : State × Issued := if r.2.finished.isSome then r else statsWork r.1 b 1 r.2

theorem statsSteps_measured {s : State} {b : Nat} {i : Issued} {r : State × Issued} (hop : i.op = .stats) (h : Measured b s i r.1 r.2)
    (l : List Nat) : Measured b s i (l.foldl (fun v _ => statsStep b v) r).1 (l.foldl (fun v _ => statsStep b v) r).2 := by
  refine List.foldlRecOn l _ (motive := fun v : State × Issued => Measured b s i v.1 v.2) h (fun v hv _ _ => ?_)
  unfold statsStep
  split
  · exact hv
  · next hopen => exact hv.trans (statsWork_measured (hv.job.op.trans hop) (by simpa using hopen))

theorem statsSteps_of_finished {b : Nat} {r : State × Issued} (h : r.2.finished.isSome = true) (l : List Nat) :
    l.foldl (fun v _ => statsStep b v) r = r :=
  List.foldlRecOn l _ (motive := fun v => v = r) rfl (fun v hv _ _ => by rw [hv, statsStep, if_pos h])

theorem exec_stats {s : State} {b : Bib} {q : BitVec 14} {i : Issued} (h : Works s b q i) (hop : i.op = .stats) (n : Nat)
    {r : State × Issued} (hfirst : statsWork s b.toNat 1 i = r)
    (hne : ((List.range n).foldl (fun v _ => statsStep b.toNat v) r).2 ≠ i) :
    exec (.stats b q (n + 1)) s = .next (setIssued ((List.range n).foldl (fun v _ => statsStep b.toNat v) r).1 b.toNat
      ((List.range n).foldl (fun v _ => statsStep b.toNat v) r).2) := by
  have hfold : (List.range (n + 1)).foldl (fun v _ => statsStep b.toNat v) (s, i) =
      (List.range n).foldl (fun v _ => statsStep b.toNat v) r := by
    have hopen : statsStep b.toNat (s, i) = r := by
      rw [statsStep, unfinished_of_works h]
      exact hfirst
    rw [List.range_succ_eq_map, List.foldl_cons, hopen, List.foldl_map]
  have hrun : exec (.stats b q (n + 1)) s = live s (workOn s b.toNat q.toNat .stats
      (fun t k => (List.range (n + 1)).foldl (fun v _ => statsStep b.toNat v) (t, k))) := rfl
  rw [hrun, live_of_running _ h.running, workOn_of_works h hop _ (by rw [hfold]; exact hne), hfold]

section
variable {s : State} {b : Bib} {q : BitVec 14} {i : Issued} (h : Works s b q i) (hop : i.op = .stats)
  (hslice : kindOf b.toNat = some .sl → scalesDue s i = [] ∧ (i.pos < i.statsTotal → positionGranted s b.toNat i = true))
include h hop hslice

omit h hop in
/-- A STATS with its blocks granted and no scale block to fetch runs. -/
theorem statsWork_of_ready : statsWork s b.toNat 1 i = statsRun b.toNat 1 s i := by
  unfold statsWork
  by_cases hkind : kindOf b.toNat = some .sl
  · obtain ⟨hscales, hgranted⟩ := hslice hkind
    have hnot : (decide (kindOf b.toNat = some .sl) && decide (i.pos < i.statsTotal) && !positionGranted s b.toNat i) = false := by
      by_cases hleft : i.pos < i.statsTotal
      · rw [hgranted hleft, Bool.not_true, Bool.and_false]
      · rw [decide_eq_false hleft, Bool.and_false, Bool.false_and]
    rw [hnot, hscales]
    simp
  · simp [hkind]

theorem exec_stats_of_done (n : Nat) (hdone : i.statsTotal ≤ i.pos) :
    exec (.stats b q (n + 1)) s = .next (setIssued s b.toNat i.statsDone) := by
  have hfirst : statsWork s b.toNat 1 i = (s, i.statsDone) := (statsWork_of_ready hslice).trans (statsRun_of_done hdone)
  have hrest := statsSteps_of_finished (b := b.toNat) (r := (s, i.statsDone)) rfl (List.range n)
  have hne : i.statsDone ≠ i := by
    intro heq
    have hfin := congrArg Issued.finished heq
    rw [unfinished_of_works h] at hfin
    cases hfin
  rw [exec_stats h hop n hfirst (by rw [hrest]; exact hne), hrest]

theorem exec_stats_of_left (n : Nat) (hleft : i.pos < i.statsTotal)
    (hwait : (isStream (i.field 1) && (entriesOf (i.field 1) (i.desc 1)).any (fun p => (s.stream p.1).readerWaits)) = false) :
    ∃ t k, exec (.stats b q (n + 1)) s = .next (setIssued t b.toNat k) ∧ Measured b.toNat s i t k ∧ i.pos < k.pos := by
  obtain ⟨t, k, hrun, hmeasured, hon⟩ := statsRun_measured (b := b.toNat) hop (unfinished_of_works h) hleft hwait
  have hfirst := (statsWork_of_ready hslice).trans hrun
  have hrest := statsSteps_measured (b := b.toNat) (r := (t, k)) (hmeasured.job.op.trans hop) (.refl hmeasured.ended) (List.range n)
  obtain ⟨hall, hfar⟩ := hmeasured.onward hon hrest
  exact ⟨_, _, exec_stats h hop n hfirst (fun heq => absurd hfar (by rw [heq]; exact lt_irrefl _)), hall, hfar⟩

end

/-! ### A sequence of a SAMPLE (R388, R389) -/

/-- The record of a sequence that could not be drawn (R389). -/
def poisonedToken : Token := { token := 0xFFFFFFFF, prob := 0, nnuc := 0, flags := 1, lmax := 0 }

/-- The instruction past all its sequences, DENIED at a position, with its DONE. -/
def Issued.deniedAt (i : Issued) (n d : Nat) : Issued := { i.fail .denied n with pos := i.height, done := d }

section
variable {s : State} {i : Issued}

theorem sampleUnit_of_foreign (h : addrIn (gSpad (s.grant i.ctx)) (recordAddr i i.pos) 16 = false) :
    sampleUnit s i = (s, i.deniedAt 0xFFFFFFFF i.done) := by
  obtain ⟨y, hy⟩ := fail_eq i .denied 0xFFFFFFFF
  simp only [sampleUnit, Issued.deniedAt, h, hy, Bool.not_false, if_true]

theorem sampleUnit_of_denied (h : addrIn (gSpad (s.grant i.ctx)) (recordAddr i i.pos) 16 = true) (hl : logitsIn s i i.pos = false) :
    sampleUnit s i = ({ s with mem := writeBytes s.mem (addrKey (recordAddr i i.pos)) poisonedToken.bytes },
      i.deniedAt i.pos (i.done + 1)) := by
  simp only [sampleUnit, h, hl, Bool.not_true, Bool.not_false, Bool.false_eq_true, if_false, if_true]
  rfl

theorem sampleUnit_of_drawn (h : addrIn (gSpad (s.grant i.ctx)) (recordAddr i i.pos) 16 = true) (hl : logitsIn s i i.pos = true) :
    let row := sampleRow i.body (i.keyedWord 0x06 (hDraw i.head) i.pos 0) (logitsOf s i i.pos)
    ∃ e n f c m, sampleUnit s i = ({ s with mem := writeBytes s.mem (addrKey (recordAddr i i.pos)) row.bytes },
      { i with pos := i.pos + 1, done := i.done + 1, emptySeen := e, sawNan := n, sawInf := f, counts := c, summary := m }) := by
  simp only [sampleUnit, h, hl, Bool.not_true, Bool.false_eq_true, if_false]
  exact ⟨_, _, _, _, _, rfl⟩

end

/-- The instruction after a sequence: ended after the last one. -/
def Issued.sampled (k : Issued) : Issued := if k.height ≤ k.pos then sampleEnd k else k

theorem Issued.sampled_frame (k : Issued) : ∃ f m, k.sampled = { k with finished := f, summary := m } ∧
    (k.height ≤ k.pos → f = some k.endStatus) := by
  unfold Issued.sampled
  split
  · exact ⟨_, _, rfl, fun _ => rfl⟩
  · next h => exact ⟨_, _, rfl, fun h' => absurd h' h⟩

/-- One sequence of a SAMPLE. -/
theorem sampleRun_one {s t : State} {i k : Issued} (h : i.pos < i.height) (hunit : sampleUnit s i = (t, k)) :
    sampleRun 1 s i = (t, k.sampled) := by
  rw [sampleRun, if_neg (by omega), hunit]
  dsimp only [Issued.sampled]
  split <;> rfl

/-- A sequence of a SAMPLE writes memory alone: the instruction, put back, stands where it stood, and all else stays. -/
theorem exec_sample {s : State} {b : Bib} {q : BitVec 14} {i : Issued} (h : Works s b q i) (hop : i.op = .sample)
    (hleft : i.pos < i.height) {m : List Host.Cell} {k : Issued} (hunit : sampleUnit s i = ({ s with mem := m }, k))
    (hjob : i.SameJob k) (hon : i.pos < k.pos) :
    ∃ t, exec (.sample b q 1) s = .next t ∧ placed t b i = some k.sampled ∧ { t with units := s.units, mem := s.mem } = s ∧
      (∀ n, n ≠ b.toNat → t.unit n = s.unit n) ∧ t.mem = m := by
  have hrun := sampleRun_one hleft hunit
  obtain ⟨f, x, hframe, -⟩ := k.sampled_frame
  have hplaced : k.sampled.queue = i.queue ∧ k.sampled.slot = i.slot := by
    rw [hframe]
    exact ⟨hjob.queue, hjob.slot⟩
  have hne : k.sampled ≠ i := fun heq => by
    rw [← heq, hframe] at hon
    exact lt_irrefl _ hon
  refine ⟨setIssued { s with mem := m } b.toNat k.sampled, ?_, placed_setIssued hplaced.1 hplaced.2 ?_, rfl,
    fun n hn => unit_setIssued_ne _ _ hn, rfl⟩
  case refine_2 =>
    change (placed s b i).isSome = true
    exact placed_of_works h
  have hexec : exec (.sample b q 1) s = live s (workOn s b.toNat q.toNat .sample (sampleRun 1)) := rfl
  rw [hexec, live_of_running _ h.running, workOn_of_works h hop _ (by rw [hrun]; exact hne), hrun]

/-- A SAMPLE that a failure ends, its first one. -/
theorem sampled_of_failed (i : Issued) (n d : Nat) :
    i.SameJob (i.deniedAt n d) ∧ (i.deniedAt n d).sampled.finished.isSome = true ∧ (i.failed = none →
      (i.deniedAt n d).sampled.finished = some .denied ∧ (i.deniedAt n d).sampled.failed = some (.denied, n)) := by
  have hjob : i.SameJob (i.deniedAt n d) := by
    obtain ⟨y, hy⟩ := fail_eq i .denied n
    rw [Issued.deniedAt, hy]
    exact ⟨rfl, rfl, rfl, rfl, rfl⟩
  have hheight : (i.deniedAt n d).height ≤ (i.deniedAt n d).pos := by
    unfold Issued.height Issued.head
    rw [hjob.slots]
    exact le_rfl
  obtain ⟨f, x, hframe, hends⟩ := (i.deniedAt n d).sampled_frame
  have hend := hends hheight
  subst hend
  rw [hframe]
  refine ⟨hjob, rfl, fun hnone => ?_⟩
  have hfailed : (i.deniedAt n d).failed = some (.denied, n) := by
    rw [Issued.deniedAt, Issued.fail, hnone]
    rfl
  have hstatus : (i.deniedAt n d).endStatus = .denied := by rw [Issued.endStatus, hfailed]
  exact ⟨congrArg some hstatus, hfailed⟩

/-! ### Values of a SUMMARY (R299) -/

section
variable {n w v : Nat} (x : BitVec w) (y : BitVec v)

theorem bitsAt_low (h : w ≤ n) : bitsAt (x.setWidth n ||| (y.setWidth n <<< w)) 0 w = x := by
  ext i hi
  have hin : i < n := by omega
  simp [hi, hin]

theorem bitsAt_high (h : w + v ≤ n) : bitsAt (x.setWidth n ||| (y.setWidth n <<< w)) w v = y := by
  ext i hi
  have hin : w + i < n := by omega
  simp [hin, BitVec.getLsbD_eq_getElem hi]

theorem bitsAt_past {lo : Nat} (h : w + v ≤ lo) (m : Nat) : bitsAt (x.setWidth n ||| (y.setWidth n <<< w)) lo m = 0 := by
  ext i hi
  have hx : w ≤ lo + i := by omega
  have hy : v ≤ lo + i - w := by omega
  simp [BitVec.getLsbD_of_ge x _ hx, BitVec.getLsbD_of_ge y _ hy]

end

theorem bitsAt_bitsAt {n : Nat} (v : BitVec n) {a m lo w : Nat} (h : lo + w ≤ m) :
    bitsAt (bitsAt v a m) lo w = bitsAt v (a + lo) w := by
  ext i hi
  have hin : lo + i < m := by omega
  simp [hin, Nat.add_assoc]

/-- The value of a SUMMARY: a low and a high word. -/
def wordPair (x : BitVec 32 × BitVec 32) : BitVec 64 := x.1.setWidth 64 ||| (x.2.setWidth 64 <<< 32)

theorem bitsAt_wordPair (x : BitVec 32 × BitVec 32) : bitsAt (wordPair x) 0 32 = x.1 ∧ bitsAt (wordPair x) 32 32 = x.2 :=
  ⟨bitsAt_low x.1 x.2 (by decide), bitsAt_high x.1 x.2 (by decide)⟩

/-- AMAX, CAPMAX, PROP and PVALID in the words of ITEM 0. -/
theorem summaryItem_zero (s : State) (n : Nat) : let v := wordPair (summaryItem s 0 n)
    bitsAt v 0 16 = (s.tracked n).cur.amax ∧ bitsAt v 16 16 = (s.tracked n).cur.capmax ∧ bitsAt v 32 16 = (s.tracked n).prop ∧
      bitAt v 48 = (s.tracked n).pvalid ∧ bitsAt v 49 15 = 0 := by
  intro v
  obtain ⟨hlow, hhigh⟩ := bitsAt_wordPair (summaryItem s 0 n)
  have hinLow : ∀ lo w, lo + w ≤ 32 → bitsAt v lo w = bitsAt (summaryItem s 0 n).1 lo w := fun lo w h => by
    rw [← hlow, bitsAt_bitsAt _ h, Nat.zero_add]
  have hinHigh : ∀ lo w, lo + w ≤ 32 → bitsAt v (32 + lo) w = bitsAt (summaryItem s 0 n).2 lo w := fun lo w h => by
    rw [← hhigh, bitsAt_bitsAt _ h]
  exact ⟨(hinLow 0 16 (by decide)).trans (bitsAt_low _ _ (by decide)), (hinLow 16 16 (by decide)).trans (bitsAt_high _ _ (by decide)),
    (hinHigh 0 16 (by decide)).trans (bitsAt_low _ _ (by decide)),
    bitAt_of_bits ((hinHigh 16 1 (by decide)).trans (bitsAt_high _ _ (by decide))),
    (hinHigh 17 15 (by decide)).trans (bitsAt_past _ _ (by decide) 15)⟩

/-- What a SUMMARY posts. -/
def summaryOfItem (s : State) (i : Issued) : Summary :=
  { value := wordPair (summaryItem s (sumItem i.body) (sumIndex i.body)), kind := 5, status := none, flags := 0 }

section
variable {s : State} {b : Bib} {q : BitVec 14} {i : Issued} (h : Works s b q i) (hop : i.op = .summary)
include h hop

theorem exec_summary {r : Issued} (hrun : onExecutor summaryRun s i = (s, r)) (hfin : r.finished.isSome = true) :
    exec (.summary b q) s = .next (setIssued s b.toNat r) := by
  have hne : r ≠ i := by
    rintro rfl
    rw [unfinished_of_works h] at hfin
    cases hfin
  have hexec : exec (.summary b q) s = live s (workOn s b.toNat q.toNat .summary (onExecutor summaryRun)) := rfl
  rw [hexec, live_of_running _ h.running, workOn_of_works h hop _ (by rw [hrun]; exact hne), hrun]

theorem exec_summary_of_fenced (hf : (s.unit (executor i)).health.fenced = true) :
    exec (.summary b q) s = .next (setIssued s b.toNat { i with finished := some .wrongState }) :=
  exec_summary h hop (onExecutor_of_fenced hf) rfl

theorem exec_summary_of_free (hf : (s.unit (executor i)).health.fenced = false) :
    exec (.summary b q) s = .next (setIssued s b.toNat { i with finished := some .ok, summary := some (summaryOfItem s i) }) :=
  exec_summary h hop ((onExecutor_of_free hf).trans rfl) rfl

end

/-- Settles O37: the run of a STATS keeps `Measured`, a SAMPLE takes one of three ways, a SUMMARY posts two words. -/
theorem statsSampleAndSummaryReport : Obligations.StatsSampleAndSummaryReport := by
  intro s b q steps i h hsteps
  obtain ⟨n, rfl⟩ := Nat.exists_eq_succ_of_ne_zero (Nat.ne_of_gt hsteps)
  refine ⟨fun hop hslice _ => ⟨fun hdone => exec_stats_of_done h hop hslice n hdone, fun hleft hwaits => ?_⟩,
    fun hop hleft => ?_, fun hop hf => exec_summary_of_fenced h hop hf, fun hop hf => ?_⟩
  · have hwait : (isStream (i.field 1) && (entriesOf (i.field 1) (i.desc 1)).any (fun p => (s.stream p.1).readerWaits)) = false := by
      cases hstream : isStream (i.field 1) with
      | false => rfl
      | true => exact List.any_eq_false.2 (fun p hp => by rw [hwaits hstream p hp]; exact Bool.false_ne_true)
    obtain ⟨t, k, hexec, hmeasured, hon⟩ := exec_stats_of_left h hop hslice n hleft hwait
    obtain ⟨hplaced, hframe⟩ := placed_of_workedOn h hmeasured.work hmeasured.job.queue hmeasured.job.slot
    exact ⟨_, k, hexec, hplaced, hon, hframe, hmeasured.mem, hmeasured.out, hmeasured.work.workFrame.2, hmeasured.ended⟩
  · dsimp only
    cases hhere : addrIn (gSpad (s.grant i.ctx)) (recordAddr i i.pos) 16 with
    | false =>
      obtain ⟨hjob, -, hends⟩ := sampled_of_failed i 0xFFFFFFFF i.done
      obtain ⟨t, hexec, hplaced, hrest, hunits, hmem⟩ :=
        exec_sample h hop hleft (m := s.mem) (sampleUnit_of_foreign hhere) hjob hleft
      exact ⟨t, _, hexec, hplaced, hrest, hunits, nofun, nofun, fun _ => ⟨hmem, fun hnone => (hends hnone).1⟩⟩
    | true =>
      cases hlogits : logitsIn s i i.pos with
      | false =>
        obtain ⟨hjob, hended, hends⟩ := sampled_of_failed i i.pos (i.done + 1)
        obtain ⟨t, hexec, hplaced, hrest, hunits, hmem⟩ :=
          exec_sample h hop hleft (sampleUnit_of_denied hhere hlogits) hjob hleft
        exact ⟨t, _, hexec, hplaced, hrest, hunits, nofun, fun _ _ => ⟨hmem, hended, hends⟩, nofun⟩
      | true =>
        obtain ⟨e, y, z, c, m, hunit⟩ := sampleUnit_of_drawn hhere hlogits
        obtain ⟨t, hexec, hplaced, hrest, hunits, hmem⟩ :=
          exec_sample h hop hleft hunit ⟨rfl, rfl, rfl, rfl, rfl⟩ (Nat.lt_succ_self _)
        obtain ⟨f, x, hframe, -⟩ := Issued.sampled_frame { i with
          pos := i.pos + 1, done := i.done + 1, emptySeen := e, sawNan := y, sawInf := z, counts := c, summary := m }
        refine ⟨t, _, hexec, hplaced, hrest, hunits, fun _ _ => ⟨hmem, ?_⟩, nofun, nofun⟩
        rw [hframe]
        exact ⟨rfl, rfl⟩
  · refine ⟨wordPair (summaryItem s (sumItem i.body) (sumIndex i.body)), exec_summary_of_free h hop hf, ?_⟩
    obtain ⟨hlow, hhigh⟩ := bitsAt_wordPair (summaryItem s (sumItem i.body) (sumIndex i.body))
    rw [hlow, hhigh]
    refine ⟨fun hitem => ?_, fun hitem => ?_, fun hitem => ?_, fun hitem => ?_, fun hitem => ?_⟩
    · rw [hitem]
      exact summaryItem_zero s _
    all_goals
      rw [hitem]
      exact ⟨rfl, rfl⟩

end Sys2Proof.Machine
end

section
/-!
PROOFS. What MG keeps of the laps, the baton and the pace bus: the operations of the model that leave both as they are, in the
order of the model's files (R198, R211).
-/

namespace Sys2Proof.Machine

/-- What MG keeps of the laps: the baton and the pace bus. -/
def State.lapState (s : State) : Baton × Pace := (s.baton, s.pace)

@[simp] theorem lapState_mk (a b c d e f g h i j k l m n o p) :
    State.lapState ⟨a, b, c, d, e, f, g, h, i, j, k, l, m, n, o, p⟩ = (f, d) := by simp [State.lapState]

@[simp] theorem lapState_pair (s : State) : (s.baton, s.pace) = s.lapState := by simp [State.lapState]

@[simp] theorem lapState_ite {c : Prop} [Decidable c] (s t : State) :
    (if c then s else t).lapState = if c then s.lapState else t.lapState := apply_ite _ _ _ _

@[simp] theorem lapState_fst_ite {α : Type} {c : Prop} [Decidable c] (x y : State × α) :
    (if c then x else y).1.lapState = if c then x.1.lapState else y.1.lapState := by split <;> rfl

@[simp] theorem lapState_snd_ite {α : Type} {c : Prop} [Decidable c] (x y : α × State) :
    (if c then x else y).2.lapState = if c then x.2.lapState else y.2.lapState := by split <;> rfl

@[simp] theorem lapState_foldl {α : Type} (l : List α) (f : State → α → State) (s : State)
    (h : ∀ t a, (f t a).lapState = t.lapState) : (l.foldl f s).lapState = s.lapState := by
  induction l generalizing s with
  | nil => rfl
  | cons a l ih => rw [List.foldl_cons, ih, h]

theorem lapState_fst_foldl {α β : Type} (l : List α) (f : State × β → α → State × β) (x : State × β)
    (h : ∀ y a, (f y a).1.lapState = y.1.lapState) : (l.foldl f x).1.lapState = x.1.lapState := by
  induction l generalizing x with
  | nil => rfl
  | cons a l ih => rw [List.foldl_cons, ih, h]

@[simp] theorem lapState_each {α : Type} (s : State) (l : List α) (f : State → α → State)
    (h : ∀ t a, (f t a).lapState = t.lapState) : (s.each l f).lapState = s.lapState := lapState_foldl l f s h

/-! ### Ops -/

@[simp] theorem lapState_setUnit (s : State) (b : ℕ) (u : UnitSt) : (s.setUnit b u).lapState = s.lapState := by
  simp [State.setUnit]

@[simp] theorem lapState_onUnit (s : State) (b : ℕ) (f : UnitSt → UnitSt) : (s.onUnit b f).lapState = s.lapState := by
  simp [State.onUnit]

@[simp] theorem lapState_setQueue (s : State) (q : ℕ) (v : Queue) : (s.setQueue q v).lapState = s.lapState := by
  simp [State.setQueue]

@[simp] theorem lapState_onQueue (s : State) (q : ℕ) (f : Queue → Queue) : (s.onQueue q f).lapState = s.lapState := by
  simp [State.onQueue]

@[simp] theorem lapState_setContext (s : State) (n : ℕ) (v : Context) : (s.setContext n v).lapState = s.lapState := by
  simp [State.setContext]

@[simp] theorem lapState_setStream (s : State) (n : ℕ) (v : Stream) : (s.setStream n v).lapState = s.lapState := by
  simp [State.setStream]

@[simp] theorem lapState_onStream (s : State) (n : ℕ) (f : Stream → Stream) : (s.onStream n f).lapState = s.lapState := by
  simp [State.onStream]

@[simp] theorem lapState_setTracked (s : State) (n : ℕ) (v : Tracked) : (s.setTracked n v).lapState = s.lapState := by
  simp [State.setTracked]

@[simp] theorem lapState_setWatch (s : State) (n : ℕ) (v : Watch) : (s.setWatch n v).lapState = s.lapState := by
  simp [State.setWatch]

@[simp] theorem lapState_setLink (s : State) (n : ℕ) (v : Link) : (s.setLink n v).lapState = s.lapState := by
  simp [State.setLink]

@[simp] theorem lapState_setLastUse (s : State) (n : ℕ) (v : LastUse) : (s.setLastUse n v).lapState = s.lapState := by
  simp [State.setLastUse]

@[simp] theorem lapState_writeSpad (s : State) (a : ℕ) (bs : List Byte) : (s.writeSpad a bs).lapState = s.lapState := by
  simp [State.writeSpad]

@[simp] theorem lapState_emit (s : State) (o : Out) : (s.emit o).lapState = s.lapState := by simp [State.emit]

@[simp] theorem lapState_draw (s : State) : (s.draw).2.lapState = s.lapState := by simp [State.draw]

/-! ### Flags -/

@[simp] theorem lapState_post (s : State) (p b : ℕ) (v : Ev) (ctx : Option ℕ) (a0 a1 a2 : BitVec 32) :
    (s.post p b v ctx a0 a1 a2).lapState = s.lapState := by
  simp [State.post]

@[simp] theorem lapState_postMg (s : State) (v : Ev) (a0 a1 a2 : BitVec 32) :
    (s.postMg v a0 a1 a2).lapState = s.lapState := by
  simp [State.postMg]

@[simp] theorem lapState_malformed (s : State) (p iface : ℕ) (first : BitVec 32) (sender : ℕ) :
    (s.malformed p iface first sender).lapState = s.lapState := by
  simp [State.malformed]

/-! ### Wire -/

@[simp] theorem lapState_setLinkEnd (s : State) (k : ℕ) (mg : Bool) (e : LinkEnd) :
    (s.setLinkEnd k mg e).lapState = s.lapState := by
  simp [State.setLinkEnd]

@[simp] theorem lapState_sendFlit (s : State) (k : ℕ) (mg nak : Bool) : (sendFlit s k mg nak).lapState = s.lapState := by
  simp [sendFlit]

@[simp] theorem lapState_pumpFlits (k : ℕ) (mg : Bool) (n : ℕ) (s : State) : (pumpFlits k mg n s).lapState = s.lapState := by
  obtain ⟨l, o, h⟩ := pumpFlits_frame k mg n s
  rw [h]; rfl

@[simp] theorem lapState_queueMessage (s : State) (k : ℕ) (mg : Bool) (m : List Byte) :
    (queueMessage s k mg m).lapState = s.lapState := by
  simp [queueMessage]

@[simp] theorem lapState_sendMsg (s : State) (toUnit : Bool) (b : ℕ) (m : List Byte) :
    (sendMsg s toUnit b m).lapState = s.lapState := by
  simp [sendMsg]

/-! ### Streams -/

@[simp] theorem lapState_sendScale (s : State) (i : Issued) (num : ℕ) (tag : BitVec 16) (bs : List Byte) :
    (sendScale s i num tag bs).lapState = s.lapState := by
  simp [sendScale]

@[simp] theorem lapState_advanceRead (s : State) (i : Issued) (n : ℕ) : (advanceRead s i n).lapState = s.lapState := by
  simp [advanceRead]

@[simp] theorem lapState_haltEntry (s : State) (n : ℕ) (st : Status) : (haltEntry s n st).lapState = s.lapState := by
  simp [haltEntry]

@[simp] theorem lapState_haltField (s : State) (i : Issued) (n : ℕ) (st : Status) :
    (haltField s i n st).lapState = s.lapState := by
  simp [haltField]

@[simp] theorem lapState_haltAll (s : State) (i : Issued) (st : Status) : (haltAll s i st).lapState = s.lapState := by
  simp [haltAll]

@[simp] theorem lapState_positionEvents (s : State) (b : ℕ) (i : Issued) (n : ℕ) (p : PosRead) (pos : ℕ) :
    (positionEvents s b i n p pos).lapState = s.lapState := by
  unfold positionEvents
  split <;> simp

@[simp] theorem lapState_writeBlock (s : State) (i : Issued) (n kind count : ℕ) (poison ovf : Bool) (body : List Byte) :
    (writeBlock s i n kind count poison ovf body).lapState = s.lapState := by
  simp only [writeBlock]
  (repeat' split) <;> simp

@[simp] theorem lapState_writeGood (s : State) (i : Issued) (n count : ℕ) (ovf : Bool) (body sbody obody : List Byte) :
    (writeGood s i n count ovf body sbody obody).lapState = s.lapState := by
  simp [writeGood]

@[simp] theorem lapState_skipBlock (s : State) (num : ℕ) : (skipBlock s num).lapState = s.lapState := by simp [skipBlock]

@[simp] theorem lapState_writePoisonBut (keep : State → ℕ → ℕ → Bool) (s : State) (i : Issued) (n count : ℕ) :
    (writePoisonBut keep s i n count).lapState = s.lapState := by
  simp [writePoisonBut]

@[simp] theorem lapState_writePoison (s : State) (i : Issued) (n count p : ℕ) :
    (writePoison s i n count p).lapState = s.lapState := by
  simp [writePoison]

@[simp] theorem lapState_writeOut (s : State) (i : Issued) (o : OutPos) : (writeOut s i o).1.lapState = s.lapState := by
  unfold writeOut
  (repeat' split) <;> simp

@[simp] theorem lapState_flushOuts (more : Issued → List OutPos) (n : ℕ) (s : State) (i : Issued) :
    (flushOuts more n s i).1.lapState = s.lapState := by
  induction n generalizing s i with
  | zero => rfl
  | succ n ih =>
    rw [flushOuts]
    split
    · simp [ih]
    · split
      · rfl
      · exact ih _ _

@[simp] theorem lapState_drainOuts (s : State) (i : Issued) : (drainOuts s i).1.lapState = s.lapState :=
  lapState_flushOuts _ _ _ _

@[simp] theorem lapState_openField (s : State) (ctx : ℕ) (f : BitVec 128) (d : Desc) (fdi : BitVec 6) :
    (openField s ctx f d fdi).lapState = s.lapState := by
  simp [openField]

@[simp] theorem lapState_closeEntry (s : State) (n : ℕ) : (closeEntry s n).lapState = s.lapState := by simp [closeEntry]

@[simp] theorem lapState_settleEntry (s : State) (n : ℕ) : (settleEntry s n).lapState = s.lapState := by simp [settleEntry]

@[simp] theorem lapState_closeFields (s : State) (i : Issued) : (closeFields s i).lapState = s.lapState := by
  simp [closeFields]

@[simp] theorem lapState_releaseEntry (s : State) (n : ℕ) (rtag : BitVec 16) :
    (releaseEntry s n rtag).lapState = s.lapState := by
  simp [releaseEntry]

@[simp] theorem lapState_releaseStream (s : State) (n : ℕ) (dr sr or : BitVec 16) :
    (releaseStream s n dr sr or).lapState = s.lapState := by
  simp [releaseStream]

@[simp] theorem lapState_setIssued (s : State) (b : ℕ) (i : Issued) : (setIssued s b i).lapState = s.lapState := by
  simp [setIssued]

@[simp] theorem lapState_stopOn (more : Issued → List OutPos) (s : State) (i : Issued) (st : Status) :
    (stopOn more s i st).1.lapState = s.lapState := by
  simp [stopOn]

/-! ### Convert -/

@[simp] theorem lapState_takeRowSums (s : State) (b : ℕ) (i : Issued) : (takeRowSums s b i).1.lapState = s.lapState := by
  simp only [takeRowSums]
  (repeat' split) <;> simp

@[simp] theorem lapState_formGroup (s : State) (b : ℕ) (i : Issued) : (formGroup s b i).1.lapState = s.lapState := by
  simp [formGroup]

@[simp] theorem lapState_readNext (s : State) (b : ℕ) (i : Issued) (arrived : List Byte) :
    (readNext s b i arrived).1.lapState = s.lapState := by
  simp [readNext]

@[simp] theorem lapState_readStep (s : State) (b : ℕ) (i : Issued) (arrived : List (List Byte)) :
    (readStep s b i arrived).1.lapState = s.lapState := by
  simp [readStep]

@[simp] theorem lapState_convUnit (s : State) (b : ℕ) (i : Issued) (arrived : List (List Byte)) :
    (convUnit s b i arrived).1.lapState = s.lapState := by
  simp [convUnit]

@[simp] theorem lapState_convRun (b n : ℕ) (s : State) (i : Issued) (arrived : List (List Byte)) :
    (convRun b n s i arrived).1.lapState = s.lapState := by
  induction n generalizing s i arrived with
  | zero => rfl
  | succ n ih => simp [convRun, ih]

@[simp] theorem lapState_putBack (b : ℕ) (i : Issued) (r : State × Issued) : (putBack b i r).lapState = r.1.lapState := by
  simp [putBack]

@[simp] theorem lapState_workOn {s : State} {run : State → Issued → State × Issued}
    (h : ∀ i, (run s i).1.lapState = s.lapState) 
    (b q : ℕ) (o : Op) : (workOn s b q o run).lapState = s.lapState := by
  unfold workOn
  split
  · split
    · simp [h]
    · rfl
  · rfl

/-! ### Programs -/

@[simp] theorem lapState_discardCopies (s : State) (p : ℕ → ℕ → Bool) : (discardCopies s p).lapState = s.lapState := by
  simp [discardCopies]

@[simp] theorem lapState_discardProgram (s : State) (c k : ℕ) : (discardProgram s c k).lapState = s.lapState := by
  simp [discardProgram]

/-! ### Engine -/

@[simp] theorem lapState_passDraws (s : State) (b : ℕ) (i : Issued) (groups : ℕ) :
    (passDraws s b i groups).lapState = s.lapState := by
  simp [passDraws]

@[simp] theorem lapState_writePlain (s : State) (i : Issued) (r k code : ℕ) :
    (writePlain s i r k code).lapState = s.lapState := by
  simp [writePlain]

@[simp] theorem lapState_elemStep (s : State) (b : ℕ) (i : Issued) (ts : Tiles) (p r k : ℕ) :
    (elemStep s b i ts p r k).st.lapState = s.lapState := by
  unfold elemStep
  split
  · split <;> simp
  · dsimp only
    split <;> simp

@[simp] theorem lapState_unpackStep (s : State) (i : Issued) (blks : List (ℕ × Blk × Option Blk)) (r k : ℕ) :
    (unpackStep s i blks r k).1.lapState = s.lapState := by
  unfold unpackStep
  (repeat' split) <;> simp

@[simp] theorem lapState_runGroup (b : ℕ) (i : Issued) (ts : Tiles) (blks : List (ℕ × Blk × Option Blk)) (l : List (ℕ × ℕ))
    (p : ℕ) (d : RunDone) : (runGroup b i ts blks l p d).st.lapState = d.st.lapState := by
  induction l generalizing p d with
  | nil => rfl
  | cons e l ih =>
    rw [runGroup, ih]
    split <;> simp

@[simp] theorem lapState_runGroups (b : ℕ) (i : Issued) (ts : Tiles) (blks : List (ℕ × Blk × Option Blk))
    (l : List (List (ℕ × ℕ) × List (ℕ × ℕ))) (p : ℕ) (d : RunDone) :
    (runGroups b i ts blks l p d).st.lapState = d.st.lapState := by
  induction l generalizing p d with
  | nil => rfl
  | cons g l ih =>
    rw [runGroups]
    split
    · rfl
    · split
      · rfl
      · rw [ih, lapState_runGroup]

@[simp] theorem lapState_setPermRange (s : State) (c : ℕ) : (setPermRange s c).lapState = s.lapState := by simp [setPermRange]

@[simp] theorem lapState_notePermRange (run : RunDone) (i : Issued) : (notePermRange run i).1.lapState = run.st.lapState := by
  simp [notePermRange]

@[simp] theorem lapState_readUnit (b : ℕ) (i : Issued) (l : List (ℕ × ℕ)) (u : UnitRead) :
    (readUnit b i l u).st.lapState = u.st.lapState := by
  induction l generalizing u with
  | nil => rfl
  | cons x l ih =>
    rw [readUnit]
    split
    · rfl
    · simp [ih]

@[simp] theorem lapState_seCompute (s : State) (b : ℕ) (i : Issued) (t : ℕ) :
    (seCompute s b i t).1.lapState = s.lapState := by
  simp only [seCompute]
  split <;> simp

@[simp] theorem lapState_seTileUnit (s : State) (b : ℕ) (i : Issued) : (seTileUnit s b i).1.lapState = s.lapState := by
  simp only [seTileUnit]
  iterate 4 (split; · simp)
  split <;> simp

@[simp] theorem lapState_sePlainUnit (s : State) (b : ℕ) (i : Issued) : (sePlainUnit s b i).1.lapState = s.lapState := by
  simp only [sePlainUnit]
  split
  · simp
  · split <;> simp

@[simp] theorem lapState_seUnit (s : State) (b : ℕ) (i : Issued) : (seUnit s b i).1.lapState = s.lapState := by simp [seUnit]

@[simp] theorem lapState_seRun (b n : ℕ) (s : State) (i : Issued) : (seRun b n s i).1.lapState = s.lapState := by
  induction n generalizing s i with
  | zero => rfl
  | succ n ih => simp [seRun, ih]

/-! ### Reduce -/

@[simp] theorem lapState_writeFolds (s : State) (i : Issued) (l : List (ℕ × Folded)) (acc : State × List (ℕ × Counted)) :
    (writeFolds s i l acc).1.lapState = acc.1.lapState := by
  induction l generalizing acc with
  | nil => rfl
  | cons x l ih => simp [writeFolds, ih]

@[simp] theorem lapState_reduceFail (tile : Bool) (s : State) (i : Issued) (pos : ℕ) :
    (reduceFail tile s i pos).1.lapState = s.lapState := by
  simp [reduceFail]

@[simp] theorem lapState_reduceEnd (s : State) (i : Issued) (pos : ℕ) : (reduceEnd s i pos).1.lapState = s.lapState := by
  simp [reduceEnd]

@[simp] theorem lapState_reduceUnit (s : State) (b : ℕ) (i : Issued) : (reduceUnit s b i).1.lapState = s.lapState := by
  simp [reduceUnit]

@[simp] theorem lapState_reduceRun (b n : ℕ) (s : State) (i : Issued) : (reduceRun b n s i).1.lapState = s.lapState := by
  induction n generalizing s i with
  | zero => rfl
  | succ n ih => simp [reduceRun, ih]

@[simp] theorem lapState_reduceStop (s : State) (i : Issued) (st : Status) : (reduceStop s i st).1.lapState = s.lapState := by
  simp [reduceStop]

@[simp] theorem lapState_statsPosition (s : State) (b : ℕ) (i : Issued) : (statsPosition s b i).1.lapState = s.lapState := by
  simp only [statsPosition]
  (repeat' split) <;> simp

@[simp] theorem lapState_statsRun (b n : ℕ) (s : State) (i : Issued) : (statsRun b n s i).1.lapState = s.lapState := by
  induction n generalizing s i with
  | zero => rfl
  | succ n ih => simp [statsRun, ih]

/-! ### Delivery -/

@[simp] theorem lapState_poisonRest (s : State) (b : ℕ) (i : Issued) (n : ℕ) :
    (poisonRest s b i n).lapState = s.lapState := by
  simp [poisonRest]

@[simp] theorem lapState_sendPosition (s : State) (b : ℕ) (i : Issued) (p : PosRead) :
    (sendPosition s b i p).1.lapState = s.lapState := by
  simp only [sendPosition]
  (repeat' split) <;> simp

@[simp] theorem lapState_sendHeld (s : State) (b : ℕ) (i : Issued) : (sendHeld s b i).1.lapState = s.lapState := by
  unfold sendHeld
  split <;> simp

@[simp] theorem lapState_buildUnit (s : State) (b : ℕ) (i : Issued) : (buildUnit s b i).1.lapState = s.lapState := by
  simp [buildUnit]

@[simp] theorem lapState_buildRun (b n : ℕ) (s : State) (i : Issued) : (buildRun b n s i).1.lapState = s.lapState := by
  induction n generalizing s i with
  | zero => rfl
  | succ n ih => simp [buildRun, ih]

@[simp] theorem lapState_buildStop (rest : Bool) (s : State) (b : ℕ) (i0 : Issued) (st : Status) :
    (buildStop rest s b i0 st).1.lapState = s.lapState := by
  simp [buildStop]

@[simp] theorem lapState_releaseRegion (s : State) (i : Issued) (st : Status) :
    (releaseRegion s i st).lapState = s.lapState := by
  simp [releaseRegion]

/-! ### Loads -/

@[simp] theorem lapState_loadEntries (s : State) (b : ℕ) (i : Issued) (bs : List Byte) :
    (loadEntries s b i bs).1.lapState = s.lapState := by
  simp [loadEntries]

@[simp] theorem lapState_loadRun (b : ℕ) (s : State) (i : Issued) : (loadRun b s i).1.lapState = s.lapState := by
  unfold loadRun
  (repeat' split) <;> simp

/-! ### Records -/

@[simp] theorem lapState_badMsg (s : State) (receiver sender : ℕ) (m : List Byte) :
    (badMsg s receiver sender m).lapState = s.lapState := by
  simp [badMsg]

@[simp] theorem lapState_writeSlot (s : State) (ctx slot : ℕ) (bs : List Byte) :
    (writeSlot s ctx slot bs).lapState = s.lapState := by
  simp [writeSlot]

@[simp] theorem lapState_postSummary (s : State) (b : ℕ) (i : Issued) (st : Status) :
    (postSummary s b i st).lapState = s.lapState := by
  simp [postSummary]

@[simp] theorem lapState_settleContext (s : State) (c : ℕ) : (settleContext s c).lapState = s.lapState := by
  simp [settleContext]

@[simp] theorem lapState_settleOwner (s : State) (q : ℕ) : (settleOwner s q).lapState = s.lapState := by
  unfold settleOwner
  split <;> simp

@[simp] theorem lapState_settleQueue (s : State) (q : ℕ) : (settleQueue s q).lapState = s.lapState := by simp [settleQueue]

@[simp] theorem lapState_haltQueue (s : State) (q : ℕ) (st : Status) : (haltQueue s q st).lapState = s.lapState := by
  simp [haltQueue]

@[simp] theorem lapState_writeRecord (s : State) (q : ℕ) (bs : List Byte) (n : ℕ) :
    (writeRecord s q bs n).lapState = s.lapState := by
  simp [writeRecord]

@[simp] theorem lapState_postRecord (s : State) (b : ℕ) (i : Issued) (st : Status) (par : Bool) :
    (postRecord s b i st par).lapState = s.lapState := by
  simp [postRecord]

@[simp] theorem lapState_closeNext (s : State) (q : ℕ) : (closeNext s q).lapState = s.lapState := by simp [closeNext]

@[simp] theorem lapState_closeVisible (n : ℕ) (s : State) (q : ℕ) : (closeVisible n s q).lapState = s.lapState := by
  induction n generalizing s with
  | zero => rfl
  | succ n ih => simp [closeVisible, ih]

@[simp] theorem lapState_closeUnissued (s : State) (q : ℕ) : (closeUnissued s q).lapState = s.lapState :=
  lapState_closeVisible _ _ _

@[simp] theorem lapState_answerClosing (s : State) (p : ℕ → Bool) : (answerClosing s p).lapState = s.lapState := by
  simp [answerClosing]

@[simp] theorem lapState_recallInbox (s : State) (q : ℕ) : (recallInbox s q).lapState = s.lapState := by
  simp only [recallInbox]
  (repeat' split) <;> simp

@[simp] theorem lapState_sendReport (s : State) (b : ℕ) (r : Report) : (sendReport s b r).lapState = s.lapState := by
  simp [sendReport]

@[simp] theorem lapState_sendPartial (s : State) (b : ℕ) (p : Partial) : (sendPartial s b p).lapState = s.lapState := by
  simp [sendPartial]

@[simp] theorem lapState_noteClose (s : State) (b : ℕ) (i : Issued) (stamp : BitVec 8 × Bool) :
    (noteClose s b i stamp).lapState = s.lapState := by
  simp [noteClose]

@[simp] theorem lapState_sendStatistics (s : State) (b : ℕ) (i : Issued) (st : Status) :
    (sendStatistics s b i st).lapState = s.lapState := by
  simp [sendStatistics]

@[simp] theorem lapState_dropIssued (s : State) (b : ℕ) (i : Issued) : (dropIssued s b i).lapState = s.lapState := by
  simp [dropIssued]

@[simp] theorem lapState_undoOpens (s : State) (i : Issued) : (undoOpens s i).lapState = s.lapState := by simp [undoOpens]

@[simp] theorem lapState_forgetScales (s : State) (i : Issued) : (forgetScales s i).lapState = s.lapState := by
  simp [forgetScales]

@[simp] theorem lapState_endInstr (s : State) (b : ℕ) (i0 : Issued) (st : Status) :
    (endInstr s b i0 st).lapState = s.lapState := by
  simp [endInstr]

@[simp] theorem lapState_flushRecords (b q n : ℕ) (s : State) : (flushRecords b q n s).lapState = s.lapState := by
  induction n generalizing s with
  | zero => rfl
  | succ n ih =>
    rw [flushRecords]
    split
    · rfl
    · split <;> simp [ih]

@[simp] theorem lapState_completeIssued (s : State) (b : ℕ) (i : Issued) (st : Status) :
    (completeIssued s b i st).lapState = s.lapState := by
  simp [completeIssued]

@[simp] theorem lapState_passClose (s : State) (q : ℕ) (h : SlotWord) : (passClose s q h).lapState = s.lapState := by
  simp only [passClose]
  (repeat' split) <;> simp

/-! ### Fences -/

@[simp] theorem lapState_recordByMg (s : State) (b : ℕ) (i : Issued) (st : Status) (par : Bool) :
    (recordByMg s b i st par).lapState = s.lapState := by
  simp [recordByMg]

@[simp] theorem lapState_abortByMg (s : State) (b : ℕ) (i : Issued) : (abortByMg s b i).lapState = s.lapState := by
  unfold abortByMg
  split <;> simp

@[simp] theorem lapState_abortParked (s : State) (q : ℕ) : (abortParked s q).lapState = s.lapState := by
  unfold abortParked
  split <;> simp

@[simp] theorem lapState_returnInbox (s : State) (b : ℕ) : (returnInbox s b).lapState = s.lapState := by
  simp [returnInbox, -List.foldl_reverse]

@[simp] theorem lapState_abortUnit (s : State) (b : ℕ) : (abortUnit s b).lapState = s.lapState := by simp [abortUnit]

@[simp] theorem lapState_settleStaging (s : State) : (settleStaging s).lapState = s.lapState := by
  obtain ⟨t, h⟩ := settleStaging_frame s
  rw [h]; rfl

@[simp] theorem lapState_enterReset (s : State) (b : ℕ) : (enterReset s b).lapState = s.lapState := by simp [enterReset]

/-! ### Baton -/

@[simp] theorem lapState_sendBaton (s : State) (toUnit : Bool) (b : ℕ) (m : BitVec 128) :
    (sendBaton s toUnit b m).lapState = s.lapState := by
  simp [sendBaton]

@[simp] theorem lapState_postLapSummary (s : State) : (postLapSummary s).lapState = s.lapState := by
  unfold postLapSummary
  split <;> simp

@[simp] theorem lapState_sendStage (s : State) (b : ℕ) : (sendStage s b).lapState = s.lapState := by simp [sendStage]

@[simp] theorem lapState_deferAll (s : State) : (deferAll s).lapState = s.lapState := by simp [deferAll]

@[simp] theorem lapState_markDue (s : State) : (markDue s).lapState = s.lapState :=
  lapState_foldl _ _ _ (fun _ _ => by split <;> simp)

@[simp] theorem lapState_memberStage (s : State) (b : ℕ) (m : BitVec 128) : (memberStage s b m).lapState = s.lapState := by
  simp [memberStage]

@[simp] theorem lapState_memberCommit (s : State) (b : ℕ) (m : BitVec 128) : (memberCommit s b m).lapState = s.lapState := by
  simp [memberCommit]

@[simp] theorem lapState_memberDefer (s : State) (b : ℕ) : (memberDefer s b).lapState = s.lapState := by simp [memberDefer]

@[simp] theorem lapState_memberApply (s : State) (b : ℕ) (rpt : Bool) : (memberApply s b rpt).lapState = s.lapState := by
  simp [memberApply]

@[simp] theorem lapState_sendResync (s : State) (b : ℕ) : (sendResync s b).lapState = s.lapState := by simp [sendResync]

@[simp] theorem lapState_memberResync (s : State) (b : ℕ) (m : BitVec 128) : (memberResync s b m).lapState = s.lapState := by
  simp [memberResync]

@[simp] theorem lapState_liftFence (s : State) (b : ℕ) : (liftFence s b).lapState = s.lapState := by simp [liftFence]

@[simp] theorem lapState_liftSynced (s : State) : (liftSynced s).lapState = s.lapState := by simp [liftSynced]

@[simp] theorem lapState_exchangeRegion (s : State) (b r : ℕ) : (exchangeRegion s b r).lapState = s.lapState := by
  simp [exchangeRegion]

@[simp] theorem lapState_pendRegion (s : State) (b r : ℕ) : (pendRegion s b r).lapState = s.lapState := by simp [pendRegion]

@[simp] theorem lapState_pendRegions (s : State) (b : ℕ) (lap : BitVec 48) : (pendRegions s b lap).lapState = s.lapState := by
  simp [pendRegions]

@[simp] theorem lapState_memberBoundary (s0 : State) (b : ℕ) (m : BitVec 128) :
    (memberBoundary s0 b m).lapState = s0.lapState := by
  simp [memberBoundary]

@[simp] theorem lapState_memberAnnounce (s : State) (b : ℕ) (m : BitVec 128) :
    (memberAnnounce s b m).lapState = s.lapState := by
  simp [memberAnnounce]

@[simp] theorem lapState_unitTakes (s : State) (b : ℕ) (m : BitVec 128) : (unitTakes s b m).lapState = s.lapState := by
  unfold unitTakes
  (repeat' split) <;> simp

@[simp] theorem lapState_toUnit (s : State) (b type : ℕ) (m : BitVec 128) : (toUnit s b type m).lapState = s.lapState := by
  simp [toUnit]

/-! ### Access -/

@[simp] theorem lapState_accessEvent (s : State) (a : Agent) (offset : ℕ) :
    (accessEvent s a offset).lapState = s.lapState := by
  simp [accessEvent]

@[simp] theorem lapState_guarded (s : State) (a : Agent) (offset : ℕ) (allowed : Bool) {t : State}
    (h : t.lapState = s.lapState) : (guarded s a offset allowed t).lapState = s.lapState := by
  simp [guarded, h]

@[simp] theorem lapState_selectPort (s : State) (a : Agent) (b p : ℕ) (v : BitVec 32) :
    (selectPort s a b p v).lapState = s.lapState := by
  simp [selectPort]

/-! ### Tracking -/

@[simp] theorem lapState_stageEntry (s : State) (n : ℕ) : (stageEntry s n).lapState = s.lapState := by simp [stageEntry]

@[simp] theorem lapState_adoptEntry (s : State) (n : ℕ) : (adoptEntry s n).lapState = s.lapState := by
  simp only [adoptEntry]
  (repeat' split) <;> simp

@[simp] theorem lapState_adoptAll (s : State) : (adoptAll s).lapState = s.lapState := by simp [adoptAll]

@[simp] theorem lapState_statsLate (s : State) (tk n : ℕ) (isWatch : Bool) (ctx : ℕ) (lap8 : BitVec 8) (par : Bool) :
    (statsLate s tk n isWatch ctx lap8 par).lapState = s.lapState := by
  simp [statsLate]

@[simp] theorem lapState_mergeReport (s : State) (r : Report) : (mergeReport s r).lapState = s.lapState := by
  unfold mergeReport
  split <;> simp

@[simp] theorem lapState_thresholdEvents (s : State) (n : ℕ) : (thresholdEvents s n).lapState = s.lapState := by
  simp [thresholdEvents]

@[simp] theorem lapState_followEntry (s : State) (n : ℕ) : (followEntry s n).lapState = s.lapState := by simp [followEntry]

@[simp] theorem lapState_clearMarks (s : State) : (clearMarks s).lapState = s.lapState := by simp [clearMarks]

@[simp] theorem lapState_writeTracked (s : State) (n w : ℕ) (v : BitVec 32) :
    (writeTracked s n w v).lapState = s.lapState := by
  simp [writeTracked]

@[simp] theorem lapState_writeWatch (s : State) (n w : ℕ) (v : BitVec 32) : (writeWatch s n w v).lapState = s.lapState := by
  simp [writeWatch]

@[simp] theorem lapState_scaleRun (s : State) (i : Issued) : (scaleRun s i).1.lapState = s.lapState := by simp [scaleRun]

@[simp] theorem lapState_summaryRun (s : State) (i : Issued) : (summaryRun s i).1.lapState = s.lapState := by
  simp [summaryRun]

@[simp] theorem lapState_onExecutor {run : State → Issued → State × Issued} {s : State}
    (h : ∀ i, (run s i).1.lapState = s.lapState) (i : Issued) : (onExecutor run s i).1.lapState = s.lapState := by
  simp [onExecutor, h]

/-! ### Events -/

@[simp] theorem lapState_queueRecord (s : State) (rtype : BitVec 8) (body : BitVec 384) :
    (queueRecord s rtype body).lapState = s.lapState := by
  simp [queueRecord]

@[simp] theorem lapState_queueEvent (s : State) (bs : List Byte) : (queueEvent s bs).lapState = s.lapState := by
  simp [queueEvent]

@[simp] theorem lapState_queueAccepted (s : State) (e : Event) (bs : List Byte) :
    (queueAccepted s e bs).lapState = s.lapState := by
  simp [queueAccepted]

@[simp] theorem lapState_writeLog (s : State) (seq : BitVec 16) (bs : List Byte) :
    (writeLog s seq bs).lapState = s.lapState := by
  simp [writeLog]

@[simp] theorem lapState_acceptEvent (s : State) (e : Event) : (acceptEvent s e).lapState = s.lapState := by
  simp [acceptEvent]

@[simp] theorem lapState_sendEvent (s : State) (b : ℕ) : (sendEvent s b).lapState = s.lapState := by
  unfold sendEvent
  split <;> simp

@[simp] theorem lapState_flushBacklog (s : State) : (flushBacklog s).lapState = s.lapState := by simp [flushBacklog]

@[simp] theorem lapState_writeEvctl (s : State) (v : BitVec 32) : (writeEvctl s v).lapState = s.lapState := by
  simp [writeEvctl]

@[simp] theorem lapState_writeSlotRecord (s : State) (rtype : BitVec 8) (body : BitVec 384) (good : Bool) :
    (writeSlotRecord s rtype body good).lapState = s.lapState := by
  simp [writeSlotRecord]

@[simp] theorem lapState_commitRecord (s : State) (r : BitVec 8 × BitVec 384) : (commitRecord s r).lapState = s.lapState := by
  simp [commitRecord]

@[simp] theorem lapState_turnFinish (s : State) : (turnFinish s).lapState = s.lapState := by simp [turnFinish]

theorem lapState_of_takeAction {s : State} {action : ℕ} {x} (h : takeAction s action = some x) :
    x.2.lapState = s.lapState := by
  unfold takeAction at h
  split at h <;> simp at h
  subst h; rfl

/-! ### Power -/

@[simp] theorem lapState_sendDemand (s : State) (watts laplo : BitVec 16) :
    (sendDemand s watts laplo).lapState = s.lapState := by
  simp [sendDemand]

@[simp] theorem lapState_announceDemand (s : State) : (announceDemand s).lapState = s.lapState := by simp [announceDemand]

@[simp] theorem lapState_applyCap (s : State) : (applyCap s).lapState = s.lapState := by unfold applyCap; split <;> simp

@[simp] theorem lapState_clearCounts (s : State) : (clearCounts s).lapState = s.lapState := by simp [clearCounts]

@[simp] theorem lapState_turnTelemetry (s : State) (rerun : Bool) : (turnTelemetry s rerun).lapState = s.lapState := by
  simp [turnTelemetry]

@[simp] theorem lapState_snapshotAction (s : State) : (snapshotAction s).lapState = s.lapState := by
  unfold snapshotAction
  split <;> simp

/-! ### Doorbells -/

@[simp] theorem lapState_discardBell (s : State) (q : ℕ) (tail : BitVec 16) (agent : BitVec 11) :
    (discardBell s q tail agent).lapState = s.lapState := by
  simp [discardBell]

@[simp] theorem lapState_ringBell (s : State) (q : ℕ) (tail : BitVec 16) (agent : BitVec 11) (mine : Bool) :
    (ringBell s q tail agent mine).lapState = s.lapState := by
  simp [ringBell]

@[simp] theorem lapState_stageBell (s : State) (a : Agent) (q : ℕ) (tail : BitVec 16) :
    (stageBell s a q tail).lapState = s.lapState := by
  simp [stageBell]

@[simp] theorem lapState_releaseLapwaits (s : State) (b : ℕ) : (releaseLapwaits s b).lapState = s.lapState := by
  simp [releaseLapwaits]

/-! ### Laps -/

@[simp] theorem lapState_paceFault (s : State) (row : ℕ) (lap : BitVec 48) : (paceFault s row lap).lapState = s.lapState := by
  simp [paceFault]

@[simp] theorem lapState_toFar (s : State) (type : ℕ) (seq : BitVec 8) (lap : BitVec 48) (rpt par : Bool) (val : BitVec 32) :
    (toFar s type seq lap rpt par val).lapState = s.lapState := by
  simp [toFar]

@[simp] theorem lapState_fireBackground (s : State) (entry : BitVec 9) (action : BitVec 8) (arg : BitVec 16) :
    (fireBackground s entry action arg).lapState = s.lapState := by
  simp [fireBackground]

@[simp] theorem lapState_beginWaiting (s : State) : (beginWaiting s).lapState = s.lapState := by simp [beginWaiting]

@[simp] theorem lapState_dropActions (s : State) : (dropActions s).lapState = s.lapState := by simp [dropActions]

@[simp] theorem lapState_applyMembers (s : State) (rerun : Bool) : (applyMembers s rerun).lapState = s.lapState := by
  simp [applyMembers]

@[simp] theorem lapState_turnFiles (s : State) : (turnFiles s).lapState = s.lapState := by simp [turnFiles]

@[simp] theorem lapState_clearCorrected (s : State) : (clearCorrected s).lapState = s.lapState := by simp [clearCorrected]

/-! ### Sampler -/

@[simp] theorem lapState_sampleUnit (s : State) (i : Issued) : (sampleUnit s i).1.lapState = s.lapState := by
  simp [sampleUnit]

@[simp] theorem lapState_sampleRun (n : ℕ) (s : State) (i : Issued) : (sampleRun n s i).1.lapState = s.lapState := by
  induction n generalizing s i with
  | zero => rfl
  | succ n ih => simp [sampleRun, ih]

/-! ### Windows -/

@[simp] theorem lapState_setWindow (s : State) (b w : ℕ) (v : Window) : (s.setWindow b w v).lapState = s.lapState := by
  simp [State.setWindow]

@[simp] theorem lapState_writeNarrow (s : State) (b w k : ℕ) (bs : List Byte) :
    (writeNarrow s b w k bs).lapState = s.lapState := by
  simp [writeNarrow]

@[simp] theorem lapState_poisonNarrow (s : State) (b w k count : ℕ) : (poisonNarrow s b w k count).lapState = s.lapState := by
  simp [poisonNarrow]

@[simp] theorem lapState_slotEvent (s : State) (b w k : ℕ) (st : Status) (d : Blk) (sb : Option Blk) :
    (slotEvent s b w k st d sb).lapState = s.lapState := by
  unfold slotEvent
  split <;> simp

@[simp] theorem lapState_narrowSlotWrite (s : State) (b w k : ℕ) (tile : List Byte) :
    (narrowSlotWrite s b w k tile).lapState = s.lapState := by
  simp only [narrowSlotWrite]
  (repeat' split) <;> simp

@[simp] theorem lapState_widenSlot (s : State) (b w k : ℕ) : (widenSlot s b w k).1.lapState = s.lapState := by
  simp only [widenSlot]
  (repeat' split) <;> simp

@[simp] theorem lapState_viewRange (s : State) (b w addr : ℕ) : (viewRange s b w addr).lapState = s.lapState := by
  simp [viewRange]

@[simp] theorem lapState_tornSlot (s : State) (b w k count : ℕ) (evicted : Bool) :
    (tornSlot s b w k count evicted).lapState = s.lapState := by
  simp [tornSlot]

@[simp] theorem lapState_openStaging (s : State) (b : ℕ) : (openStaging s b).lapState = s.lapState := by
  simp only [openStaging]
  (repeat' split) <;> simp

@[simp] theorem lapState_stageWrite (s0 : State) (b w k n : ℕ) (data : BitVec 256) :
    (stageWrite s0 b w k n data).lapState = s0.lapState := by
  simp [stageWrite]

@[simp] theorem lapState_viewAccessWrite (s : State) (b w addr : ℕ) (data : BitVec 256) :
    (viewAccessWrite s b w addr data).lapState = s.lapState := by
  simp [viewAccessWrite]

@[simp] theorem lapState_cacheTile (s : State) (b : ℕ) (c : Cached) : (cacheTile s b c).lapState = s.lapState := by
  simp [cacheTile]

@[simp] theorem lapState_viewAccessRead (s : State) (b w addr : ℕ) : (viewAccessRead s b w addr).1.lapState = s.lapState := by
  simp only [viewAccessRead]
  (repeat' split) <;> simp

@[simp] theorem lapState_sidebandEvent (s : State) (b : ℕ) (c : Column) : (sidebandEvent s b c).lapState = s.lapState := by
  simp [sidebandEvent]

@[simp] theorem lapState_directAccess (s : State) (stack addr : ℕ) (write : Bool) (data : BitVec 256) :
    (directAccess s stack addr write data).lapState = s.lapState := by
  simp [directAccess]

@[simp] theorem lapState_reportWindow (s : State) (b w : ℕ) (stamp : BitVec 8 × Bool) :
    (reportWindow s b w stamp).lapState = s.lapState := by
  simp [reportWindow]

@[simp] theorem lapState_stopFar (s : State) (b : ℕ) : (stopFar s b).lapState = s.lapState := by simp [stopFar]

@[simp] theorem lapState_settleFar (s : State) (b : ℕ) : (settleFar s b).lapState = s.lapState := by simp [settleFar]

/-! ### Slices -/

@[simp] theorem lapState_writePlane (s : State) (st : ℕ) (i : Issued) (g : BitVec 2048) (e0 : ℕ)
    (vals : List (Counted × List (BitVec 32) × List (BitVec 32))) (p : ℕ) :
    (writePlane s st i g e0 vals p).1.lapState = s.lapState := by
  simp only [writePlane]
  (repeat' split) <;> simp

@[simp] theorem lapState_planeUnit (s : State) (b : ℕ) (i : Issued) : (planeUnit s b i).1.lapState = s.lapState := by
  simp only [planeUnit, lapState_fst_ite, lapState_mk, lapState_pair]
  rw [lapState_fst_foldl _ _ _ (fun _ _ => by simp)]
  simp

@[simp] theorem lapState_sliceDenied (s : State) (i : Issued) : (sliceDenied s i).1.lapState = s.lapState := by
  simp [sliceDenied]

@[simp] theorem lapState_sliceConvUnit (s : State) (b : ℕ) (i : Issued) : (sliceConvUnit s b i).1.lapState = s.lapState := by
  simp only [sliceConvUnit]
  (repeat' split) <;> simp

@[simp] theorem lapState_askScale (s : State) (i : Issued) (x : ℕ × Desc) : (askScale s i x).lapState = s.lapState := by
  simp [askScale]

@[simp] theorem lapState_sliceUnit (s : State) (b : ℕ) (i : Issued) : (sliceUnit s b i).1.lapState = s.lapState := by
  simp [sliceUnit]

@[simp] theorem lapState_sliceRun (b n : ℕ) (s : State) (i : Issued) : (sliceRun b n s i).1.lapState = s.lapState := by
  induction n generalizing s i with
  | zero => rfl
  | succ n ih => simp [sliceRun, ih]

@[simp] theorem lapState_statsWork (s : State) (b steps : ℕ) (i : Issued) :
    (statsWork s b steps i).1.lapState = s.lapState := by
  simp [statsWork]

@[simp] theorem lapState_askProgram (s : State) (b c k : ℕ) : (askProgram s b c k).lapState = s.lapState := by
  simp [askProgram]

@[simp] theorem lapState_windowRun (s : State) (b : ℕ) (i : Issued) : (windowRun s b i).1.lapState = s.lapState := by
  simp [windowRun]

/-! ### Links -/

@[simp] theorem lapState_setMode (s : State) (m : Mode) : (s.setMode m).lapState = s.lapState := by simp [State.setMode]

@[simp] theorem lapState_sendSet (s : State) (k : ℕ) (mg : Bool) (step : ℕ) :
    (sendSet s k mg step).lapState = s.lapState := by
  simp [sendSet]

@[simp] theorem lapState_sendMgmt (s : State) (b off : ℕ) (write wide : Bool) (lo hi : BitVec 32) :
    (sendMgmt s b off write wide lo hi).lapState = s.lapState := by
  simp [sendMgmt]

@[simp] theorem lapState_relayPlain (s : State) (b off : ℕ) (v : BitVec 32) :
    (relayPlain s b off v).lapState = s.lapState := by
  simp [relayPlain]

@[simp] theorem lapState_sliceActive (s : State) (k : ℕ) (e : LinkEnd) (first : BitVec 4) :
    (sliceActive s k e first).lapState = s.lapState := by
  simp [sliceActive]

@[simp] theorem lapState_retrainEnd (s : State) (k : ℕ) (mg up : Bool) (cause : BitVec 2) :
    (retrainEnd s k mg up cause).lapState = s.lapState := by
  simp [retrainEnd]

@[simp] theorem lapState_retrainLink (s : State) (k : ℕ) (up : Bool) (cause : BitVec 2) :
    (retrainLink s k up cause).lapState = s.lapState := by
  simp [retrainLink]

@[simp] theorem lapState_restartEnd (s : State) (k : ℕ) (mg : Bool) : (restartEnd s k mg).lapState = s.lapState := by
  simp [restartEnd]

@[simp] theorem lapState_restartLink (s : State) (k : ℕ) : (restartLink s k).lapState = s.lapState := by simp [restartLink]

@[simp] theorem lapState_writeLinkControl (s : State) (k : ℕ) (v : BitVec 32) :
    (writeLinkControl s k v).lapState = s.lapState := by
  simp [writeLinkControl]

/-! ### Relays -/

@[simp] theorem lapState_setGroup (s : State) (b g : ℕ) (v : Group) : (s.setGroup b g v).lapState = s.lapState := by
  simp [State.setGroup]

@[simp] theorem lapState_sendPlain (s : State) (b : ℕ) (g : Group) (r type : ℕ) (ver : BitVec 4) (mseq w3 w4 w5 : BitVec 32) :
    (sendPlain s b g r type ver mseq w3 w4 w5).lapState = s.lapState := by
  simp [sendPlain]

@[simp] theorem lapState_sendNumbered (s : State) (b gi r type : ℕ) (w3 w4 w5 w6 : BitVec 32) (payload : List Byte) :
    (sendNumbered s b gi r type w3 w4 w5 w6 payload).lapState = s.lapState := by
  simp [sendNumbered]

@[simp] theorem lapState_resend (s : State) (b : ℕ) (g : Group) (r : ℕ) (ms : List Unacked) :
    (resend s b g r ms).lapState = s.lapState := by
  simp [resend]

@[simp] theorem lapState_badRelay (s : State) (b : ℕ) (peer : BitVec 16) (m : List Byte) :
    (badRelay s b peer m).lapState = s.lapState := by
  simp [badRelay]

@[simp] theorem lapState_takeRelay (s : State) (b type : ℕ) (peer : BitVec 16) (m : List Byte) {f : ℕ → Group → ℕ → State}
    (h : ∀ gi g r, (f gi g r).lapState = s.lapState) : (takeRelay s b type peer m f).lapState = s.lapState := by
  simp only [takeRelay]
  iterate 2 (split; · simp)
  split <;> simp [h]

@[simp] theorem lapState_sendHellos (s : State) (b : ℕ) (g : Group) : (sendHellos s b g).lapState = s.lapState := by
  simp [sendHellos]

@[simp] theorem lapState_beginNegotiation (s : State) (b gi : ℕ) : (beginNegotiation s b gi).lapState = s.lapState := by
  simp [beginNegotiation]

@[simp] theorem lapState_refuseGroup (s : State) (b gi : ℕ) (reason : BitVec 8) (by_ : ℕ) :
    (refuseGroup s b gi reason by_).lapState = s.lapState := by
  simp [refuseGroup]

@[simp] theorem lapState_settleAgree (s : State) (b gi : ℕ) : (settleAgree s b gi).lapState = s.lapState := by
  simp [settleAgree]

@[simp] theorem lapState_settleHellos (s : State) (b gi : ℕ) : (settleHellos s b gi).lapState = s.lapState := by
  simp [settleHellos]

@[simp] theorem lapState_takeHello (s : State) (b gi r : ℕ) (peer : BitVec 16) (m : List Byte) :
    (takeHello s b gi r peer m).lapState = s.lapState := by
  simp [takeHello]

@[simp] theorem lapState_takeNumbered {s : State} {act : State → Option State}
    (h : ∀ t, act s = some t → t.lapState = s.lapState) 
    (b gi : ℕ) (g : Group) (r : ℕ) (m : List Byte) : (takeNumbered s b gi g r m act).lapState = s.lapState := by
  simp only [takeNumbered, lapState_ite, lapState_sendPlain]
  cases hact : act s with
  | none => simp
  | some t => simp [h t hact]

/-! ### Transfers -/

@[simp] theorem lapState_readResid (s : State) (b : ℕ) (i : Issued) (t : ℕ) :
    (readResid s b i t).1.lapState = s.lapState := by
  simp only [readResid]
  (repeat' split) <;> simp

@[simp] theorem lapState_writeResid (s : State) (b : ℕ) (i : Issued) (t : ℕ) (vals : List (BitVec 16)) :
    (writeResid s b i t vals).lapState = s.lapState := by
  simp [writeResid]

@[simp] theorem lapState_copyResid (s : State) (b : ℕ) (i : Issued) (t : ℕ) : (copyResid s b i t).lapState = s.lapState := by
  simp [copyResid]

@[simp] theorem lapState_readShare (s : State) (b : ℕ) (i : Issued) (t : ℕ) :
    (readShare s b i t).1.lapState = s.lapState := by
  simp [readShare]

@[simp] theorem lapState_sendData (s : State) (b : ℕ) (i : Issued) (t : ℕ) (phase poison : Bool) (payload : List Byte) :
    (sendData s b i t phase poison payload).lapState = s.lapState := by
  simp [sendData]

@[simp] theorem lapState_sendNarrowed (s : State) (b : ℕ) (i : Issued) (t : ℕ) (phase : Bool) (xs : Share) :
    (sendNarrowed s b i t phase xs).1.lapState = s.lapState := by
  simp [sendNarrowed]

@[simp] theorem lapState_sendPoisoned (s : State) (b : ℕ) (i : Issued) (t : ℕ) (phase : Bool) :
    (sendPoisoned s b i t phase).1.lapState = s.lapState := by
  simp [sendPoisoned]

@[simp] theorem lapState_writeDest (s : State) (b : ℕ) (i : Issued) (t : ℕ) (xs : Share) :
    (writeDest s b i t xs).1.lapState = s.lapState := by
  simp [writeDest]

@[simp] theorem lapState_poisonDest (s : State) (b : ℕ) (i : Issued) (t : ℕ) :
    (poisonDest s b i t).1.lapState = s.lapState := by
  simp only [poisonDest]
  (repeat' split) <;> simp

@[simp] theorem lapState_passReduce (s : State) (b : ℕ) (i : Issued) (t : ℕ) (p : Option (Option (List XVal))) :
    (passReduce s b i t p).1.lapState = s.lapState := by
  simp only [passReduce]
  (repeat' split) <;> simp

@[simp] theorem lapState_ownReduce (s : State) (b : ℕ) (i : Issued) (t : ℕ) (p : Option (List XVal)) :
    (ownReduce s b i t p).1.lapState = s.lapState := by
  simp only [ownReduce]
  split
  · split <;> simp
  · split <;> simp only [lapState_fst_ite, lapState_writeDest, lapState_poisonDest, lapState_readResid, lapState_readShare,
      ite_self]

@[simp] theorem lapState_ownGather (s : State) (b : ℕ) (i : Issued) (t : ℕ) :
    (ownGather s b i t).1.lapState = s.lapState := by
  simp only [ownGather]
  (repeat' split) <;> simp

@[simp] theorem lapState_passGather (s : State) (b : ℕ) (i : Issued) (t : ℕ) (p : Option (List XVal)) (payload : List Byte) :
    (passGather s b i t p payload).1.lapState = s.lapState := by
  unfold passGather
  split <;> simp

@[simp] theorem lapState_relayUnit (s : State) (b : ℕ) (i : Issued) : (relayUnit s b i).1.lapState = s.lapState := by
  simp [relayUnit]

@[simp] theorem lapState_relayStop (s : State) (b : ℕ) (i : Issued) (st : Status) :
    (relayStop s b i st).1.lapState = s.lapState := by
  simp [relayStop]

@[simp] theorem lapState_endTransfer (s : State) (b : ℕ) (i : Issued) (st : Status) :
    (endTransfer s b i st).lapState = s.lapState := by
  simp [endTransfer]

/-- The instruction after its RELAY has looked at the region that it waits for (R381). -/
def relayBegun (s : State) (b : ℕ) (i : Issued) : Issued :=
  if (bResid i.body).1 && bitAt (tget 0 (s.unit b).relay.resid (bResid i.body).2.1) 15 then i
  else { i with transfer := { i.transfer with started := true } }

theorem relayRun_succ (b n : ℕ) (s : State) (i : Issued) : relayRun b (n + 1) s i =
    if i.stopAs.isSome then relayStop s b i .ok
    else if !(relayBegun s b i).transfer.started then (s, i)
    else if (relayBegun s b i).finished.isSome then (s, relayBegun s b i)
    else relayRun b n (relayUnit s b (relayBegun s b i)).1
      (relayFinish (s.group b (rlGroup i.body)) (relayUnit s b (relayBegun s b i)).2) := rfl

@[simp] theorem lapState_relayRun (b n : ℕ) (s : State) (i : Issued) : (relayRun b n s i).1.lapState = s.lapState := by
  induction n generalizing s i with
  | zero => rfl
  | succ n ih => simp [relayRun_succ, ih]

@[simp] theorem lapState_sendAborts (s : State) (b : ℕ) (i : Issued) (st : Status) :
    (sendAborts s b i st).lapState = s.lapState := by
  simp [sendAborts]

@[simp] theorem lapState_relayMismatch (s : State) (b : ℕ) (i : Issued) : (relayMismatch s b i).lapState = s.lapState := by
  simp [relayMismatch]

@[simp] theorem lapState_endGroup (s : State) (b gi : ℕ) (st : Status) : (endGroup s b gi st).lapState = s.lapState := by
  simp [endGroup]

@[simp] theorem lapState_sendStart (s : State) (b : ℕ) (i : Issued) : (sendStart s b i).lapState = s.lapState := by
  simp [sendStart]

@[simp] theorem lapState_doom (s : State) (b gi : ℕ) (c : BitVec 16) (st : Status) :
    (doom s b gi c st).lapState = s.lapState := by
  simp [doom]

theorem lapState_of_takeData {s t : State} {b : ℕ} {g : Group} {i : Issued} {r : ℕ} {m : List Byte}
    (h : takeData s b g i r m = some t) : t.lapState = s.lapState := by
  simp only [takeData] at h
  (repeat' split at h) <;> cases h <;> simp

@[simp] theorem lapState_loseLink (s : State) (b gi : ℕ) : (loseLink s b gi).lapState = s.lapState := by simp [loseLink]

@[simp] theorem lapState_groupCommand (s : State) (b gi op : ℕ) : (groupCommand s b gi op).lapState = s.lapState := by
  simp [groupCommand]

@[simp] theorem lapState_writeGcmd (s : State) (a : Agent) (b gi op : ℕ) : (writeGcmd s a b gi op).lapState = s.lapState := by
  simp [writeGcmd]

@[simp] theorem lapState_beginTransfer (s : State) (b : ℕ) (i : Issued) : (beginTransfer s b i).lapState = s.lapState := by
  simp only [beginTransfer]
  (repeat' split) <;> simp

/-! ### Stop -/

@[simp] theorem lapState_stopWith (rest : Bool) (s : State) (b : ℕ) (i : Issued) (st : Status) :
    (stopWith rest s b i st).1.lapState = s.lapState := by
  simp [stopWith]

@[simp] theorem lapState_abortIssued (s : State) (b : ℕ) (i : Issued) : (abortIssued s b i).lapState = s.lapState := by
  simp [abortIssued]

@[simp] theorem lapState_takePreempted (s : State) (b q : ℕ) (i : Issued) :
    (takePreempted s b q i).lapState = s.lapState := by
  simp [takePreempted]

@[simp] theorem lapState_abortPreempted (s : State) (q : ℕ) : (abortPreempted s q).lapState = s.lapState := by
  unfold abortPreempted
  split <;> simp

@[simp] theorem lapState_closeQueue (s : State) (q : ℕ) : (closeQueue s q).lapState = s.lapState := by simp [closeQueue]

@[simp] theorem lapState_closeContext (s : State) (c : ℕ) : (closeContext s c).lapState = s.lapState := by simp [closeContext]

@[simp] theorem lapState_drainQueue (s : State) (q : ℕ) : (drainQueue s q).lapState = s.lapState := by simp [drainQueue]

@[simp] theorem lapState_finishClosing (s : State) (q : ℕ) : (finishClosing s q).lapState = s.lapState := by
  simp [finishClosing]

@[simp] theorem lapState_timeoutIssued (s : State) (b : ℕ) (i : Issued) : (timeoutIssued s b i).lapState = s.lapState := by
  simp [timeoutIssued]

@[simp] theorem lapState_parkInstr (s : State) (b : ℕ) (i : Issued) (prog : BitVec 32 × BitVec 16) :
    (parkInstr s b i prog).lapState = s.lapState := by
  simp [parkInstr]

@[simp] theorem lapState_unissue (s : State) (b : ℕ) (i : Issued) : (unissue s b i).lapState = s.lapState := by simp [unissue]

@[simp] theorem lapState_forceStop (s : State) (b : ℕ) (i : Issued) : (forceStop s b i).lapState = s.lapState := by
  simp [forceStop, -List.foldl_reverse]

@[simp] theorem lapState_preemptInstr (s : State) (b : ℕ) (i : Issued) : (preemptInstr s b i).lapState = s.lapState := by
  simp [preemptInstr]

@[simp] theorem lapState_suspendContext (s : State) (c : ℕ) : (suspendContext s c).lapState = s.lapState := by
  simp [suspendContext]

@[simp] theorem lapState_forceContext (s : State) (c : ℕ) : (forceContext s c).lapState = s.lapState := by
  simp only [forceContext]
  split
  · rfl
  · rw [lapState_foldl _ _ _ (fun _ _ => by split <;> simp)]
    simp

@[simp] theorem lapState_resumeContext (s : State) (c : ℕ) : (resumeContext s c).lapState = s.lapState := by
  simp [resumeContext]

@[simp] theorem lapState_ctxCommand {s t : State} (a : Agent) (c : ℕ) (h : t.lapState = s.lapState) :
    (ctxCommand s a c t).lapState = s.lapState := by
  simp [ctxCommand, h]

@[simp] theorem lapState_queueCommand {s t : State} (a : Agent) (q : ℕ) (h : t.lapState = s.lapState) :
    (queueCommand s a q t).lapState = s.lapState := by
  simp [queueCommand, h]

@[simp] theorem lapState_openQueue (s : State) (q : ℕ) : (openQueue s q).lapState = s.lapState := by simp [openQueue]

@[simp] theorem lapState_resumeQueue (s : State) (q : ℕ) : (resumeQueue s q).lapState = s.lapState := by simp [resumeQueue]

@[simp] theorem lapState_writeUctl (s : State) (b : ℕ) (close : Bool) : (writeUctl s b close).lapState = s.lapState := by
  simp [writeUctl]

@[simp] theorem lapState_putUctl (s : State) (b : ℕ) (close : Bool) : (putUctl s b close).lapState = s.lapState := by
  simp [putUctl]

/-! ### Issue -/

@[simp] theorem lapState_placeIssued (s : State) (b : ℕ) (i : Issued) : (placeIssued s b i).lapState = s.lapState := by
  simp [placeIssued]

@[simp] theorem lapState_refuseIssue (s : State) (o : Offer) (slot : BitVec 16) (st : Status) :
    (refuseIssue s o slot st).lapState = s.lapState := by
  simp [refuseIssue]

@[simp] theorem lapState_keepProgram (s : State) (o : Offer) (p : BitVec 1024) :
    (keepProgram s o p).lapState = s.lapState := by
  simp [keepProgram]

@[simp] theorem lapState_acceptIssue (s : State) (o : Offer) (slot : BitVec 16) :
    (acceptIssue s o slot).lapState = s.lapState := by
  simp [acceptIssue]

@[simp] theorem lapState_askPrograms (s : State) (o : Offer) : (askPrograms s o).lapState = s.lapState := by
  simp [askPrograms]

@[simp] theorem lapState_settleIssue (s : State) (o : Offer) (slot : BitVec 16) :
    (settleIssue s o slot).lapState = s.lapState := by
  unfold settleIssue
  split <;> simp

@[simp] theorem lapState_takeSlots (s : State) (q n : ℕ) : (takeSlots s q n).lapState = s.lapState := by simp [takeSlots]

@[simp] theorem lapState_completeRefused (s : State) (b : ℕ) : (completeRefused s b).lapState = s.lapState := by
  unfold completeRefused
  (repeat' split) <;> simp

@[simp] theorem lapState_issueNear (s : State) (b q : ℕ) : (issueNear s b q).lapState = s.lapState := by simp [issueNear]

@[simp] theorem lapState_sendDesc (s : State) (b : ℕ) : (sendDesc s b).lapState = s.lapState := by
  unfold sendDesc
  split <;> simp

@[simp] theorem lapState_issueFar (s : State) (b : ℕ) (a : Arrived) : (issueFar s b a).lapState = s.lapState := by
  simp [issueFar]

@[simp] theorem lapState_issueReceived (s : State) (b : ℕ) : (issueReceived s b).lapState = s.lapState := by
  unfold issueReceived
  (repeat' split) <;> simp

@[simp] theorem lapState_resumeInstr (s : State) (b q : ℕ) : (resumeInstr s b q).lapState = s.lapState := by
  simp only [resumeInstr]
  (repeat' split) <;> simp

@[simp] theorem lapState_readerStep (s : State) (b : ℕ) (i : Issued) (arrived : List (List Byte)) :
    (readerStep s b i arrived).1.lapState = s.lapState := by
  simp [readerStep]

/-! ### Marshal -/

@[simp] theorem lapState_chainStep (s : State) (b : ℕ) : (chainStep s b).lapState = s.lapState := by simp [chainStep]

@[simp] theorem lapState_seedPacers (s : State) (seed : BitVec 64) : (seedPacers s seed).lapState = s.lapState := by
  simp [seedPacers]

@[simp] theorem lapState_setVerified (s : State) (vres : BitVec 4) (hash : BitVec 384) :
    (setVerified s vres hash).lapState = s.lapState := by
  simp [setVerified]

@[simp] theorem lapState_copyImage (s : State) (h body : List Byte) : (copyImage s h body).lapState = s.lapState := by
  simp [copyImage]

@[simp] theorem lapState_verifyStore (s : State) : (verifyStore s).lapState = s.lapState := by simp [verifyStore]

@[simp] theorem lapState_startCoach (s : State) (h : List Byte) : (startCoach s h).lapState = s.lapState := by
  simp [startCoach]

@[simp] theorem lapState_queueStart (s : State) (m : Mode) : (queueStart s m).lapState = s.lapState := by simp [queueStart]

@[simp] theorem lapState_becomeReady (s : State) : (becomeReady s).lapState = s.lapState := by simp [becomeReady]

@[simp] theorem lapState_enterMinimal (s : State) : (enterMinimal s).lapState = s.lapState := by simp [enterMinimal]

@[simp] theorem lapState_setMres (s : State) (st : Status) : (setMres s st).lapState = s.lapState := by simp [setMres]

@[simp] theorem lapState_assignResource (s : State) (c : ℕ) : (assignResource s c).lapState = s.lapState := by
  unfold assignResource
  split <;> simp

@[simp] theorem lapState_setStackGrants (s : State) (c : ℕ) : (setStackGrants s c).lapState = s.lapState := by
  simp [setStackGrants]

@[simp] theorem lapState_writeGrant (s : State) (c : ℕ) (g : BitVec 384) : (writeGrant s c g).lapState = s.lapState := by
  simp [writeGrant]

@[simp] theorem lapState_grantCommand (s : State) (a : Agent) : (grantCommand s a).lapState = s.lapState := by
  simp [grantCommand]

@[simp] theorem lapState_revokeCommand (s : State) : (revokeCommand s).lapState = s.lapState := by simp [revokeCommand]

@[simp] theorem lapState_beginAgain (s : State) (body : BitVec 384) : (beginAgain s body).lapState = s.lapState := by
  simp [beginAgain]

@[simp] theorem lapState_updateCommand (s : State) (a : Agent) : (updateCommand s a).lapState = s.lapState := by
  simp [updateCommand]

@[simp] theorem lapState_endUpdate (s : State) (svn : ℕ) : (endUpdate s svn).lapState = s.lapState := by simp [endUpdate]

@[simp] theorem lapState_closeReserved (s : State) : (closeReserved s).lapState = s.lapState := by simp [closeReserved]

@[simp] theorem lapState_finishUpdate (s : State) : (finishUpdate s).lapState = s.lapState := by simp [finishUpdate]

@[simp] theorem lapState_installUpdate (s : State) (addr len : ℕ) : (installUpdate s addr len).lapState = s.lapState := by
  simp only [installUpdate]
  (repeat' split) <;> simp

@[simp] theorem lapState_unitresetCommand (s : State) : (unitresetCommand s).lapState = s.lapState := by
  simp [unitresetCommand]

@[simp] theorem lapState_marshalCommand (s : State) (a : Agent) (op : ℕ) : (marshalCommand s a op).lapState = s.lapState := by
  unfold marshalCommand
  (repeat' split) <;> simp

@[simp] theorem lapState_writeMcmd (s : State) (a : Agent) (op : ℕ) : (writeMcmd s a op).lapState = s.lapState := by
  simp [writeMcmd]

/-! ### Errors -/

@[simp] theorem lapState_noteScrub (s : State) (i region : ℕ) : (noteScrub s i region).lapState = s.lapState := by
  simp [noteScrub]

@[simp] theorem lapState_disableRegion (s : State) (b region : ℕ) : (disableRegion s b region).lapState = s.lapState := by
  simp [disableRegion]

@[simp] theorem lapState_scrubEnds (s : State) (a : BitVec 9 × BitVec 8 × BitVec 16) (cls : ℕ) :
    (scrubEnds s a cls).lapState = s.lapState := by
  simp [scrubEnds]

@[simp] theorem lapState_measureLink (s : State) (found : List (ℕ × ℕ × ℕ)) (k : ℕ) :
    (measureLink s found k).lapState = s.lapState := by
  simp [measureLink]

@[simp] theorem lapState_commitWaiting (s : State) : (commitWaiting s).lapState = s.lapState := by simp [commitWaiting]

@[simp] theorem lapState_fatalStop (s : State) (array : BitVec 8) : (fatalStop s array).lapState = s.lapState := by
  simp [fatalStop]

/-! ### Registers -/

@[simp] theorem lapState_writeQdb (s : State) (a : Agent) (v : BitVec 32) : (writeQdb s a v).lapState = s.lapState := by
  simp [writeQdb]

@[simp] theorem lapState_writeCtxcmd (s : State) (a : Agent) (v : BitVec 32) : (writeCtxcmd s a v).lapState = s.lapState := by
  unfold writeCtxcmd
  split <;> simp

@[simp] theorem lapState_writeQcmd (s : State) (a : Agent) (v : BitVec 32) : (writeQcmd s a v).lapState = s.lapState := by
  unfold writeQcmd
  split <;> simp

@[simp] theorem lapState_onMg (s : State) (f : Mg → Mg) : (s.onMg f).lapState = s.lapState := by simp [State.onMg]

theorem lapState_of_privilegedWord {s t : State} {a : Agent} {off : ℕ} {v : BitVec 32} (h : privilegedWord s a off v = some t) :
    t.lapState = s.lapState := by
  unfold privilegedWord at h
  split at h
  case h_15 =>
    split at h
    · cases h; simp
    · simp only at h
      split at h
      · split at h
        · cases h; simp
        · split at h <;> cases h
          rfl
      · cases h
  all_goals cases h; simp

@[simp] theorem lapState_startListWord (s : State) (i j : ℕ) (v : BitVec 32) :
    (startListWord s i j v).lapState = s.lapState := by
  simp [startListWord]

@[simp] theorem lapState_lastUseWord (s : State) (q j : ℕ) (v : BitVec 32) : (lastUseWord s q j v).lapState = s.lapState := by
  unfold lastUseWord
  split <;> simp

@[simp] theorem lapState_contextWord (s : State) (c r : ℕ) (v : BitVec 32) : (contextWord s c r v).lapState = s.lapState := by
  unfold contextWord
  split <;> simp

@[simp] theorem lapState_queueConfig (s : State) (q : ℕ) (v : BitVec 32) : (queueConfig s q v).lapState = s.lapState := by
  simp [queueConfig]

@[simp] theorem lapState_writeHead (s : State) (q : ℕ) (h : BitVec 16) : (writeHead s q h).lapState = s.lapState := by
  simp [writeHead]

@[simp] theorem lapState_writePre (s : State) (q : ℕ) (pre : Bool) : (writePre s q pre).lapState = s.lapState := by
  simp only [writePre]
  (repeat' split) <;> simp

@[simp] theorem lapState_queueWord (s : State) (q i : ℕ) (v : BitVec 32) : (queueWord s q i v).lapState = s.lapState := by
  unfold queueWord
  split <;> simp

@[simp] theorem lapState_placementWord (s : State) (n j : ℕ) (v : BitVec 32) :
    (placementWord s n j v).lapState = s.lapState := by
  unfold placementWord
  (repeat' split) <;> simp

@[simp] theorem lapState_groupWord (s : State) (b gi j : ℕ) (v : BitVec 32) :
    (groupWord s b gi j v).lapState = s.lapState := by
  unfold groupWord
  split <;> simp

@[simp] theorem lapState_portData (s : State) (a : Agent) (b p j : ℕ) (v : BitVec 32) :
    (portData s a b p j v).lapState = s.lapState := by
  simp only [portData]
  (repeat' split) <;> simp

@[simp] theorem lapState_portWord (s : State) (a : Agent) (b off : ℕ) (v : BitVec 32) :
    (portWord s a b off v).lapState = s.lapState := by
  simp [portWord]

@[simp] theorem lapState_writeSrel1 (s : State) (a : Agent) (b : ℕ) (v : BitVec 32) :
    (writeSrel1 s a b v).lapState = s.lapState := by
  simp [writeSrel1]

@[simp] theorem lapState_writeSrel0 (s : State) (a : Agent) (b : ℕ) (v : BitVec 32) :
    (writeSrel0 s a b v).2.lapState = s.lapState := by
  simp [writeSrel0]

theorem lapState_of_trackerWord {s : State} {a : Agent} {b off : ℕ} {v : BitVec 32} {x} (h : trackerWord s a b off v = some x) :
    x.2.lapState = s.lapState := by
  unfold trackerWord at h
  split at h <;> simp at h <;> subst h <;> simp

@[simp] theorem lapState_windowWord (s : State) (b w j : ℕ) (v : BitVec 32) :
    (windowWord s b w j v).lapState = s.lapState := by
  simp [windowWord]

@[simp] theorem lapState_planeGroupWord (s : State) (b g j : ℕ) (v : BitVec 32) :
    (planeGroupWord s b g j v).lapState = s.lapState := by
  simp [planeGroupWord]

@[simp] theorem lapState_writeAddrmap (s : State) (b : ℕ) (v : BitVec 32) : (writeAddrmap s b v).lapState = s.lapState := by
  simp [writeAddrmap]

theorem lapState_of_sliceWord {s : State} {a : Agent} {b off : ℕ} {v : BitVec 32} {x} (h : sliceWord s a b off v = some x) :
    x.2.lapState = s.lapState := by
  simp only [sliceWord] at h
  split_ifs at h <;> simp at h <;> subst h <;> simp

@[simp] theorem lapState_residualWord (s : State) (b r j : ℕ) (v : BitVec 32) :
    (residualWord s b r j v).lapState = s.lapState := by
  unfold residualWord
  split <;> simp

theorem lapState_of_relayWord {s : State} {a : Agent} {b off : ℕ} {v : BitVec 32} {x} (h : relayWord s a b off v = some x) :
    x.2.lapState = s.lapState := by
  simp only [relayWord] at h
  split at h
  case h_5 => split at h <;> simp at h; subst h; simp
  all_goals simp at h; subst h; simp

theorem lapState_of_unitWord {s : State} {a : Agent} {b off : ℕ} {v : BitVec 32} {x} (h : unitWord s a b off v = some x) :
    x.2.lapState = s.lapState := by
  unfold unitWord at h
  split at h
  · simp at h; subst h; rfl
  · simp at h; subst h; rfl
  · simp at h; subst h; split <;> simp
  · split at h
    · split at h <;> simp at h; subst h; simp
    · split at h
      · exact lapState_of_trackerWord h
      · exact lapState_of_sliceWord h
      · exact lapState_of_relayWord h
      · simp at h

theorem lapState_settleWrite {s : State} {o : Option (Bool × State)} (h : ∀ x, o = some x → x.2.lapState = s.lapState) :
    (settleWrite s o).1.lapState = s.lapState := by
  unfold settleWrite
  split
  · rfl
  · exact h _ rfl
  · rfl

@[simp] theorem lapState_noteHolder (s : State) (a : Agent) (b off : ℕ) : (noteHolder s a b off).lapState = s.lapState := by
  simp [noteHolder]

@[simp] theorem lapState_relayWrite (s : State) (a : Agent) (b off : ℕ) (wide : Bool) (lo hi : BitVec 32) :
    (relayWrite s a b off wide lo hi).1.lapState = s.lapState := by
  simp only [relayWrite]
  (repeat' split) <;> simp

@[simp] theorem lapState_windowWrite (s : State) (a : Agent) (b off : ℕ) (v : BitVec 32) :
    (windowWrite s a b off v).1.lapState = s.lapState := by
  simp only [windowWrite, lapState_fst_ite, lapState_relayWrite, lapState_settleWrite (fun _ => lapState_of_unitWord), ite_self]

@[simp] theorem lapState_broadcastWord (s : State) (a : Agent) (off : ℕ) (v : BitVec 32) :
    (broadcastWord s a off v).1.lapState = s.lapState := by
  simp only [broadcastWord, lapState_fst_ite]
  rw [lapState_fst_foldl _ _ _ (fun t b => by simp)]
  simp

/-! ### Flits -/

@[simp] theorem lapState_mgmtWord (s : State) (b off : ℕ) (v : BitVec 32) : (mgmtWord s b off v).lapState = s.lapState := by
  simp only [mgmtWord]
  cases h : unitWord s _ b off v with
  | none => rfl
  | some x => exact lapState_of_unitWord h

@[simp] theorem lapState_mgmtWrite (s : State) (b off : ℕ) (wide : Bool) (lo hi : BitVec 32) :
    (mgmtWrite s b off wide lo hi).lapState = s.lapState := by
  simp [mgmtWrite]

@[simp] theorem lapState_scaleArrives (s : State) (b : ℕ) (m : List Byte) : (scaleArrives s b m).lapState = s.lapState := by
  simp [scaleArrives]

@[simp] theorem lapState_storeScale (s : State) (b : ℕ) (m : List Byte) : (storeScale s b m).lapState = s.lapState := by
  simp only [storeScale]
  (repeat' split) <;> simp

@[simp] theorem lapState_resendFlits (s : State) (k : ℕ) (mg : Bool) : (resendFlits s k mg).lapState = s.lapState := by
  simp [resendFlits]

end Sys2Proof.Machine
end

section
/-!
PROOFS. What follows a state without a pulse of the pace bus: the bus stays, and BSTATE stays, becomes IDLE, or is STAGING before
a commit point (R198, R211).
-/

namespace Sys2Proof.Machine

/-- What a commit or a lap end counts (R197, R211). -/
def Baton.laps (b : Baton) : BitVec 4 × BitVec 8 × BitVec 32 := (b.epoch, b.attempt, b.commits)

/-- What follows `x` without a pulse of the pace bus: the bus as it is, and BSTATE as it was, STAGING before the commit point of
an announcement, or, where `d` allows a deferral, IDLE (R198, R211). -/
def Follows (d : Prop) (x y : Baton × Pace) : Prop :=
  y.2 = x.2 ∧ y.1.laps = x.1.laps ∧
    ((y.1.st = x.1.st ∧ (x.1.st = .staging ∨ y.1.ftab = x.1.ftab)) ∨ (d ∧ y.1.st = .idle) ∨
      (y.1.st = .staging ∧ x.2.ann.isSome = true ∧ x.2.passed = false))

@[simp] theorem follows_refl (d : Prop) (x : Baton × Pace) : Follows d x x := ⟨rfl, rfl, .inl ⟨rfl, .inr rfl⟩⟩

theorem Follows.trans {d : Prop} {x y z : Baton × Pace} (h : Follows d x y) (h' : Follows d y z) : Follows d x z := by
  obtain ⟨hp, hl, hs⟩ := h
  obtain ⟨hp', hl', hs'⟩ := h'
  refine ⟨hp'.trans hp, hl'.trans hl, ?_⟩
  rw [hp] at hs'
  rcases hs' with ⟨hst', hf'⟩ | hs'
  · rw [hst']
    rcases hs with ⟨hst, hf⟩ | hs
    · rw [hst] at hf' ⊢
      refine .inl ⟨rfl, ?_⟩
      rcases hf with hf | hf
      · exact .inl hf
      · exact hf'.imp_right (·.trans hf)
    · exact .inr hs
  · exact .inr hs'

@[simp] theorem follows_ite {d : Prop} {c : Prop} [Decidable c] (x y z : Baton × Pace) :
    Follows d x (if c then y else z) ↔ if c then Follows d x y else Follows d x z := by split <;> rfl

/-- A change of the baton that leaves BSTATE, the staged format tables and what is counted as they are. -/
theorem follows_baton {d : Prop} {x : Baton × Pace} {s : State} (h : Follows d x s.lapState) {b : Baton}
    (hst : b.st = s.baton.st) (hf : b.ftab = s.baton.ftab) (hl : b.laps = s.baton.laps) : Follows d x (b, s.pace) :=
  h.trans ⟨rfl, hl, .inl ⟨hst, .inr hf⟩⟩

theorem follows_idle {x : Baton × Pace} {s : State} (h : Follows True x s.lapState) {b : Baton} (hst : b.st = .idle)
    (hl : b.laps = s.baton.laps) : Follows True x (b, s.pace) := h.trans ⟨rfl, hl, .inr (.inl ⟨trivial, hst⟩)⟩

@[simp] theorem follows_foldl {d : Prop} {α : Type} {x : Baton × Pace} (l : List α) (f : State → α → State) {s : State}
    (hf : ∀ t a, Follows d t.lapState (f t a).lapState) (h : Follows d x s.lapState) : Follows d x (l.foldl f s).lapState := by
  induction l generalizing s with
  | nil => exact h
  | cons a l ih => exact ih (h.trans (hf s a))

@[simp] theorem follows_each {d : Prop} {α : Type} {x : Baton × Pace} {s : State} (l : List α) (f : State → α → State)
    (hf : ∀ t a, Follows d t.lapState (f t a).lapState) (h : Follows d x s.lapState) : Follows d x (s.each l f).lapState :=
  follows_foldl l f hf h

@[simp] theorem follows_leaveBaton {d : Prop} {x : Baton × Pace} {s : State} (h : Follows d x s.lapState) (b : ℕ) :
    Follows d x (leaveBaton s b).lapState := follows_baton h rfl rfl rfl

@[simp] theorem follows_settleConfirm {x : Baton × Pace} {s : State} (h : Follows True x s.lapState) :
    Follows True x (settleConfirm s).lapState := by
  simp only [settleConfirm]
  split
  · exact follows_idle h rfl rfl
  · exact h

@[simp] theorem follows_settlePmask {d : Prop} {x : Baton × Pace} {s : State} (h : Follows d x s.lapState) :
    Follows d x (settlePmask s).lapState := by
  simp only [settlePmask]
  split
  · exact h
  · exact follows_baton h rfl rfl rfl

@[simp] theorem follows_requestBaton {d : Prop} {x : Baton × Pace} {s : State} (h : Follows d x s.lapState) :
    Follows d x (requestBaton s).lapState := by
  unfold requestBaton
  split <;> exact follows_baton h rfl rfl rfl

@[simp] theorem follows_applyPmask {d : Prop} {x : Baton × Pace} {s : State} (h : Follows d x s.lapState) :
    Follows d x (applyPmask s).lapState := by
  simp only [applyPmask]
  split
  · split
    · exact follows_baton h rfl rfl rfl
    · exact h
  · exact h

@[simp] theorem follows_stagePmask {d : Prop} {x : Baton × Pace} {s : State} (h : Follows d x s.lapState) (v : BitVec 64) :
    Follows d x (stagePmask s v).lapState := by
  simp only [stagePmask]
  rw [lapState_each _ _ _ (fun _ _ => by simp)]
  exact follows_baton h rfl rfl rfl

/-- A staging by MG before the commit point of an announcement. -/
theorem lapState_stageAll (s : State) : (stageAll s).lapState = (stagedBaton s, s.pace) := by
  obtain ⟨⟨_, _, _, h⟩, -⟩ := stageAll_sameButStaged s
  rw [h]; rfl

theorem follows_stageAll {d : Prop} {x : Baton × Pace} {s : State} (h : Follows d x s.lapState)
    (hann : s.pace.ann.isSome = true) 
    (hpassed : s.pace.passed = false) : Follows d x (stageAll s).lapState := by
  rw [lapState_stageAll]
  exact h.trans ⟨rfl, rfl, .inr (.inr ⟨rfl, hann, hpassed⟩)⟩

/-- A restaging keeps BSTATE. -/
@[simp] theorem follows_restage {d : Prop} {x : Baton × Pace} {s : State} (h : Follows d x s.lapState) :
    Follows d x (restage s).lapState := by
  unfold restage
  split
  · next hst =>
    simp only [Bool.and_eq_true, decide_eq_true_eq] at hst
    rw [lapState_stageAll]
    exact h.trans ⟨rfl, rfl, .inl ⟨hst.1.1.symm, .inl hst.1.1⟩⟩
  · exact h

@[simp] theorem follows_rebuild {d : Prop} {x : Baton × Pace} {s : State} (h : Follows d x s.lapState) :
    Follows d x (rebuild s).lapState := by
  unfold rebuild
  split
  · next hann =>
    split
    · exact h
    · next hp =>
      have hpassed : s.pace.passed = false := by simp_all
      have hstage := follows_stageAll h (by simp [hann]) hpassed
      split
      · exact hstage
      · split
        · exact hstage
        · exact h
  · exact h

@[simp] theorem follows_dropReturn {d : Prop} {x : Baton × Pace} {s : State} (h : Follows d x s.lapState) :
    Follows d x (dropReturn s).lapState := by
  unfold dropReturn
  split
  · exact h
  · exact follows_rebuild (follows_baton h rfl rfl rfl)

@[simp] theorem follows_setFence {x : Baton × Pace} {s : State} (h : Follows True x s.lapState) (b : ℕ) (c : Cause) :
    Follows True x (setFence s b c).lapState := by
  simp only [setFence]
  split
  · exact h
  · refine follows_settlePmask ?_
    rw [lapState_settleStaging]
    refine follows_settleConfirm ?_
    simp [h]

@[simp] theorem follows_fence {x : Baton × Pace} {s : State} (h : Follows True x s.lapState) (b : ℕ) (c : Cause) :
    Follows True x (fence s b c).lapState := by
  simp [fence, h]

@[simp] theorem follows_acceptRequest {d : Prop} {x : Baton × Pace} {s : State} (h : Follows d x s.lapState) (l : ℕ) :
    Follows d x (acceptRequest s l).1.lapState := by
  simp [acceptRequest, h]

/-- A deferral of what MG stages or has armed leaves the baton IDLE. -/
@[simp] theorem follows_deferArmed {x : Baton × Pace} {s : State} (h : Follows True x s.lapState) :
    Follows True x (deferArmed s).lapState := by
  unfold deferArmed
  split
  · rw [lapState_deferAll]
    exact follows_idle h rfl rfl
  · exact h

/-- A deferral that counts leaves the baton IDLE, whatever BSTATE was. -/
theorem follows_deferMissing (s : State) (missing : List ℕ) :
    Follows True (({ s.baton with defcnt := satAdd s.baton.defcnt 1, st := .idle } : Baton), s.pace)
      (deferMissing s missing).lapState := by
  simp only [deferMissing]
  split
  · refine follows_each _ _ (by simp) ?_
    rw [lapState_each _ _ _ (by simp), lapState_deferAll, lapState_mk]
    exact follows_refl _ _
  · rw [lapState_each _ _ _ (by simp), lapState_deferAll, lapState_mk]
    exact follows_refl _ _

@[simp] theorem follows_fallbackRequest {d : Prop} {x : Baton × Pace} {s : State} (h : Follows d x s.lapState) (prev : Bool)
    (l : ℕ) :
    Follows d x (fallbackRequest s prev l).lapState := by
  have ha := follows_acceptRequest h l
  simp only [fallbackRequest]
  split
  · exact ha
  · split
    · exact follows_baton ha rfl rfl rfl
    · exact follows_dropReturn (follows_baton ha rfl rfl rfl)

@[simp] theorem lapState_fallbackEvent (s : State) (n : ℕ) (prev : Bool) :
    (fallbackEvent s n prev).lapState = s.lapState := by
  simp [fallbackEvent]

@[simp] theorem follows_fallbackCheck {d : Prop} {x : Baton × Pace} {s : State} (h : Follows d x s.lapState) (n : ℕ)
    (prev : Bool) :
    Follows d x (fallbackCheck s n prev).lapState := by
  simp [fallbackCheck_eq, h]

@[simp] theorem follows_stumbleEntry {d : Prop} {x : Baton × Pace} {s : State} (h : Follows d x s.lapState) (ctx : BitVec 10)
    (layer : BitVec 12) (n : ℕ) : Follows d x (stumbleEntry ctx layer s n).lapState := by
  simp [stumbleEntry, h]

@[simp] theorem follows_signalStumble {d : Prop} {x : Baton × Pace} {s : State} (h : Follows d x s.lapState) (prev : Bool) :
    Follows d x (signalStumble s prev).lapState := by
  simp only [signalStumble]
  split
  · rw [lapState_postLapSummary]; exact follows_baton h rfl rfl rfl
  · refine follows_dropReturn ?_
    rw [lapState_postLapSummary]; exact follows_baton h rfl rfl rfl

@[simp] theorem follows_closeWatch {d : Prop} {x : Baton × Pace} {s : State} (h : Follows d x s.lapState) (w : ℕ)
    (prev : Bool) :
    Follows d x (closeWatch s w prev).lapState := by
  simp [closeWatch, h]

@[simp] theorem follows_scanEntry {d : Prop} {x : Baton × Pace} (commit : Bool) {s : State} (h : Follows d x s.lapState)
    (n : ℕ) :
    Follows d x (scanEntry commit s n).lapState := by
  simp [scanEntry, h]

@[simp] theorem follows_scanWatch {d : Prop} {x : Baton × Pace} (commit : Bool) {s : State} (h : Follows d x s.lapState)
    (w : ℕ) :
    Follows d x (scanWatch commit s w).lapState := by
  simp [scanWatch, h]

@[simp] theorem follows_judgeLap {d : Prop} {x : Baton × Pace} (commit : Bool) {s : State} (h : Follows d x s.lapState) :
    Follows d x (judgeLap commit s).lapState := follows_baton h rfl rfl rfl

@[simp] theorem follows_closeScan {d : Prop} {x : Baton × Pace} {s : State} (h : Follows d x s.lapState) (rerun : Bool) :
    Follows d x (closeScan s rerun).lapState := by
  simp only [closeScan]
  rw [lapState_mk, lapState_pair]
  refine follows_judgeLap _ ?_
  rw [lapState_clearMarks]
  have hscan : Follows d x ((s.trackers.tracked.map Prod.fst).foldl (scanEntry !rerun) s).lapState :=
    follows_foldl _ _ (by simp) h
  have hwatch := fun l => follows_foldl l (scanWatch !rerun) (by simp) hscan
  split
  · exact hwatch _
  · exact follows_foldl _ _ (by simp) (hwatch _)

@[simp] theorem follows_finishClose {d : Prop} {x : Baton × Pace} {s : State} (h : Follows d x s.lapState) :
    Follows d x (finishClose s).lapState := by
  unfold finishClose
  split <;> simp [h]

@[simp] theorem follows_mergePartial {d : Prop} {x : Baton × Pace} {s : State} (h : Follows d x s.lapState) (p : Partial) :
    Follows d x (mergePartial s p).lapState := by
  unfold mergePartial
  split <;> simp [h]

@[simp] theorem follows_turnRecords {d : Prop} {x : Baton × Pace} {s : State} (h : Follows d x s.lapState) (lap : BitVec 48)
    (par rerun : Bool) :
    Follows d x (turnRecords s lap par rerun).lapState := follows_baton h rfl rfl rfl

@[simp] theorem follows_turnBoundary {d : Prop} {x : Baton × Pace} {s : State} (h : Follows d x s.lapState) (rerun : Bool)
    (lap : BitVec 48) 
    (par : Bool) (seq : BitVec 8) : Follows d x (turnBoundary s rerun lap par seq).lapState := by
  have hturn := follows_turnRecords (s := turnFiles s) (x := x) (by simpa using h) lap par rerun
  simp only [turnBoundary, lapState_dropActions, lapState_ite, lapState_clearCorrected, lapState_turnFinish, lapState_toFar,
    ite_self]
  exact follows_baton hturn rfl rfl rfl

@[simp] theorem follows_takeUnannounced {x : Baton × Pace} {s : State} (h : Follows True x s.lapState) (lap : BitVec 48) :
    Follows True x (takeUnannounced s lap).lapState := by
  simp [takeUnannounced, h]

@[simp] theorem follows_falseStart {x : Baton × Pace} {s : State} (h : Follows True x s.lapState) (b : ℕ)
    (e : Option (BitVec 4)) :
    Follows True x (falseStart s b e).lapState := by
  simp [falseStart, h]

@[simp] theorem follows_confirmTimeout {x : Baton × Pace} {s : State} (h : Follows True x s.lapState) :
    Follows True x (confirmTimeout s).lapState := by
  simp only [confirmTimeout]
  split
  · exact h
  · exact follows_each _ _ (by simp) (follows_idle h rfl rfl)

@[simp] theorem follows_mgAck {x : Baton × Pace} {s : State} (h : Follows True x s.lapState) (m : BitVec 128) :
    Follows True x (mgAck s m).lapState := by
  have hack : ∀ l, Follows True x (({ s.baton with acks := l } : Baton), s.pace) := fun l => follows_baton h rfl rfl rfl
  simp [mgAck, h, hack]

@[simp] theorem follows_mgDone {x : Baton × Pace} {s : State} (h : Follows True x s.lapState) (m : BitVec 128) :
    Follows True x (mgDone s m).lapState := by
  simp only [mgDone]
  split
  · exact h
  · split
    · exact follows_settleConfirm (follows_baton h rfl rfl rfl)
    · exact follows_baton h rfl rfl rfl

@[simp] theorem follows_mgSynced {x : Baton × Pace} {s : State} (h : Follows True x s.lapState) (m : BitVec 128) :
    Follows True x (mgSynced s m).lapState := by
  simp [mgSynced, h]

@[simp] theorem follows_mgTakes {x : Baton × Pace} {s : State} (h : Follows True x s.lapState) (m : BitVec 128) :
    Follows True x (mgTakes s m).lapState := by
  unfold mgTakes
  split <;> simp [h]

@[simp] theorem follows_toMg {x : Baton × Pace} {s : State} (h : Follows True x s.lapState) (type : ℕ) (m : BitVec 128) :
    Follows True x (toMg s type m).lapState := by
  simp [toMg, h]

@[simp] theorem follows_fireAction {d : Prop} {x : Baton × Pace} {s : State} (h : Follows d x s.lapState) (entry : BitVec 9)
    (action : BitVec 8) (arg : BitVec 16) : Follows d x (fireAction s entry action arg).lapState := by
  unfold fireAction
  split <;> simp [h]

@[simp] theorem follows_runStartList {d : Prop} {x : Baton × Pace} {s : State} (h : Follows d x s.lapState) :
    Follows d x (runStartList s).lapState := by
  simp [runStartList, h]

@[simp] theorem follows_runBuiltIn {d : Prop} {x : Baton × Pace} {s : State} (h : Follows d x s.lapState) :
    Follows d x (runBuiltIn s).lapState := by
  have hfire : Follows d x (fireAction (fireAction (fireAction s 0x103 3 0) 0x104 4 0) 0x106 6 0).lapState :=
    follows_fireAction (follows_fireAction (follows_fireAction h _ _ _) _ _ _) _ _ _
  simp only [runBuiltIn]
  split
  · split
    · exact follows_fireAction hfire _ _ _
    · exact hfire
  · exact h

@[simp] theorem follows_clearRequests {d : Prop} {x : Baton × Pace} {s : State} (h : Follows d x s.lapState) :
    Follows d x (clearRequests s).lapState := by
  unfold clearRequests
  refine follows_rebuild ?_
  rw [lapState_mk]
  exact h

@[simp] theorem follows_restageWrite {d : Prop} {x : Baton × Pace} {s : State} (h : Follows d x s.lapState) :
    Follows d x (restageWrite s).lapState := by
  simp [restageWrite, h]

theorem follows_workOn {x : Baton × Pace} {s : State} (h : Follows True x s.lapState) {run : State → Issued → State × Issued}
    (hrun : ∀ i, Follows True x (run s i).1.lapState) (b q : ℕ) (o : Op) : Follows True x (workOn s b q o run).lapState := by
  unfold workOn
  split
  · split
    · split
      · simp [hrun]
      · exact h
    · exact h
  · exact h

@[simp] theorem follows_loadWork {x : Baton × Pace} {s : State} (h : Follows True x s.lapState) (b q : ℕ) (o : Op) :
    Follows True x (loadWork s b q o).lapState :=
  follows_workOn h (fun i => by
    dsimp only
    split <;> simp [h]) b q o

@[simp] theorem follows_leaveReset {x : Baton × Pace} {s : State} (h : Follows True x s.lapState) (b : ℕ) (w : Health) :
    Follows True x (leaveReset s b w).lapState := by
  simp [leaveReset, h]

@[simp] theorem follows_loseRegion {x : Baton × Pace} {s : State} (h : Follows True x s.lapState) (region : ℕ) (active : Bool) :
    Follows True x (loseRegion s region active).lapState := follows_foldl _ _ (by simp) h

@[simp] theorem follows_scrubMismatch {x : Baton × Pace} {s : State} (h : Follows True x s.lapState) (b cls region copy : ℕ)
    (ecc : Bool) :
    Follows True x (scrubMismatch s b cls region copy ecc).lapState := by
  simp only [scrubMismatch]; (repeat' split) <;> simp [h]

@[simp] theorem follows_errorReset {x : Baton × Pace} {s : State} (h : Follows True x s.lapState) (b : ℕ) :
    Follows True x (errorReset s b).lapState := by
  simp [errorReset, h]

@[simp] theorem follows_checkKind {x : Baton × Pace} {s : State} (h : Follows True x s.lapState) (b : ℕ) (kind : BitVec 4) :
    Follows True x (checkKind s b kind).lapState := by
  simp [checkKind, h]

@[simp] theorem follows_issueSlice {x : Baton × Pace} {s : State} (h : Follows True x s.lapState) (b : ℕ) :
    Follows True x (issueSlice s b).lapState := by
  simp [issueSlice, h]

@[simp] theorem follows_failBist {x : Baton × Pace} {s : State} (h : Follows True x s.lapState) (p : ℕ × ℕ) :
    Follows True x (failBist s p).lapState := by
  simp [failBist, h]

@[simp] theorem follows_goDown {x : Baton × Pace} {s : State} (h : Follows True x s.lapState) (k : ℕ) (mg : Bool) :
    Follows True x (goDown s k mg).lapState := by
  simp [goDown, h]

@[simp] theorem follows_chooseMode {x : Baton × Pace} {s : State} (h : Follows True x s.lapState) (k : ℕ) (mg : Bool)
    (first : ℕ) :
    Follows True x (chooseMode s k mg first).lapState := by
  simp only [chooseMode]; (repeat' split) <;> simp [h]

@[simp] theorem follows_takeAdvertised {x : Baton × Pace} {s : State} (h : Follows True x s.lapState) (k : ℕ) (mg : Bool)
    (t : BitVec 256) :
    Follows True x (takeAdvertised s k mg t).lapState := by
  simp [takeAdvertised, h]

@[simp] theorem follows_takeSelected {x : Baton × Pace} {s : State} (h : Follows True x s.lapState) (k : ℕ) (mg : Bool)
    (t : BitVec 256) :
    Follows True x (takeSelected s k mg t).lapState := by
  simp [takeSelected, h]

@[simp] theorem follows_portActive {x : Baton × Pace} {s : State} (h : Follows True x s.lapState) (k : ℕ) (e : LinkEnd) :
    Follows True x (portActive s k e).lapState := by
  simp [portActive, h]

@[simp] theorem follows_becomeActive {x : Baton × Pace} {s : State} (h : Follows True x s.lapState) (k : ℕ) (mg : Bool) :
    Follows True x (becomeActive s k mg).lapState := by
  simp [becomeActive, h]

@[simp] theorem follows_takeConfirm {x : Baton × Pace} {s : State} (h : Follows True x s.lapState) (k : ℕ) (mg : Bool)
    (t : BitVec 256) :
    Follows True x (takeConfirm s k mg t).lapState := by
  simp [takeConfirm, h]

@[simp] theorem follows_takeSet {x : Baton × Pace} {s : State} (h : Follows True x s.lapState) (k : ℕ) (mg : Bool)
    (t : BitVec 256) :
    Follows True x (takeSet s k mg t).lapState := by
  unfold takeSet
  split <;> simp [h]

/-! ### Writes of the aperture -/

@[simp] theorem follows_writeLapctl {x : Baton × Pace} {s : State} (h : Follows True x s.lapState) (v : BitVec 32) :
    Follows True x (writeLapctl s v).lapState := follows_baton h rfl rfl rfl

@[simp] theorem follows_commandLapctl {x : Baton × Pace} {s : State} (h : Follows True x s.lapState) (v : BitVec 32) :
    Follows True x (commandLapctl s v).lapState := by
  simp [commandLapctl, h]

theorem follows_of_mgWord {x : Baton × Pace} {s : State} (h : Follows True x s.lapState) {a : Agent} {off : ℕ} {v : BitVec 32}
    {y} 
    (hy : mgWord s a off v = some y) : Follows True x y.2.lapState := by
  unfold mgWord at hy
  split at hy
  case h_17 =>
    split at hy
    · cases hy; exact h
    · obtain ⟨t, ht, rfl⟩ := Option.map_eq_some_iff.1 hy
      simpa [lapState_of_privilegedWord ht] using h
  all_goals cases hy; simp [h]

theorem follows_of_globalWord {x : Baton × Pace} {s : State} (h : Follows True x s.lapState) {a : Agent} {off : ℕ}
    {v : BitVec 32} {y} 
    (hy : globalWord s a off v = some y) : Follows True x y.2.lapState := by
  simp only [globalWord] at hy
  split at hy
  · exact follows_of_mgWord h hy
  · (repeat' split at hy) <;> cases hy <;> simp [h]

theorem follows_of_tableWord {x : Baton × Pace} {s : State} (h : Follows True x s.lapState) {a : Agent} {off : ℕ}
    {v : BitVec 32} {y} 
    (hy : tableWord s a off v = some y) : Follows True x y.2.lapState := by
  simp only [tableWord] at hy
  (repeat' split at hy) <;> cases hy <;> simp [h]

theorem follows_settleWrite {x : Baton × Pace} {s : State} (h : Follows True x s.lapState) {o : Option (Bool × State)}
    (ho : ∀ y, o = some y → Follows True x y.2.lapState) : Follows True x (settleWrite s o).1.lapState := by
  unfold settleWrite
  split
  · exact h
  · exact ho _ rfl
  · exact h

@[simp] theorem follows_tryWord {x : Baton × Pace} {s : State} (h : Follows True x s.lapState) (a : Agent) (off : ℕ)
    (v : BitVec 32) :
    Follows True x (tryWord s a off v).1.lapState := by
  simp only [tryWord]
  split
  · exact follows_settleWrite h (fun _ => follows_of_globalWord h)
  · split
    · exact follows_settleWrite h (fun _ => follows_of_tableWord h)
    · simp [h]

@[simp] theorem follows_tryWide {x : Baton × Pace} {s : State} (h : Follows True x s.lapState) (a : Agent) (off : ℕ)
    (v : BitVec 64) :
    Follows True x (tryWide s a off v).1.lapState := by
  have hpair := follows_tryWord (follows_tryWord h a off (bitsAt v 0 32)) a (off + 4) (bitsAt v 32 32)
  simp only [tryWide]
  split
  · exact follows_settleWrite h (fun _ hy => by cases hy; simp [h])
  · split
    · exact follows_settleWrite h (fun _ hy => by cases hy; exact h)
    · split
      · simp [h]
      · exact hpair

@[simp] theorem follows_writeAperture {x : Baton × Pace} {s : State} (h : Follows True x s.lapState) (a : Agent)
    (off width : ℕ) 
    (v : BitVec 64) : Follows True x (writeAperture s a off width v).lapState := by
  simp [writeAperture, h]

/-! ### Answers of commands -/

/-- Every state that the command answers follows `x`. -/
def AnswerFollows (x : Baton × Pace) (o : Host.Outcome State Fault Refusal) : Prop :=
  ∀ t, o = .next t → Follows True x t.lapState

@[simp] theorem answerFollows_next {x : Baton × Pace} {t : State} (h : Follows True x t.lapState) :
    AnswerFollows x (.next t) := by
  rintro _ ⟨⟩; exact h

@[simp] theorem answerFollows_live {x : Baton × Pace} {s t : State} (hs : Follows True x s.lapState)
    (h : Follows True x t.lapState) :
    AnswerFollows x (live s t) := by
  rintro _ ⟨⟩; simp [hs, h]

@[simp] theorem answerFollows_access {x : Baton × Pace} {s t : State} (hs : Follows True x s.lapState)
    (h : Follows True x t.lapState) :
    AnswerFollows x (access s t) :=
  answerFollows_live hs (by simpa using h)

@[simp] theorem follows_after {x : Baton × Pace} {s : State} {o : Host.Outcome State Fault Refusal}
    (h : Follows True x s.lapState) 
    (ho : AnswerFollows x o) : Follows True x (after s o).lapState := by
  cases o with
  | next t => exact ho t rfl
  | fault | refused => exact h

end Sys2Proof.Machine
end

section
/-!
PROOFS. Every command but the pulses and deadlines of the pace bus only follows (R198, R211).
-/

namespace Sys2Proof.Machine

@[simp] theorem follows_guarded {x : Baton × Pace} {s t : State} (h : Follows True x s.lapState)
    (ht : Follows True x t.lapState) (a : Agent) 
    (offset : ℕ) (allowed : Bool) : Follows True x (guarded s a offset allowed t).lapState := by
  simp [guarded, h, ht]

@[simp] theorem answerFollows_columnAccess {x : Baton × Pace} {s : State} (h : Follows True x s.lapState) (stack : ℕ)
    (sb : BitVec 8) 
    (c : Column) (write : Bool) (data : BitVec 256) : AnswerFollows x (columnAccess s stack sb c write data) := by
  simp only [columnAccess]
  iterate 3 (split; · simp [h])
  split
  · simp [h]
  · rintro _ ⟨⟩

@[simp] theorem answerFollows_batonMessage {x : Baton × Pace} {s : State} (h : Follows True x s.lapState) (b : Bib)
    (toUnit : Bool) 
    (m : List Byte) : AnswerFollows x (execBatonMessage b toUnit m s) := by
  refine answerFollows_live h ?_
  split <;> simp [h]

@[simp] theorem answerFollows_linkMessage {x : Baton × Pace} {s : State} (h : Follows True x s.lapState) (b : Bib)
    (m : List Byte) 
    (toUnit : Bool) :
    AnswerFollows x (execDescMessage b m s) ∧ AnswerFollows x (execCompl b m s) ∧ AnswerFollows x (execSumm b m s) ∧
      AnswerFollows x (execStatsMessage b m s) ∧ AnswerFollows x (execNorm b m s) ∧ AnswerFollows x (execProgreq b m s) ∧
      AnswerFollows x (execProgMessage b m s) ∧ AnswerFollows x (execScaleMessage b toUnit m s) ∧
      AnswerFollows x (execEventMessage b m s) ∧ AnswerFollows x (execMgmt b m s) ∧ AnswerFollows x (execMgmtr b m s) := by
  simp [execDescMessage, execCompl, execSumm, execStatsMessage, execNorm, execProgreq, execProgMessage, execScaleMessage,
    execEventMessage, execMgmt, execMgmtr, h]

@[simp] theorem follows_deliver {x : Baton × Pace} {s : State} (h : Follows True x s.lapState) (k : ℕ) (mg : Bool)
    (m : List Byte) :
    Follows True x (deliver s k mg m).lapState := by
  obtain ⟨hdesc, hcompl, hsumm, hstats, hnorm, hprogreq, hprog, hscale, hevent, hmgmt, hmgmtr⟩ :=
    answerFollows_linkMessage h (wordOf 12 (sliceBib k)) m (!mg)
  simp only [deliver]
  split <;> simp [*]

@[simp] theorem follows_joinChunk {x : Baton × Pace} {s : State} (h : Follows True x s.lapState) (k : ℕ) (mg : Bool)
    (c : List Byte) :
    Follows True x (joinChunk s k mg c).lapState := by
  simp [joinChunk, h]

@[simp] theorem follows_takeChunk {x : Baton × Pace} {s : State} (h : Follows True x s.lapState) (k : ℕ) (mg : Bool)
    (c : List Byte) :
    Follows True x (takeChunk s k mg c).lapState := by
  simp only [takeChunk]
  (repeat' split) <;> simp [h]

@[simp] theorem follows_acceptFlit {x : Baton × Pace} {s : State} (h : Follows True x s.lapState) (k : ℕ) (mg : Bool)
    (f : BitVec 512) :
    Follows True x (acceptFlit s k mg f).lapState := by
  simp [acceptFlit, h]

@[simp] theorem follows_takeFlit {x : Baton × Pace} {s : State} (h : Follows True x s.lapState) (k : ℕ) (mg : Bool)
    (f : BitVec 512) :
    Follows True x (takeFlit s k mg f).lapState := by
  simp only [takeFlit]
  (repeat' split) <;> simp [h]

/-- The pulses of the pace bus, its deadlines and a power-on reset; every other command only follows. -/
def isPulse : Instr → Bool
  | .powerOnReset | .splitBoundary .. | .announcement .. | .issueHoldBegin | .issueHoldEnd | .commitPoint | .lapBoundary ..
  | .announcementLapse | .paceBusChange .. => true
  | _ => false

theorem answerFollows_exec {c : Instr} (hc : isPulse c = false) (s : State) : AnswerFollows s.lapState (exec c s) := by
  have h := follows_refl True s.lapState
  cases c with
  | powerOnReset | splitBoundary | announcement | issueHoldBegin | issueHoldEnd | commitPoint | lapBoundary | announcementLapse
  | paceBusChange => cases hc
  | verifyDone | coachStart | minimalModeEntry | pacerStep | confirmTimeout | farIssueStop | stage | ack | commit | defer |
    announce | boundary | lapse | doneReport | resync | synced =>
    simp [exec, execVerifyDone, execCoachStart, execMinimalModeEntry, execPacerStep, execConfirmTimeout, execFarIssueStop,
      execStage, execAck, execCommit, execDefer, execAnnounce, execBoundary, execLapse, execDoneReport, execResync,
      execSynced]
  | convertPlain | convertRescale | convertTranspose | convertReepoch | rotate | tableBuild | tableCodebook | tableChannel |
    tableRescale | tableProgram | element | reduce | permute | shuffleInterleave | shuffleEven | shuffleOdd | shuffleReverse
    | shuffleRotate | pack | unpackCodes | unpackScales | unpackZpoints | randomBits | randomBernoulli | sample | relaySend
    | relayReceive | relayCollective | sliceProgram | sliceConvert | sliceReepoch =>
    simp [exec, execConvertPlain, execConvertRescale, execConvertTranspose, execConvertReepoch, execRotate, execTableBuild,
      execTableCodebook, execTableChannel, execTableRescale, execTableProgram, execElement, execReduce, execPermute,
      execShuffleInterleave, execShuffleEven, execShuffleOdd, execShuffleReverse, execShuffleRotate, execPack,
      execUnpackCodes, execUnpackScales, execUnpackZpoints, execRandomBits, execRandomBernoulli, execSample, execRelaySend,
      execRelayReceive, execRelayCollective, execSliceProgram, execSliceConvert, execSliceReepoch]
  | windowOpen | windowClose | fenceQueue | fenceWaitseq | lapwait | trackedEntryWrite | watchWrite | indirectSelect |
    streamRelease | lastuse =>
    simp [exec, execWindowOpen, execWindowClose, execFenceQueue, execFenceWaitseq, execLapwait, execTrackedEntryWrite,
      execWatchWrite, execIndirectSelect, execStreamRelease, execLastuse]
  | doorbell | doorbellStage | ctxSuspend | ctxSuspendForce | ctxResume | ctxClose | queueOpen | queueResume | queueClose |
    drainTimeout | queueClosed | unitClose | unitCloseClear | grant | revoke | revokeClear | update | unitreset |
    unitResetDone | marshalCommandReserved =>
    simp [exec, execDoorbell, execDoorbellStage, execCtxSuspend, execCtxSuspendForce, execCtxResume, execCtxClose,
      execQueueOpen, execQueueResume, execQueueClose, execDrainTimeout, execQueueClosed, execUnitClose, execUnitCloseClear,
      execGrant, execRevoke, execRevokeClear, execUpdate, execUnitreset, execUnitResetDone, execMarshalCommandReserved]
  | evctlWrite | pfail | cap | governorWindow | errorSingleBit | mgFatal | hostRefresh =>
    simp [exec, execEvctlWrite, execPfail, execCap, execGovernorWindow, execErrorSingleBit, execMgFatal, execHostRefresh]
  | detectDone | trainingSet | advertiseTimeout | trainDone | linkActive | retrain | retrainUp | restart | flitResendTimeout
    | descMessage | compl | summ | statsMessage | norm | progreq | progMessage | scaleMessage | eventMessage | mgmt | mgmtr
    =>
    simp [exec, execDetectDone, execTrainingSet, execAdvertiseTimeout, execTrainDone, execLinkActive, execRetrain,
      execRetrainUp, execRestart, execFlitResendTimeout, execDescMessage, execCompl, execSumm, execStatsMessage, execNorm,
      execProgreq, execProgMessage, execScaleMessage, execEventMessage, execMgmt, execMgmtr]
  | groupOpen | groupClose | hello | helloRepeat | agree | refuse | negotiationTimeout | dack | relayNak | resendTimeout |
    lossOfLink | residualExchange | registerWrite | waitseqTimeout =>
    simp [exec, execGroupOpen, execGroupClose, execHello, execHelloRepeat, execAgree, execRefuse, execNegotiationTimeout,
      execDack, execRelayNak, execResendTimeout, execLossOfLink, execResidualExchange, execRegisterWrite,
      execWaitseqTimeout]
  | bibIssue | bibAnswerTimeout | headScanDone | bistCollect | linkwait | pacerReseed | issueNext | scalePropose |
    scaleAdopt | scalePin | adoptAck | summary | blockPosition | streamWaitTimeout | feedBeat | instructionComplete |
    preempt | resumePreempted | reportMerge | normPartial | settleWindowEnd | closeScanDone | updateInstall | eventAccept |
    recordCommit | powerOk | scrub | errorUncorrectable | hang | linkDown | batonMessage | peerTimeout |
    startMismatchTimeout =>
    refine answerFollows_live h ?_
    (repeat' split) <;> simp
  | batonRequest | fallbackClear | pmaskWrite | formatTableWrite | layerMapWrite =>
    exact answerFollows_access h (follows_guarded h (by simp) ..)
  | pmaskAck =>
    refine answerFollows_live h ?_
    split
    · exact follows_baton h rfl rfl rfl
    · exact h
  | stats =>
    exact answerFollows_live h (by
      rw [lapState_workOn (fun i => lapState_fst_foldl _ _ _ (fun _ _ => by simp))]; exact h)
  | margin =>
    refine answerFollows_live h ?_
    split
    · next ht =>
      split at ht
      · simp [lapState_of_takeAction ht]
      · cases ht
    · exact h
  | wear =>
    refine answerFollows_live h ?_
    split
    · exact h
    · next ht =>
      split at ht
      · simp [lapState_of_takeAction ht]
      · cases ht
  | viewWrite | viewRead | directAccess => exact answerFollows_columnAccess h _ _ _ _ _
  | flit => exact answerFollows_live h (follows_takeFlit h ..)
  | relayStart =>
    refine answerFollows_live h ?_
    rw [lapState_takeRelay]
    · exact h
    · refine fun gi g r => lapState_takeNumbered (fun t ht => ?_) ..
      dsimp only at ht
      split at ht <;> cases ht <;> simp
  | relayData =>
    refine answerFollows_live h ?_
    rw [lapState_takeRelay]
    · exact h
    · refine fun gi g r => lapState_takeNumbered (fun t ht => ?_) ..
      split at ht
      · split at ht
        · exact lapState_of_takeData ht
        · cases ht; rfl
      · split at ht <;> cases ht
        rfl
  | relayAbort =>
    refine answerFollows_live h ?_
    rw [lapState_takeRelay]
    · exact h
    · refine fun gi g r => lapState_takeNumbered (fun t ht => ?_) ..
      split at ht
      · cases ht; simp
      · split at ht <;> cases ht <;> simp

end Sys2Proof.Machine
end

section
/-!
PROOFS. The pulses and deadlines of the pace bus, and BSTATE in step with the announcement (R198, R200, R211).
-/

namespace Sys2Proof.Machine

/-- `BatonOk`, said of the baton and the pace bus alone. -/
def LapOk (x : Baton × Pace) : Prop :=
  (x.1.st = .staging → x.2.ann.isSome = true ∧ x.2.passed = false) ∧ (x.1.st = .armed → x.2.ann.isSome = true) ∧
    (x.2.passed = true → x.2.ann.isSome = true)

theorem LapOk.of_follows {x y : Baton × Pace} (hx : LapOk x) (h : Follows True x y) : LapOk y := by
  obtain ⟨hpace, -, hst⟩ := h
  obtain ⟨hstaging, harmed, hpassed⟩ := hx
  rw [LapOk, hpace]
  rcases hst with ⟨hst, -⟩ | ⟨-, hst⟩ | ⟨hst, hann⟩ <;> rw [hst]
  · exact ⟨hstaging, harmed, hpassed⟩
  · exact ⟨nofun, nofun, hpassed⟩
  · exact ⟨fun _ => hann, nofun, hpassed⟩

theorem Follows.not_staging {x y : Baton × Pace} (h : Follows True x y) (hx : x.1.st ≠ .staging) (hpassed : x.2.passed = true) :
    y.1.st ≠ .staging := by
  obtain ⟨hpace, -, hst⟩ := h
  rcases hst with ⟨hst, -⟩ | ⟨-, hst⟩ | ⟨-, -, hfalse⟩
  · rwa [hst]
  · simp [hst]
  · simp [hpassed] at hfalse

theorem LapOk.not_staging {x : Baton × Pace} (hx : LapOk x) (hpassed : x.2.passed = true) : x.1.st ≠ .staging := fun h => by
  simp [(hx.1 h).2] at hpassed

/-! ### Pulses and deadlines of the pace bus (R198, R200, R211) -/

theorem lapOk_takeSplit {s : State} (hs : LapOk s.lapState) (split : BitVec 8) (phase : BitVec 2) :
    LapOk (takeSplit s split phase).lapState := by
  have hbus : LapOk (s.baton, { s.pace with split := split, phase := phase, busSplit := split, busPhase := phase }) := hs
  refine hbus.of_follows ?_
  simp only [takeSplit]
  rw [lapState_foldl _ _ _ (by simp)]
  refine follows_runBuiltIn (follows_runStartList ?_)
  rw [lapState_beginWaiting, lapState_liftSynced]
  exact follows_applyPmask (by simp)

/-- The announcement comes within 4,096 CCLK cycles of the last LB, or in the confirmation window (R198 row 4). -/
def annEarly (s : State) : Bool :=
  s.pace.lastLb.any (fun c => decide (s.now < c + 4096)) || decide (s.baton.st = .confirming)

/-- The state in which an announcement is recorded. -/
def annRecorded (s : State) (rpt : Bool) : State :=
  let s1 := if annEarly s then paceFault s 4 s.pace.busLap else s
  { s1 with pace := { s1.pace with ann := some (s.now, rpt), passed := false }, baton := { s1.baton with barred := annEarly s } }

/-- With the event of a re-run that finds every layer at its widest (R220). -/
def annNoted (s : State) (rpt : Bool) : State :=
  let s2 := annRecorded s rpt
  if rpt && allWide s2 then s2.postMg .widest 0 0 0 else s2

/-- With what MG stages for it (R211). -/
def annStaged (s : State) (rpt : Bool) : State :=
  let s3 := annNoted s rpt
  if decide (s3.baton.st = .idle) && !annEarly s && batonDue s3 rpt then stageAll s3 else s3

theorem announce_eq (s : State) (rpt : Bool) : announce s rpt =
    let s5 := toFar (annStaged s rpt) 0x22 0 (lapAfter (annStaged s rpt)) rpt false 8192
    if rpt then s5 else announceDemand s5 := rfl

theorem lapState_annNoted (s : State) (rpt : Bool) : (annNoted s rpt).lapState =
    ({ s.baton with barred := annEarly s }, { s.pace with ann := some (s.now, rpt), passed := false }) := by
  simp only [annNoted, annRecorded]
  split <;> split <;> simp [State.lapState, paceFault]

/-- A new announcement stands before its commit point, whatever BSTATE is. -/
theorem lapOk_announce (s : State) (rpt : Bool) : LapOk (announce s rpt).lapState := by
  have hpace : (annNoted s rpt).pace = { s.pace with ann := some (s.now, rpt), passed := false } :=
    congrArg Prod.snd (lapState_annNoted s rpt)
  have hnew : LapOk (annNoted s rpt).lapState := by
    rw [lapState_annNoted]; exact ⟨fun _ => ⟨rfl, rfl⟩, fun _ => rfl, nofun⟩
  simp only [announce_eq, lapState_ite, lapState_announceDemand, lapState_toFar, ite_self, annStaged]
  split
  · exact hnew.of_follows (follows_stageAll (follows_refl _ _) (by rw [hpace]; rfl) (by rw [hpace]))
  · exact hnew

/-- The commit point passes: nothing else of the pace bus changes, and what MG stages is armed or deferred. -/
theorem passCommit_lap {s : State} (hann : s.pace.ann.isSome = true) (hpassed : s.pace.passed = false) :
    (passCommit s).pace = { s.pace with passed := true } ∧ (passCommit s).baton.st ≠ .staging := by
  suffices h : (passCommit s).lapState.2 = { s.pace with passed := true } ∧ (passCommit s).lapState.1.st ≠ .staging from h
  have hgo : ¬ (s.pace.ann.isNone || s.pace.passed) = true := by simp [hpassed, Option.isSome_iff_ne_none.1 hann]
  simp only [passCommit, if_neg hgo]
  split
  · next hst => simpa using hst
  · split
    · rw [lapState_deferAll, lapState_mk]; exact ⟨rfl, nofun⟩
    · split
      · rw [lapState_foldl _ _ _ (by simp), lapState_mk]; exact ⟨rfl, nofun⟩
      · exact ⟨(follows_deferMissing _ _).1, (follows_deferMissing _ _).not_staging nofun rfl⟩

theorem passCommit_of_none {s : State} (h : s.pace.ann.isSome = false) : passCommit s = s := by
  rw [passCommit, if_pos (by simp [Option.isSome_eq_false_iff.1 h])]

theorem passCommit_of_passed {s : State} (h : s.pace.passed = true) : passCommit s = s := by
  rw [passCommit, if_pos (by simp [h])]

theorem lapOk_passCommit {s : State} (hs : LapOk s.lapState) : LapOk (passCommit s).lapState := by
  cases hann : s.pace.ann.isSome with
  | false => rw [passCommit_of_none hann]; exact hs
  | true =>
    cases hp : s.pace.passed with
    | true => rw [passCommit_of_passed hp]; exact hs
    | false =>
      obtain ⟨hpace, hst⟩ := passCommit_lap hann hp
      simp only [LapOk, State.lapState, hpace]
      exact ⟨fun h => absurd h hst, fun _ => hann, fun _ => hann⟩

/-- Where an announcement stands, its commit point has passed afterwards. -/
theorem passed_passCommit {s : State} (hann : s.pace.ann.isSome = true) :
    (passCommit s).pace = { s.pace with passed := true } := by
  cases hp : s.pace.passed with
  | false => exact (passCommit_lap hann hp).1
  | true => rw [passCommit_of_passed hp, ← hp]

/-- A deferral leaves nothing ARMED. -/
theorem deferArmed_st_ne (s : State) : (deferArmed s).baton.st ≠ .armed := by
  unfold deferArmed
  split
  · rw [show (deferAll _).baton = _ from congrArg Prod.fst (lapState_deferAll _)]
    exact nofun
  · assumption

theorem lapOk_lapseAnnouncement {s : State} (hs : LapOk s.lapState) : LapOk (lapseAnnouncement s).lapState := by
  simp only [lapseAnnouncement]
  split
  · exact hs
  · next hann =>
    have hann : s.pace.ann.isSome = true := by simpa [Option.isSome_iff_ne_none] using hann
    have hpass := lapOk_passCommit hs
    have hst := hpass.not_staging (congrArg Pace.passed (passed_passCommit hann))
    have hdef := deferArmed_st_ne (paceFault (passCommit s) 2 (passCommit s).pace.busLap)
    have hstaging : (deferArmed (paceFault (passCommit s) 2 (passCommit s).pace.busLap)).baton.st ≠ .staging :=
      (follows_deferArmed (x := (passCommit s).lapState) (by simp)).not_staging hst
        (congrArg Pace.passed (passed_passCommit hann))
    rw [lapState_answerClosing, lapState_mk,
      show (toFar _ _ _ _ _ _ _).baton = _ from congrArg Prod.fst (lapState_toFar _ _ _ _ _ _ _)]
    exact ⟨fun h => absurd h hstaging, fun h => absurd h hdef, nofun⟩

/-- At the announced LB the baton that stands ARMED is committed, and nothing is announced any more. -/
theorem lapOk_takeAnnounced {s : State} (hst : s.baton.st ≠ .staging) : LapOk (takeAnnounced s).1.lapState := by
  simp only [takeAnnounced]
  split
  · exact ⟨nofun, nofun, nofun⟩
  · next harmed => exact ⟨fun h => absurd h hst, fun h => absurd h harmed, nofun⟩

theorem isSome_of_isAnnounced {s : State} (h : isAnnounced s = true) : s.pace.ann.isSome = true := by
  unfold isAnnounced at h
  split at h
  · next hann => rw [hann]; rfl
  · exact absurd h nofun

theorem lapOk_takeLap {s : State} (hs : LapOk s.lapState) (lap : BitVec 48) (phase : BitVec 2) :
    LapOk (takeLap s lap phase).lapState := by
  simp only [takeLap]
  refine lapOk_takeSplit (LapOk.of_follows ?_ (follows_turnBoundary (follows_refl _ _) _ _ _ _)) 0 phase
  have hturn : ∀ t : State, LapOk t.lapState → LapOk (turnLap t lap).lapState := fun t ht => ht
  cases ha : isAnnounced s with
  | false =>
    refine hturn _ (hs.of_follows (follows_takeUnannounced ?_ _))
    simp only [lapState_turnTelemetry, lapState_ite, lapState_paceFault, ite_self]
    exact follows_finishClose (follows_refl _ _)
  | true =>
    have hann := isSome_of_isAnnounced ha
    have hpass := lapOk_passCommit hs
    have hpassed := congrArg Pace.passed (passed_passCommit hann)
    have hst := (follows_finishClose (follows_refl True (passCommit s).lapState)).not_staging (hpass.not_staging hpassed) hpassed
    simp only [if_true, lapState_applyMembers]
    refine hturn _ (lapOk_takeAnnounced ?_)
    rw [show (turnTelemetry _ _).baton = _ from congrArg Prod.fst (lapState_turnTelemetry _ _)]
    simpa only [lapState_ite, lapState_paceFault, ite_self] using hst

theorem batonOk_live {s t u : State} (hs : BatonOk s) (ht : LapOk t.lapState) (h : live s t = .next u) : BatonOk u := by
  cases h
  split
  · exact hs
  · exact ht

theorem batonOk_exec {c : Instr} {s t : State} (hs : BatonOk s) (h : exec c s = .next t) : BatonOk t := by
  by_cases hc : isPulse c = false
  · exact LapOk.of_follows (x := s.lapState) hs (answerFollows_exec hc s t h)
  · cases c with
    | powerOnReset => cases h; exact ⟨nofun, nofun, nofun⟩
    | splitBoundary split phase => exact batonOk_live hs (lapOk_takeSplit hs split phase) h
    | announcement rpt => exact batonOk_live hs (lapOk_announce s rpt) h
    | issueHoldBegin =>
      refine batonOk_live hs ?_ h
      split <;> exact hs
    | issueHoldEnd => exact batonOk_live hs (by rw [lapState_answerClosing]; exact hs) h
    | commitPoint => exact batonOk_live hs (lapOk_passCommit hs) h
    | lapBoundary lap phase => exact batonOk_live hs (lapOk_takeLap hs lap phase) h
    | announcementLapse => exact batonOk_live hs (lapOk_lapseAnnouncement hs) h
    | paceBusChange =>
      refine batonOk_live hs ?_ h
      split
      · exact hs
      · exact hs
    | _ => exact absurd rfl hc

/-- Settles O55: a command that is no pulse of the pace bus only follows; each pulse is looked at by itself. -/
theorem everyStepKeepsBatonAndAnnouncement : Obligations.EveryStepKeepsBatonAndAnnouncement := by
  unfold Obligations.EveryStepKeepsBatonAndAnnouncement
  intro s t hs h
  unfold step at h
  split at h
  · cases h; exact hs
  · next c rest hp => exact batonOk_exec (s := { s with pending := rest }) hs h

end Sys2Proof.Machine
end

section
/-!
PROOFS. Messages sent: what they leave, and what was driven out before stays (R210, R361, R362).
-/

namespace Sys2Proof.Machine

/-! ### What sending leaves (R361, R362) -/

/-- t is s but for messages sent: the links move on, and what was driven out stands before what is driven out now. -/
def Sends (s t : State) : Prop := ∃ l o, t = { s with links := l, out := s.out ++ o }

theorem Sends.refl (s : State) : Sends s s := ⟨s.links, [], by simp⟩

theorem Sends.trans {s t v : State} (h : Sends s t) (h' : Sends t v) : Sends s v := by
  obtain ⟨_, o, rfl⟩ := h
  obtain ⟨l, o', rfl⟩ := h'
  exact ⟨l, o ++ o', by simp⟩

theorem Sends.mem_out {s t : State} (h : Sends s t) {x : Out} (hx : x ∈ s.out) : x ∈ t.out := by
  obtain ⟨l, o, rfl⟩ := h
  exact List.mem_append_left _ hx

theorem sends_emit (s : State) (o : Out) : Sends s (s.emit o) := ⟨s.links, [o], rfl⟩

theorem sends_setLinkEnd (s : State) (k : Nat) (mg : Bool) (e : LinkEnd) : Sends s (s.setLinkEnd k mg e) :=
  ⟨_, [], by rw [List.append_nil]; rfl⟩

theorem sends_sendFlit (s : State) (k : Nat) (mg nak : Bool) : Sends s (sendFlit s k mg nak) := by
  simp only [sendFlit]
  split
  · exact (sends_setLinkEnd s k mg _).trans (sends_emit _ _)
  · split
    · exact sends_emit s _
    · exact .refl s

theorem sends_pumpFlits (k : Nat) (mg : Bool) (n : Nat) (s : State) : Sends s (pumpFlits k mg n s) := by
  induction n generalizing s with
  | zero => exact .refl s
  | succ n ih =>
    rw [pumpFlits]
    split
    · exact (sends_sendFlit s k mg false).trans (ih _)
    · exact .refl s

theorem sends_queueMessage (s : State) (k : Nat) (mg : Bool) (m : List Byte) : Sends s (queueMessage s k mg m) := by
  simp only [queueMessage]
  split
  · exact .refl s
  · exact (sends_setLinkEnd s k mg _).trans (sends_pumpFlits _ _ _ _)

theorem sends_sendMsg (s : State) (toUnit : Bool) (b : Nat) (m : List Byte) :
    Sends (s.emit (.message toUnit (wordOf 12 b) m)) (sendMsg s toUnit b m) := by
  simp only [sendMsg]
  split
  · exact sends_queueMessage _ _ _ _
  · exact .refl _

/-! ### Baton messages driven out (R210) -/

/-- How a baton message is driven: on the baton network, or framed for a far unit. -/
def batonOut (toUnit : Bool) (b : Nat) (m : BitVec 128) : Out :=
  if isFar b then .message toUnit (wordOf 12 b) (linkMsg 0x18 0 0 0 (bytesLE 16 m)) else .baton toUnit (wordOf 12 b) m

theorem batonOut_of_near {b : Nat} (hb : isFar b = false) (toUnit : Bool) (m : BitVec 128) :
    batonOut toUnit b m = .baton toUnit (wordOf 12 b) m := by
  simp [batonOut, hb]

theorem sendBaton_of_near {b : Nat} (hb : isFar b = false) (s : State) (toUnit : Bool) (m : BitVec 128) :
    sendBaton s toUnit b m = s.emit (.baton toUnit (wordOf 12 b) m) := by
  simp [sendBaton, hb]

theorem sends_sendBaton (s : State) (toUnit : Bool) (b : Nat) (m : BitVec 128) :
    Sends (s.emit (batonOut toUnit b m)) (sendBaton s toUnit b m) := by
  rw [sendBaton, batonOut]
  split
  · exact sends_sendMsg _ _ _ _
  · exact .refl _

theorem mem_out_sendBaton (s : State) (toUnit : Bool) (b : Nat) (m : BitVec 128) :
    batonOut toUnit b m ∈ (sendBaton s toUnit b m).out :=
  (sends_sendBaton s toUnit b m).mem_out (List.mem_append_right _ (List.mem_singleton_self _))

theorem sendBaton_sends (s : State) (toUnit : Bool) (b : Nat) (m : BitVec 128) : Sends s (sendBaton s toUnit b m) :=
  (sends_emit s _).trans (sends_sendBaton s toUnit b m)

end Sys2Proof.Machine
end

section
/-!
PROOFS. Requests for a baton, FALLBACK_CLEAR and the partition mask (R206, R208, R224, R400).
-/

namespace Sys2Proof.Machine

/-! ### The committed layer map as a table of words (R205, R400) -/

theorem tabOf_eq (n : Nat) (f : Nat → BitVec 32) :
    tabOf n f = ((List.range n).map (fun i => (i, f i))).filter (fun p => decide (p.2 ≠ 0)) := by
  rw [tabOf, ← List.filterMap_eq_filter, List.filterMap_map]
  refine congrArg (List.filterMap · _) (funext fun k => ?_)
  by_cases h : f k = 0 <;> simp [Option.guard, h]

theorem tget_tabOf (n : Nat) (f : Nat → BitVec 32) (k : Nat) : tget 0 (tabOf n f) k = if k < n then f k else 0 := by
  rw [tabOf_eq, tget_map_nonzero]
  exact if_congr List.mem_range rfl rfl

/-! ### Requests for a baton (R208, R224) -/

theorem requestBaton_eq (s : State) : requestBaton s = { s with baton := { s.baton with
    pending := true, pendingNext := if s.baton.st = .armed then true else s.baton.pendingNext } } := by
  unfold requestBaton
  split <;> rfl

/-- A change of the layer map that MG may stage leaves all but the baton, the units and what is sent. -/
theorem rebuild_frame (s : State) : ∃ b u l o, rebuild s = { s with baton := b, units := u, links := l, out := o } := by
  obtain ⟨⟨u, l, o, hstage⟩, -⟩ := stageAll_sameButStaged s
  have hkeep : ∃ b u l o, s = { s with baton := b, units := u, links := l, out := o } := ⟨_, _, _, _, rfl⟩
  have hstaged : ∃ b u l o, stageAll s = { s with baton := b, units := u, links := l, out := o } := ⟨_, u, l, o, hstage⟩
  unfold rebuild
  split
  · split
    · exact hkeep
    · split
      · exact hstaged
      · split
        · exact hstaged
        · exact hkeep
  · exact hkeep

/-- An agent without the right causes ACCESS alone (R11, R224). -/
theorem access_guarded_of_forbidden {s : State} (h : Serving s) (a : Agent) (offset : Nat) (t : State) :
    access s (guarded s a offset false t) = .next (unlatched (accessEvent s a offset)) := by
  rw [access_of_running _ h.1, guarded_of_forbidden, if_pos (apertureOpen_of_serving h)]

theorem access_guarded_of_allowed {s : State} (h : Serving s) (a : Agent) (offset : Nat) (t : State) :
    access s (guarded s a offset true t) = .next (unlatched t) := by
  rw [access_of_running _ h.1, guarded_of_allowed, if_pos (apertureOpen_of_serving h)]

theorem exec_fallbackClear {s : State} (h : Serving s) {a : Agent} (ha : profileAgent s a = true) :
    ∃ t, exec (.fallbackClear a) s = .next t ∧ (∀ l < 4096, t.layer l = s.layer l &&& ~~~0x40000000#32) ∧
      t.tables.lmStaged = s.tables.lmStaged ∧ t.tables.ftActive = s.tables.ftActive ∧ t.pace = s.pace ∧
      t.trackers = s.trackers ∧ t.mem = s.mem := by
  refine ⟨unlatched (clearRequests s), ?_, ?_⟩
  · rw [exec, execFallbackClear, ha, access_guarded_of_allowed h]
  · have hmap : ∀ l < 4096, tget 0 (tabOf 4096 (fun l => s.layer l &&& ~~~0x40000000#32)) l = s.layer l &&& ~~~0x40000000#32 :=
      fun l hl => by rw [tget_tabOf, if_pos hl]
    rw [clearRequests]
    generalize tabOf 4096 (fun l => s.layer l &&& ~~~0x40000000#32) = lm at hmap
    obtain ⟨b, u, l, o, hframe⟩ := rebuild_frame { s with tables := { s.tables with lmActive := lm } }
    rw [hframe]
    exact ⟨hmap, rfl, rfl, rfl, rfl, rfl⟩

/-! ### The partition mask (R206) -/

theorem each_emit {α : Type} (s : State) (l : List α) (f : α → Out) :
    s.each l (fun t a => t.emit (f a)) = { s with out := s.out ++ l.map f } := by
  unfold State.each
  induction l generalizing s with
  | nil => simp
  | cons a l ih => rw [List.foldl_cons, ih]; simp [State.emit]

theorem stagePmask_eq (s : State) (v : BitVec 64) :
    stagePmask s v =
      (let cvs := (bibsOf .cv).filter (fun b => s.serving b)
       { s with
         baton := { s.baton with
           pmaskStaged := some v, pmaskWait := cvs, pmaskLast := if cvs = [] then some s.now else none }
         out := s.out ++ cvs.map (fun b => Out.pmask (wordOf 12 b) v) }) := each_emit _ _ _

/-- Settles O20, from what each of the four commands writes. -/
theorem batonAndPartitionRequests : Obligations.BatonAndPartitionRequests := by
  unfold Obligations.BatonAndPartitionRequests
  refine ⟨fun s a h => ⟨fun ha => ⟨?_, exec_fallbackClear h ha⟩, fun ha => ⟨?_, ?_⟩⟩,
    fun s h => ⟨fun a v ha => ?_, fun b hb => ?_⟩⟩
  · rw [exec, execBatonRequest, ha, access_guarded_of_allowed h, requestBaton_eq]
  · rw [exec, execBatonRequest, ha, access_guarded_of_forbidden h]
  · rw [exec, execFallbackClear, ha, access_guarded_of_forbidden h]
  · rw [exec, execPmaskWrite, ha, access_guarded_of_allowed h, stagePmask_eq]
  · rw [exec, execPmaskAck, live_of_running _ h.1]
    simp [hb]

end Sys2Proof.Machine
end

section
/-!
PROOFS. Baton messages between a member and MG: STAGE, COMMIT, DEFER, ACK and DONE (R210, R211, R212).
-/

namespace Sys2Proof.Machine

/-! ### A unit of the baton set takes a message (R212) -/

section
variable {s : State} {b : Nat} {m : BitVec 128}

theorem toUnit_of_type {n : Nat} (hok : batonMsgOk m = true) (ht : mType m = n) : toUnit s b n m = unitTakes s b m := by
  simp [toUnit, hok, ht]

theorem toMg_of_type {n : Nat} (hok : batonMsgOk m = true) (ht : mType m = n) : toMg s n m = mgTakes s m := by
  simp [toMg, hok, ht]

variable (hheld : (s.unit b).held = true) (hb : mBib m = b)
include hheld hb

theorem unitTakes_stage (hkind : batonKind b = true) (ht : mType m = 0x20) : unitTakes s b m = memberStage s b m := by
  simp [unitTakes, hheld, hkind, hb, ht]

theorem unitTakes_commit (hkind : batonKind b = true) (ht : mType m = 0x23) : unitTakes s b m = memberCommit s b m := by
  simp [unitTakes, hheld, hkind, hb, ht]

theorem unitTakes_defer (hkind : batonKind b = true) (ht : mType m = 0x24) : unitTakes s b m = memberDefer s b := by
  simp [unitTakes, hheld, hkind, hb, ht]

theorem unitTakes_resync (ht : mType m = 0x28) : unitTakes s b m = memberResync s b m := by
  simp [unitTakes, hheld, hb, ht]

end

theorem memberStage_of_ready {s : State} {b : Nat} (h : (s.unit b).member = .steady ∨ (s.unit b).member = .staged)
    (m : BitVec 128) : memberStage s b m =
      sendBaton (s.setUnit b { s.unit b with
        member := .staged, ackSeq := mSeq m
        files := { (s.unit b).files with
          cbFixed := if hasBooks b then some ((s.unit b).files.cbStaged, (s.unit b).files.cbBadStaged) else none } })
        false b (batonMsg 0x21 (mSeq m) (s.unit b).epoch b (mLap m) (mRpt m) false
          (digestOf b (s.unit b).ftabStaged (s.unit b).lmapStaged (s.unit b).files.cbStaged)) := by
  rw [memberStage, if_pos (by simpa using h)]

/-- A message sent behind a change of one unit: that unit as changed, the others and the rest of the state as they were. -/
theorem sendBaton_setUnit (s : State) (b : Nat) (u : UnitSt) (toUnit : Bool) (n : Nat) (m : BitVec 128) :
    let t := sendBaton (s.setUnit b u) toUnit n m
    { t with units := s.units, out := s.out, links := s.links } = s ∧ t.unit b = u ∧ (∀ k, k ≠ b → t.unit k = s.unit k) ∧
      batonOut toUnit n m ∈ t.out := by
  have hmem := mem_out_sendBaton (s.setUnit b u) toUnit n m
  obtain ⟨l, o, h⟩ := sendBaton_sends (s.setUnit b u) toUnit n m
  rw [h] at hmem ⊢
  exact ⟨rfl, State.unit_setUnit_self s b u, fun k hk => State.unit_setUnit_ne s u hk, hmem⟩

/-! ### MG takes an ACK and a DONE (R211) -/

theorem mgAck_of_current {s : State} {m : BitVec 128} (hst : s.baton.st = .staging) (hpassed : s.pace.passed = false)
    (hseq : mSeq m = s.baton.seq) (hval : mVal m = stagedDigest s (mBib m)) (hmem : mBib m ∈ s.members)
    (hnew : mBib m ∉ s.baton.acks) :
    mgAck s m = { s with baton := { s.baton with acks := s.baton.acks ++ [mBib m] } } := by
  simp [mgAck, hst, hpassed, hseq, hval, hmem, hnew]

theorem mgAck_of_stale {s : State} {m : BitVec 128}
    (h : mSeq m ≠ s.baton.seq ∨ mVal m ≠ stagedDigest s (mBib m) ∨ mBib m ∉ s.members) : mgAck s m = s := by
  have hgood : (decide (mSeq m = s.baton.seq) && decide (mVal m = stagedDigest s (mBib m)) &&
      s.members.contains (mBib m)) = false := by
    rcases h with h | h | h <;> simp [h]
  simp only [mgAck, hgood, Bool.false_and, Bool.false_eq_true, if_false]

section
variable {s : State} {m : BitVec 128} (hst : s.baton.st = .confirming) (hmem : mBib m ∈ s.baton.members)
include hst hmem

/-- A DONE with the new epoch is counted, and the confirmation window ends with the last one awaited. -/
theorem mgDone_of_epoch (hepoch : mEpoch m = s.baton.epoch) :
    mgDone s m = settleConfirm { s with baton := { s.baton with dones := s.baton.dones ++ [mBib m] } } := by
  simp [mgDone, hst, hmem, hepoch]

theorem mgDone_of_wrong (hepoch : mEpoch m ≠ s.baton.epoch) :
    mgDone s m = { s with baton := { s.baton with wrongDone := (mBib m, mEpoch m) :: s.baton.wrongDone } } := by
  simp [mgDone, hst, hmem, hepoch]

end

theorem settleConfirm_of_awaited {s : State} (h : ∃ b ∈ s.baton.members, b ∉ s.baton.dones ∧ s.serving b = true) :
    settleConfirm s = s := by
  obtain ⟨b, hb, hdone, hserve⟩ := h
  rw [settleConfirm, if_neg]
  rw [Bool.and_eq_true, List.all_eq_true]
  exact fun hall => by simpa [hdone, hserve] using hall.2 b hb

theorem settleConfirm_of_complete {s : State} (hst : s.baton.st = .confirming)
    (h : ∀ b ∈ s.baton.members, b ∈ s.baton.dones ∨ s.serving b = false) :
    settleConfirm s = { s with baton := { s.baton with st := .idle, members := [], dones := [], wrongDone := [] } } := by
  rw [settleConfirm, if_pos]
  rw [Bool.and_eq_true, List.all_eq_true]
  exact ⟨by simpa using hst, fun b hb => by simpa using h b hb⟩

/-- Settles O18, from what a member does with each message and what MG does with an ACK and a DONE. -/
theorem membersAndMgExchangeBatonMessages : Obligations.MembersAndMgExchangeBatonMessages := by
  unfold Obligations.MembersAndMgExchangeBatonMessages
  refine ⟨fun s b m hs hheld hkind hok hb => ?_, fun s m hs hok => ⟨fun ht hst hpassed => ?_, fun ht hst hmem => ?_⟩⟩
  · refine ⟨fun ht hready => ?_, fun ht hst hseq => ?_, fun ht hother => ?_, fun ht hready => ?_, fun ht hother => ?_⟩
    · refine ⟨_, by
        rw [exec, execStage, live_of_running _ hs, toUnit_of_type hok ht, unitTakes_stage hheld hb hkind ht,
          memberStage_of_ready hready], ?_⟩
      exact sendBaton_setUnit s b.toNat _ false b.toNat _
    · rw [exec, execCommit, live_of_running _ hs, toUnit_of_type hok ht, unitTakes_commit hheld hb hkind ht, memberCommit,
        if_pos (by simp [hst, hseq])]
    · rw [exec, execCommit, live_of_running _ hs, toUnit_of_type hok ht, unitTakes_commit hheld hb hkind ht, memberCommit,
        if_neg (by simpa [imp_iff_not_or] using hother)]
    · rw [exec, execDefer, live_of_running _ hs, toUnit_of_type hok ht, unitTakes_defer hheld hb hkind ht, memberDefer,
        if_pos (by simpa using hready)]
    · rw [exec, execDefer, live_of_running _ hs, toUnit_of_type hok ht, unitTakes_defer hheld hb hkind ht, memberDefer,
        if_neg (by rcases hother with h | h <;> simp [h])]
  · have hexec : exec (.ack m) s = .next (mgAck s m) := by
      rw [exec, execAck, live_of_running _ hs, toMg_of_type hok ht]; simp [mgTakes, ht]
    rw [hexec]
    exact ⟨fun hseq hval hmem hnew => by rw [mgAck_of_current hst hpassed hseq hval hmem hnew],
      fun hstale => by rw [mgAck_of_stale hstale]⟩
  · have hexec : exec (.doneReport m) s = .next (mgDone s m) := by
      rw [exec, execDoneReport, live_of_running _ hs, toMg_of_type hok ht]; simp [mgTakes, ht]
    rw [hexec]
    refine ⟨fun hepoch hleft => ?_, fun hepoch hall => ?_, fun hepoch => ?_⟩
    · obtain ⟨b, hb, hne, hdone, hserve⟩ := hleft
      rw [mgDone_of_epoch hst hmem hepoch]
      exact congrArg _ (settleConfirm_of_awaited ⟨b, hb, by simp [hdone, hne], hserve⟩)
    · refine ⟨_, rfl, ?_⟩
      rw [mgDone_of_epoch hst hmem hepoch, settleConfirm_of_complete (by exact hst) (fun b hb => ?_)]
      · exact ⟨rfl, rfl⟩
      · exact (or_assoc.2 (hall b hb)).imp_left (fun h => by simpa [or_comm] using h)
    · rw [mgDone_of_wrong hst hmem hepoch]
      exact ⟨_, rfl, hst, rfl, rfl⟩

end Sys2Proof.Machine
end

section
/-!
PROOFS. ANNOUNCE to a far unit that has no cycle left to count (R200).
-/

namespace Sys2Proof.Machine

/-! ### ANNOUNCE with VAL 264 or less (R200)

MG's announcement tells a far unit how many CCLK cycles it still issues. Where none are left the unit stops in the same step: the
count is over, and does not run with its end at the present cycle, as O19 has it. -/

/-- A relay that has issued nothing, just held. -/
def heldRelay : State := { State.reset with units := [(0x079, { held := true })] }

/-- ANNOUNCE to it with VAL 264: no cycle is left to count. -/
def announceNow : BitVec 128 := batonMsg 0x22 1 0 0x079 0 false false 264

theorem exec_announce_heldRelay : exec (.announce 0x079 announceNow) heldRelay =
    .next (heldRelay.setUnit 0x079 { heldRelay.unit 0x079 with farStopped := true, announced := 0 }) := by
  rfl

/-- Refutes O19: with VAL 264 the relay is stopped in the step of its ANNOUNCE, and no count is left running. -/
theorem not_farUnitsFollowMg : ¬ Obligations.FarUnitsFollowMg := by
  unfold Obligations.FarUnitsFollowMg
  intro h
  obtain ⟨hannounce, -⟩ := h heldRelay 0x079 announceNow rfl rfl rfl (by decide) (by decide)
  have hcount := exec_announce_heldRelay.symm.trans (hannounce (by decide))
  have hunit := congrArg (fun t => (t.unit 0x079).farStopAt) (Host.Outcome.next.inj hcount)
  rw [State.unit_setUnit_self] at hunit
  exact absurd hunit (by decide)

end Sys2Proof.Machine
end

section
/-!
PROOFS. An SB: the bus values, the partition, the start list, and an SB for which nothing waits (R195, R202, R206, R215).
-/

namespace Sys2Proof.Machine

/-! ### An SB (R202, R206, R215) -/

/-- The state with the bus values that an SB brings. -/
def splitTaken (s : State) (split : BitVec 8) (phase : BitVec 2) : State :=
  { s with pace := { s.pace with split := split, phase := phase, busSplit := split, busPhase := phase } }

theorem applyPmask_of_due {s : State} {v : BitVec 64} {c : Nat} (hv : s.baton.pmaskStaged = some v)
    (hwait : s.baton.pmaskWait = []) (hlast : s.baton.pmaskLast = some c) (hdue : c + 64 ≤ s.now) :
    applyPmask s = { s with baton := { s.baton with pmask := v, pmaskStaged := none, pmaskLast := none } } := by
  simp [applyPmask, hv, hwait, hlast, hdue]

theorem applyPmask_of_early {s : State} {c : Nat} (hlast : s.baton.pmaskLast = some c) (hearly : s.now < c + 64) :
    applyPmask s = s := by
  simp only [applyPmask]
  split
  · rw [if_neg (by simp [hlast, hearly])]
  · rfl

theorem applyPmask_of_waiting {s : State} (h : s.baton.pmaskStaged = none ∨ s.baton.pmaskWait ≠ []) : applyPmask s = s := by
  simp only [applyPmask]
  split
  · next v hv =>
    have hwait : s.baton.pmaskWait ≠ [] := h.resolve_left (by simp [hv])
    rw [if_neg (by simp [hwait])]
  · rfl

/-- The baton of t is that of s but for a request. -/
def OnlyRequests (s t : State) : Prop :=
  t.pace = s.pace ∧ ∃ p n, t.baton = { s.baton with pending := p, pendingNext := n }

theorem onlyRequests_of_lapState {s t : State} (h : t.lapState = s.lapState) : OnlyRequests s t :=
  ⟨congrArg Prod.snd h, _, _, congrArg Prod.fst h⟩

theorem OnlyRequests.trans {s t v : State} (h : OnlyRequests s t) (h' : OnlyRequests t v) : OnlyRequests s v := by
  obtain ⟨hp, _, _, hb⟩ := h
  obtain ⟨hp', p, n, hb'⟩ := h'
  exact ⟨hp'.trans hp, p, n, by rw [hb', hb]⟩

theorem fireAction_onlyRequests (s : State) (entry : BitVec 9) (action : BitVec 8) (arg : BitVec 16) :
    OnlyRequests s (fireAction s entry action arg) := by
  unfold fireAction
  split
  case h_2 => rw [requestBaton_eq]; exact ⟨rfl, _, _, rfl⟩
  all_goals exact onlyRequests_of_lapState (by simp)

theorem runStartList_onlyRequests (s : State) : OnlyRequests s (runStartList s) := by
  unfold runStartList
  refine each_inv (OnlyRequests s) _ (fun t p ht => ?_) _ s (onlyRequests_of_lapState rfl)
  split
  · exact ht.trans (fireAction_onlyRequests ..)
  · exact ht

theorem runBuiltIn_onlyRequests (s : State) : OnlyRequests s (runBuiltIn s) := by
  have hfire := ((fireAction_onlyRequests s 0x103 3 0).trans (fireAction_onlyRequests _ 0x104 4 0)).trans
    (fireAction_onlyRequests _ 0x106 6 0)
  simp only [runBuiltIn]
  split
  · split
    · exact hfire.trans (fireAction_onlyRequests ..)
    · exact hfire
  · exact onlyRequests_of_lapState rfl

/-- What an SB does to the baton beside the partition is a request of the start list. -/
theorem takeSplit_onlyRequests (s : State) (split : BitVec 8) (phase : BitVec 2) :
    OnlyRequests (applyPmask (splitTaken s split phase)) (takeSplit s split phase) := by
  have hbegin : OnlyRequests (applyPmask (splitTaken s split phase))
      (beginWaiting (liftSynced (applyPmask (splitTaken s split phase)))) :=
    onlyRequests_of_lapState (by simp)
  refine ((hbegin.trans (runStartList_onlyRequests _)).trans (runBuiltIn_onlyRequests _)).trans ?_
  exact onlyRequests_of_lapState (lapState_foldl _ _ _ (fun _ _ => by simp))

theorem applyPmask_frame (s : State) : ∃ v w c, applyPmask s =
    { s with baton := { s.baton with pmask := v, pmaskStaged := w, pmaskLast := c } } := by
  simp only [applyPmask]
  split
  · split
    · exact ⟨_, _, _, rfl⟩
    · exact ⟨_, _, _, rfl⟩
  · exact ⟨_, _, _, rfl⟩

/-! ### An SB for which nothing waits -/

theorem liftSynced_of_none {s : State} (h : ∀ b, (s.unit b).health.syncedAt = none) : liftSynced s = s := by
  rw [liftSynced, List.filter_eq_nil_iff.2 (by simp [h])]; rfl

theorem beginWaiting_of_none {s : State} (h : s.mg.waiting = []) : beginWaiting s = s := by
  have hmg : { s.mg with background := s.mg.background ++ [], waiting := [] } = s.mg := by rw [List.append_nil, ← h]
  unfold beginWaiting
  split
  · rw [h, hmg]
  · rfl

/-- A fold of which no step changes the state. -/
theorem foldl_of_fixed {α : Type} {f : State → α → State} {s : State} {l : List α} (h : ∀ a ∈ l, f s a = s) :
    l.foldl f s = s := by
  induction l with
  | nil => rfl
  | cons a l ih =>
    rw [List.foldl_cons, h a List.mem_cons_self]
    exact ih fun x hx => h x (List.mem_cons_of_mem a hx)

theorem runStartList_of_silent {s : State}
    (h : ∀ p ∈ s.tables.startList, bitAt p.2 0 = false ∨ bitsAt p.2 16 8 ≠ s.pace.split) : runStartList s = s := by
  refine foldl_of_fixed fun p hp => ?_
  have hno : entryFires s p.2 = false := by
    rcases h p hp with h | h
    · simp only [entryFires, h, Bool.false_and]
    · simp only [entryFires, decide_eq_false h, Bool.and_false, Bool.false_and]
  rw [hno, if_neg Bool.false_ne_true]

theorem runBuiltIn_of_quiet {s : State} (h : s.pace.split ≠ 0 ∨ (s.mg.mode ≠ .minimal ∧ s.mg.mode ≠ .updating)) :
    runBuiltIn s = s := by
  rw [runBuiltIn, if_neg]
  rcases h with h | ⟨h, h'⟩
  · rw [decide_eq_false h]; simp
  · simp [h, h']

theorem releaseLapwaits_of_none {s : State} {b : Nat} (h : ∀ i ∈ (s.unit b).issued, i.op ≠ .lapwait) :
    releaseLapwaits s b = s := by
  rw [releaseLapwaits, if_neg (by simpa using h)]

/-- Settles O12: beside SPLIT, PHASE and the partition an SB changes the baton by requests alone, and each of its parts leaves a
state as it is for which nothing waits. -/
theorem splitBoundaryTakesTheBus : Obligations.SplitBoundaryTakesTheBus := by
  unfold Obligations.SplitBoundaryTakesTheBus
  intro s split phase hs
  have hexec : exec (.splitBoundary split phase) s = .next (takeSplit s split phase) := live_of_running _ hs
  refine ⟨⟨_, hexec, ?_⟩, fun hstaged hwaiting hsynced hlist hmode hlapwait => ?_⟩
  · obtain ⟨hpace, p, n, hbaton⟩ := takeSplit_onlyRequests s split phase
    obtain ⟨_, _, _, hmask⟩ := applyPmask_frame (splitTaken s split phase)
    refine ⟨by rw [hpace, hmask]; rfl, by rw [hbaton, hmask]; rfl, by rw [hbaton, hmask]; rfl,
      fun v c hv hwait hlast hdue => ?_, fun v c hv hlast hearly => ?_, fun h => ?_⟩
    · rw [hbaton, applyPmask_of_due (s := splitTaken s split phase) hv hwait hlast hdue]; exact ⟨rfl, rfl⟩
    · rw [hbaton, applyPmask_of_early (s := splitTaken s split phase) hlast hearly]; exact ⟨rfl, hv⟩
    · rw [hbaton, applyPmask_of_waiting (s := splitTaken s split phase) h]; exact ⟨rfl, rfl⟩
  · rw [hexec]
    refine congrArg _ ?_
    change (allBibs.filter _).foldl releaseLapwaits (runBuiltIn (runStartList (beginWaiting (liftSynced (applyPmask
      (splitTaken s split phase)))))) = splitTaken s split phase
    rw [applyPmask_of_waiting (s := splitTaken s split phase) (.inl hstaged), liftSynced_of_none (by exact hsynced),
      beginWaiting_of_none (by exact hwaiting), runStartList_of_silent (by exact hlist), runBuiltIn_of_quiet (by exact hmode)]
    exact foldl_of_fixed fun b _ => releaseLapwaits_of_none (hlapwait b)

end Sys2Proof.Machine
end

section
/-!
PROOFS. What MG posts and sends: events of its own, messages to the units, and the staging at every member (R200, R210,
R211).
-/

namespace Sys2Proof.Machine

/-! ### Folds over units -/

/-- What each step of a fold brings about for its element, and no other step undoes, holds behind the fold of every element. -/
theorem each_of_mem {α : Type} {f : State → α → State} (P : State → Prop) (Q : α → State → Prop) {l : List α}
    (hP : ∀ t, ∀ a ∈ l, P t → P (f t a)) (hnew : ∀ t, ∀ a ∈ l, P t → Q a (f t a))
    (hkeep : ∀ t a b, P t → Q b t → Q b (f t a)) {s : State} (hs : P s) : ∀ a ∈ l, Q a (s.each l f) := by
  suffices h : ∀ t, P t → ∀ b, (b ∈ l ∨ Q b t) → Q b (t.each l f) from fun a ha => h s hs a (.inl ha)
  unfold State.each
  induction l with
  | nil => exact fun t _ b hb => hb.resolve_left List.not_mem_nil
  | cons a l ih =>
    refine fun t ht b hb => ih (fun t x hx => hP t x (List.mem_cons_of_mem a hx))
      (fun t x hx => hnew t x (List.mem_cons_of_mem a hx)) _ (hP t a List.mem_cons_self ht) b ?_
    rcases hb with hb | hb
    · rcases List.mem_cons.1 hb with rfl | hb
      · exact .inr (hnew t b List.mem_cons_self ht)
      · exact .inl hb
    · exact .inr (hkeep t a b ht hb)

/-! ### Events of MG -/

/-- t is s but for events in MG's own queue. -/
def Posts (s t : State) : Prop := (∃ u, t = { s with units := u }) ∧ ∀ n, n ≠ 0 → t.unit n = s.unit n

theorem Posts.refl (s : State) : Posts s s := ⟨⟨_, rfl⟩, fun _ _ => rfl⟩

theorem Posts.trans {s t v : State} (h : Posts s t) (h' : Posts t v) : Posts s v := by
  obtain ⟨⟨_, rfl⟩, hunit⟩ := h
  obtain ⟨⟨u, rfl⟩, hunit'⟩ := h'
  exact ⟨⟨u, rfl⟩, fun n hn => (hunit' n hn).trans (hunit n hn)⟩

theorem posts_post (s : State) (b : Nat) (v : Ev) (c : Option Nat) (x y z : BitVec 32) : Posts s (s.post 0 b v c x y z) :=
  ⟨post_frame s 0 b v c x y z, fun _ hn => State.unit_post_ne s b v c x y z hn⟩

theorem posts_postMg (s : State) (v : Ev) (x y z : BitVec 32) : Posts s (s.postMg v x y z) := posts_post s 0 v none x y z

theorem ne_zero_of_batonKind {b : Nat} (h : batonKind b = true) : b ≠ 0 := by
  rintro rfl
  exact absurd h (by decide)

theorem ne_zero_of_isFar {b : Nat} (h : isFar b = true) : b ≠ 0 := by
  rintro rfl
  exact absurd h (by decide)

theorem batonKind_of_mem_members {s : State} {b : Nat} (h : b ∈ s.members) : batonKind b = true := by
  simp only [State.members, List.mem_filter, Bool.and_eq_true] at h
  exact h.2.1

theorem serving_of_mem_members {s : State} {b : Nat} (h : b ∈ s.members) : s.serving b = true := by
  simp only [State.members, List.mem_filter, Bool.and_eq_true] at h
  exact h.2.2

theorem members_congr {s t : State} (h : ∀ n, n ≠ 0 → t.unit n = s.unit n) : t.members = s.members := by
  refine List.filter_congr fun b _ => ?_
  cases hk : batonKind b with
  | false => rfl
  | true => rw [State.serving, State.serving, h b (ne_zero_of_batonKind hk)]

theorem farUnits_congr {s t : State} (h : ∀ n, n ≠ 0 → t.unit n = s.unit n) : t.farUnits = s.farUnits := by
  refine List.filter_congr fun b _ => ?_
  cases hk : isFar b with
  | false => rfl
  | true => rw [h b (ne_zero_of_isFar hk)]

/-! ### What MG sends to the units (R200, R210) -/

theorem sends_each_sendBaton (s : State) (l : List Nat) (m : State → Nat → BitVec 128) :
    Sends s (s.each l (fun t n => sendBaton t true n (m t n))) :=
  each_inv (Sends s) _ (fun t n h => h.trans (sendBaton_sends t true n (m t n))) l s (.refl s)

theorem sends_toFar (s : State) (type : Nat) (seq : BitVec 8) (lap : BitVec 48) (rpt par : Bool) (val : BitVec 32) :
    Sends s (toFar s type seq lap rpt par val) := sends_each_sendBaton s _ _

theorem toFar_of_none {s : State} (h : s.farUnits = []) (type : Nat) (seq : BitVec 8) (lap : BitVec 48) (rpt par : Bool)
    (val : BitVec 32) : toFar s type seq lap rpt par val = s := by
  rw [toFar, h]; rfl

theorem sends_deferAll (s : State) : Sends s (deferAll s) := sends_each_sendBaton s _ _

/-- MG drives a message that the lap and the baton make to each of the units. -/
theorem mem_out_each_sendBaton {s : State} {l : List Nat} {m : State → Nat → BitVec 128} {b : Nat}
    (hm : ∀ t, Sends s t → ∀ n, m t n = m s n) (hb : b ∈ l) :
    batonOut true b (m s b) ∈ (s.each l (fun t n => sendBaton t true n (m t n))).out :=
  each_of_mem (Sends s) (fun n t => batonOut true n (m s n) ∈ t.out) (fun t n _ h => h.trans (sendBaton_sends t true n (m t n)))
    (fun t n _ h => by rw [← hm t h n]; exact mem_out_sendBaton t true n (m t n))
    (fun t n b _ hb => (sendBaton_sends t true n (m t n)).mem_out hb) (.refl s) b hb

theorem mem_out_deferAll {s : State} {b : Nat} (hb : b ∈ s.members) :
    batonOut true b (batonMsg 0x24 s.baton.seq s.baton.epoch b (lapAfter s) (annRpt s) false 0) ∈ (deferAll s).out := by
  refine mem_out_each_sendBaton (m := fun t b => batonMsg 0x24 t.baton.seq t.baton.epoch b (lapAfter t) (annRpt t) false 0)
    (fun t h n => ?_) hb
  obtain ⟨l, o, rfl⟩ := h
  rfl

/-! ### What MG stages (R210, R211) -/

/-- STAGE of what MG stages, to a unit. -/
def stageMsg (s : State) (b : Nat) : BitVec 128 :=
  batonMsg 0x20 s.baton.seq (s.baton.epoch + 1) b (lapAfter s) (annRpt s) false (stagedDigest s b)

theorem stageMsg_sameButStaged {s t : State} (h : SameButStaged s t) (b : Nat) : stageMsg t b = stageMsg s b := by
  obtain ⟨⟨_, _, _, rfl⟩, hunit⟩ := h
  simp only [stageMsg, stagedDigest, (hunit b).1]
  rfl

/-- The unit holds what MG stages, and STAGE has been sent to it. -/
def StagedAt (s : State) (b : Nat) (t : State) : Prop :=
  (t.unit b).ftabStaged = s.baton.ftab ∧ (t.unit b).lmapStaged = s.baton.lmap ∧ batonOut true b (stageMsg s b) ∈ t.out

/-- The unit with what MG stages. -/
def UnitSt.withStaged (u : UnitSt) (b : Baton) : UnitSt := { u with ftabStaged := b.ftab, lmapStaged := b.lmap }

theorem sendStage_eq (s : State) (b : Nat) :
    sendStage s b = sendBaton (s.onUnit b (fun u => u.withStaged s.baton)) true b (stageMsg s b) := rfl

theorem stagedAt_sendStage (s : State) (b : Nat) : StagedAt s b (sendStage s b) := by
  have hout := mem_out_sendBaton (s.onUnit b (fun u => u.withStaged s.baton)) true b (stageMsg s b)
  have hunit := State.unit_onUnit_self s b (fun u => u.withStaged s.baton)
  rw [sendStage_eq]
  obtain ⟨l, o, h⟩ := sendBaton_sends (s.onUnit b (fun u => u.withStaged s.baton)) true b (stageMsg s b)
  rw [h] at hout ⊢
  exact ⟨congrArg UnitSt.ftabStaged hunit, congrArg UnitSt.lmapStaged hunit, hout⟩

theorem stagedAt_sendStage_of_same {s t : State} (h : SameButStaged s t) (b : Nat) : StagedAt s b (sendStage t b) := by
  have hnew := stagedAt_sendStage t b
  rw [StagedAt, stageMsg_sameButStaged h] at hnew
  obtain ⟨⟨_, _, _, rfl⟩, -⟩ := h
  exact hnew

/-- A STAGE to one unit takes nothing from another. -/
theorem stagedAt_sendStage_of_stagedAt {s t : State} (h : SameButStaged s t) {b : Nat} (hb : StagedAt s b t) (n : Nat) :
    StagedAt s b (sendStage t n) := by
  rcases eq_or_ne b n with rfl | hn
  · exact stagedAt_sendStage_of_same h b
  · rw [sendStage_eq]
    obtain ⟨l, o, hsend⟩ := sendBaton_sends (t.onUnit n (fun u => u.withStaged t.baton)) true n (stageMsg t n)
    obtain ⟨hft, hlm, hout⟩ := hb
    have hunit := State.unit_onUnit_ne t (fun u => u.withStaged t.baton) hn
    rw [hsend]
    exact ⟨(congrArg UnitSt.ftabStaged hunit).trans hft, (congrArg UnitSt.lmapStaged hunit).trans hlm,
      List.mem_append_left _ hout⟩

/-- MG stages to every member. -/
theorem stagedAt_stageAll {s : State} {b : Nat} (hb : b ∈ s.members) :
    StagedAt { s with baton := stagedBaton s } b (stageAll s) :=
  each_of_mem (SameButStaged { s with baton := stagedBaton s }) (StagedAt { s with baton := stagedBaton s })
    (fun t n _ h => h.trans (sendStage_sameButStaged t n))
    (fun _ n _ h => stagedAt_sendStage_of_same h n)
    (fun _ n _ h hb => stagedAt_sendStage_of_stagedAt h hb n) (.refl _) b hb

end Sys2Proof.Machine
end

section
/-!
PROOFS. An ANN: what it records, what MG stages for it, and an ANN that comes early (R198, R208, R211, R418).
-/

namespace Sys2Proof.Machine

/-! ### An ANN (R198, R208, R211, R418) -/

/-- The state with the announcement recorded. -/
def announced (s : State) (rpt : Bool) : State :=
  { s with pace := { s.pace with ann := some (s.now, rpt), passed := false }, baton := { s.baton with barred := annEarly s } }

theorem posts_annNoted (s : State) (rpt : Bool) : Posts (announced s rpt) (annNoted s rpt) := by
  have hrecorded : Posts (announced s rpt) (annRecorded s rpt) := by
    simp only [annRecorded]
    split
    · exact posts_post (announced s rpt) 0 .paceFault none _ _ _
    · exact .refl _
  simp only [annNoted]
  split
  · exact hrecorded.trans (posts_postMg _ _ _ _ _)
  · exact hrecorded

theorem annNoted_of_quiet {s : State} {rpt : Bool} (hearly : annEarly s = false) (hwide : rpt = true → allWide s = false) :
    annNoted s rpt = announced s rpt := by
  have hrecorded : annRecorded s rpt = announced s rpt := by
    simp only [annRecorded, announced, hearly, Bool.false_eq_true, if_false]
  have hallWide : allWide (announced s rpt) = allWide s := rfl
  rw [annNoted, hrecorded, if_neg]
  rw [hallWide]
  cases rpt with
  | false => simp
  | true => simp [hwide]

theorem annEarly_of_early {s : State} {c : Nat} (hlb : s.pace.lastLb = some c) (h : s.now < c + 4096) : annEarly s = true := by
  simp [annEarly, hlb, h]

theorem annEarly_of_idle {s : State} (hst : s.baton.st = .idle) (h : ∀ c, s.pace.lastLb = some c → c + 4096 ≤ s.now) :
    annEarly s = false := by
  cases hlb : s.pace.lastLb with
  | none => simp [annEarly, hlb, hst]
  | some c => simp [annEarly, hlb, hst, h c hlb]

theorem batonDue_annNoted (s : State) (rpt : Bool) : batonDue (annNoted s rpt) rpt = batonDue s rpt := by
  obtain ⟨⟨u, h⟩, -⟩ := posts_annNoted s rpt
  rw [h]; rfl

theorem annStaged_of_due {s : State} {rpt : Bool} (hst : s.baton.st = .idle) (hearly : annEarly s = false)
    (hdue : batonDue s rpt = true) : annStaged s rpt = stageAll (annNoted s rpt) := by
  have hidle : (annNoted s rpt).baton.st = .idle := (congrArg (·.1.st) (lapState_annNoted s rpt)).trans hst
  simp only [annStaged, batonDue_annNoted, hdue, hearly, hidle]
  rfl

theorem annStaged_of_not {s : State} {rpt : Bool} (h : annEarly s = true ∨ batonDue s rpt = false) :
    annStaged s rpt = annNoted s rpt := by
  simp only [annStaged, batonDue_annNoted]
  rw [if_neg]
  rcases h with h | h <;> simp [h]

/-- The message to the far units and the power demand leave all that an ANN has staged. -/
theorem announce_frame (s : State) (rpt : Bool) :
    ∃ l o p, announce s rpt = { annStaged s rpt with links := l, out := (annStaged s rpt).out ++ o, power := p } := by
  obtain ⟨l, o, hfar⟩ := sends_toFar (annStaged s rpt) 0x22 0 (lapAfter (annStaged s rpt)) rpt false 8192
  rw [announce_eq]
  simp only
  rw [hfar]
  split
  · exact ⟨l, o, _, rfl⟩
  · exact ⟨l, o ++ _, _, by rw [← List.append_assoc]; rfl⟩

theorem announce_of_near {s : State} {rpt : Bool} (h : (annStaged s rpt).farUnits = []) :
    announce s rpt = if rpt then annStaged s rpt else announceDemand (annStaged s rpt) := by
  rw [announce_eq]
  simp only [toFar_of_none h]

theorem farUnits_annNoted (s : State) (rpt : Bool) : (annNoted s rpt).farUnits = s.farUnits :=
  farUnits_congr (t := annNoted s rpt) (s := s) (posts_annNoted s rpt).2

/-- What an ANN that stages nothing leaves. -/
theorem announce_of_unstaged {s : State} {rpt : Bool} (h : annEarly s = true ∨ batonDue s rpt = false) :
    (announce s rpt).pace = (announced s rpt).pace ∧ (announce s rpt).baton = (announced s rpt).baton ∧
      (announce s rpt).tables = s.tables ∧ (announce s rpt).trackers = s.trackers ∧ (announce s rpt).mem = s.mem := by
  obtain ⟨_, _, _, hframe⟩ := announce_frame s rpt
  obtain ⟨⟨_, hposts⟩, -⟩ := posts_annNoted s rpt
  rw [hframe, annStaged_of_not h, hposts]
  exact ⟨rfl, rfl, rfl, rfl, rfl⟩

/-- What an ANN stages at MG and at the members (R211). -/
theorem announce_of_due {s : State} {rpt : Bool} (hst : s.baton.st = .idle) (hearly : annEarly s = false)
    (hdue : batonDue s rpt = true) :
    ((announce s rpt).pace = (announced s rpt).pace ∧ (announce s rpt).baton = stagedBaton (announced s rpt) ∧
      (announce s rpt).tables = s.tables ∧ (announce s rpt).trackers = s.trackers ∧ (announce s rpt).mem = s.mem) ∧
    ∀ b ∈ s.members, StagedAt { announced s rpt with baton := stagedBaton (announced s rpt) } b (announce s rpt) := by
  obtain ⟨l, o, p, hframe⟩ := announce_frame s rpt
  have hmembers : (annNoted s rpt).members = s.members := members_congr (t := annNoted s rpt) (s := s) (posts_annNoted s rpt).2
  obtain ⟨⟨u, hposts⟩, hunit⟩ := posts_annNoted s rpt
  have hbaton : stagedBaton (annNoted s rpt) = stagedBaton (announced s rpt) := by
    have hmem : (annNoted s rpt).members = (announced s rpt).members := hmembers
    rw [stagedBaton, stagedBaton, hmem, hposts]
    rfl
  rw [hframe, annStaged_of_due hst hearly hdue]
  constructor
  · obtain ⟨⟨_, _, _, hstage⟩, -⟩ := stageAll_sameButStaged (annNoted s rpt)
    rw [hstage, hbaton, hposts]
    exact ⟨rfl, rfl, rfl, rfl, rfl⟩
  · intro b hb
    obtain ⟨hft, hlm, hout⟩ := stagedAt_stageAll (hmembers.symm ▸ hb)
    have hfiles : ((annNoted s rpt).unit b).files = ((announced s rpt).unit b).files := by
      rw [hunit b (ne_zero_of_batonKind (batonKind_of_mem_members hb))]
    have hmsg : stageMsg { annNoted s rpt with baton := stagedBaton (annNoted s rpt) } b =
        stageMsg { announced s rpt with baton := stagedBaton (announced s rpt) } b := by
      rw [hbaton]
      rw [hposts] at hfiles ⊢
      exact congrArg (fun f : Files => batonMsg 0x20 (stagedBaton (announced s rpt)).seq
        ((stagedBaton (announced s rpt)).epoch + 1) b (lapAfter (announced s rpt)) (annRpt (announced s rpt)) false
        (digestOf b (stagedBaton (announced s rpt)).ftab (stagedBaton (announced s rpt)).lmap f.cbStaged)) hfiles
    rw [hmsg] at hout
    rw [hbaton] at hft hlm
    exact ⟨hft, hlm, List.mem_append_left _ hout⟩

theorem stagedMap_congr {s t : State} (h : t.tables = s.tables) (w : List (Nat × BitVec 2)) : stagedMap t w = stagedMap s w := by
  simp only [stagedMap, widthAfter, State.layer, h]

theorem lmap_stagedBaton_announced (s : State) (rpt : Bool) :
    (stagedBaton (announced s rpt)).lmap = stagedMap s (widthsFor s rpt) := by
  have hwidths : widthsFor (announced s rpt) (annRpt (announced s rpt)) = widthsFor s rpt := rfl
  have htables : (announced s rpt).tables = s.tables := rfl
  simp only [stagedBaton, hwidths, stagedMap_congr htables]

theorem stageMsg_announced (s : State) (rpt : Bool) (b : Nat) :
    stageMsg { announced s rpt with baton := stagedBaton (announced s rpt) } b =
      batonMsg 0x20 (nextSeq s.baton.seq) (s.baton.epoch + 1) b (if rpt then s.pace.lap else s.pace.lap + 1) rpt false
        (digestOf b s.tables.ftStaged (stagedMap s (widthsFor s rpt)) (s.unit b).files.cbStaged) := by
  rw [← lmap_stagedBaton_announced]
  cases rpt <;> rfl

/-- Settles O13, from what an ANN records and from what it stages where a baton is due. -/
theorem announcementStagesADueBaton : Obligations.AnnouncementStagesADueBaton := by
  unfold Obligations.AnnouncementStagesADueBaton
  intro s rpt hs hst
  have hexec : exec (.announcement rpt) s = .next (announce s rpt) := live_of_running _ hs
  refine ⟨fun c hlb hearly => ?_, fun hlate => ?_⟩
  · have hbarred := annEarly_of_early hlb hearly
    obtain ⟨hpace, hbaton, htables, htrackers, hmem⟩ := announce_of_unstaged (rpt := rpt) (.inl hbarred)
    refine ⟨_, hexec, hpace, hbaton.trans (by rw [announced, hbarred]), htables, htrackers, hmem, fun hrpt hfar => ?_⟩
    have hnear : (annNoted s rpt).farUnits = [] := (farUnits_annNoted s rpt).trans hfar
    rw [hpace, hbaton, announce_of_near (by rwa [annStaged_of_not (.inl hbarred)]), annStaged_of_not (.inl hbarred), hrpt]
    simp only [annNoted, annRecorded, announced, paceFault, hbarred, Bool.false_and, Bool.false_eq_true, if_false, if_true,
      State.postMg_pace, State.postMg_baton]
    rfl
  · have hearly := annEarly_of_idle hst hlate
    have hannounced : announced s rpt = { s with
        pace := { s.pace with ann := some (s.now, rpt), passed := false }, baton := { s.baton with barred := false } } := by
      rw [announced, hearly]
    refine ⟨?_, fun hdue hfar => ?_⟩
    · cases hdue : batonDue s rpt with
      | false =>
        obtain ⟨hpace, hbaton, htables, htrackers, hmem⟩ := announce_of_unstaged (rpt := rpt) (.inr hdue)
        exact ⟨_, hexec, hpace, htables, htrackers, hmem, nofun, fun _ => hbaton.trans (by rw [hannounced])⟩
      | true =>
        obtain ⟨⟨hpace, hbaton, htables, htrackers, hmem⟩, hunits⟩ := announce_of_due hst hearly hdue
        refine ⟨_, hexec, hpace, htables, htrackers, hmem, fun _ => ⟨?_, fun b hb hfar => ?_⟩, nofun⟩
        · rw [hbaton, hannounced]; rfl
        · obtain ⟨hft, hlm, hout⟩ := hunits b hb
          rw [batonOut, hfar, stageMsg_announced] at hout
          exact ⟨hft, hlm.trans (lmap_stagedBaton_announced s rpt), hout⟩
    · have hnear : (annNoted s rpt).farUnits = [] := (farUnits_annNoted s rpt).trans hfar
      rw [hexec, announce_of_near (by rwa [annStaged_of_not (.inr hdue)]), annStaged_of_not (.inr hdue)]
      refine ⟨fun hrpt => ?_, fun hrpt hwide => ?_⟩
      · rw [annNoted_of_quiet hearly (by simp [hrpt]), hannounced, hrpt]; rfl
      · rw [annNoted_of_quiet hearly (fun _ => hwide), hannounced, hrpt]; rfl

end Sys2Proof.Machine
end

section
/-!
PROOFS. The issue hold, the lapse of an announcement, and a change of the pace bus without its pulse (R198, R200, R304).
-/

namespace Sys2Proof.Machine

/-! ### The issue hold (R200, R304, R330) -/

theorem answerClosing_of_none {s : State} {p : Nat → Bool}
    (h : ∀ x ∈ s.tables.queues, x.2.st = .closing → p x.2.bib.toNat = false) : answerClosing s p = s := by
  have hnone : s.tables.queues.filter (fun x => x.2.st == .closing && p x.2.bib.toNat) = [] := by
    refine List.filter_eq_nil_iff.2 fun x hx => ?_
    by_cases hc : x.2.st = .closing
    · simp [h x hx hc]
    · simp [hc]
  rw [answerClosing, hnone]
  rfl

/-! ### The lapse of an announcement (R200, R211) -/

/-- The baton whose announcement lapses: what was armed is deferred, without a count. -/
def deferredBaton (b : Baton) : Baton :=
  { b with st := if b.st = .armed then .idle else b.st, pendingNext := if b.st = .armed then false else b.pendingNext }

theorem deferArmed_of_armed {s : State} (h : s.baton.st = .armed) :
    deferArmed s = deferAll { s with baton := deferredBaton s.baton } := by
  rw [deferArmed, if_pos h, deferredBaton, if_pos h, if_pos h]

theorem deferArmed_of_other {s : State} (h : s.baton.st ≠ .armed) :
    deferArmed s = { s with baton := deferredBaton s.baton } := by
  rw [deferArmed, if_neg h, deferredBaton, if_neg h, if_neg h]

theorem sends_deferArmed (s : State) : Sends { s with baton := deferredBaton s.baton } (deferArmed s) := by
  by_cases h : s.baton.st = .armed
  · rw [deferArmed_of_armed h]; exact sends_deferAll _
  · rw [deferArmed_of_other h]; exact .refl _

theorem mem_out_deferArmed {s : State} (h : s.baton.st = .armed) {b : Nat} (hb : b ∈ s.members) :
    batonOut true b (batonMsg 0x24 s.baton.seq s.baton.epoch b (lapAfter s) (annRpt s) false 0) ∈ (deferArmed s).out := by
  rw [deferArmed_of_armed h]
  exact mem_out_deferAll (s := { s with baton := deferredBaton s.baton }) hb

/-- The state at the end of a lapse, before the queues that the hold kept from closing are answered. -/
def lapsed (s : State) : State :=
  let s1 := toFar (deferArmed (paceFault s 2 s.pace.busLap)) 0x26 0 (lapAfter s) (annRpt s) false 0
  { s1 with pace := { s1.pace with ann := none, passed := false, hold := false }, baton := { s1.baton with barred := false } }

theorem lapseAnnouncement_of_passed {s : State} (hann : s.pace.ann.isSome = true) (hpassed : s.pace.passed = true) :
    lapseAnnouncement s = answerClosing (lapsed s) (fun b => !isFar b) := by
  rw [lapseAnnouncement, if_neg (by simp [Option.isSome_iff_ne_none.1 hann]), passCommit_of_passed hpassed]
  rfl

theorem posts_paceFault (s : State) (row : Nat) (lap : BitVec 48) : Posts s (paceFault s row lap) := posts_postMg s _ _ _ _

theorem lapsed_frame (s : State) : ∃ u l o, lapsed s = { s with
    units := u, links := l, out := o, pace := { s.pace with ann := none, passed := false, hold := false }
    baton := { deferredBaton s.baton with barred := false } } := by
  obtain ⟨⟨u, hposts⟩, -⟩ := posts_paceFault s 2 s.pace.busLap
  obtain ⟨_, _, hdefer⟩ := sends_deferArmed (paceFault s 2 s.pace.busLap)
  obtain ⟨l, o, hfar⟩ := sends_toFar (deferArmed (paceFault s 2 s.pace.busLap)) 0x26 0 (lapAfter s) (annRpt s) false 0
  rw [lapsed, hfar, hdefer, hposts]
  exact ⟨u, l, _, rfl⟩

theorem mem_out_lapsed {s : State} (h : s.baton.st = .armed) {b : Nat} (hb : b ∈ s.members) :
    batonOut true b (batonMsg 0x24 s.baton.seq s.baton.epoch b (lapAfter s) (annRpt s) false 0) ∈ (lapsed s).out := by
  obtain ⟨⟨u, hposts⟩, hunit⟩ := posts_paceFault s 2 s.pace.busLap
  have hmem : b ∈ (paceFault s 2 s.pace.busLap).members := (members_congr hunit).symm ▸ hb
  have hdefer := mem_out_deferArmed (s := paceFault s 2 s.pace.busLap) (by rw [hposts]; exact h) hmem
  have hmsg : batonMsg 0x24 (paceFault s 2 s.pace.busLap).baton.seq (paceFault s 2 s.pace.busLap).baton.epoch b
      (lapAfter (paceFault s 2 s.pace.busLap)) (annRpt (paceFault s 2 s.pace.busLap)) false 0 =
      batonMsg 0x24 s.baton.seq s.baton.epoch b (lapAfter s) (annRpt s) false 0 := by rw [hposts]; rfl
  rw [hmsg] at hdefer
  exact (sends_toFar _ 0x26 0 (lapAfter s) (annRpt s) false 0).mem_out hdefer

/-- Settles O14, from what each of the four commands leaves. -/
theorem holdLapseAndBusChange : Obligations.HoldLapseAndBusChange := by
  unfold Obligations.HoldLapseAndBusChange
  refine ⟨fun s hs => ⟨?_, live_of_running _ hs, fun hnone => ?_⟩, fun s hs hann hpassed => ?_,
    fun s lap split phase hs hbus => ?_⟩
  · rw [exec, execIssueHoldBegin, live_of_running _ hs]
    cases hann : s.pace.ann.isSome with
    | false => simp
    | true => simp
  · rw [exec, execIssueHoldEnd, live_of_running _ hs]
    exact congrArg _ (answerClosing_of_none fun x hx hc => by simp [hnone x hx hc])
  · refine ⟨_, live_of_running _ hs, ?_⟩
    rw [lapseAnnouncement_of_passed hann hpassed]
    have hlap := lapState_answerClosing (lapsed s) (fun b => !isFar b)
    have hqueues := answerClosing_sameButQueues (lapsed s) (fun b => !isFar b)
    obtain ⟨_, _, _, hframe⟩ := lapsed_frame s
    refine ⟨?_, ?_, fun hnone => ?_, fun harmed b hb hnear => ?_⟩
    · exact (congrArg Prod.snd hlap).trans (by rw [hframe]; rfl)
    · exact (congrArg Prod.fst hlap).trans (by rw [hframe]; rfl)
    · rw [answerClosing_of_none (fun x hx hc => ?_), hframe]
      · exact ⟨rfl, rfl, rfl⟩
      · rw [hframe] at hx
        simp [hnone x hx hc]
    · obtain ⟨_, _, _, hout⟩ := hqueues
      rw [hout]
      have hmem := mem_out_lapsed harmed hb
      rwa [batonOut, hnear] at hmem
  · rw [exec, execPaceBusChange, live_of_running _ hs]
    dsimp only
    rw [if_neg]
    · rfl
    · simpa [imp_iff_not_or, or_assoc] using hbus

end Sys2Proof.Machine
end

section
/-!
PROOFS. The fence and the member state of a unit: what leaves them, and what a fence makes of them (R212, R428, R429).
-/

namespace Sys2Proof.Machine

/-! ### The fence of a unit and its member state (R212, R428) -/

/-- The fence of a unit, and where it stands in the protocol. -/
def UnitSt.standing (u : UnitSt) : Bool × Bool × BitVec 8 × Member × BitVec 4 :=
  (u.health.fenced, u.health.epochFence, u.health.cause, u.member, u.epoch)

def State.standing (s : State) (n : Nat) : Bool × Bool × BitVec 8 × Member × BitVec 4 := (s.unit n).standing

theorem standing_hold (u : UnitSt) (e : Event) : (u.hold e).standing = u.standing := by
  simp only [UnitSt.hold]
  split
  · rfl
  · split <;> rfl

theorem standing_onUnit {f : UnitSt → UnitSt} (h : ∀ u, (f u).standing = u.standing) (s : State) (b n : Nat) :
    (s.onUnit b f).standing n = s.standing n := by
  rw [State.standing, State.standing]
  rcases eq_or_ne n b with rfl | hn
  · rw [State.unit_onUnit_self, h]
  · rw [State.unit_onUnit_ne s f hn]

theorem standing_post (s : State) (p b : Nat) (v : Ev) (c : Option Nat) (x y z : BitVec 32) (n : Nat) :
    (s.post p b v c x y z).standing n = s.standing n := standing_onUnit (fun u => standing_hold u _) s p n

theorem Sends.standing {s t : State} (h : Sends s t) (n : Nat) : t.standing n = s.standing n := by
  obtain ⟨_, _, rfl⟩ := h
  rfl

theorem SameButWork.standing {s t : State} (h : SameButWork s t) (n : Nat) : t.standing n = s.standing n := by
  obtain ⟨_, _, _, _, _, hunit, -, -⟩ := h.unit n
  rw [State.standing, hunit]
  rfl

/-! ### What a fence brings about (R428, R429) -/

theorem standing_fencedFor {u v : UnitSt} (h : u.standing = v.standing) (c : Cause) :
    (u.fencedFor c).standing = (v.fencedFor c).standing := by
  have hmember : u.member = v.member := congrArg (·.2.2.2.1) h
  have hepoch : u.epoch = v.epoch := congrArg (·.2.2.2.2) h
  simp only [UnitSt.standing, UnitSt.fencedFor, hmember, hepoch]

theorem standing_fencedState_self (s : State) (b : Nat) (c : Cause) :
    (fencedState s b c).standing b = ((s.unit b).fencedFor c).standing :=
  (congrArg UnitSt.standing (State.unit_onUnit_self _ b (fun u => u.fencedFor c))).trans
    (standing_fencedFor (standing_post s 0 b .fence none _ 0 0 b) c)

theorem standing_fencedState_ne (s : State) {b n : Nat} (hn : n ≠ b) (c : Cause) :
    (fencedState s b c).standing n = s.standing n :=
  (congrArg UnitSt.standing (State.unit_onUnit_ne _ (fun u => u.fencedFor c) hn)).trans (standing_post s 0 b .fence none _ 0 0 n)

/-- The unit stands fenced with a cause. -/
def FencedFor (c : Cause) (s : State) (b : Nat) : Prop :=
  (s.unit b).health.fenced = true ∧ (s.unit b).health.cause = c.code ∧ (s.unit b).health.epochFence = (c == .falseStart)

theorem fencedFor_iff (c : Cause) (s : State) (b : Nat) : FencedFor c s b ↔
    ((s.unit b).health.fenced && decide ((s.unit b).health.cause = c.code) &&
      ((s.unit b).health.epochFence == (c == .falseStart))) = true := by
  simp [FencedFor, and_assoc]

/-- A unit fenced with a cause already is not fenced again for it. -/
theorem setFence_of_fenced {s : State} {b : Nat} {c : Cause} (h : FencedFor c s b) : setFence s b c = s := by
  rw [setFence]
  exact if_pos ((fencedFor_iff c s b).1 h)

theorem setFence_of_not_fenced {s : State} {b : Nat} {c : Cause} (h : ¬ FencedFor c s b) :
    SameButWork (fencedState s b c) (setFence s b c) :=
  setFence_sameButWork (Bool.eq_false_iff.2 (mt (fencedFor_iff c s b).2 h))

theorem standing_fence_ne (s : State) {b n : Nat} (hn : n ≠ b) (c : Cause) : (fence s b c).standing n = s.standing n := by
  simp only [fence]
  split
  · rfl
  · by_cases h : FencedFor c s b
    · rw [setFence_of_fenced h]
    · rw [(setFence_of_not_fenced h).standing, standing_fencedState_ne s hn]

/-- A fence of KIND keeps out every other, and an EPOCH fence falls behind every other (R428). -/
theorem fence_of_free {s : State} {b : Nat} {c : Cause} (h : (s.unit b).health.fenced = false ∨
    ((s.unit b).health.cause ≠ Cause.kind.code ∧ c ≠ .falseStart)) : fence s b c = setFence s b c := by
  rw [fence, if_neg]
  rcases h with h | ⟨hcause, hc⟩
  · simp [h]
  · simp [hcause, hc]

theorem standing_fence_self {s : State} {b : Nat} {c : Cause} (h : (s.unit b).health.fenced = false ∨
    ((s.unit b).health.cause ≠ Cause.kind.code ∧ c ≠ .falseStart)) (hnew : ¬ FencedFor c s b) :
    (fence s b c).standing b = ((s.unit b).fencedFor c).standing := by
  rw [fence_of_free h, (setFence_of_not_fenced hnew).standing, standing_fencedState_self]

theorem fencedFor_of_standing {s : State} {b : Nat} {u : UnitSt} {c : Cause} (h : s.standing b = (u.fencedFor c).standing) :
    FencedFor c s b :=
  ⟨congrArg (·.1) h, congrArg (·.2.2.1) h, congrArg (·.2.1) h⟩

/-! ### Fences of several units -/

/-- The unit stands as a fence for a cause leaves it. -/
def FencedAs (c : Cause) (s : State) (b : Nat) : Prop := ∃ u : UnitSt, s.standing b = (u.fencedFor c).standing

theorem FencedAs.fencedFor {c : Cause} {s : State} {b : Nat} (h : FencedAs c s b) : FencedFor c s b := by
  obtain ⟨u, h⟩ := h
  exact fencedFor_of_standing h

theorem FencedAs.fence {c : Cause} {s : State} {b : Nat} (h : FencedAs c s b) (n : Nat) : FencedAs c (fence s n c) b := by
  rcases eq_or_ne b n with rfl | hn
  · have hsame : Machine.fence s b c = s := by
      simp only [Machine.fence]
      split
      · rfl
      · exact setFence_of_fenced h.fencedFor
    rwa [hsame]
  · obtain ⟨u, h⟩ := h
    exact ⟨u, (standing_fence_ne s hn c).trans h⟩

theorem fencedAs_fence_of_unfenced {s : State} {b : Nat} (h : (s.unit b).health.fenced = false) (c : Cause) :
    FencedAs c (fence s b c) b := by
  refine ⟨s.unit b, standing_fence_self (.inl h) fun hf => ?_⟩
  rw [hf.1] at h
  cases h

section
variable {c : Cause} {f : State → Nat → State}
  (hf : ∀ t m, ∃ v : State, v.standing = t.standing ∧ (f t m).standing = (fence v m c).standing)
include hf

/-- A fold of fences leaves the units that it does not name. -/
theorem standing_each_of_notMem (s : State) {l : List Nat} {n : Nat} (hn : n ∉ l) : (s.each l f).standing n = s.standing n := by
  unfold State.each
  induction l generalizing s with
  | nil => rfl
  | cons m l ih =>
    obtain ⟨v, hv, hstep⟩ := hf s m
    have hne : n ≠ m := fun h => hn (h ▸ List.mem_cons_self)
    rw [List.foldl_cons, ih _ (fun h => hn (List.mem_cons_of_mem m h)), hstep, standing_fence_ne v hne, hv]

/-- A fold of fences fences every unit that it names, where none of them is fenced before. -/
theorem fencedAs_each {s : State} {l : List Nat} (h : ∀ b ∈ l, (s.unit b).health.fenced = false) :
    ∀ b ∈ l, FencedAs c (s.each l f) b := by
  have hkeep : ∀ t m b, FencedAs c t b → FencedAs c (f t m) b := fun t m b ⟨u, hu⟩ => by
    obtain ⟨v, hv, hstep⟩ := hf t m
    have hfenced : FencedAs c v b := ⟨u, by rw [hv, hu]⟩
    obtain ⟨u', hu'⟩ := hfenced.fence m
    exact ⟨u', by rw [hstep, hu']⟩
  have hnew : ∀ t m, ((t.unit m).health.fenced = false ∨ FencedAs c t m) → FencedAs c (f t m) m := fun t m hm => by
    rcases hm with hm | hm
    · obtain ⟨v, hv, hstep⟩ := hf t m
      obtain ⟨u, hu⟩ := fencedAs_fence_of_unfenced (s := v) (b := m) ((congrArg (·.1) (congrFun hv m)).trans hm) c
      exact ⟨u, by rw [hstep, hu]⟩
    · exact hkeep t m m hm
  refine each_of_mem (fun t => ∀ b ∈ l, (t.unit b).health.fenced = false ∨ FencedAs c t b) (fun b t => FencedAs c t b)
    (fun t m hm hP b hb => ?_)
    (fun t m hm hP => hnew t m (hP m hm)) (fun t m b _ => hkeep t m b) (fun b hb => .inl (h b hb))
  rcases eq_or_ne b m with rfl | hne
  · exact .inr (hnew t b (hP b hb))
  · refine (hP b hb).imp (fun hfree => ?_) (hkeep t m b)
    obtain ⟨v, hv, hstep⟩ := hf t m
    have hsame : (f t m).standing b = t.standing b := by rw [hstep, standing_fence_ne v hne, hv]
    exact (congrArg (·.1) hsame).trans hfree

end

end Sys2Proof.Machine
end

section
/-!
PROOFS. The commit point: a baton armed, withdrawn or deferred, and the fences at DEFERMAX (R209, R211, R213).
-/

namespace Sys2Proof.Machine

/-! ### The commit point (R209, R211, R213) -/

theorem markDue_frame (s : State) : ∃ x, markDue s = { s with trackers := x } := by
  refine each_inv (fun t => ∃ x, t = { s with trackers := x }) _ (fun t x ht => ?_) _ s ⟨_, rfl⟩
  obtain ⟨_, rfl⟩ := ht
  split
  · split
    · exact ⟨_, rfl⟩
    · exact ⟨_, rfl⟩
  · exact ⟨_, rfl⟩

/-- The state with its commit point passed, before MG looks at what it stages. -/
def pointPassed (s : State) : State := { markDue s with pace := { s.pace with passed := true } }

theorem pointPassed_frame (s : State) :
    ∃ x, pointPassed s = { s with trackers := x, pace := { s.pace with passed := true } } := by
  obtain ⟨x, h⟩ := markDue_frame s
  exact ⟨x, by rw [pointPassed, h]⟩

/-- The members of the last STAGE to all, still in the set, whose ACK is missing. -/
def missingAcks (s : State) : List Nat := s.members.filter (fun b => s.baton.members.contains b && !s.baton.acks.contains b)

theorem mem_missingAcks {s : State} {b : Nat} : b ∈ missingAcks s ↔ b ∈ s.members ∧ b ∈ s.baton.members ∧ b ∉ s.baton.acks := by
  simp [missingAcks]

theorem missingAcks_eq_nil {s : State} (h : ∀ b ∈ s.members, b ∈ s.baton.members → b ∈ s.baton.acks) : missingAcks s = [] :=
  List.eq_nil_iff_forall_not_mem.2 fun b hb => by
    obtain ⟨hmem, hset, hack⟩ := mem_missingAcks.1 hb
    exact hack (h b hmem hset)

theorem missingAcks_ne_nil {s : State} (h : ∃ b ∈ s.members, b ∈ s.baton.members ∧ b ∉ s.baton.acks) : missingAcks s ≠ [] := by
  obtain ⟨b, hmem, hset, hack⟩ := h
  exact List.ne_nil_of_mem (mem_missingAcks.2 ⟨hmem, hset, hack⟩)

/-- COMMIT of the armed baton to the members that acknowledged it. -/
def commitAll (s : State) : State :=
  State.each { s with baton := { s.baton with st := .armed } } (s.members.filter (fun b => s.baton.acks.contains b))
    (fun t b => sendBaton t true b (batonMsg 0x23 t.baton.seq (t.baton.epoch + 1) b (lapAfter t) (annRpt t) false 0))

section
variable {s : State} (hann : s.pace.ann.isSome = true) (hpassed : s.pace.passed = false) (hst : s.baton.st = .staging)
  (hbarred : s.baton.barred = false)
include hann hpassed hst hbarred

/-- The three outcomes of the deadline of what MG stages (R211). -/
theorem passCommit_of_staging : passCommit s =
    if batonDue s (annRpt s) = false then deferAll { pointPassed s with baton := { (pointPassed s).baton with st := .idle } }
    else if missingAcks (pointPassed s) = [] then commitAll (pointPassed s)
    else deferMissing (pointPassed s) (missingAcks (pointPassed s)) := by
  have hgo : ¬ (s.pace.ann.isNone || s.pace.passed) = true := by simp [hpassed, Option.isSome_iff_ne_none.1 hann]
  obtain ⟨x, hpoint⟩ := pointPassed_frame s
  have hst' : (pointPassed s).baton.st = .staging := by rw [hpoint]; exact hst
  have hbarred' : (pointPassed s).baton.barred = false := by rw [hpoint]; exact hbarred
  have hdue : batonDue (pointPassed s) (annRpt (pointPassed s)) = batonDue s (annRpt s) := by rw [hpoint]; rfl
  have hpass : passCommit s =
      if (pointPassed s).baton.st ≠ .staging then pointPassed s
      else if !batonDue (pointPassed s) (annRpt (pointPassed s)) || (pointPassed s).baton.barred then
        deferAll { pointPassed s with baton := { (pointPassed s).baton with st := .idle } }
      else if missingAcks (pointPassed s) = [] then commitAll (pointPassed s)
      else deferMissing (pointPassed s) (missingAcks (pointPassed s)) := by
    rw [passCommit, if_neg hgo]; rfl
  rw [hpass, if_neg (not_not_intro hst'), hbarred', hdue, Bool.or_false]
  cases batonDue s (annRpt s) <;> rfl

end

/-- A deferral short of DEFERMAX: the count, DEFER to every member, and an event for each ACK that is missing. -/
theorem deferMissing_of_below {s : State} {l : List Nat}
    (h : s.baton.defermax = 0 ∨ (satAdd s.baton.defcnt 1 : BitVec 4) ≠ s.baton.defermax) :
    Posts (deferAll { s with baton := { s.baton with defcnt := satAdd s.baton.defcnt 1, st := .idle } }) (deferMissing s l) := by
  simp only [deferMissing]
  rw [if_neg]
  · exact each_inv (Posts _) _ (fun t b ht => ht.trans (posts_post t b _ _ _ _ _)) _ _ (.refl _)
  · simp only [Bool.and_eq_true, decide_eq_true_eq]
    rintro ⟨⟨hmax, hnow⟩, -⟩
    exact h.elim hmax (fun hne => hne hnow)

/-- The deferral that reaches DEFERMAX fences the units whose ACK is missing (R213). -/
theorem fencedAs_deferMissing {s : State} {l : List Nat} (hmax : s.baton.defermax ≠ 0) (hnot : s.baton.defcnt ≠ s.baton.defermax)
    (hnow : (satAdd s.baton.defcnt 1 : BitVec 4) = s.baton.defermax) (hl : ∀ b ∈ l, (s.unit b).health.fenced = false) :
    ∀ b ∈ l, FencedAs .deferred (deferMissing s l) b := by
  simp only [deferMissing]
  rw [if_pos (by simp only [Bool.and_eq_true, decide_eq_true_eq]; exact ⟨⟨hmax, hnow⟩, hnow ▸ hnot⟩)]
  refine fencedAs_each (fun t b => ⟨t, rfl, rfl⟩) fun b hb => ?_
  have hposts : ∀ t : State, Sends { s with baton := { s.baton with defcnt := satAdd s.baton.defcnt 1, st := .idle } } t →
      (State.each t l (fun t b => t.post 0 b .batonDefer none
        ((s.baton.seq.setWidth 32) ||| ((satAdd s.baton.defcnt 1 : BitVec 4).setWidth 32 <<< 8)) 0 0)).standing b =
          s.standing b :=
    fun t ht => each_inv (fun v => v.standing b = s.standing b) _ (fun v n hv => (standing_post v 0 n _ _ _ _ _ b).trans hv) l t
      (ht.standing b)
  exact (congrArg (·.1) (hposts _ (sends_deferAll _))).trans (hl b hb)

theorem sends_commitAll (s : State) : Sends { s with baton := { s.baton with st := .armed } } (commitAll s) :=
  sends_each_sendBaton _ _ _

theorem mem_out_commitAll {s : State} {b : Nat} (hb : b ∈ s.members) (hack : b ∈ s.baton.acks) :
    batonOut true b (batonMsg 0x23 s.baton.seq (s.baton.epoch + 1) b (lapAfter s) (annRpt s) false 0) ∈ (commitAll s).out := by
  refine mem_out_each_sendBaton (s := { s with baton := { s.baton with st := .armed } })
    (m := fun t b => batonMsg 0x23 t.baton.seq (t.baton.epoch + 1) b (lapAfter t) (annRpt t) false 0) (fun t h n => ?_)
    (List.mem_filter.2 ⟨hb, List.contains_iff_mem.2 hack⟩)
  obtain ⟨l, o, rfl⟩ := h
  rfl

/-- Settles O15, from the three outcomes of the deadline. -/
theorem commitPointArmsOrDefers : Obligations.CommitPointArmsOrDefers := by
  unfold Obligations.CommitPointArmsOrDefers
  refine ⟨fun s hs hann hpassed hst hbarred => ⟨_, live_of_running _ hs, ?_⟩,
    fun s b hs hann hpassed hst hbarred hdue hmax hnot hnow hmem hset hack => ⟨_, live_of_running _ hs, ?_⟩⟩
  · obtain ⟨x, hpoint⟩ := pointPassed_frame s
    have hmembers : (pointPassed s).members = s.members := by rw [hpoint]; rfl
    have hbaton : (pointPassed s).baton = s.baton := by rw [hpoint]
    refine ⟨passed_passCommit hann, ?_⟩
    rw [passCommit_of_staging hann hpassed hst hbarred]
    refine ⟨fun hdue hall => ?_, fun hdue hleft hbelow => ?_, fun hdue => ?_⟩
    · rw [hdue, if_neg Bool.noConfusion, if_pos (missingAcks_eq_nil (by rw [hmembers, hbaton]; exact hall))]
      have hout := fun b => mem_out_commitAll (s := pointPassed s) (b := b)
      obtain ⟨l, o, hcommit⟩ := sends_commitAll (pointPassed s)
      rw [hcommit, hpoint] at hout ⊢
      refine ⟨rfl, rfl, rfl, rfl, fun b hb hack hnear => ?_⟩
      have hmem := hout b hb hack
      rwa [batonOut_of_near hnear] at hmem
    · rw [hdue, if_neg Bool.noConfusion, if_neg (missingAcks_ne_nil (by rw [hmembers, hbaton]; exact hleft))]
      obtain ⟨⟨u, hposts⟩, -⟩ := deferMissing_of_below (s := pointPassed s) (l := missingAcks (pointPassed s))
        (by rw [hbaton]; exact hbelow)
      have hout := fun b => mem_out_deferAll (b := b)
        (s := { pointPassed s with baton := { (pointPassed s).baton with
          defcnt := satAdd (pointPassed s).baton.defcnt 1, st := .idle } })
      obtain ⟨l, o, hdefer⟩ := sends_deferAll { pointPassed s with baton := { (pointPassed s).baton with
        defcnt := satAdd (pointPassed s).baton.defcnt 1, st := .idle } }
      rw [hposts]
      rw [hdefer, hpoint] at hout ⊢
      refine ⟨rfl, rfl, rfl, fun b hb hnear => ?_⟩
      have hmem := hout b hb
      rwa [batonOut_of_near hnear] at hmem
    · rw [hdue, if_pos rfl]
      obtain ⟨l, o, hdefer⟩ := sends_deferAll { pointPassed s with baton := { (pointPassed s).baton with st := .idle } }
      rw [hdefer, hpoint]
      exact ⟨rfl, rfl, rfl, rfl⟩
  · obtain ⟨x, hpoint⟩ := pointPassed_frame s
    have hbaton : (pointPassed s).baton = s.baton := by rw [hpoint]
    have hmissing : b ∈ missingAcks (pointPassed s) := by
      rw [hpoint]; exact mem_missingAcks.2 ⟨hmem, hset, hack⟩
    rw [passCommit_of_staging hann hpassed hst hbarred, hdue, if_neg Bool.noConfusion, if_neg (List.ne_nil_of_mem hmissing)]
    have hserving : ∀ n ∈ missingAcks (pointPassed s), ((pointPassed s).unit n).health.fenced = false := fun n hn => by
      have hserve := serving_of_mem_members (mem_missingAcks.1 hn).1
      simp only [State.serving, Bool.and_eq_true, Bool.not_eq_true'] at hserve
      exact hserve.2
    obtain ⟨hfenced, hcause, -⟩ := (fencedAs_deferMissing (s := pointPassed s) (by rwa [hbaton]) (by rwa [hbaton])
      (by rwa [hbaton]) hserving b hmissing).fencedFor
    exact ⟨hfenced, hcause⟩

end Sys2Proof.Machine
end

section
/-!
PROOFS. False starts: the end of the confirmation window, RESYNC, SYNCED, and the SB that lifts a fence (R211, R212, R214,
R215).
-/

namespace Sys2Proof.Machine

/-! ### The end of the confirmation window (R211, R212) -/

theorem Sends.baton {s t : State} (h : Sends s t) : t.baton = s.baton := by
  obtain ⟨_, _, rfl⟩ := h
  rfl

theorem sends_sendResync (s : State) (b : Nat) : Sends s (sendResync s b) := by
  simp only [sendResync]
  split
  · exact sendBaton_sends s true b _
  · exact .refl s

theorem settlePmask_keeps (s : State) : (settlePmask s).baton.st = s.baton.st ∧ (settlePmask s).baton.epoch = s.baton.epoch := by
  simp only [settlePmask]
  split
  · exact ⟨rfl, rfl⟩
  · exact ⟨rfl, rfl⟩

theorem settleConfirm_of_idle {s : State} (h : s.baton.st = .idle) : settleConfirm s = s := by
  rw [settleConfirm, if_neg (by simp [h])]

/-- A false start's fence leaves a baton that is IDLE, and the epoch. -/
theorem baton_fence_falseStart {s : State} (h : s.baton.st = .idle) (b : Nat) :
    (fence s b .falseStart).baton.st = .idle ∧ (fence s b .falseStart).baton.epoch = s.baton.epoch := by
  simp only [fence]
  split
  · exact ⟨h, rfl⟩
  · by_cases hf : FencedFor .falseStart s b
    · rw [setFence_of_fenced hf]; exact ⟨h, rfl⟩
    · have hidle : (fencedState s b .falseStart).baton.st = .idle := h
      obtain ⟨x, hstaging⟩ := settleStaging_frame (fencedState s b .falseStart)
      rw [setFence_of_new (Bool.eq_false_iff.2 (mt (fencedFor_iff .falseStart s b).2 hf)), 
        if_pos (by decide), settleConfirm_of_idle hidle,        (settlePmask_keeps _).1, (settlePmask_keeps _).2, hstaging]
      exact ⟨h, rfl⟩

theorem baton_falseStart {s : State} (h : s.baton.st = .idle) (b : Nat) (e : Option (BitVec 4)) :
    (falseStart s b e).baton.st = .idle ∧ (falseStart s b e).baton.epoch = s.baton.epoch := by
  simp only [falseStart]
  rw [(sends_sendResync _ b).baton]
  exact baton_fence_falseStart (by exact h) b

/-- The serving members without a matching DONE. -/
def unconfirmed (s : State) : List Nat := s.baton.members.filter (fun m => s.serving m && !s.baton.dones.contains m)

theorem mem_unconfirmed {s : State} {b : Nat} :
    b ∈ unconfirmed s ↔ b ∈ s.baton.members ∧ s.serving b = true ∧ b ∉ s.baton.dones := by
  simp [unconfirmed]

/-- The epoch of a DONE that did not match, for the event of a false start. -/
def wrongEpoch (s : State) (m : Nat) : Option (BitVec 4) :=
  (s.baton.wrongDone.find? (fun p => decide (p.1 = m))).map Prod.snd

/-- The confirmation window is over. -/
def windowOver (s : State) : State :=
  { s with baton := { s.baton with st := .idle, members := [], dones := [], wrongDone := [] } }

theorem confirmTimeout_of_confirming {s : State} (h : s.baton.st = .confirming) :
    confirmTimeout s = (windowOver s).each (unconfirmed s) (fun t m => falseStart t m (wrongEpoch s m)) := by
  rw [confirmTimeout]
  exact if_neg (not_not_intro h)

theorem falseStart_fences (e : Nat → Option (BitVec 4)) (t : State) (m : Nat) :
    ∃ v : State, v.standing = t.standing ∧ (falseStart t m (e m)).standing = (fence v m .falseStart).standing :=
  ⟨_, funext fun n => standing_post t 0 m .falseStart none _ _ 0 n, funext fun n => (sends_sendResync _ m).standing n⟩

theorem confirmTimeout_fences {s : State} (hs : Running s) (hst : s.baton.st = .confirming) :
    ∃ t, exec .confirmTimeout s = .next t ∧ t.baton.st = .idle ∧ t.baton.epoch = s.baton.epoch ∧
      (∀ b ∈ s.baton.members, b ≠ 0 → s.serving b = true → b ∉ s.baton.dones →
        (t.unit b).health.fenced = true ∧ (t.unit b).health.cause = 9 ∧ (t.unit b).health.epochFence = true ∧
        (t.unit b).member = .falseStart) ∧
      (∀ b, (b ∉ s.baton.members ∨ s.serving b = false ∨ b ∈ s.baton.dones) →
        (t.unit b).health.fenced = (s.unit b).health.fenced ∧ (t.unit b).member = (s.unit b).member) ∧
      ((∀ b ∈ s.baton.members, s.serving b = true → b ∈ s.baton.dones) → t.units = s.units ∧ t.mem = s.mem ∧ t.out = s.out) := by
  refine ⟨_, live_of_running _ hs, ?_⟩
  rw [confirmTimeout_of_confirming hst]
  have hbaton := each_inv (fun t => t.baton.st = .idle ∧ t.baton.epoch = s.baton.epoch) _
    (fun t m h => (baton_falseStart h.1 m (wrongEpoch s m)).imp_right (·.trans h.2)) (unconfirmed s) (windowOver s) ⟨rfl, rfl⟩
  refine ⟨hbaton.1, hbaton.2, fun b hb _ hserve hdone => ?_, fun b hb => ?_, fun hall => ?_⟩
  · have hfree : ∀ n ∈ unconfirmed s, ((windowOver s).unit n).health.fenced = false := fun n hn => by
      have hserve := (mem_unconfirmed.1 hn).2.1
      simp only [State.serving, Bool.and_eq_true, Bool.not_eq_true'] at hserve
      exact hserve.2
    obtain ⟨u, hu⟩ := fencedAs_each (falseStart_fences (wrongEpoch s)) hfree b (mem_unconfirmed.2 ⟨hb, hserve, hdone⟩)
    exact ⟨congrArg (·.1) hu, congrArg (·.2.2.1) hu, congrArg (·.2.1) hu, congrArg (·.2.2.2.1) hu⟩
  · have hnot : b ∉ unconfirmed s := fun hmem => by
      obtain ⟨hset, hserve, hdone⟩ := mem_unconfirmed.1 hmem
      rcases hb with hb | hb | hb
      · exact hb hset
      · rw [hb] at hserve; cases hserve
      · exact hdone hb
    have hsame := standing_each_of_notMem (falseStart_fences (wrongEpoch s)) (windowOver s) hnot
    exact ⟨congrArg (·.1) hsame, congrArg (·.2.2.2.1) hsame⟩
  · have hnone : unconfirmed s = [] := List.eq_nil_iff_forall_not_mem.2 fun b hb => by
      obtain ⟨hset, hserve, hdone⟩ := mem_unconfirmed.1 hb
      exact hdone (hall b hset hserve)
    rw [hnone]
    exact ⟨rfl, rfl, rfl⟩

/-! ### RESYNC at the unit (R214) -/

/-- The slots of a unit that takes RESYNC: those staged where it acknowledged the SEQ. -/
def resyncFiles (u : UnitSt) (seq : BitVec 8) : Files := if seq ≠ 0 ∧ u.ackSeq = seq then u.files.commitBooks else u.files

/-- The unit behind RESYNC; a tracker holds no table. -/
def resynced (s : State) (b : Nat) (m : BitVec 128) : UnitSt :=
  if batonKind b then
    { s.unit b with
      ftab := s.tables.ftActive, lmap := committedMap s, files := resyncFiles (s.unit b) (mSeq m) }.withEpoch (mEpoch m)
  else s.unit b

/-- SYNCED of a unit. -/
def syncedMsg (s : State) (b : Nat) (m : BitVec 128) : BitVec 128 :=
  batonMsg 0x29 (mSeq m) (mEpoch m) b (mLap m) false false
    (digestOf b s.tables.ftActive (committedMap s) (resyncFiles (s.unit b) (mSeq m)).cbActive)

theorem memberResync_of_falseStart {s : State} {b : Nat} (h : (s.unit b).member = .falseStart) (m : BitVec 128) :
    memberResync s b m = sendBaton (s.setUnit b (resynced s b m)) false b (syncedMsg s b m) := by
  rw [memberResync]
  exact if_pos h

theorem memberResync_of_other {s : State} {b : Nat} (h : (s.unit b).member ≠ .falseStart) (m : BitVec 128) :
    memberResync s b m = s := by
  rw [memberResync]
  exact if_neg h

/-! ### SYNCED at MG (R215) -/

/-- The digest that MG expects in SYNCED. -/
def expectedDigest (s : State) (b : Nat) : BitVec 32 :=
  digestOf b s.tables.ftActive (committedMap s) (s.unit b).files.cbActive

/-- A mismatch counted, before MG answers it. -/
def mismatched (s : State) (b : Nat) (m : BitVec 128) : State :=
  (s.post 0 b .resyncFail none (wordOf 32 ((s.unit b).health.mismatches + 1)) (expectedDigest s b) (mVal m)).onUnit b
    (fun v => { v with health := { v.health with mismatches := (s.unit b).health.mismatches + 1 } })

section
variable {s : State} {b : Nat} {m : BitVec 128} (hb : mBib m = b) (hpos : b ≠ 0) (hfenced : (s.unit b).health.fenced = true)
  (hepoch : (s.unit b).health.epochFence = true)
include hb hpos hfenced hepoch

theorem mgSynced_of_match (hval : mVal m = expectedDigest s b) (he : mEpoch m = s.baton.epoch) :
    mgSynced s m = s.setUnit b { s.unit b with
      health := { (s.unit b).health with syncedAt := some s.now, mismatches := 0 } } := by
  subst hb
  have hgo : (!((s.unit (mBib m)).health.fenced && (s.unit (mBib m)).health.epochFence && decide (0 < mBib m))) = false := by
    simp [hfenced, hepoch, Nat.pos_of_ne_zero hpos]
  have hgood : (mVal m = digestOf (mBib m) s.tables.ftActive (committedMap s) (s.unit (mBib m)).files.cbActive) := hval
  simp only [mgSynced, hgo, Bool.false_eq_true, if_false, decide_eq_true hgood, decide_eq_true he, Bool.and_self, if_true]
  rfl

theorem mgSynced_of_mismatch (h : mVal m ≠ expectedDigest s b ∨ mEpoch m ≠ s.baton.epoch) :
    mgSynced s m = if (s.unit b).health.mismatches + 1 < 3 then sendResync (mismatched s b m) b
      else fence (mismatched s b m) b .resync := by
  subst hb
  have hgo : (!((s.unit (mBib m)).health.fenced && (s.unit (mBib m)).health.epochFence && decide (0 < mBib m))) = false := by
    simp [hfenced, hepoch, Nat.pos_of_ne_zero hpos]
  have hbad : (decide (mVal m = digestOf (mBib m) s.tables.ftActive (committedMap s) (s.unit (mBib m)).files.cbActive) &&
      decide (mEpoch m = s.baton.epoch)) = false := by
    rcases h with h | h
    · rw [expectedDigest] at h
      rw [decide_eq_false h, Bool.false_and]
    · rw [decide_eq_false h, Bool.and_false]
  simp only [mgSynced, hgo, Bool.false_eq_true, if_false, hbad]
  rfl

end

theorem mismatched_frame (s : State) (b : Nat) (m : BitVec 128) : ∃ u, mismatched s b m = { s with units := u } := ⟨_, rfl⟩

theorem unit_mismatched (s : State) {b : Nat} (hpos : b ≠ 0) (m : BitVec 128) : (mismatched s b m).unit b =
    { s.unit b with health := { (s.unit b).health with mismatches := (s.unit b).health.mismatches + 1 } } := by
  rw [mismatched, State.unit_onUnit_self, State.unit_post_ne _ _ _ _ _ _ _ hpos]

theorem committedMap_congr {s t : State} (h : t.tables = s.tables) : committedMap t = committedMap s := by
  simp only [committedMap, State.layer, h]

/-- RESYNC to a unit (R214). -/
def resyncMsg (s : State) (b : Nat) : BitVec 128 :=
  batonMsg 0x28 s.baton.boundarySeq s.baton.epoch b s.pace.lap false false
    (digestOf b s.tables.ftActive (committedMap s)
      (if s.baton.boundarySeq ≠ 0 ∧ (s.unit b).ackSeq = s.baton.boundarySeq then (s.unit b).files.commitBooks
        else (s.unit b).files).cbActive)

theorem sendResync_of_ready {s : State} {b : Nat} (hs : Running s) (hheld : (s.unit b).held = true)
    (hreset : (s.unit b).health.resetting = false) : sendResync s b = sendBaton s true b (resyncMsg s b) := by
  rw [sendResync]
  refine (if_pos (by simp [hheld, hreset, show s.mg.fatal = false from hs])).trans ?_
  rw [resyncMsg]
  split <;> rfl

theorem resyncMsg_mismatched (s : State) {b : Nat} (hpos : b ≠ 0) (m : BitVec 128) :
    resyncMsg (mismatched s b m) b = resyncMsg s b := by
  have htables : (mismatched s b m).tables = s.tables := rfl
  simp only [resyncMsg, unit_mismatched s hpos, committedMap_congr htables, htables]
  rfl

/-! ### An SB lifts the fence of a resynchronised unit (R215) -/

/-- The units stand as they did. -/
def Stand (s t : State) : Prop := t.standing = s.standing

theorem stand_of_units {s t : State} (h : t.units = s.units) : Stand s t := by
  unfold Stand State.standing State.unit
  rw [h]

theorem Stand.trans {s t v : State} (h : Stand s t) (h' : Stand t v) : Stand s v := Eq.trans h' h

theorem SameButWork.stand {s t : State} (h : SameButWork s t) : Stand s t := funext h.standing

theorem stand_post (s : State) (p b : Nat) (v : Ev) (c : Option Nat) (x y z : BitVec 32) : Stand s (s.post p b v c x y z) :=
  funext (standing_post s p b v c x y z)

theorem stand_each {α : Type} {f : State → α → State} (h : ∀ t a, Stand t (f t a)) (s : State) (l : List α) :
    Stand s (s.each l f) :=
  each_inv (Stand s) f (fun t a ht => ht.trans (h t a)) l s rfl

theorem stand_sendStage (s : State) (b : Nat) : Stand s (sendStage s b) := by
  rw [sendStage_eq]
  refine funext fun n => ((sendBaton_sends _ true b (stageMsg s b)).standing n).trans ?_
  exact standing_onUnit (f := fun u => u.withStaged s.baton) (fun _ => rfl) s b n

/-- The unit whose fence is lifted. -/
def UnitSt.unfenced (u : UnitSt) : UnitSt :=
  { u with
    health := { u.health with fenced := false, epochFence := false, syncedAt := none, mismatches := 0 }, member := .steady }

theorem stand_liftFence (s : State) (b : Nat) :
    Stand ((s.post 0 b .unfence none ((s.unit b).health.cause.setWidth 32) 0 0).onUnit b UnitSt.unfenced) (liftFence s b) := by
  rw [liftFence]
  dsimp only
  split
  · exact stand_sendStage _ b
  · rfl

theorem standing_liftFence_ne (s : State) {b n : Nat} (hn : n ≠ b) : (liftFence s b).standing n = s.standing n := by
  rw [stand_liftFence s b, State.standing, State.unit_onUnit_ne _ _ hn]
  exact standing_post s 0 b .unfence none _ 0 0 n

/-- The unit is a member without a fence. -/
def Rejoined (s : State) (b : Nat) : Prop := (s.unit b).health.fenced = false ∧ (s.unit b).member = .steady

theorem rejoined_congr {s t : State} {b : Nat} (h : t.standing b = s.standing b) (hs : Rejoined s b) : Rejoined t b :=
  ⟨(congrArg (·.1) h).trans hs.1, (congrArg (·.2.2.2.1) h).trans hs.2⟩

theorem rejoined_liftFence (s : State) (b : Nat) : Rejoined (liftFence s b) b := by
  refine rejoined_congr (congrFun (stand_liftFence s b) b) ?_
  rw [Rejoined, State.unit_onUnit_self]
  exact ⟨rfl, rfl⟩

theorem rejoined_liftSynced {s : State} {b c : Nat} (hb : b ∈ allBibs) (hsynced : (s.unit b).health.syncedAt = some c)
    (hc : c < s.now) : Rejoined (liftSynced s) b := by
  refine each_of_mem (fun _ => True) (fun n t => Rejoined t n) (fun _ _ _ h => h) (fun t n _ _ => rejoined_liftFence t n)
    (fun t n k _ hk => ?_) trivial b (List.mem_filter.2 ⟨hb, by simp [hsynced, hc]⟩)
  rcases eq_or_ne k n with rfl | hne
  · exact rejoined_liftFence t k
  · exact rejoined_congr (standing_liftFence_ne t hne) hk

theorem stand_ringBell (s : State) (q : Nat) (tail : BitVec 16) (agent : BitVec 11) (mine : Bool) :
    Stand s (ringBell s q tail agent mine) := by
  simp only [ringBell]
  split
  · refine Stand.trans (t := s.setQueue q { s.queue q with tail := tail }) (stand_of_units rfl) ?_
    exact (closeUnissued_sameButQueues _ q).sameButWork.stand
  · unfold discardBell
    exact Stand.trans (t := s.onQueue q (fun x => { x with dberr := true, dberrAt := s.now })) (stand_of_units rfl)
      (stand_post _ 0 0 .doorbell _ _ _ _)

theorem stand_fireBackground (s : State) (entry : BitVec 9) (action : BitVec 8) (arg : BitVec 16) :
    Stand s (fireBackground s entry action arg) := by
  unfold fireBackground
  split <;> rfl

theorem stand_fireAction (s : State) (entry : BitVec 9) (action : BitVec 8) (arg : BitVec 16) :
    Stand s (fireAction s entry action arg) := by
  unfold fireAction
  split
  · exact Stand.trans (t := s.draw.2) (stand_of_units rfl) (stand_ringBell _ _ _ _ _)
  · rw [requestBaton_eq]; rfl
  · simp only [snapshotAction]
    split
    · rfl
    · split <;> rfl
  · exact stand_fireBackground s _ _ _
  · exact stand_fireBackground s _ _ _
  · exact stand_fireBackground s _ _ _
  · exact stand_post s 0 0 .mark none _ _ _
  · rfl

theorem stand_runStartList (s : State) : Stand s (runStartList s) := by
  refine stand_each (fun t p => ?_) s _
  split
  · exact stand_fireAction ..
  · rfl

theorem stand_runBuiltIn (s : State) : Stand s (runBuiltIn s) := by
  have hfire := ((stand_fireAction s 0x103 3 0).trans (stand_fireAction _ 0x104 4 0)).trans (stand_fireAction _ 0x106 6 0)
  simp only [runBuiltIn]
  split
  · split
    · exact hfire.trans (stand_fireAction ..)
    · exact hfire
  · rfl

theorem stand_releaseLapwaits (s : State) (b : Nat) : Stand s (releaseLapwaits s b) := by
  unfold releaseLapwaits
  split
  · exact funext fun n => standing_onUnit (f := fun u => { u with issued := u.issued.map (endLapwait s b) }) (fun _ => rfl) s b n
  · rfl

/-- Behind the fences that it lifts, an SB leaves every unit standing as it does. -/
theorem stand_takeSplit (s : State) (split : BitVec 8) (phase : BitVec 2) :
    Stand (liftSynced (applyPmask (splitTaken s split phase))) (takeSplit s split phase) := by
  have hbegin : ∀ t : State, Stand t (beginWaiting t) := fun t => by
    unfold beginWaiting
    split <;> rfl
  exact (((hbegin _).trans (stand_runStartList _)).trans (stand_runBuiltIn _)).trans (stand_each stand_releaseLapwaits _ _)

theorem exec_synced {s : State} {m : BitVec 128} (hs : Running s) (hok : batonMsgOk m = true) (ht : mType m = 0x29) :
    exec (.synced m) s = .next (mgSynced s m) := by
  rw [exec, execSynced, live_of_running _ hs, toMg_of_type hok ht]
  simp [mgTakes, ht]

/-- Settles O17, from the end of the window, RESYNC, SYNCED and the SB behind it. -/
theorem falseStartsAreFencedAndResynchronised : Obligations.FalseStartsAreFencedAndResynchronised := by
  unfold Obligations.FalseStartsAreFencedAndResynchronised
  refine ⟨fun s hs hst => confirmTimeout_fences hs hst, fun s b m hs hheld hb hrange hbib hok => ?_⟩
  have hpos : b.toNat ≠ 0 := fun h => hb (BitVec.eq_of_toNat_eq h)
  refine ⟨fun ht hmember => ?_, fun ht hmember => ?_,
    fun ht hfenced hepoch => ⟨fun hval he => ?_, fun hbad hfew => ?_, fun hbad htwo hcause => ?_⟩,
    fun c split phase hsynced hc => ?_⟩
  · have hexec : exec (.resync b m) s = .next (sendBaton (s.setUnit b.toNat (resynced s b.toNat m)) false b.toNat
        (syncedMsg s b.toNat m)) := by
      rw [exec, execResync, live_of_running _ hs, toUnit_of_type hok ht, unitTakes_resync hheld hbib ht,
        memberResync_of_falseStart hmember]
    rw [hexec]
    refine ⟨fun hnear => ?_, fun hfar => ⟨_, rfl, ?_⟩⟩
    · rw [sendBaton_of_near hnear]; rfl
    · have hsend := sendBaton_setUnit s b.toNat (resynced s b.toNat m) false b.toNat (syncedMsg s b.toNat m)
      rw [batonOut, hfar] at hsend
      exact hsend
  · rw [exec, execResync, live_of_running _ hs, toUnit_of_type hok ht, unitTakes_resync hheld hbib ht,
      memberResync_of_other hmember]
  · rw [exec_synced hs hok ht, mgSynced_of_match hbib hpos hfenced hepoch hval he]
  · have hexec : exec (.synced m) s = .next (sendResync (mismatched s b.toNat m) b.toNat) := by
      rw [exec_synced hs hok ht, mgSynced_of_mismatch hbib hpos hfenced hepoch hbad, if_pos (by omega)]
    have hunit := unit_mismatched s hpos m
    obtain ⟨l, o, hsend⟩ := sends_sendResync (mismatched s b.toNat m) b.toNat
    obtain ⟨u, hframe⟩ := mismatched_frame s b.toNat m
    refine ⟨_, hexec, ?_, ?_, fun hreset hnear => ?_⟩
    · rw [hsend]
      exact congrArg UnitSt.health hunit
    · rw [hsend, hframe]
    · rw [sendResync_of_ready (s := mismatched s b.toNat m) hs (by rw [hunit]; exact hheld) (by rw [hunit]; exact hreset),
        resyncMsg_mismatched s hpos]
      have hout := mem_out_sendBaton (mismatched s b.toNat m) true b.toNat (resyncMsg s b.toNat)
      rwa [batonOut_of_near hnear] at hout
  · have hunit := unit_mismatched s hpos m
    have hnew : ¬ FencedFor .resync (mismatched s b.toNat m) b.toNat := fun h => by
      have hseven := h.2.1
      rw [hunit] at hseven
      exact absurd (hcause.symm.trans hseven) (by decide)
    have hstand := standing_fence_self (.inr ⟨by rw [hunit]; exact hcause ▸ (by decide), by decide⟩) hnew
    refine ⟨_, by
      rw [exec_synced hs hok ht, mgSynced_of_mismatch hbib hpos hfenced hepoch hbad, if_neg (by omega)], ?_⟩
    exact ⟨congrArg (·.1) hstand, congrArg (·.2.2.1) hstand, congrArg (·.2.1) hstand⟩
  · obtain ⟨_, _, _, hmask⟩ := applyPmask_frame (splitTaken s split phase)
    refine ⟨_, live_of_running _ hs, ?_⟩
    refine rejoined_congr (congrFun (stand_takeSplit s split phase) b.toNat) ?_
    exact rejoined_liftSynced (List.mem_range.2 hrange) (by rw [hmask]; exact hsynced) (by rw [hmask]; exact hc)

end Sys2Proof.Machine
end

section
/-!
PROOFS. What an LB turns beside the baton and the pace bus, and the operations of an LB that leave it (R195, R207, R212).
-/

namespace Sys2Proof.Machine

/-! ### The clock, the committed format tables, and where a member stands -/

/-- Where a unit stands in the baton protocol. -/
def UnitSt.place (u : UnitSt) : Member × BitVec 4 := (u.member, u.epoch)

def placeIn (t : Tab UnitSt) (n : Nat) : Member × BitVec 4 := (tget {} t n).place

/-- What an LB turns beside the baton and the pace bus: the clock, the committed format tables and the place of unit n. -/
def State.course (s : State) (n : Nat) : Nat × Tab (BitVec 32) × Member × BitVec 4 :=
  (s.now, s.tables.ftActive, placeIn s.units n)

section
variable (n : Nat)

@[simp] theorem course_mk (a b c d e f g h i j k l m o p q) :
    State.course ⟨a, b, c, d, e, f, g, h, i, j, k, l, m, o, p, q⟩ n = (b, k.ftActive, placeIn m n) := by simp [State.course]

@[simp] theorem course_triple (s : State) : (s.now, s.tables.ftActive, placeIn s.units n) = s.course n := by simp [State.course]

@[simp] theorem course_ite {c : Prop} [Decidable c] (s t : State) :
    (if c then s else t).course n = if c then s.course n else t.course n := by split <;> rfl

@[simp] theorem course_fst_ite {α : Type} {c : Prop} [Decidable c] (x y : State × α) :
    (if c then x else y).1.course n = if c then x.1.course n else y.1.course n := by split <;> rfl

@[simp] theorem course_foldl {α : Type} (l : List α) (f : State → α → State) (s : State)
    (h : ∀ t a, (f t a).course n = t.course n) : (l.foldl f s).course n = s.course n := by
  induction l generalizing s with
  | nil => rfl
  | cons a l ih => rw [List.foldl_cons, ih, h]

@[simp] theorem course_each {α : Type} (s : State) (l : List α) (f : State → α → State)
    (h : ∀ t a, (f t a).course n = t.course n) : (s.each l f).course n = s.course n := course_foldl n l f s h

@[simp] theorem course_onUnit (s : State) (b : Nat) {f : UnitSt → UnitSt} (h : ∀ u, (f u).place = u.place) :
    (s.onUnit b f).course n = s.course n := by
  refine congrArg (fun p => (s.now, s.tables.ftActive, p)) ?_
  rcases eq_or_ne n b with rfl | hn
  · exact (congrArg UnitSt.place (State.unit_onUnit_self s n f)).trans (h _)
  · exact congrArg UnitSt.place (State.unit_onUnit_ne s f hn)

@[simp] theorem place_hold (u : UnitSt) (e : Event) : (u.hold e).place = u.place :=
  congrArg (fun x => (x.2.2.2.1, x.2.2.2.2)) (standing_hold u e)

@[simp] theorem course_post (s : State) (p b : Nat) (v : Ev) (c : Option Nat) (x y z : BitVec 32) :
    (s.post p b v c x y z).course n = s.course n := course_onUnit n s p (fun u => place_hold u _)

theorem Sends.course {s t : State} (h : Sends s t) : t.course n = s.course n := by
  obtain ⟨_, _, rfl⟩ := h
  rfl

@[simp] theorem course_sendBaton (s : State) (toUnit : Bool) (b : Nat) (m : BitVec 128) :
    (sendBaton s toUnit b m).course n = s.course n := (sendBaton_sends s toUnit b m).course n

@[simp] theorem course_markDue (s : State) : (markDue s).course n = s.course n := by
  obtain ⟨_, h⟩ := markDue_frame s
  rw [h]; rfl

@[simp] theorem course_settleStaging (s : State) : (settleStaging s).course n = s.course n := by
  obtain ⟨_, h⟩ := settleStaging_frame s
  rw [h]; rfl

end

/-! ### The operations of an LB that leave them -/

section
variable (n : Nat)

@[simp] theorem course_leaveBaton (s : State) (b : Nat) : (leaveBaton s b).course n = s.course n := by simp [leaveBaton]

@[simp] theorem course_setQueue (s : State) (q : Nat) (v : Queue) : (s.setQueue q v).course n = s.course n := by
  simp [State.setQueue]

@[simp] theorem course_writeSlot (s : State) (ctx slot : Nat) (bs : List Byte) :
    (writeSlot s ctx slot bs).course n = s.course n := by
  simp [writeSlot]

@[simp] theorem course_writeSpad (s : State) (a : Nat) (bs : List Byte) : (s.writeSpad a bs).course n = s.course n := by
  simp [State.writeSpad]

@[simp] theorem course_writeRecord (s : State) (q : Nat) (bs : List Byte) (k : Nat) :
    (writeRecord s q bs k).course n = s.course n := by
  simp [writeRecord]

@[simp] theorem course_closeNext (s : State) (q : Nat) : (closeNext s q).course n = s.course n := by simp [closeNext]

@[simp] theorem course_closeVisible (k : Nat) (s : State) (q : Nat) : (closeVisible k s q).course n = s.course n := by
  induction k generalizing s with
  | zero => rfl
  | succ k ih =>
    rw [closeVisible]
    split
    · rw [ih, course_closeNext]
    · rfl

@[simp] theorem course_closeUnissued (s : State) (q : Nat) : (closeUnissued s q).course n = s.course n :=
  course_closeVisible n 32768 s q

@[simp] theorem course_answerClosing (s : State) (p : Nat → Bool) : (answerClosing s p).course n = s.course n := by
  simp [answerClosing]

@[simp] theorem course_setContext (s : State) (k : Nat) (v : Context) : (s.setContext k v).course n = s.course n := by
  simp [State.setContext]

@[simp] theorem course_settleContext (s : State) (c : Nat) : (settleContext s c).course n = s.course n := by
  simp [settleContext]

@[simp] theorem course_settleOwner (s : State) (q : Nat) : (settleOwner s q).course n = s.course n := by
  unfold settleOwner
  split <;> simp

@[simp] theorem course_settleQueue (s : State) (q : Nat) : (settleQueue s q).course n = s.course n := by simp [settleQueue]

@[simp] theorem course_dropIssued (s : State) (b : Nat) (i : Issued) : (dropIssued s b i).course n = s.course n :=
  course_onUnit n s b (fun _ => rfl)

@[simp] theorem course_recordByMg (s : State) (b : Nat) (i : Issued) (st : Status) (par : Bool) :
    (recordByMg s b i st par).course n = s.course n := by
  simp [recordByMg]

@[simp] theorem course_onStream (s : State) (e : Nat) (f : Stream → Stream) : (s.onStream e f).course n = s.course n := rfl

@[simp] theorem course_haltEntry (s : State) (k : Nat) (st : Status) : (haltEntry s k st).course n = s.course n := by
  simp [haltEntry]

@[simp] theorem course_haltAll (s : State) (i : Issued) (st : Status) : (haltAll s i st).course n = s.course n := by
  simp [haltAll]

@[simp] theorem course_settleEntry (s : State) (k : Nat) : (settleEntry s k).course n = s.course n := by simp [settleEntry]

@[simp] theorem course_abortByMg (s : State) (b : Nat) (i : Issued) : (abortByMg s b i).course n = s.course n := by
  unfold abortByMg
  split <;> simp

@[simp] theorem course_abortParked (s : State) (q : Nat) : (abortParked s q).course n = s.course n := by
  unfold abortParked
  split <;> simp

@[simp] theorem course_onQueue (s : State) (q : Nat) (f : Queue → Queue) : (s.onQueue q f).course n = s.course n := by
  simp [State.onQueue]

@[simp] theorem course_returnInbox (s : State) (b : Nat) : (returnInbox s b).course n = s.course n := by
  rw [returnInbox, course_onUnit n]
  · exact course_foldl n _ _ _ (fun t a => course_onQueue n t a.queue _)
  · exact fun _ => rfl

@[simp] theorem course_abortUnit (s : State) (b : Nat) : (abortUnit s b).course n = s.course n := by
  rw [abortUnit, course_onUnit n]
  · simp
  · exact fun _ => rfl

@[simp] theorem course_settlePmask (s : State) : (settlePmask s).course n = s.course n := by simp [settlePmask]

@[simp] theorem course_setTracked (s : State) (k : Nat) (v : Tracked) : (s.setTracked k v).course n = s.course n := by
  simp [State.setTracked]

@[simp] theorem course_settleConfirm (s : State) : (settleConfirm s).course n = s.course n := by simp [settleConfirm]

@[simp] theorem course_queueRecord (s : State) (rtype : BitVec 8) (body : BitVec 384) :
    (queueRecord s rtype body).course n = s.course n := by
  simp [queueRecord]

@[simp] theorem course_postMg (s : State) (v : Ev) (a0 a1 a2 : BitVec 32) : (s.postMg v a0 a1 a2).course n = s.course n := by
  simp [State.postMg]

@[simp] theorem course_sendStage (s : State) (b : Nat) : (sendStage s b).course n = s.course n := by
  rw [sendStage_eq, course_sendBaton, course_onUnit n]
  exact fun _ => rfl

@[simp] theorem course_applyPmask (s : State) : (applyPmask s).course n = s.course n := by
  simp only [applyPmask]
  (repeat' split) <;> simp

@[simp] theorem course_draw (s : State) : (s.draw).2.course n = s.course n := by simp [State.draw]

@[simp] theorem course_discardBell (s : State) (q : Nat) (tail : BitVec 16) (agent : BitVec 11) :
    (discardBell s q tail agent).course n = s.course n := by
  simp [discardBell]

@[simp] theorem course_ringBell (s : State) (q : Nat) (tail : BitVec 16) (agent : BitVec 11) (mine : Bool) :
    (ringBell s q tail agent mine).course n = s.course n := by
  simp [ringBell]

@[simp] theorem course_requestBaton (s : State) : (requestBaton s).course n = s.course n := by simp [requestBaton]

@[simp] theorem course_snapshotAction (s : State) : (snapshotAction s).course n = s.course n := by
  unfold snapshotAction
  split <;> simp

@[simp] theorem course_fireBackground (s : State) (entry : BitVec 9) (action : BitVec 8) (arg : BitVec 16) :
    (fireBackground s entry action arg).course n = s.course n := by
  simp [fireBackground]

@[simp] theorem course_fireAction (s : State) (entry : BitVec 9) (action : BitVec 8) (arg : BitVec 16) :
    (fireAction s entry action arg).course n = s.course n := by
  unfold fireAction
  split <;> simp

@[simp] theorem course_runBuiltIn (s : State) : (runBuiltIn s).course n = s.course n := by simp [runBuiltIn]

@[simp] theorem course_runStartList (s : State) : (runStartList s).course n = s.course n := by simp [runStartList]

@[simp] theorem course_beginWaiting (s : State) : (beginWaiting s).course n = s.course n := by simp [beginWaiting]

@[simp] theorem course_releaseLapwaits (s : State) (b : Nat) : (releaseLapwaits s b).course n = s.course n := by
  unfold releaseLapwaits
  split
  · exact course_onUnit n s b (fun _ => rfl)
  · rfl

@[simp] theorem course_paceFault (s : State) (row : Nat) (lap : BitVec 48) : (paceFault s row lap).course n = s.course n := by
  simp [paceFault]

@[simp] theorem course_stageAll (s : State) : (stageAll s).course n = s.course n := by simp [stageAll]

@[simp] theorem course_toFar (s : State) (type : Nat) (seq : BitVec 8) (lap : BitVec 48) (rpt par : Bool) (val : BitVec 32) :
    (toFar s type seq lap rpt par val).course n = s.course n := by
  simp [toFar]

@[simp] theorem course_deferAll (s : State) : (deferAll s).course n = s.course n := by simp [deferAll]

@[simp] theorem course_rebuild (s : State) : (rebuild s).course n = s.course n := by unfold rebuild; split <;> simp

@[simp] theorem course_postLapSummary (s : State) : (postLapSummary s).course n = s.course n := by
  unfold postLapSummary
  split <;> simp

@[simp] theorem course_acceptRequest (s : State) (l : Nat) : (acceptRequest s l).1.course n = s.course n := by
  simp [acceptRequest]

@[simp] theorem course_dropReturn (s : State) : (dropReturn s).course n = s.course n := by simp [dropReturn]

@[simp] theorem course_fallbackCheck (s : State) (k : Nat) (prev : Bool) :
    (fallbackCheck s k prev).course n = s.course n := by
  simp [fallbackCheck]

@[simp] theorem course_scanEntry (commit : Bool) (s : State) (k : Nat) : (scanEntry commit s k).course n = s.course n := by
  simp [scanEntry]

@[simp] theorem course_setWatch (s : State) (k : Nat) (v : Watch) : (s.setWatch k v).course n = s.course n := by
  simp [State.setWatch]

@[simp] theorem course_stageEntry (s : State) (k : Nat) : (stageEntry s k).course n = s.course n := by simp [stageEntry]

@[simp] theorem course_stumbleEntry (ctx : BitVec 10) (layer : BitVec 12) (s : State) (k : Nat) :
    (stumbleEntry ctx layer s k).course n = s.course n := by
  simp [stumbleEntry]

@[simp] theorem course_signalStumble (s : State) (prev : Bool) : (signalStumble s prev).course n = s.course n := by
  simp [signalStumble]

@[simp] theorem course_closeWatch (s : State) (w : Nat) (prev : Bool) : (closeWatch s w prev).course n = s.course n := by
  simp [closeWatch]

@[simp] theorem course_scanWatch (commit : Bool) (s : State) (w : Nat) : (scanWatch commit s w).course n = s.course n := by
  simp [scanWatch]

@[simp] theorem course_judgeLap (commit : Bool) (s : State) : (judgeLap commit s).course n = s.course n := by simp [judgeLap]

@[simp] theorem course_clearMarks (s : State) : (clearMarks s).course n = s.course n := by simp [clearMarks]

@[simp] theorem course_thresholdEvents (s : State) (k : Nat) : (thresholdEvents s k).course n = s.course n := by
  simp [thresholdEvents]

@[simp] theorem course_followEntry (s : State) (k : Nat) : (followEntry s k).course n = s.course n := by simp [followEntry]

@[simp] theorem course_closeScan (s : State) (rerun : Bool) : (closeScan s rerun).course n = s.course n := by simp [closeScan]

@[simp] theorem course_finishClose (s : State) : (finishClose s).course n = s.course n := by
  unfold finishClose
  split <;> simp

@[simp] theorem course_deferArmed (s : State) : (deferArmed s).course n = s.course n := by simp [deferArmed]

@[simp] theorem course_takeUnannounced (s : State) (lap : BitVec 48) : (takeUnannounced s lap).course n = s.course n := by
  simp [takeUnannounced]

@[simp] theorem course_turnRecords (s : State) (oldLap : BitVec 48) (oldPar rerun : Bool) :
    (turnRecords s oldLap oldPar rerun).course n = s.course n := by
  simp [turnRecords]

@[simp] theorem course_adoptEntry (s : State) (e : Nat) : (adoptEntry s e).course n = s.course n := by
  simp only [adoptEntry]
  split
  · split
    · rw [course_setTracked]
      refine course_foldl n _ _ _ (fun t c => ?_)
      split
      · exact course_onUnit n t _ (fun _ => rfl)
      · rfl
    · rfl
  · rfl

@[simp] theorem course_adoptAll (s : State) : (adoptAll s).course n = s.course n := by simp [adoptAll]

@[simp] theorem course_turnFiles (s : State) : (turnFiles s).course n = s.course n := by
  rw [turnFiles, course_adoptAll]
  exact course_each n _ _ _ (fun t b => course_onUnit n t b (fun _ => rfl))

@[simp] theorem course_turnFinish (s : State) : (turnFinish s).course n = s.course n := by simp [turnFinish]

@[simp] theorem course_dropActions (s : State) : (dropActions s).course n = s.course n := by simp [dropActions]

@[simp] theorem course_clearCorrected (s : State) : (clearCorrected s).course n = s.course n := by
  rw [clearCorrected]
  exact course_each n _ _ _ (fun t b => course_onUnit n t b (fun _ => rfl))

@[simp] theorem course_turnBoundary (s : State) (rerun : Bool) (oldLap : BitVec 48) (oldPar : Bool) (seq : BitVec 8) :
    (turnBoundary s rerun oldLap oldPar seq).course n = s.course n := by
  simp [turnBoundary]

end

end Sys2Proof.Machine
end

section
/-!
PROOFS. An LB: the fences and lifts, the members that commit, the close of the lap, and the turn (R195, R197, R207, R211, R212).
-/

namespace Sys2Proof.Machine

/-! ### What an LB changes of them: a fence, a lift, a unit that commits -/

def State.clock (s : State) : Nat × Tab (BitVec 32) := (s.now, s.tables.ftActive)

def State.place (s : State) (n : Nat) : Member × BitVec 4 := (s.unit n).place

theorem clock_of_course {s t : State} {n : Nat} (h : t.course n = s.course n) : t.clock = s.clock :=
  congrArg (fun x => (x.1, x.2.1)) h

theorem place_of_course {s t : State} {n : Nat} (h : t.course n = s.course n) : t.place n = s.place n := congrArg (·.2.2) h

theorem ftActive_of_clock {s t : State} (h : t.clock = s.clock) : t.tables.ftActive = s.tables.ftActive := congrArg Prod.snd h

/-- A fence that is no EPOCH fence leaves a unit in its place. -/
theorem course_fence_deferred (n : Nat) (s : State) (b : Nat) : (fence s b .deferred).course n = s.course n := by
  simp only [fence]
  split
  · rfl
  · by_cases h : FencedFor .deferred s b
    · rw [setFence_of_fenced h]
    · rw [setFence_of_new (Bool.eq_false_iff.2 (mt (fencedFor_iff .deferred s b).2 h)), if_neg (by decide)]
      simp only [course_settlePmask, course_settleStaging, course_settleConfirm, course_answerClosing, course_abortUnit,
        fencedState, course_leaveBaton]
      rw [course_onUnit n, course_post]
      exact fun _ => rfl

theorem course_deferMissing (n : Nat) (s : State) (l : List Nat) : (deferMissing s l).course n = s.course n := by
  have hfence := fun t => course_each n t l (fun t b => fence t b .deferred) (fun t b => course_fence_deferred n t b)
  simp only [deferMissing, course_ite, hfence, ite_self]
  rw [course_each n _ _ _ (fun t b => by simp), course_deferAll, course_mk, course_triple]

theorem course_passCommit (n : Nat) (s : State) : (passCommit s).course n = s.course n := by
  simp only [passCommit]
  split
  · rfl
  · split
    · simp
    · split
      · simp
      · split
        · rw [course_foldl n _ _ _ (fun t b => by simp)]; simp
        · rw [course_deferMissing]; simp

theorem course_liftFence (n : Nat) (s : State) (b : Nat) : (liftFence s b).course n =
    ((s.post 0 b .unfence none ((s.unit b).health.cause.setWidth 32) 0 0).onUnit b UnitSt.unfenced).course n := by
  rw [liftFence]
  dsimp only
  split
  · exact course_sendStage n _ b
  · rfl

theorem clock_liftSynced (s : State) : (liftSynced s).clock = s.clock :=
  each_inv (fun t => t.clock = s.clock) _ (fun t b ht => (clock_of_course (course_liftFence 0 t b)).trans ht) _ s rfl

/-- A unit whose fence is lifted is STEADY. -/
theorem place_liftFence {s : State} {n : Nat} {e : BitVec 4} (h : s.place n = (.steady, e)) (b : Nat) :
    (liftFence s b).place n = (.steady, e) := by
  have hpost := place_of_course (course_post n s 0 b .unfence none ((s.unit b).health.cause.setWidth 32) 0 0)
  rw [place_of_course (course_liftFence n s b), State.place]
  rcases eq_or_ne n b with rfl | hn
  · rw [State.unit_onUnit_self]
    exact congrArg (fun x => (Member.steady, x.2)) (hpost.trans h)
  · rw [State.unit_onUnit_ne _ _ hn]
    exact hpost.trans h

theorem place_liftSynced {s : State} {n : Nat} {e : BitVec 4} (h : s.place n = (.steady, e)) :
    (liftSynced s).place n = (.steady, e) :=
  each_inv (fun t => t.place n = (.steady, e)) _ (fun _ b ht => place_liftFence ht b) _ s h

/-- What an SB does behind its lifts, and before them. -/
theorem course_takeSplit (n : Nat) (s : State) (split : BitVec 8) (phase : BitVec 2) :
    (takeSplit s split phase).course n = (liftSynced (applyPmask (splitTaken s split phase))).course n ∧
      (applyPmask (splitTaken s split phase)).course n = s.course n := by
  constructor
  · simp only [takeSplit]
    rw [course_foldl n _ _ _ (fun t b => course_releaseLapwaits n t b), course_runBuiltIn, course_runStartList,
      course_beginWaiting]
    rfl
  · rw [course_applyPmask]
    rfl

theorem clock_takeSplit (s : State) (split : BitVec 8) (phase : BitVec 2) : (takeSplit s split phase).clock = s.clock := by
  obtain ⟨hbehind, hbefore⟩ := course_takeSplit 0 s split phase
  rw [clock_of_course hbehind, clock_liftSynced, clock_of_course hbefore]

theorem place_takeSplit {s : State} {n : Nat} {e : BitVec 4} (h : s.place n = (.steady, e)) (split : BitVec 8)
    (phase : BitVec 2) : (takeSplit s split phase).place n = (.steady, e) := by
  obtain ⟨hbehind, hbefore⟩ := course_takeSplit n s split phase
  rw [place_of_course hbehind]
  exact place_liftSynced ((place_of_course hbefore).trans h)

/-! ### The members that commit (R212) -/

theorem memberApply_place (s : State) (b : Nat) (rerun : Bool) :
    (memberApply s b rerun).clock = s.clock ∧ (memberApply s b rerun).place b = (.steady, (s.unit b).epoch + 1) ∧
      ∀ n, n ≠ b → (memberApply s b rerun).place n = s.place n := by
  rw [memberApply]
  refine ⟨Eq.trans (clock_of_course (course_sendBaton 0 _ _ _ _)) rfl, ?_, fun n hn => ?_⟩
  · rw [place_of_course (course_sendBaton b _ _ _ _), State.place, State.unit_setUnit_self]
    rfl
  · rw [place_of_course (course_sendBaton n _ _ _ _), State.place, State.unit_setUnit_ne _ _ hn]
    rfl

theorem clock_applyMembers (s : State) (rerun : Bool) : (applyMembers s rerun).clock = s.clock :=
  each_inv (fun t => t.clock = s.clock) _ (fun t b ht => (memberApply_place t b rerun).1.trans ht) _ s rfl

theorem place_foldl_memberApply (rerun : Bool) {l : List Nat} (hl : l.Nodup) (s : State) (n : Nat) :
    (l.foldl (fun t b => memberApply t b rerun) s).place n = if n ∈ l then (.steady, (s.unit n).epoch + 1) else s.place n := by
  induction l generalizing s with
  | nil => rfl
  | cons b l ih =>
    obtain ⟨hb, hl⟩ := List.nodup_cons.1 hl
    obtain ⟨-, hself, hother⟩ := memberApply_place s b rerun
    rw [List.foldl_cons, ih hl]
    rcases eq_or_ne n b with rfl | hn
    · rw [if_neg hb, if_pos List.mem_cons_self, hself]
    · have hepoch : ((memberApply s b rerun).unit n).epoch = (s.unit n).epoch := congrArg Prod.snd (hother n hn)
      simp only [List.mem_cons, hn, false_or, hepoch, hother n hn]

theorem place_applyMembers {s : State} {n : Nat} (hn : n ∈ allBibs) (hkind : batonKind n = true) (hnear : isFar n = false)
    {e : BitVec 4} (h : s.place n = (.armed, e)) (rerun : Bool) : (applyMembers s rerun).place n = (.steady, e + 1) := by
  have hmember : (s.unit n).member = .armed := congrArg Prod.fst h
  have hepoch : (s.unit n).epoch = e := congrArg Prod.snd h
  have hnodup : allBibs.Nodup := List.nodup_range
  rw [applyMembers, place_foldl_memberApply rerun (hnodup.filter _), if_pos, hepoch]
  exact List.mem_filter.2 ⟨hn, by simp [hkind, hnear, hmember]⟩

/-! ### The telemetry counts of an LB (R416) -/

theorem clock_turnTelemetry (s : State) (rerun : Bool) : (turnTelemetry s rerun).clock = s.clock := by
  rw [turnTelemetry]
  split <;> rfl

/-- The unit with its counts of the lap cleared. -/
def UnitSt.uncounted (u : UnitSt) : UnitSt := { u with instr := 0, errs := 0 }

/-- With its counts cleared an ARMED unit still differs from its reset value, and its entry stays. -/
theorem placeIn_cleared {n : Nat} {e : BitVec 4} (l : Tab UnitSt) (h : placeIn l n = (.armed, e)) :
    placeIn ((l.map (fun p => (p.1, p.2.uncounted))).filter (fun p => decide (p.2 ≠ ({} : UnitSt)))) n = (.armed, e) := by
  induction l with
  | nil => exact h
  | cons p l ih =>
    obtain ⟨i, u⟩ := p
    rw [List.map_cons, List.filter_cons]
    rcases eq_or_ne i n with rfl | hi
    · have hu : u.place = (.armed, e) := by rwa [placeIn, tget, if_pos rfl] at h
      have hne : u.uncounted ≠ {} := fun heq => by
        have hsteady : u.member = .steady := congrArg UnitSt.member heq
        have harmed : u.member = .armed := congrArg Prod.fst hu
        exact absurd (harmed.symm.trans hsteady) (by decide)
      rw [if_pos (decide_eq_true hne), placeIn, tget, if_pos rfl]
      exact hu
    · have hrest := ih (by rwa [placeIn, tget, if_neg hi] at h)
      split
      · rwa [placeIn, tget, if_neg hi]
      · exact hrest

theorem place_turnTelemetry {s : State} {n : Nat} {e : BitVec 4} (h : s.place n = (.armed, e)) (rerun : Bool) :
    (turnTelemetry s rerun).place n = (.armed, e) := by
  rw [turnTelemetry]
  split
  · exact placeIn_cleared s.units h
  · exact placeIn_cleared s.units h

/-! ### The LB (R195, R197, R207, R211) -/

/-- The state at an LB behind its commit point, with the close of the lap's partials and the pace fault done. -/
def lapClosed (s : State) (lap : BitVec 48) : State :=
  let s0 := finishClose (if isAnnounced s then passCommit s else s)
  if lapWrong s0 (isAnnounced s) lap then paceFault s0 3 lap else s0

/-- The state in which the lap turns: the announcement taken, and an armed baton committed or deferred. -/
def lapTaken (s : State) (lap : BitVec 48) : State :=
  let st := turnTelemetry (lapClosed s lap) (decide (lap = (lapClosed s lap).pace.lap))
  if isAnnounced s then (takeAnnounced st).1 else takeUnannounced st lap

theorem lapState_lapClosed (s : State) (lap : BitVec 48) :
    (lapClosed s lap).lapState = (finishClose (if isAnnounced s then passCommit s else s)).lapState := by
  simp [lapClosed]

theorem takeLap_eq (s : State) (lap : BitVec 48) (phase : BitVec 2) : ∃ rerun oldLap par seq, takeLap s lap phase =
    takeSplit (turnBoundary (if isAnnounced s then applyMembers (turnLap (lapTaken s lap) lap) rerun
      else turnLap (lapTaken s lap) lap) rerun oldLap par seq) 0 phase := by
  have hlap : (lapClosed s lap).pace.lap = (finishClose (if isAnnounced s then passCommit s else s)).pace.lap :=
    congrArg (·.2.lap) (lapState_lapClosed s lap)
  rw [takeLap, lapTaken, hlap, lapClosed]
  cases isAnnounced s
  · exact ⟨_, _, _, _, rfl⟩
  · exact ⟨_, _, _, _, rfl⟩

/-- The commit point changes nothing that an LB counts. -/
theorem laps_passCommit (s : State) : (passCommit s).baton.laps = s.baton.laps := by
  change (passCommit s).lapState.1.laps = s.baton.laps
  have hpoint : (markDue s).baton.laps = s.baton.laps := congrArg (·.1.laps) (lapState_markDue s)
  simp only [passCommit]
  split
  · rfl
  · split
    · exact hpoint
    · split
      · rw [lapState_deferAll, lapState_mk]
        exact hpoint
      · split
        · rw [lapState_foldl _ _ _ (fun _ _ => by simp), lapState_mk]
          exact hpoint
        · exact Eq.trans (follows_deferMissing _ _).2.1 hpoint

/-- The commit point leaves a baton that is ARMED already. -/
theorem passCommit_of_armed {s : State} (hst : s.baton.st = .armed) : (passCommit s).baton = s.baton := by
  have hpoint : (markDue s).baton = s.baton := congrArg Prod.fst (lapState_markDue s)
  simp only [passCommit]
  split
  · rfl
  · rw [if_pos (by rw [hpoint, hst]; exact nofun)]
    exact hpoint

/-- The close of the lap behind the commit point. -/
theorem follows_lapClosed (s : State) (lap : BitVec 48) :
    Follows False (if isAnnounced s then passCommit s else s).lapState (lapClosed s lap).lapState := by
  rw [lapState_lapClosed]
  exact follows_finishClose (follows_refl _ _)

theorem course_lapClosed (n : Nat) (s : State) (lap : BitVec 48) : (lapClosed s lap).course n = s.course n := by
  simp [lapClosed, course_passCommit]

/-- What the close of the lap leaves of what an LB turns. -/
theorem lapClosed_keeps (s : State) (lap : BitVec 48) : (lapClosed s lap).pace.parity = s.pace.parity ∧
    (lapClosed s lap).pace.lap = s.pace.lap ∧ (lapClosed s lap).baton.laps = s.baton.laps := by
  obtain ⟨hpace, hlaps, -⟩ := follows_lapClosed s lap
  have hpace : (lapClosed s lap).pace = (if isAnnounced s then passCommit s else s).pace := hpace
  have hlaps : (lapClosed s lap).baton.laps = (if isAnnounced s then passCommit s else s).baton.laps := hlaps
  rw [hpace, hlaps]
  cases ha : isAnnounced s with
  | false => exact ⟨rfl, rfl, rfl⟩
  | true =>
    have hpass := passed_passCommit (isSome_of_isAnnounced ha)
    rw [if_pos rfl]
    exact ⟨by rw [hpass], by rw [hpass], laps_passCommit s⟩

theorem takeAnnounced_keeps (s : State) : (takeAnnounced s).1.pace = { s.pace with ann := none, passed := false } ∧
    (takeAnnounced s).1.baton.attempt = s.baton.attempt ∧ (takeAnnounced s).1.now = s.now ∧
      ∀ n, (takeAnnounced s).1.place n = s.place n := by
  simp only [takeAnnounced]
  split
  · exact ⟨rfl, rfl, rfl, fun _ => rfl⟩
  · exact ⟨rfl, rfl, rfl, fun _ => rfl⟩

theorem takeAnnounced_of_armed {s : State} (h : s.baton.st = .armed) :
    (takeAnnounced s).1.baton.laps = (s.baton.epoch + 1, s.baton.attempt, s.baton.commits + 1) ∧
      (takeAnnounced s).1.baton.st = .confirming ∧ (takeAnnounced s).1.tables.ftActive = s.baton.ftab := by
  simp only [takeAnnounced, if_pos h]
  exact ⟨rfl, rfl, rfl⟩

section
variable {s : State} (lap : BitVec 48)

theorem lapTaken_of_announced (ha : isAnnounced s = true) : lapTaken s lap =
    (takeAnnounced (turnTelemetry (lapClosed s lap) (decide (lap = (lapClosed s lap).pace.lap)))).1 := by
  rw [lapTaken]
  simp only [ha, if_true]

theorem lapTaken_of_unannounced (ha : isAnnounced s = false) : lapTaken s lap =
    takeUnannounced (turnTelemetry (lapClosed s lap) (decide (lap = (lapClosed s lap).pace.lap))) lap := by
  rw [lapTaken]
  simp only [ha, Bool.false_eq_true, if_false]

theorem clock_lapClosed : (lapClosed s lap).clock = s.clock := clock_of_course (course_lapClosed 0 s lap)

/-- The telemetry of the lap that ends leaves what an LB turns. -/
theorem telemetry_keeps (t : State) (rerun : Bool) : (turnTelemetry t rerun).pace = t.pace ∧
    (turnTelemetry t rerun).baton = t.baton ∧ (turnTelemetry t rerun).now = t.now ∧
      (turnTelemetry t rerun).tables.ftActive = t.tables.ftActive :=
  ⟨congrArg Prod.snd (lapState_turnTelemetry t rerun), congrArg Prod.fst (lapState_turnTelemetry t rerun),
    congrArg Prod.fst (clock_turnTelemetry t rerun), congrArg Prod.snd (clock_turnTelemetry t rerun)⟩

theorem takeUnannounced_keeps (t : State) : (takeUnannounced t lap).pace = t.pace ∧
    (takeUnannounced t lap).baton.laps = t.baton.laps ∧ (takeUnannounced t lap).clock = t.clock := by
  obtain ⟨hp, hl, -⟩ := follows_takeUnannounced (follows_refl True t.lapState) lap
  exact ⟨hp, hl, clock_of_course (course_takeUnannounced 0 t lap)⟩

theorem lapTaken_keeps : (lapTaken s lap).pace.parity = s.pace.parity ∧ (lapTaken s lap).pace.lap = s.pace.lap ∧
    (lapTaken s lap).baton.attempt = s.baton.attempt ∧ (lapTaken s lap).now = s.now := by
  obtain ⟨hpar, hlap, hlaps⟩ := lapClosed_keeps s lap
  have hattempt : (lapClosed s lap).baton.attempt = s.baton.attempt := congrArg (·.2.1) hlaps
  have hnow : (lapClosed s lap).now = s.now := congrArg Prod.fst (clock_lapClosed lap)
  obtain ⟨hpace, hbaton, htime, -⟩ := telemetry_keeps (lapClosed s lap) (decide (lap = (lapClosed s lap).pace.lap))
  rw [← hpar, ← hlap, ← hattempt, ← hnow]
  cases ha : isAnnounced s with
  | false =>
    rw [lapTaken_of_unannounced lap ha]
    obtain ⟨hp, hl, hc⟩ := takeUnannounced_keeps lap
      (turnTelemetry (lapClosed s lap) (decide (lap = (lapClosed s lap).pace.lap)))
    rw [hbaton] at hl
    exact ⟨by rw [hp, hpace], by rw [hp, hpace], congrArg (·.2.1) hl, (congrArg Prod.fst hc).trans htime⟩
  | true =>
    rw [lapTaken_of_announced lap ha]
    obtain ⟨hp, hat, hn, -⟩ := takeAnnounced_keeps (turnTelemetry (lapClosed s lap) (decide (lap = (lapClosed s lap).pace.lap)))
    exact ⟨by rw [hp, hpace], by rw [hp, hpace], by rw [hat, hbaton], hn.trans htime⟩

theorem lapTaken_unannounced (ha : isAnnounced s = false) :
    (lapTaken s lap).baton.epoch = s.baton.epoch ∧ (lapTaken s lap).tables.ftActive = s.tables.ftActive := by
  obtain ⟨-, -, hlaps⟩ := lapClosed_keeps s lap
  obtain ⟨-, hbaton, -, hft⟩ := telemetry_keeps (lapClosed s lap) (decide (lap = (lapClosed s lap).pace.lap))
  rw [lapTaken_of_unannounced lap ha]
  obtain ⟨-, hl, hc⟩ := takeUnannounced_keeps lap (turnTelemetry (lapClosed s lap) (decide (lap = (lapClosed s lap).pace.lap)))
  rw [hbaton] at hl
  exact ⟨congrArg (·.1) (hl.trans hlaps), ((congrArg Prod.snd hc).trans hft).trans (congrArg Prod.snd (clock_lapClosed lap))⟩

/-- At the announced LB a baton that is ARMED commits (R211). -/
theorem lapTaken_of_armed (ha : isAnnounced s = true) (hst : s.baton.st = .armed) :
    (lapTaken s lap).baton.laps = (s.baton.epoch + 1, s.baton.attempt, s.baton.commits + 1) ∧
      (lapTaken s lap).baton.st = .confirming ∧ (lapTaken s lap).pace.ann = none ∧
        (lapTaken s lap).tables.ftActive = s.baton.ftab := by
  obtain ⟨-, -, hlaps⟩ := lapClosed_keeps s lap
  have hpass := passCommit_of_armed hst
  have hclosed : (lapClosed s lap).baton.st = .armed ∧ (lapClosed s lap).baton.ftab = s.baton.ftab := by
    obtain ⟨-, -, h⟩ := follows_lapClosed s lap
    rw [ha, if_pos rfl] at h
    simp only [State.lapState, hpass, passed_passCommit (isSome_of_isAnnounced ha), hst] at h
    simpa using h
  obtain ⟨-, hbaton, -, -⟩ := telemetry_keeps (lapClosed s lap) (decide (lap = (lapClosed s lap).pace.lap))
  rw [lapTaken_of_announced lap ha]
  obtain ⟨hl, hconfirm, hft⟩ := takeAnnounced_of_armed (s := turnTelemetry (lapClosed s lap)
    (decide (lap = (lapClosed s lap).pace.lap))) (by rw [hbaton]; exact hclosed.1)
  obtain ⟨hpace, -⟩ := takeAnnounced_keeps (turnTelemetry (lapClosed s lap) (decide (lap = (lapClosed s lap).pace.lap)))
  rw [hbaton] at hl hft
  obtain ⟨he, hat, hco⟩ : (lapClosed s lap).baton.epoch = s.baton.epoch ∧ (lapClosed s lap).baton.attempt = s.baton.attempt ∧
      (lapClosed s lap).baton.commits = s.baton.commits :=
    ⟨congrArg (·.1) hlaps, congrArg (·.2.1) hlaps, congrArg (·.2.2) hlaps⟩
  exact ⟨by rw [hl, he, hat, hco], hconfirm, by rw [hpace], hft.trans hclosed.2⟩

/-- An ARMED unit is still ARMED when the lap turns. -/
theorem place_lapTaken (ha : isAnnounced s = true) {n : Nat} {e : BitVec 4} (h : s.place n = (.armed, e)) :
    (lapTaken s lap).place n = (.armed, e) := by
  rw [lapTaken_of_announced lap ha]
  obtain ⟨-, -, -, hplace⟩ := takeAnnounced_keeps (turnTelemetry (lapClosed s lap) (decide (lap = (lapClosed s lap).pace.lap)))
  rw [hplace]
  exact place_turnTelemetry ((place_of_course (course_lapClosed n s lap)).trans h) _

end

/-- What an LB does behind its turn leaves the turn. -/
theorem boundary_keeps (s : State) (rerun : Bool) (oldLap : BitVec 48) (par : Bool) (seq : BitVec 8) (phase : BitVec 2) :
    (takeSplit (turnBoundary s rerun oldLap par seq) 0 phase).pace =
        { s.pace with split := 0, phase := phase, busSplit := 0, busPhase := phase } ∧
      (takeSplit (turnBoundary s rerun oldLap par seq) 0 phase).baton.laps = s.baton.laps ∧
      (s.pace.ann = none → (takeSplit (turnBoundary s rerun oldLap par seq) 0 phase).baton.st = s.baton.st) ∧
      (takeSplit (turnBoundary s rerun oldLap par seq) 0 phase).clock = s.clock := by
  obtain ⟨hpace, p, n, hbaton⟩ := takeSplit_onlyRequests (turnBoundary s rerun oldLap par seq) 0 phase
  obtain ⟨_, _, _, hmask⟩ := applyPmask_frame (splitTaken (turnBoundary s rerun oldLap par seq) 0 phase)
  obtain ⟨hp, hl, hst⟩ := follows_turnBoundary (follows_refl False s.lapState) rerun oldLap par seq
  have hp : (turnBoundary s rerun oldLap par seq).pace = s.pace := hp
  rw [hmask] at hpace hbaton
  refine ⟨hpace.trans ?_, ?_, fun hnone => ?_,
    (clock_takeSplit _ 0 phase).trans (clock_of_course (course_turnBoundary 0 s _ _ _ _))⟩
  · rw [splitTaken, hp]
  · rw [hbaton]
    exact hl
  · rw [hbaton]
    rcases hst with ⟨hst, -⟩ | ⟨hno, -⟩ | ⟨-, hsome, -⟩
    · exact hst
    · exact hno.elim
    · have hsome : s.pace.ann.isSome = true := hsome
      rw [hnone] at hsome
      cases hsome

/-- Settles O16, from the parts of an LB in their order. -/
theorem lapBoundaryTurnsTheLap : Obligations.LapBoundaryTurnsTheLap := by
  unfold Obligations.LapBoundaryTurnsTheLap
  intro s lap phase hs
  obtain ⟨rerun, oldLap, par, seq, htake⟩ := takeLap_eq s lap phase
  refine ⟨_, live_of_running _ hs, ?_⟩
  rw [htake]
  obtain ⟨hpar, hlap, hattempt, hnow⟩ := lapTaken_keeps (s := s) lap
  generalize hZ : (if isAnnounced s then applyMembers (turnLap (lapTaken s lap) lap) rerun else turnLap (lapTaken s lap) lap) = z
  have hturn : z.lapState = (turnLap (lapTaken s lap) lap).lapState ∧ z.clock = (lapTaken s lap).clock := by
    rw [← hZ]
    split
    · exact ⟨lapState_applyMembers _ _, clock_applyMembers _ _⟩
    · exact ⟨rfl, rfl⟩
  obtain ⟨hpace, hlaps, hst, hclock⟩ := boundary_keeps z rerun oldLap par seq phase
  have hzpace : z.pace = (turnLap (lapTaken s lap) lap).pace := congrArg Prod.snd hturn.1
  have hzbaton : z.baton = (turnLap (lapTaken s lap) lap).baton := congrArg Prod.fst hturn.1
  rw [hzpace] at hpace
  rw [hzbaton] at hlaps
  have hft : (takeSplit (turnBoundary z rerun oldLap par seq) 0 phase).tables.ftActive = (lapTaken s lap).tables.ftActive :=
    ftActive_of_clock (hclock.trans hturn.2)
  have hplace : isAnnounced s = true → ∀ n ∈ allBibs, batonKind n = true → isFar n = false → ∀ e, s.place n = (.armed, e) →
      (takeSplit (turnBoundary z rerun oldLap par seq) 0 phase).place n = (.steady, e + 1) := by
    intro ha n hn hkind hnear e harmed
    refine place_takeSplit ((place_of_course (course_turnBoundary n z rerun oldLap par seq)).trans ?_) 0 phase
    rw [← hZ, ha, if_pos rfl]
    exact place_applyMembers (s := turnLap (lapTaken s lap) lap) hn hkind hnear (place_lapTaken lap ha harmed) rerun
  generalize takeSplit (turnBoundary z rerun oldLap par seq) 0 phase = v at hpace hlaps hst hft hplace ⊢
  refine ⟨by rw [hpace]; rfl, by rw [hpace], by rw [hpace], by rw [hpace, ← hpar]; rfl, by rw [hpace, ← hnow]; rfl, ?_,
    fun ha harmed => ?_, fun ha n hn hkind hnear hmember => ?_, fun ha => ?_⟩
  · refine (congrArg (·.2.1) hlaps).trans ?_
    change (if decide (lap = (lapTaken s lap).pace.lap) = true then satAdd (lapTaken s lap).baton.attempt 1 else 1) = _
    rw [hlap, hattempt]
    simp only [decide_eq_true_eq]
  · obtain ⟨hcount, hconfirm, hnone, hcommitted⟩ := lapTaken_of_armed lap ha harmed
    exact ⟨(congrArg (·.1) hlaps).trans (congrArg (·.1) hcount), (congrArg (·.2.2) hlaps).trans (congrArg (·.2.2) hcount),
      (hst (by rw [hzpace]; exact hnone)).trans (by rw [hzbaton]; exact hconfirm), hft.trans hcommitted⟩
  · have hfinal := hplace ha n hn hkind hnear (s.unit n).epoch (congrArg (fun x => (x, (s.unit n).epoch)) hmember)
    exact ⟨congrArg Prod.snd hfinal, congrArg Prod.fst hfinal⟩
  · obtain ⟨hepoch, hkeep⟩ := lapTaken_unannounced lap ha
    exact ⟨(congrArg (·.1) hlaps).trans hepoch, hft.trans hkeep⟩

end Sys2Proof.Machine
end

section
/-!
PROOFS. The stream engine's bulk move of a position that is held as read: the blocks are written as they are held (R128, R235).
-/

namespace Sys2Proof.Machine

/-! ### Blocks written and moved -/

/-- A bulk move whose source tile is held as read forms that tile and writes it while there is room (R128). -/
theorem seTileUnit_of_heldMove {i : Issued} (hgoing : i.stopAs = none) (houts : i.outs = []) (hnext : i.nextReads i.pos = [])
    (hall : i.allRead i.pos = true) (hgood : firstBad i i.reads = none) (hdest : isPlain (i.field 4) = false)
    (hmove : isMove i = true) (s : State) (b : Nat) : seTileUnit s b i =
      drainOuts s { i with outs := (i.reads.take 1).map (fun g => moveTile s i i.pos g.2) } := by
  rw [seTileUnit, if_neg (by simp [hgoing]), if_neg (by simp [houts])]
  simp only [hnext, readUnit, hall, hdest, hmove, Option.isSome_none, Bool.false_eq_true, if_false, Bool.not_true,
    Bool.false_and, if_true, List.append_nil, hgood]

/-- The body of a block begins behind its 16 header bytes (R82). -/
theorem getD_blockBytes (t : BitVec 24) (f : BitVec 6) (p o : Bool) (g : BitVec 16) (e : BitVec 4) (c : BitVec 10) (k n : Nat)
    (body : List Byte) (j : Nat) : (blockBytes t f p o g e c k n body).getD (16 + j) 0 = body.getD j 0 := by
  have hheader : ∀ header : List Byte, header.length = 16 → (header ++ body).getD (16 + j) 0 = body.getD j 0 := by
    intro header hlen
    rw [List.getD_append_right _ _ _ _ (by omega), hlen, Nat.add_sub_cancel_left]
  exact hheader _ (by simp)

section
variable {s : State} {i : Issued} (hspace : i.space = 0) (hconv : i.op.isConv = false) {n kind : Nat} (count : Nat)
  (poison ovf : Bool) (body : List Byte)
include hspace hconv

/-- A block whose stream has a place is written there (R89). -/
theorem mem_writeBlock_of_key {key : Nat} (hkey : blockKey (s.stream (entryOf (i.field n) kind)) (i.desc n) kind
      (s.stream (entryOf (i.field n) kind)).wtag = some key) :
    (writeBlock s i n kind count poison ovf body).mem = writeBytes s.mem key (blockBytes (fTensor (i.field n)) (i.fdis.getD (n - 1) 0)
      poison ovf (s.stream (entryOf (i.field n) kind)).wtag i.epoch (wordOf 10 i.ctx) kind count body) := by
  unfold entryOf at hkey ⊢
  simp only [writeBlock, crosses, onFeed, hspace, hconv, nextTag, crossing]
  simp [hkey]

/-- A block whose stream has no place is driven out: memory and the other streams stay (R89, R93). -/
theorem writeBlock_of_no_key (hkey : blockKey (s.stream (entryOf (i.field n) kind)) (i.desc n) kind
      (s.stream (entryOf (i.field n) kind)).wtag = none) : (writeBlock s i n kind count poison ovf body).mem = s.mem ∧
    ∀ m, m ≠ entryOf (i.field n) kind → (writeBlock s i n kind count poison ovf body).stream m = s.stream m := by
  have hcross : ∀ e, crosses i e kind = false := fun e => by simp [crosses, hspace]
  have hfeed : onFeed i n = false := by simp [onFeed, hconv]
  have htag : ∀ num, nextTag s i num = (s.stream num).wtag := fun num => by simp [nextTag, crossing, hspace]
  unfold entryOf at hkey ⊢
  unfold writeBlock
  simp only [hcross, hfeed, htag, hkey, Bool.false_eq_true, if_false]
  exact ⟨rfl, fun m hm => State.stream_setStream_ne _ _ hm⟩

end

/-! ### A move that holds an overlong scale block -/

/-- F1 and F4 name tile streams 1 and 2, with scale streams 3 and 4. -/
def longSlots : List SlotWord :=
  [wordOf 256 (0x06 + 4096 * 2 + 2 ^ 96 * 128), wordOf 256 (1 + 2 ^ 32 * 3 + 2 ^ 126),
    wordOf 256 (2 ^ 128 * (2 + 2 ^ 32 * 4 + 2 ^ 126))]

/-- MXFP4 under a rotation of 32 elements: an ELEMENT of two such streams is a bulk move (R128). -/
def longDesc : Desc := 0x20508

/-- A read position whose scale block is one byte longer than its descriptor gives. -/
def longRead : PosRead :=
  let blk (n : Nat) : Blk := ⟨0, 0, false, false, 0, 0, 0, 0, 128, true, true, List.replicate n 1⟩
  ⟨none, 0, blk 0, some (blk 129), none, []⟩

def longMove : Issued :=
  { queue := 5, slot := 0, slots := longSlots, ctx := 1, epoch := 0, descs := [longDesc, 0, 0, longDesc], fdis := []
    seed := 0, lap := 0, bci := 0, reads := [((1, 0), longRead)] }

/-- The stream engine at work on the move, with one block of the scale stream placed at address 0. -/
def longState : State :=
  (State.reset.setUnit 0x051 { held := true, issued := [longMove] }).setStream 4 { pspace := 1, nblk := 1 }

/-- A good position of the move written: the scale block begins at address 0, and all of the body formed follows its header. -/
theorem readByte_writeGood_long (count : Nat) (ovf : Bool) (body sbody obody : List Byte) (j : Nat) (hj : j < sbody.length) :
    readByte (writeGood longState { longMove with outs := [] } 4 count ovf body sbody obody).mem (16 + j) = sbody.getD j 0 := by
  have hscaled : dSfmt (Issued.desc { longMove with outs := [] } 4) = 1 := by decide
  have hflat : dOcap (Issued.desc { longMove with outs := [] } 4) = 0 := by decide
  have hdata := writeBlock_of_no_key (s := longState) (i := { longMove with outs := [] }) (n := 4) (kind := 0) rfl (by decide)
    count false ovf body (by decide)
  simp only [writeGood, hscaled, hflat, if_true]
  rw [if_neg (by decide), mem_writeBlock_of_key (key := 0) rfl (by decide)]
  · rw [readByte_writeBytes, if_pos (by simp; omega), Nat.sub_zero, getD_blockBytes]
  · rw [hdata.2 _ (by decide)]
    decide

/-- The tile formed from what is held as read. -/
def longTile : OutPos := moveTile longState longMove 0 longRead

theorem seTileUnit_longMove : seTileUnit longState 0x051 longMove =
    writeOut longState { longMove with outs := [] } longTile := by
  have hunit := seTileUnit_of_heldMove (i := longMove) rfl rfl (by decide) (by decide) (by decide +kernel) (by decide) (by decide)
    longState 0x051
  refine hunit.trans (drainOuts_singleton (o := longTile) rfl ?_)
  have hroom : fieldFull longState longMove 4 = false := by decide
  exact hroom

/-- What the tile leaves where its scale block ends under the descriptor: a byte of the body held. -/
theorem overrun_longTile : readByte (writeOut longState { longMove with outs := [] } longTile).1.mem 144 = 1 := by
  obtain ⟨g, hgood, hbody⟩ : ∃ g, longTile.good = some g ∧ g.sbody = List.replicate 129 1 := ⟨_, rfl, rfl⟩
  have hfield : longTile.field = 4 := rfl
  have hread := readByte_writeGood_long longTile.count g.ovf g.body g.sbody g.obody 128 (by rw [hbody]; simp)
  simp only [writeOut, hgood, hfield]
  rw [hread, hbody]
  simp

/-- One step of the move. -/
theorem seRun_longMove : (seRun 0x051 1 longState longMove).1.mem =
      (writeOut longState { longMove with outs := [] } longTile).1.mem ∧
    (seRun 0x051 1 longState longMove).2.pos = 1 := by
  have hleft : longMove.seDone = false := by decide
  have hready : seWaits longState longMove longMove.pos = false := by decide +kernel
  have htiled : longMove.tiled = true := by decide
  obtain ⟨c, n, a, m, w, f, u, hout⟩ := writeOut_snd longState { longMove with outs := [] } longTile
  have hlast : longTile.last = true := rfl
  have hpos : (writeOut longState { longMove with outs := [] } longTile).2.pos = 1 := by
    rw [hout, hlast]
    rfl
  rw [seRun]
  simp only [hleft, hready, Bool.and_false, Bool.false_eq_true, if_false, seUnit, htiled, if_true, seTileUnit_longMove, seRun]
  split
  · exact ⟨rfl, hpos⟩
  · split
    · exact ⟨rfl, hpos⟩
    · exact ⟨rfl, hpos⟩

/-- Byte 144 lies behind the only place that a block of the move has. -/
theorem not_inBlocks_longMove : ¬ InBlocks longState longMove 144 := by
  rintro ⟨n, hdest, -, p, hp, tag, key, hkey, -, hlt⟩
  obtain rfl : n = 4 := by simpa [isDest, show longMove.op = .element from rfl, Op.isConv] using hdest
  have hentries : entriesOf (longMove.field 4) (longMove.desc 4) = [(2, 0), (4, 1)] := by decide
  rw [hentries] at hp
  rcases List.mem_pair.1 hp with rfl | rfl
  · exact absurd hkey (by simp [blockKey, show (longState.stream 2).pspace = 0 by decide])
  · have hplace : (longState.stream 4).pspace = 1 ∧ (longState.stream 4).nblk = 1 ∧ (longState.stream 4).pbase = 0 ∧
        (longState.stream 4).pbasehi = 0 := by decide
    obtain ⟨hspace, hblocks, hbase, hhigh⟩ := hplace
    have hsize : bodyBytes (longMove.desc 4) 1 = 128 := by decide
    have hstart : key = 0 := by simpa [blockKey, hspace, hblocks, hbase, hhigh, spadKey, Nat.mod_one] using hkey.symm
    simp only [hsize, hstart] at hlt
    omega

/-- Refutes O34: the statement does not ask what the instruction holds as read. An ELEMENT that is a bulk move and holds a scale
block of 129 bytes, where its descriptor gives 128, writes all of them, one byte past the only place of its scale stream. -/
theorem not_streamEnginesMakeProgress : ¬ Obligations.StreamEnginesMakeProgress := by
  unfold Obligations.StreamEnginesMakeProgress
  intro h
  have hworks : Works longState 0x051 5 longMove := ⟨rfl, rfl, rfl, rfl⟩
  obtain ⟨-, hstep⟩ := h longState 0x051 5 1 longMove hworks (by decide) (by decide) rfl rfl rfl (by decide) (by decide) (by decide)
    (.element 0x051 5 1) rfl
  obtain ⟨t, j, hexec, -, -, -, hmem, -⟩ := hstep (by decide) (by decide +kernel)
  have hbyte := hmem (by decide) 144 not_inBlocks_longMove (by rintro ⟨hplain, -⟩; exact absurd hplain (by decide))
  obtain ⟨hwritten, hpos⟩ := seRun_longMove
  have hchanged : (seRun 0x051 1 longState longMove).2 ≠ longMove := by
    intro heq
    rw [heq] at hpos
    exact absurd hpos (by decide)
  have hrun : exec (.element 0x051 5 1) longState = .next (setIssued (seRun 0x051 1 longState longMove).1 0x051
      (seRun 0x051 1 longState longMove).2) :=
    (live_of_running _ rfl).trans (congrArg _ (workOn_of_works hworks rfl (seRun 0x051 1) hchanged))
  rw [hrun] at hexec
  obtain rfl := Host.Outcome.next.inj hexec
  have hover := overrun_longTile
  rw [← hwritten] at hover
  exact absurd (hover.symm.trans hbyte) (by decide)

end Sys2Proof.Machine
end

section
/-!
PROOFS. binary32: the words that hold a number, and what rounding once gives of an exact value (R35, R65, R66, R70, R246).
-/

namespace Sys2Proof.Machine

/-! ### Words of binary32 (R34, R35) -/

theorem f32_mem : f32 ∈ floatFormats := by decide

theorem f32_codes : f32.maxCode < 2 ^ (f32.eBits + f32.mBits) := (floatFormats_codes f32 f32_mem).2

/-- The word of a magnitude code with a sign. -/
def f32Word (neg : Bool) (c : Nat) : BitVec 32 := wordOf 32 (f32.signed neg c)

theorem toNat_f32Word (neg : Bool) {c : Nat} (hc : c < 2 ^ 31) : (f32Word neg c).toNat = f32.signed neg c := by
  have hlt : f32.signed neg c < 2 ^ 32 := by
    cases neg <;> simp [FloatFmt.signed, f32] <;> omega
  simpa [f32Word, wordOf] using hlt

/-- Every word has a sign and a magnitude code. -/
theorem exists_f32Word (w : BitVec 32) : ∃ neg c, c < 2 ^ 31 ∧ w = f32Word neg c := by
  have hw := w.isLt
  refine ⟨decide (2 ^ 31 ≤ w.toNat), w.toNat % 2 ^ 31, Nat.mod_lt _ (by decide), BitVec.eq_of_toNat_eq ?_⟩
  rw [toNat_f32Word _ (Nat.mod_lt _ (by decide)), FloatFmt.signed, show f32.eBits + f32.mBits = 31 from rfl]
  simp only [decide_eq_true_eq]
  split <;> omega

/-- A finite word's value. -/
theorem ofF32_f32Word (neg : Bool) {c : Nat} (hc : c ≤ f32.maxCode) :
    ofF32 (f32Word neg c) = .fin (if neg then -f32.magnitude c else f32.magnitude c) neg := by
  rw [ofF32, toNat_f32Word neg (lt_of_le_of_lt hc f32_codes), FloatFmt.decode_signed f32_codes hc]

/-- A word above the finite codes holds an infinity or NaN. -/
theorem ofF32_f32Word_special (neg : Bool) {c : Nat} (hc : c < 2 ^ 31) (hbig : f32.maxCode < c) :
    ofF32 (f32Word neg c) = if c = 0x7F800000 then .inf neg else .nan neg := by
  have hmax : f32.maxCode = 0x7F7FFFFF := rfl
  rw [ofF32, toNat_f32Word neg hc]
  have hsign : decide (f32.signed neg c / 2 ^ 31 % 2 = 1) = neg := by
    cases neg <;> simp [FloatFmt.signed, f32] <;> omega
  have hcode : f32.signed neg c % 2 ^ 31 = c := by
    cases neg <;> simp [FloatFmt.signed, f32] <;> omega
  have hinf : (f32.infCode = some c) = (c = 0x7F800000) := by simp [f32, eq_comm]
  unfold FloatFmt.decode
  rw [show f32.eBits + f32.mBits = 31 from rfl, hcode, hsign, if_neg (by omega)]
  simp only [hinf]

/-- A word that holds a number. -/
theorem exists_code_of_fin {w : BitVec 32} {p : ℚ} {s : Bool} (h : ofF32 w = .fin p s) :
    ∃ c ≤ f32.maxCode, w = f32Word s c ∧ p = if s then -f32.magnitude c else f32.magnitude c := by
  obtain ⟨neg, c, hc, rfl⟩ := exists_f32Word w
  by_cases hbig : f32.maxCode < c
  · rw [ofF32_f32Word_special neg hc hbig] at h
    split at h <;> cases h
  · rw [ofF32_f32Word neg (not_lt.1 hbig)] at h
    cases h
    exact ⟨c, not_lt.1 hbig, rfl, rfl⟩

/-- A word that holds an infinity. -/
theorem eq_of_inf {w : BitVec 32} {s : Bool} (h : ofF32 w = .inf s) : w = if s then 0xFF800000 else 0x7F800000 := by
  obtain ⟨neg, c, hc, rfl⟩ := exists_f32Word w
  by_cases hbig : f32.maxCode < c
  · rw [ofF32_f32Word_special neg hc hbig] at h
    split at h
    · next hinf =>
      cases h
      subst hinf
      cases s <;> rfl
    · cases h
  · rw [ofF32_f32Word neg (not_lt.1 hbig)] at h
    cases h

theorem magnitude_pos {f : FloatFmt} {c : Nat} (h : c ≠ 0) : 0 < f.magnitude c := by
  rw [← f.magnitude_zero]
  exact f.magnitude_strictMono (Nat.pos_of_ne_zero h)

theorem magnitude_nonneg (f : FloatFmt) (c : Nat) : 0 ≤ f.magnitude c := by
  rw [← f.magnitude_zero]
  exact f.magnitude_strictMono.monotone (Nat.zero_le c)

/-- The sign that a number's word carries is that of the number, where it is not zero. -/
theorem sign_of_fin {w : BitVec 32} {p : ℚ} {s : Bool} (h : ofF32 w = .fin p s) (hp : p ≠ 0) : s = decide (p < 0) := by
  obtain ⟨c, -, -, rfl⟩ := exists_code_of_fin h
  have hnonneg := magnitude_nonneg f32 c
  cases s
  · simpa using hnonneg
  · have hpos : 0 < f32.magnitude c := lt_of_le_of_ne hnonneg (fun h0 => hp (by simp [← h0]))
    simpa using hpos

/-- The words of value zero. -/
theorem eq_zero_of_fin {w : BitVec 32} {p : ℚ} {s : Bool} (h : ofF32 w = .fin p s) (hp : p = 0) :
    w = if s then 0x80000000 else 0 := by
  obtain ⟨c, -, rfl, hv⟩ := exists_code_of_fin h
  have hc : c = 0 := by
    by_contra hc
    have hpos := magnitude_pos (f := f32) hc
    rw [hp] at hv
    cases s
    · exact hpos.ne hv
    · exact hpos.ne' (by simpa using hv)
  subst hc
  cases s <;> rfl

/-! ### The code nearest to an exact value (R66) -/

/-- Half way between two neighbouring magnitudes of binary32. -/
def midpoint (c : Nat) : ℚ := (f32.magnitude c + f32.magnitude (c + 1)) / 2

theorem magnitude_lt_midpoint (c : Nat) : f32.magnitude c < midpoint c ∧ midpoint c < f32.magnitude (c + 1) := by
  have h := f32.magnitude_strictMono (Nat.lt_succ_self c)
  unfold midpoint
  constructor <;> linarith

theorem midpoint_strictMono : StrictMono midpoint :=
  strictMono_nat_of_lt_succ (fun c => (magnitude_lt_midpoint c).2.trans (magnitude_lt_midpoint (c + 1)).1)

/-- Code n is the one that RNE takes for the magnitude x: x lies between the midpoints beside n, and on one only where n is
even. -/
structure NearestCode (n : Nat) (x : ℝ) : Prop where
  above : x ≤ midpoint n
  tieAbove : x = midpoint n → n % 2 = 0
  below : ∀ m, n = m + 1 → midpoint m ≤ x
  tieBelow : ∀ m, n = m + 1 → midpoint m = x → n % 2 = 0

section
variable {K : Type*} [Field K] [LinearOrder K] [IsStrictOrderedRing K] {a b : K} (h : a < b) (x : K)
include h

/-- The lower of two points is the nearer one below the middle. -/
theorem abs_sub_le_iff_of_lt : |a - x| ≤ |b - x| ↔ x ≤ (a + b) / 2 := by
  rw [← sq_le_sq]
  constructor <;> intro h' <;> nlinarith

theorem abs_sub_le_iff_of_gt : |b - x| ≤ |a - x| ↔ (a + b) / 2 ≤ x := by
  rw [← sq_le_sq]
  constructor <;> intro h' <;> nlinarith

theorem abs_sub_eq_iff_of_lt : |a - x| = |b - x| ↔ x = (a + b) / 2 := by
  rw [le_antisymm_iff, le_antisymm_iff, abs_sub_le_iff_of_lt h, abs_sub_le_iff_of_gt h]

end

theorem nearestCode_roundCode {q : ℚ} (hq : q ≠ 0) : NearestCode (f32.roundCode .rne q) ((|q| : ℚ) : ℝ) := by
  have hbest := f32.roundCode_rne_nearest (by decide) hq
  generalize f32.roundCode .rne q = n at hbest
  have hup := hbest (n + 1)
  have hlt := f32.magnitude_strictMono (Nat.lt_succ_self n)
  rw [abs_sub_le_iff_of_lt hlt, abs_sub_eq_iff_of_lt hlt] at hup
  refine ⟨by exact_mod_cast hup.1, fun h => hup.2 (by omega) (by exact_mod_cast h), ?_, ?_⟩
  all_goals
    rintro m rfl
    have hdown := hbest m
    have hlt' := f32.magnitude_strictMono (Nat.lt_succ_self m)
    rw [abs_sub_le_iff_of_gt hlt', eq_comm (a := |_ - _|), abs_sub_eq_iff_of_lt hlt'] at hdown
  · exact_mod_cast hdown.1
  · exact fun h => hdown.2 (by omega) (by exact_mod_cast h.symm)

/-- The code of x is nearest among all magnitudes, and even where another one is as near. -/
theorem NearestCode.best {n : Nat} {x : ℝ} (h : NearestCode n x) (c : Nat) :
    |(f32.magnitude n : ℝ) - x| ≤ |(f32.magnitude c : ℝ) - x| ∧
      (c ≠ n → |(f32.magnitude n : ℝ) - x| = |(f32.magnitude c : ℝ) - x| → n % 2 = 0) := by
  have hmono : ∀ {a b : Nat}, a < b → (f32.magnitude a : ℝ) < f32.magnitude b := fun hab => by
    exact_mod_cast f32.magnitude_strictMono hab
  have hmid : ∀ a, ((midpoint a : ℚ) : ℝ) = ((f32.magnitude a : ℝ) + f32.magnitude (a + 1)) / 2 := fun a => by
    unfold midpoint; push_cast; rfl
  rcases lt_trichotomy n c with hc | rfl | hc
  · have hnext : (f32.magnitude (n + 1) : ℝ) ≤ f32.magnitude c := by exact_mod_cast f32.magnitude_strictMono.monotone hc
    have habove := h.above
    have htie := h.tieAbove
    rw [hmid] at habove htie
    rw [abs_sub_le_iff_of_lt (hmono hc), abs_sub_eq_iff_of_lt (hmono hc)]
    exact ⟨by linarith, fun _ heq => htie (by linarith)⟩
  · exact ⟨le_rfl, fun hne => absurd rfl hne⟩
  · obtain ⟨m, rfl⟩ : ∃ m, n = m + 1 := ⟨n - 1, by omega⟩
    have hprev : (f32.magnitude c : ℝ) ≤ f32.magnitude m := by
      exact_mod_cast f32.magnitude_strictMono.monotone (show c ≤ m by omega)
    have hbelow := h.below m rfl
    have htie := h.tieBelow m rfl
    rw [hmid] at hbelow htie
    rw [abs_sub_le_iff_of_gt (hmono hc), eq_comm (a := |_ - _|), abs_sub_eq_iff_of_lt (hmono hc)]
    exact ⟨by linarith, fun _ heq => htie (by linarith)⟩

/-- It is nearest among the numbers of those magnitudes, too. -/
theorem NearestCode.best_signed {n : Nat} {x : ℝ} (h : NearestCode n x) (hx : 0 < x) (c : Nat) {p : ℝ} (hp : |p| = f32.magnitude c) :
    |(f32.magnitude n : ℝ) - x| ≤ |p - x| ∧
      (p ≠ f32.magnitude n → |(f32.magnitude n : ℝ) - x| = |p - x| → n % 2 = 0) := by
  obtain ⟨hbest, htie⟩ := h.best c
  have hnonneg : (0 : ℝ) ≤ f32.magnitude c := by exact_mod_cast magnitude_nonneg f32 c
  rcases le_or_gt 0 p with hpos | hneg
  · rw [abs_of_nonneg hpos] at hp
    subst hp
    exact ⟨hbest, fun hne heq => htie (fun hc => hne (by rw [hc])) heq⟩
  · rw [abs_of_neg hneg] at hp
    have hfar : |(f32.magnitude c : ℝ) - x| < |p - x| := by
      rw [abs_of_neg (show p - x < 0 by linarith), abs_lt]
      constructor <;> linarith
    exact ⟨hbest.trans hfar.le, fun _ heq => absurd (heq ▸ hbest) (not_le.2 hfar)⟩

/-! ### One rounding (R66, R70, R75) -/

/-- An exact number as a binary32 word: its rounded code, or the infinity beyond the finite codes. -/
theorem toF32_fin {q : ℚ} (hq : q ≠ 0) (s : Bool) :
    toF32 (.fin q s) = f32Word s (min (f32.roundCode .rne q) (f32.maxCode + 1)) := by
  by_cases hbig : f32.maxCode < f32.roundCode .rne q
  · rw [toF32, FloatFmt.encode_overflow hq false s false f32_mem (.inl hbig) (by decide), min_eq_right hbig]
    rfl
  · have hkept : ¬ f32.Beyond .rne q := not_or.2 ⟨hbig, fun h => absurd h.1 (by decide)⟩
    rw [min_eq_left (by omega), f32Word]
    by_cases hzero : f32.roundCode .rne q = 0
    · rw [toF32, FloatFmt.encode_flushed hq false false s false f32_codes hkept (.inl hzero), hzero]
    · rw [toF32, FloatFmt.encode_kept hq false false s false f32_codes hkept hzero (.inl rfl)]

theorem toF32_zero (s : Bool) : toF32 (.fin 0 s) = if s then 0x80000000 else 0 := by cases s <;> rfl

/-- The exact number q rounds as the real x does: they lie alike to every midpoint. -/
def RoundsAs (q : ℚ) (x : ℝ) : Prop := ∀ c, ((q : ℝ) ≤ midpoint c ↔ x ≤ midpoint c) ∧ ((midpoint c : ℝ) ≤ q ↔ midpoint c ≤ x)

theorem RoundsAs.refl (q : ℚ) : RoundsAs q q := fun _ => ⟨Iff.rfl, Iff.rfl⟩

theorem RoundsAs.eq_iff {q : ℚ} {x : ℝ} (h : RoundsAs q x) (c : Nat) : (q : ℝ) = midpoint c ↔ x = midpoint c := by
  rw [le_antisymm_iff, le_antisymm_iff, (h c).1, (h c).2]

theorem RoundsAs.nearestCode {q : ℚ} {x : ℝ} (h : RoundsAs q x) {n : Nat} (hn : NearestCode n (q : ℝ)) : NearestCode n x where
  above := (h n).1.1 hn.above
  tieAbove hx := hn.tieAbove ((h.eq_iff n).2 hx)
  below m hm := (h m).2.1 (hn.below m hm)
  tieBelow m hm hx := hn.tieBelow m hm ((h.eq_iff m).2 hx.symm).symm

theorem midpoint_maxCode : midpoint f32.maxCode = 2 ^ 128 - 2 ^ 103 := by
  have hcode : f32.maxCode = (2 ^ 24 - 1) + 253 * 2 ^ f32.mBits := by decide
  have hnext : f32.maxCode + 1 = 2 ^ 24 + 253 * 2 ^ f32.mBits := by decide
  have hulp : f32.ulp 253 = 2 ^ 104 := by norm_num [FloatFmt.ulp, f32]
  rw [midpoint, hnext, hcode, f32.magnitude_binade (.inr (by decide)) (by decide), f32.magnitude_binade (.inr (by decide)) (by decide),
    hulp]
  norm_num

/-- The nearest code lies beyond the finite ones from 2^128 - 2^103 on (R70). -/
theorem NearestCode.beyond_iff {n : Nat} {x : ℝ} (h : NearestCode n x) : f32.maxCode < n ↔ 2 ^ 128 - 2 ^ 103 ≤ x := by
  have hmid : ((midpoint f32.maxCode : ℚ) : ℝ) = 2 ^ 128 - 2 ^ 103 := by rw [midpoint_maxCode]; push_cast; ring
  rw [← hmid]
  constructor
  · intro hn
    obtain ⟨m, rfl⟩ : ∃ m, n = m + 1 := ⟨n - 1, by omega⟩
    refine le_trans ?_ (h.below m rfl)
    exact_mod_cast midpoint_strictMono.monotone (show f32.maxCode ≤ m by omega)
  · intro hx
    by_contra hn
    have hle : ((midpoint n : ℚ) : ℝ) ≤ midpoint f32.maxCode := by exact_mod_cast midpoint_strictMono.monotone (not_lt.1 hn)
    have heq : midpoint n = midpoint f32.maxCode := by exact_mod_cast le_antisymm hle (hx.trans h.above)
    have heven := h.tieAbove (le_antisymm h.above (hle.trans hx))
    rw [midpoint_strictMono.injective heq] at heven
    exact absurd heven (by decide)

theorem bitAt_f32Word (s : Bool) {c : Nat} (hc : c < 2 ^ 31) : bitAt (f32Word s c) 31 = s := by
  have hnat := toNat_f32Word s hc
  rw [bitAt, ← BitVec.testBit_toNat, hnat, FloatFmt.signed, show f32.eBits + f32.mBits = 31 from rfl]
  cases s
  · exact Nat.testBit_lt_two_pow hc
  · rw [if_pos rfl, Nat.add_comm, Nat.testBit_two_pow_add_eq, Nat.testBit_lt_two_pow hc]; rfl

theorem toNat_f32Word_mod_two (s : Bool) {c : Nat} (hc : c < 2 ^ 31) : (f32Word s c).toNat % 2 = c % 2 := by
  rw [toNat_f32Word s hc, FloatFmt.signed, show f32.eBits + f32.mBits = 31 from rfl]
  split <;> omega

/-- The nearest code with its sign is nearest among the words that hold a number, and even where another value is as near. -/
theorem NearestCode.best_word {n : Nat} {x : ℝ} (h : NearestCode n x) (hx : 0 < x) (hn : n ≤ f32.maxCode) (s : Bool) :
    ∃ r m, ofF32 (f32Word s n) = .fin r m ∧ ∀ v p m, ofF32 v = .fin p m →
      |(r : ℝ) - (if s then -x else x)| ≤ |(p : ℝ) - (if s then -x else x)| ∧
        (p ≠ r → |(r : ℝ) - (if s then -x else x)| = |(p : ℝ) - (if s then -x else x)| → (f32Word s n).toNat % 2 = 0) := by
  refine ⟨_, _, ofF32_f32Word s hn, fun v p m hv => ?_⟩
  rw [toNat_f32Word_mod_two s (lt_of_le_of_lt hn f32_codes)]
  obtain ⟨c, -, -, rfl⟩ := exists_code_of_fin hv
  have hmag : |(if m then -f32.magnitude c else f32.magnitude c : ℚ)| = f32.magnitude c := by
    cases m <;> simp [magnitude_nonneg]
  generalize (if m then -f32.magnitude c else f32.magnitude c : ℚ) = p at hmag
  have hmag' : |(p : ℝ)| = f32.magnitude c := by exact_mod_cast hmag
  cases s
  · simpa using h.best_signed hx c hmag'
  · have hneg := h.best_signed hx c (p := -p) (by rwa [abs_neg])
    have hflip : ∀ y : ℝ, |y - -x| = |-y - x| := fun y => by rw [← abs_neg]; congr 1; ring
    simp only [if_true, Rat.cast_neg, hflip, neg_neg]
    exact ⟨hneg.1, fun hne heq => hneg.2 (fun h' => hne (by
      have : -p = f32.magnitude n := by exact_mod_cast h'
      rw [← this, neg_neg])) heq⟩

/-- A number q that rounds as x does gives the word of x rounded once; `s` is the sign of both. -/
theorem rounds32_toF32 {q : ℚ} {x : ℝ} (hq : 0 < q) (hx : 0 < x) (h : RoundsAs q x) (s neg : Bool) :
    Rounds32 (toF32 (.fin (if s then -q else q) s)) (if s then -x else x) neg := by
  have hne : (if s then -q else q) ≠ 0 := by cases s <;> simp [hq.ne']
  have hcode := nearestCode_roundCode hne
  have habs : |if s then -q else q| = q := by cases s <;> simp [abs_of_pos hq]
  rw [habs] at hcode
  replace hcode := h.nearestCode hcode
  rw [toF32_fin hne]
  generalize f32.roundCode .rne (if s then -q else q) = n at hcode
  have hbeyond := hcode.beyond_iff
  have hover : 2 ^ 128 - 2 ^ 103 ≤ x → f32Word s (min n (f32.maxCode + 1)) = if s then 0xFF800000 else 0x7F800000 := by
    intro hbig
    rw [min_eq_right (hbeyond.2 hbig)]
    cases s <;> rfl
  have habs' : |if s then -x else x| = x := by cases s <;> simp [abs_of_pos hx]
  have hneg : (if s then -x else x) < 0 ↔ s = true := by cases s <;> simp [hx, hx.le]
  refine ⟨fun h0 => absurd h0 ?_, fun hpos hbig => ?_, fun hlow hbig => ?_, fun _ hlt => ?_⟩
  · cases s <;> simp [hx.ne']
  · obtain rfl : s = false := by rw [← Bool.not_eq_true, ← hneg]; exact hpos.not_gt
    exact hover hbig
  · obtain rfl : s = true := hneg.1 hlow
    exact hover (by simpa using neg_le_neg hbig)
  · rw [habs'] at hlt
    have hle : n ≤ f32.maxCode := by rw [← not_lt, hbeyond]; exact not_le.2 hlt
    rw [min_eq_left (by omega), bitAt_f32Word s (lt_of_le_of_lt hle f32_codes), hneg]
    exact ⟨Iff.rfl, hcode.best_word hx hle s⟩

/-- An exact number as a word: rounded once, an exact zero with the sign given. -/
theorem rounds32_xval (q : ℚ) (neg : Bool) : Rounds32 (toF32 (xval q neg)) (q : ℝ) neg := by
  rcases lt_trichotomy q 0 with hq | rfl | hq
  · have hround := rounds32_toF32 (q := -q) (x := -q) (by linarith) (by exact_mod_cast neg_pos.2 hq)
      (by exact_mod_cast RoundsAs.refl (-q)) true neg
    simpa [xval, hq.ne, hq] using hround
  · refine ⟨fun _ => ?_, fun h => absurd h (by simp), fun h => absurd h (by simp), fun h => absurd Rat.cast_zero h⟩
    simp [xval, toF32_zero]
  · have hround := rounds32_toF32 (q := q) (x := q) hq (by exact_mod_cast hq) (RoundsAs.refl q) false neg
    simpa [xval, hq.ne', hq.not_gt] using hround

/-! ### Roots (R246) -/

/-- Two values between neighbouring multiples of a unit round alike, the multiples being at least 2^25 units. -/
theorem roundsAs_of_cell {q : ℚ} {x : ℝ} (A : Nat) (j : Int) (hA : 2 ^ 25 ≤ A) (hq : A * (2 : ℝ) ^ j < q ∧ (q : ℝ) < (A + 1) * 2 ^ j)
    (hx : A * (2 : ℝ) ^ j < x ∧ x < (A + 1) * 2 ^ j) : RoundsAs q x := by
  have hunit : (0 : ℝ) < 2 ^ j := by positivity
  have hout : ∀ c, (midpoint c : ℝ) ≤ A * 2 ^ j ∨ (A + 1) * 2 ^ j ≤ (midpoint c : ℝ) := by
    intro c
    obtain ⟨e, k, rfl, hlow, hhigh⟩ := f32.code_binade c
    have hk : k < 2 ^ 24 := hhigh
    have hmid : (midpoint (k + e * 2 ^ f32.mBits) : ℝ) = (2 * k + 1 : Nat) * (2 : ℝ) ^ ((e : Int) - 150) := by
      have hnext : k + e * 2 ^ f32.mBits + 1 = (k + 1) + e * 2 ^ f32.mBits := by ring
      have hulp : f32.ulp e = 2 * (2 : ℚ) ^ ((e : Int) - 150) := by
        rw [FloatFmt.ulp, ← zpow_one_add₀ two_ne_zero]; congr 1; simp [f32]; ring
      rw [midpoint, hnext, f32.magnitude_binade hlow hhigh.le, f32.magnitude_binade (hlow.imp_right (by omega)) hhigh, hulp]
      push_cast; ring
    rw [hmid]
    by_contra hin
    obtain ⟨hgt, hlt⟩ := not_or.1 hin
    rw [not_le] at hgt hlt
    have hje : j < (e : Int) - 150 := by
      by_contra hge
      have hle : (2 : ℝ) ^ ((e : Int) - 150) ≤ 2 ^ j := zpow_le_zpow_right₀ one_le_two (not_lt.1 hge)
      have hsmall : ((2 * k + 1 : Nat) : ℝ) ≤ A := by exact_mod_cast (show 2 * k + 1 ≤ A by omega)
      exact absurd (mul_le_mul hsmall hle (by positivity) (by positivity)) (not_le.2 hgt)
    obtain ⟨d, hd⟩ := Int.eq_ofNat_of_zero_le (show 0 ≤ (e : Int) - 150 - j by omega)
    have hscale : (2 : ℝ) ^ ((e : Int) - 150) = (2 ^ d : Nat) * 2 ^ j := by
      rw [show (e : Int) - 150 = d + j by omega, zpow_add₀ two_ne_zero, zpow_natCast]; push_cast; rfl
    rw [hscale, ← mul_assoc, ← Nat.cast_mul] at hgt hlt
    have h1 : (A : ℝ) < ((2 * k + 1) * 2 ^ d : Nat) := lt_of_mul_lt_mul_right hgt hunit.le
    have h2 : (((2 * k + 1) * 2 ^ d : Nat) : ℝ) < (A + 1 : Nat) := by
      push_cast at hlt ⊢
      exact lt_of_mul_lt_mul_right hlt hunit.le
    have h1' : A < (2 * k + 1) * 2 ^ d := by exact_mod_cast h1
    have h2' : (2 * k + 1) * 2 ^ d < A + 1 := by exact_mod_cast h2
    omega
  intro c
  rcases hout c with h | h
  · exact ⟨⟨fun h' => by linarith, fun h' => by linarith⟩, ⟨fun _ => by linarith, fun _ => by linarith⟩⟩
  · exact ⟨⟨fun _ => by linarith, fun _ => by linarith⟩, ⟨fun h' => by linarith, fun h' => by linarith⟩⟩

/-- The bit-by-bit root: from a root too small by less than 2^k to the integer root. -/
theorem isqrt_spec (n k : Nat) {r : Nat} (hlow : r * r ≤ n) (hhigh : n < (r + 2 ^ k) * (r + 2 ^ k)) :
    isqrt n k r * isqrt n k r ≤ n ∧ n < (isqrt n k r + 1) * (isqrt n k r + 1) := by
  induction k generalizing r with
  | zero => exact ⟨hlow, hhigh⟩
  | succ k ih =>
    rw [isqrt]
    unfold sqrtBit
    split
    · next hle =>
      refine ih hle ?_
      have : r + 2 ^ k + 2 ^ k = r + 2 ^ (k + 1) := by ring
      rwa [this]
    · next hgt => exact ih hlow (not_le.1 hgt)

/-- The even power of two by which `sqrtNear` scales q, halved. -/
def rootScale (q : ℚ) : Int := 80 - ilog2 q / 2

/-- The integer root that `sqrtNear` finds of a fraction. -/
def fracRoot (f : Nat × Nat) : Nat := isqrt (f.1 / f.2) 84 0

theorem sqrtNear_eq (q : ℚ) :
    let f := fracAt q (-(2 * rootScale q))
    sqrtNear q = (if fracRoot f * fracRoot f * f.2 = f.1 then (fracRoot f : ℚ) else fracRoot f + 1 / 2) * (2 : ℚ) ^ (-rootScale q) := by
  intro f
  have hk : 160 - 2 * (ilog2 q / 2) = 2 * rootScale q := by unfold rootScale; omega
  have hhalf : -(2 * rootScale q / 2) = -rootScale q := by omega
  have hsticky : mkRat 1 2 = (1 / 2 : ℚ) := by norm_num
  simp only [sqrtNear, fracRoot, hk, hhalf, hsticky, pow2_eq_zpow] <;> rfl

/-- The scaled number lies from 2^160 to below 2^162. -/
theorem rootScale_spec {q : ℚ} (hq : 0 < q) : (2 : ℚ) ^ 160 ≤ q * 2 ^ (2 * rootScale q) ∧ q * 2 ^ (2 * rootScale q) < 2 ^ 162 := by
  obtain ⟨hlow, hhigh⟩ := ilog2_bounds hq.ne'
  rw [abs_of_pos hq] at hlow hhigh
  have hexp : 160 ≤ ilog2 q + 2 * rootScale q ∧ ilog2 q + 1 + 2 * rootScale q ≤ 162 := by unfold rootScale; omega
  constructor
  · calc (2 : ℚ) ^ 160 ≤ 2 ^ (ilog2 q + 2 * rootScale q) := by
          rw [← zpow_natCast]; exact zpow_le_zpow_right₀ one_le_two hexp.1
      _ = 2 ^ ilog2 q * 2 ^ (2 * rootScale q) := zpow_add₀ two_ne_zero _ _
      _ ≤ _ := mul_le_mul_of_nonneg_right hlow (by positivity)
  · calc q * 2 ^ (2 * rootScale q) < 2 ^ (ilog2 q + 1) * 2 ^ (2 * rootScale q) := mul_lt_mul_of_pos_right hhigh (by positivity)
      _ = 2 ^ (ilog2 q + 1 + 2 * rootScale q) := (zpow_add₀ two_ne_zero _ _).symm
      _ ≤ 2 ^ 162 := by rw [← zpow_natCast]; exact zpow_le_zpow_right₀ one_le_two hexp.2

/-- The integer root of a fraction from 2^160 to below 2^162; it is the root itself where its square gives the fraction back. -/
theorem fracRoot_spec {f : Nat × Nat} {y : ℚ} (hd : 0 < f.2) (hy : (f.1 : ℚ) / f.2 = y) (hlow : 2 ^ 160 ≤ y) (hhigh : y < 2 ^ 162) :
    2 ^ 25 ≤ fracRoot f ∧ (fracRoot f : ℚ) ^ 2 ≤ y ∧ y < ((fracRoot f : ℚ) + 1) ^ 2 ∧
      (fracRoot f * fracRoot f * f.2 = f.1 ↔ y = (fracRoot f : ℚ) ^ 2) := by
  have hfloor := roundMag_rtz_le (n := f.1) hd
  have hceil := lt_roundMag_rtz (n := f.1) hd
  have hd' : (f.2 : ℚ) ≠ 0 := by exact_mod_cast hd.ne'
  simp only [roundMag, hy] at hfloor hceil
  rw [fracRoot]
  generalize f.1 / f.2 = n at hfloor hceil
  have hn1 : 2 ^ 160 < n + 1 := by exact_mod_cast hlow.trans_lt hceil
  have hn2 : n < 2 ^ 162 := by exact_mod_cast hfloor.trans_lt hhigh
  obtain ⟨hr1, hr2⟩ := isqrt_spec n 84 (r := 0) (Nat.zero_le n) (by omega)
  generalize isqrt n 84 0 = r at hr1 hr2
  refine ⟨?_, ?_, ?_, ?_⟩
  · by_contra hsmall
    have hsq := Nat.mul_le_mul (show r + 1 ≤ 2 ^ 25 by omega) (show r + 1 ≤ 2 ^ 25 by omega)
    omega
  · exact le_trans (by rw [sq]; exact_mod_cast hr1) hfloor
  · refine hceil.trans_le ?_
    rw [sq]; exact_mod_cast hr2
  · rw [← hy, div_eq_iff hd', eq_comm, sq]
    exact_mod_cast Iff.rfl

/-- What `sqrtNear` works with: a number q is y / 4^h, and r is the integer root of y. -/
theorem sqrtNear_spec {q : ℚ} (hq : 0 < q) : ∃ (h : Int) (r : Nat) (y : ℚ), q = y * ((2 : ℚ) ^ (-h)) ^ 2 ∧ 2 ^ 25 ≤ r ∧
    (r : ℚ) ^ 2 ≤ y ∧ y < ((r : ℚ) + 1) ^ 2 ∧
    sqrtNear q = (if y = (r : ℚ) ^ 2 then (r : ℚ) else r + 1 / 2) * (2 : ℚ) ^ (-h) := by
  obtain ⟨hlow, hhigh⟩ := rootScale_spec hq
  have hnear := sqrtNear_eq q
  have hfrac := fracAt_eq q (-(2 * rootScale q))
  have hd := fracAt_snd_pos q (-(2 * rootScale q))
  rw [abs_of_pos hq, zpow_neg, div_inv_eq_mul] at hfrac
  generalize fracAt q (-(2 * rootScale q)) = f at hnear hfrac hd
  generalize rootScale q = h at hlow hhigh hnear hfrac
  obtain ⟨hbig, hle, hlt, hexact⟩ := fracRoot_spec hd hfrac hlow hhigh
  refine ⟨h, fracRoot f, q * 2 ^ (2 * h), ?_, hbig, hle, hlt, ?_⟩
  · have hunit : (2 : ℚ) ^ (2 * h) * (2 ^ (-h)) ^ 2 = 1 := by
      rw [← zpow_natCast, ← zpow_mul, ← zpow_add₀ two_ne_zero, show 2 * h + -h * (2 : Nat) = 0 by push_cast; ring, zpow_zero]
    rw [mul_assoc, hunit, mul_one]
  · rw [hnear]
    simp only [hexact]

/-- sqrtNear rounds as the root does. -/
theorem roundsAs_sqrtNear {q : ℚ} (hq : 0 < q) : 0 < sqrtNear q ∧ RoundsAs (sqrtNear q) (Real.sqrt q) := by
  obtain ⟨h, r, y, hy, hr, hlow, hhigh, hnear⟩ := sqrtNear_spec hq
  have hunit : (0 : ℝ) < 2 ^ (-h) := by positivity
  have hroot : Real.sqrt q = Real.sqrt y * 2 ^ (-h) := by
    rw [hy]; push_cast; rw [Real.sqrt_mul' _ (by positivity), Real.sqrt_sq hunit.le]
  refine ⟨by rw [hnear]; split <;> positivity, ?_⟩
  rw [hroot, hnear]
  split
  · next heq =>
    rw [heq]; push_cast; rw [Real.sqrt_sq (by positivity)]
    have hcast : (((r : ℚ) * 2 ^ (-h) : ℚ) : ℝ) = (r : ℝ) * 2 ^ (-h) := by push_cast; rfl
    rw [← hcast]
    exact RoundsAs.refl _
  · next hne =>
    have hlow' : (r : ℝ) ^ 2 < y := by exact_mod_cast lt_of_le_of_ne hlow (Ne.symm hne)
    have hhigh' : (y : ℝ) < ((r : ℝ) + 1) ^ 2 := by exact_mod_cast hhigh
    refine roundsAs_of_cell r (-h) hr ⟨?_, ?_⟩ ⟨?_, ?_⟩
    · push_cast; exact mul_lt_mul_of_pos_right (by linarith) hunit
    · push_cast; exact mul_lt_mul_of_pos_right (by linarith) hunit
    · exact mul_lt_mul_of_pos_right ((Real.lt_sqrt (by positivity)).2 hlow') hunit
    · exact mul_lt_mul_of_pos_right ((Real.sqrt_lt' (by positivity)).2 hhigh') hunit

end Sys2Proof.Machine
end

section
/-!
PROOFS. Micro-ops and programs: each operation gives its exact result rounded once, with its NaN, order and edge rules, and a
program applies them in order (R244, R246, R247).
-/

namespace Sys2Proof.Machine

/-! ### The order of values, -0 below +0 (R246) -/

theorem ordLt_irrefl (a : XVal) : ordLt a a = false := by
  cases a <;> simp [ordLt]

theorem ordLt_asymm {a b : XVal} (h : ordLt a b = true) : ordLt b a = false := by
  cases a <;> cases b <;> simp [ordLt] at h ⊢
  case inf.inf s t => rw [h.1]; simp
  case inf.fin s p t => exact h
  case fin.inf p s t => exact h
  case fin.fin p s q t =>
    rcases h with h | ⟨⟨rfl, hs⟩, ht⟩
    · exact ⟨h.le, fun he => absurd he h.ne'⟩
    · simp [hs, ht]

/-! ### NaN (R246) -/

theorem exists_nan {x : XVal} (h : x.isNan = true) : ∃ s, x = .nan s := by
  cases x <;> simp [XVal.isNan] at h ⊢

theorem toF32_nan (s : Bool) : toF32 (.nan s) = nan32 := by cases s <;> rfl

theorem add_nan {x y : XVal} (h : x.isNan = true ∨ y.isNan = true) : (x.add y).isNan = true := by
  rcases h with h | h <;> obtain ⟨s, rfl⟩ := exists_nan h
  · rfl
  · cases x <;> rfl

theorem mul_nan {x y : XVal} (h : x.isNan = true ∨ y.isNan = true) : (x.mul y).isNan = true := by
  rcases h with h | h <;> obtain ⟨s, rfl⟩ := exists_nan h
  · rfl
  · cases x <;> rfl

theorem div_nan {x y : XVal} (h : x.isNan = true ∨ y.isNan = true) : (x.div y).isNan = true := by
  rcases h with h | h <;> obtain ⟨s, rfl⟩ := exists_nan h
  · rfl
  · cases x <;> rfl

theorem isNan_negate (x : XVal) : x.negate.isNan = x.isNan := by cases x <;> rfl

theorem toF32_of_isNan {x : XVal} (h : x.isNan = true) : toF32 x = nan32 := by
  obtain ⟨s, rfl⟩ := exists_nan h
  exact toF32_nan s

theorem isNan_nan32 : (ofF32 nan32).isNan = true := by decide +kernel

theorem minOp_nan {a b : BitVec 32} (h : (ofF32 a).isNan = true ∨ (ofF32 b).isNan = true) : minOp a b = nan32 := by
  simp only [minOp, Bool.or_eq_true, if_pos h]

theorem maxOp_nan {a b : BitVec 32} (h : (ofF32 a).isNan = true ∨ (ofF32 b).isNan = true) : maxOp a b = nan32 := by
  simp only [maxOp, Bool.or_eq_true, if_pos h]

theorem keepNan_of_not {a : BitVec 32} (h : (ofF32 a).isNan = false) (r : BitVec 32) : keepNan a r = r := by simp [keepNan, h]

section
variable {op : Nat} (rel : Nat) {a b c : BitVec 32} (v : BitVec 24)

/-- An operation of one operand gives the NaN for a NaN. -/
theorem evalOp_unary_nan (hop : uArity op = some 1) (ha : (ofF32 a).isNan = true) : evalOp op rel a b c v = nan32 := by
  obtain ⟨s, hs⟩ := exists_nan ha
  unfold uArity at hop
  split at hop <;> simp at hop
  all_goals simp [evalOp, keepNan, sqrtOp, rsqOp, exp2Op, log2Op, intOp, XVal.div, XVal.isNan, hs, toF32_nan]

/-- One of two operands gives the NaN where either is a NaN, but for CMP. -/
theorem evalOp_binary_nan (hop : uArity op = some 2) (hcmp : op ≠ 0x12) (h : (ofF32 a).isNan = true ∨ (ofF32 b).isNan = true) :
    evalOp op rel a b c v = nan32 := by
  have hneg : (ofF32 a).isNan = true ∨ (ofF32 b).negate.isNan = true := by rwa [isNan_negate]
  unfold uArity at hop
  split at hop <;> simp at hop
  · exact toF32_of_isNan (add_nan h)
  · exact toF32_of_isNan (add_nan hneg)
  · exact toF32_of_isNan (mul_nan h)
  · exact toF32_of_isNan (div_nan h)
  · exact minOp_nan h
  · exact maxOp_nan h
  · exact absurd rfl hcmp

theorem evalOp_ternary_nan (hop : uArity op = some 3) (hsel : op ≠ 0x13)
    (h : (ofF32 a).isNan = true ∨ (ofF32 b).isNan = true ∨ (ofF32 c).isNan = true) : evalOp op rel a b c v = nan32 := by
  unfold uArity at hop
  split at hop <;> simp at hop
  · refine toF32_of_isNan (add_nan ?_)
    exact (or_assoc.2 h).imp_left mul_nan
  · exact absurd rfl hsel
  · refine minOp_nan ((or_assoc.2 h).imp_left (fun h => ?_))
    rw [maxOp_nan h]
    exact isNan_nan32

/-- An operation on a NaN operand gives the NaN, but for CMP and SEL (R246). -/
theorem evalOp_nan {n : Nat} (hop : uArity op = some n) (hcmp : op ≠ 0x12) (hsel : op ≠ 0x13)
    (h : 0 < n ∧ (ofF32 a).isNan = true ∨ 1 < n ∧ (ofF32 b).isNan = true ∨ 2 < n ∧ (ofF32 c).isNan = true) :
    evalOp op rel a b c v = nan32 := by
  have hn : n = 0 ∨ n = 1 ∨ n = 2 ∨ n = 3 := by
    unfold uArity at hop
    split at hop <;> simp at hop <;> omega
  rcases hn with rfl | rfl | rfl | rfl
  · simp at h
  · exact evalOp_unary_nan rel v hop (by simpa using h)
  · exact evalOp_binary_nan rel v hop hcmp (by simpa using h)
  · exact evalOp_ternary_nan rel v hop hsel (by simpa using h)

end

theorem cmp_of_isNan (rel : Nat) {a b : BitVec 32} (c : BitVec 32) (v : BitVec 24)
    (h : (ofF32 a).isNan = true ∨ (ofF32 b).isNan = true) :
    evalOp 0x12 rel a b c v = if rel < 3 then 0 else 0x3F800000 := by
  have hnan : ((ofF32 a).isNan || (ofF32 b).isNan) = true := by simpa using h
  simp only [evalOp, cmpOp, hnan]
  match rel with
  | 0 | 1 | 2 => rfl
  | n + 3 => simp

/-! ### Numbers (R246) -/

theorem midpoint_zero : midpoint 0 = (2 : ℚ) ^ (-150 : Int) := by
  have hone := f32.magnitude_binade (e := 0) (k := 1) (.inl rfl) (by decide)
  rw [show 1 + 0 * 2 ^ f32.mBits = 1 from rfl] at hone
  rw [midpoint, f32.magnitude_zero, hone]
  norm_num [FloatFmt.ulp, f32]

theorem ilog2_zpow (n : Int) : ilog2 ((2 : ℚ) ^ n) = n := by
  obtain ⟨hlow, hhigh⟩ := ilog2_bounds (zpow_ne_zero n (two_ne_zero (α := ℚ)))
  rw [abs_of_pos (by positivity)] at hlow hhigh
  have h1 := (zpow_le_zpow_iff_right₀ (one_lt_two (α := ℚ))).1 hlow
  have h2 := (zpow_lt_zpow_iff_right₀ (one_lt_two (α := ℚ))).1 hhigh
  omega


section
variable (rel : Nat) {a b c : BitVec 32} (v : BitVec 24) {p q x : ℚ} {s t u : Bool} (ha : ofF32 a = .fin p s)
include ha

theorem rounds32_add (hb : ofF32 b = .fin q t) : Rounds32 (evalOp 0x02 rel a b c v) ((p + q : ℚ) : ℝ) (s && t) := by
  simpa only [evalOp, ha, hb, XVal.add] using rounds32_xval (p + q) (s && t)

theorem rounds32_sub (hb : ofF32 b = .fin q t) : Rounds32 (evalOp 0x03 rel a b c v) ((p - q : ℚ) : ℝ) (s && !t) := by
  simpa only [evalOp, ha, hb, XVal.negate, XVal.add, ← sub_eq_add_neg] using rounds32_xval (p - q) (s && !t)

theorem rounds32_mul (hb : ofF32 b = .fin q t) : Rounds32 (evalOp 0x04 rel a b c v) ((p * q : ℚ) : ℝ) (s ^^ t) := by
  simpa only [evalOp, ha, hb, XVal.mul] using rounds32_xval (p * q) (s ^^ t)

theorem rounds32_div (hb : ofF32 b = .fin q t) (hq : q ≠ 0) : Rounds32 (evalOp 0x06 rel a b c v) ((p / q : ℚ) : ℝ) (s ^^ t) := by
  simpa only [evalOp, ha, hb, XVal.div, if_neg hq] using rounds32_xval (p / q) (s ^^ t)

/-- A product that is not zero has the sign of its factors' signs together. -/
theorem xval_mul_eq (hb : ofF32 b = .fin q t) : xval (p * q) (s ^^ t) = .fin (p * q) (s ^^ t) := by
  unfold xval
  split
  · rfl
  · next hne =>
    obtain ⟨hp, hq⟩ := mul_ne_zero_iff.1 hne
    rw [sign_of_fin ha hp, sign_of_fin hb hq]
    rcases hp.lt_or_gt with hp | hp <;> rcases hq.lt_or_gt with hq | hq <;>
      simp [mul_neg_iff, hp, hq, hp.not_gt, hq.not_gt]

theorem rounds32_fma (hb : ofF32 b = .fin q t) (hc : ofF32 c = .fin x u) :
    Rounds32 (evalOp 0x05 rel a b c v) ((p * q + x : ℚ) : ℝ) ((s ^^ t) && u) := by
  simpa only [evalOp, ha, hb, hc, XVal.mul, xval_mul_eq ha hb, XVal.add] using rounds32_xval (p * q + x) ((s ^^ t) && u)

/-- CMP of numbers: 1.0 where the relation holds, else +0. -/
theorem cmp_of_fin (hb : ofF32 b = .fin q t) (hrel : rel < 4) : evalOp 0x12 rel a b c v =
    if (rel = 0 ∧ p = q) ∨ (rel = 1 ∧ p < q) ∨ (rel = 2 ∧ p ≤ q) ∨ (rel = 3 ∧ p ≠ q) then 0x3F800000 else 0 := by
  simp only [evalOp, cmpOp, ha, hb, XVal.isNan, valEq, valLt, Bool.or_self, Bool.not_false, Bool.true_and, Bool.false_or]
  interval_cases rel <;> simp [le_iff_lt_or_eq]

theorem rounds32_rcp (hp : p ≠ 0) : Rounds32 (evalOp 0x0B rel a b c v) ((1 / p : ℚ) : ℝ) s := by
  simpa only [evalOp, ha, XVal.div, if_neg hp, Bool.false_bne] using rounds32_xval (1 / p) s

theorem rounds32_sqrt (hp : 0 < p) : Rounds32 (evalOp 0x0C rel a b c v) (Real.sqrt p) false := by
  obtain ⟨hpos, hround⟩ := roundsAs_sqrtNear hp
  have hroot : 0 < Real.sqrt p := Real.sqrt_pos.2 (by exact_mod_cast hp)
  simpa [evalOp, sqrtOp, ha, hp.ne', hp.not_gt] using rounds32_toF32 hpos hroot hround false false

theorem rounds32_rsq (hp : 0 < p) : Rounds32 (evalOp 0x0D rel a b c v) (1 / Real.sqrt p) false := by
  obtain ⟨hpos, hround⟩ := roundsAs_sqrtNear (one_div_pos.2 hp)
  have hroot : 0 < Real.sqrt p := Real.sqrt_pos.2 (by exact_mod_cast hp)
  have hinv : Real.sqrt ((1 / p : ℚ) : ℝ) = 1 / Real.sqrt p := by push_cast; rw [one_div, Real.sqrt_inv, one_div]
  rw [hinv] at hround
  simpa [evalOp, rsqOp, ha, hp.ne', hp.not_gt] using rounds32_toF32 hpos (one_div_pos.2 hroot) hround false false

theorem rounds32_floor : Rounds32 (evalOp 0x10 rel a b c v) (⌊p⌋ : ℝ) s := by
  have hround := rounds32_xval (⌊p⌋ : ℚ) s
  rw [Rat.cast_intCast] at hround
  have hword : evalOp 0x10 rel a b c v = toF32 (xval (⌊p⌋ : ℚ) s) := by simp only [evalOp, intOp, ha]; rfl
  rwa [hword]

theorem rounds32_rint : Rounds32 (evalOp 0x11 rel a b c v) (roundInt .rne p : ℝ) s := by
  have hround := rounds32_xval (roundInt .rne p : ℚ) s
  simpa [evalOp, intOp, ha] using hround

theorem roots_of_neg (hp : p < 0) : evalOp 0x0C rel a b c v = 0x7FC00000 ∧ evalOp 0x0D rel a b c v = 0x7FC00000 ∧
    evalOp 0x0F rel a b c v = 0x7FC00000 := by
  simp [evalOp, sqrtOp, rsqOp, log2Op, ha, hp.ne, hp]

/-- EXP2 of an integer is the rounded power, however far from 0 it lies. -/
theorem exp2Op_int (n : Int) (hp : p = n) : exp2Op a = toF32 (.fin ((2 : ℚ) ^ n) false) := by
  have hpow : (2 : ℚ) ^ n ≠ 0 := by positivity
  have hnear := nearestCode_roundCode hpow
  rw [abs_of_pos (show (0 : ℚ) < 2 ^ n by positivity)] at hnear
  subst hp
  simp only [exp2Op, ha]
  split
  · next hlow =>
    have hn : n < -200 := by exact_mod_cast hlow
    have hzero : f32.roundCode .rne ((2 : ℚ) ^ n) = 0 := by
      by_contra hne
      obtain ⟨m, hm⟩ := Nat.exists_eq_succ_of_ne_zero hne
      have hbelow : midpoint m ≤ (2 : ℚ) ^ n := by exact_mod_cast hnear.below m hm
      have hfirst := (midpoint_strictMono.monotone (Nat.zero_le m)).trans hbelow
      rw [midpoint_zero] at hfirst
      have := (zpow_le_zpow_iff_right₀ (one_lt_two (α := ℚ))).1 hfirst
      omega
    rw [toF32_fin hpow, hzero]
    rfl
  · split
    · next hhigh =>
      have hn : 200 < n := by exact_mod_cast hhigh
      have hbig : (2 : ℚ) ^ (128 : Int) ≤ 2 ^ n := zpow_le_zpow_right₀ one_le_two (by omega)
      have hbeyond := hnear.beyond_iff.2 (by
        have : (2 : ℝ) ^ (128 : Int) ≤ ((2 : ℚ) ^ n : ℚ) := by exact_mod_cast hbig
        norm_num at this ⊢
        linarith)
      rw [toF32_fin hpow, min_eq_right (by omega)]
      rfl
    · simp only [Rat.floor_intCast, if_true, pow2_eq_zpow]

theorem rounds32_exp2 (n : Int) (hp : p = n) : Rounds32 (evalOp 0x0E rel a b c v) ((2 : ℝ) ^ n) false := by
  rw [evalOp, exp2Op_int ha n hp]
  have hround := RoundsAs.refl ((2 : ℚ) ^ n)
  simpa using rounds32_toF32 (by positivity) (by positivity) hround false false

theorem rounds32_log2 (n : Int) (hp : p = (2 : ℚ) ^ n) : Rounds32 (evalOp 0x0F rel a b c v) (n : ℝ) false := by
  have hpos : 0 < p := by rw [hp]; positivity
  have hlog : ilog2 p = n := by rw [hp, ilog2_zpow]
  have hint : xint n = xval n false := by
    by_cases h : n = 0 <;> simp [xint, xval, h]
  have hround := rounds32_xval (n : ℚ) false
  rw [Rat.cast_intCast, ← hint] at hround
  simpa only [evalOp, log2Op, ha, if_neg hpos.ne', if_neg hpos.not_gt, pow2_eq_zpow, hlog, if_pos hp] using hround

/-- RCP, SQRT, RSQ and LOG2 of a zero (R247). -/
theorem zero_edges (hp : p = 0) : evalOp 0x0B rel a b c v = (if s then 0xFF800000 else 0x7F800000) ∧
    evalOp 0x0C rel a b c v = a ∧ evalOp 0x0D rel a b c v = (if s then 0xFF800000 else 0x7F800000) ∧
    evalOp 0x0F rel a b c v = 0xFF800000 := by
  have hrcp : toF32 (.inf s) = if s then 0xFF800000 else 0x7F800000 := by cases s <;> rfl
  simp [evalOp, XVal.div, sqrtOp, rsqOp, log2Op, ha, hp, hrcp]

/-- An infinity times a zero is NaN (R64). -/
theorem inf_mul_zero_word (hp : p = 0) (hb : ofF32 b = .inf t) :
    evalOp 0x04 rel b a c v = 0x7FC00000 ∧ evalOp 0x05 rel b a c v = 0x7FC00000 := by
  simp only [evalOp, ha, hb, XVal.mul, if_pos hp, XVal.add, toF32_nan, and_self]

/-- A quotient of a number other than zero by zero is an infinity, of two zeros NaN (R247). -/
theorem div_zero_word (hb : ofF32 b = .fin q t) (hq : q = 0) : evalOp 0x06 rel a b c v =
    if p = 0 then 0x7FC00000 else if s = t then 0x7F800000 else 0xFF800000 := by
  simp only [evalOp, ha, hb, XVal.div, if_pos hq]
  by_cases hp : p = 0
  · simp only [if_pos hp, toF32_nan]
  · simp only [if_neg hp]
    cases s <;> cases t <;> rfl

end

theorem ofF32_signedZero (s : Bool) : ofF32 (if s then 0x80000000 else 0) = .fin 0 s := by
  have hword : (if s then 0x80000000 else 0) = f32Word s 0 := by cases s <;> rfl
  rw [hword, ofF32_f32Word s (Nat.zero_le _), f32.magnitude_zero, neg_zero, ite_self]

/-! ### Operations on the word, and RND (R246) -/

/-- SEL: the third operand exactly for a zero first one. -/
theorem sel_eq (rel : Nat) (a b c : BitVec 32) (v : BitVec 24) :
    evalOp 0x13 rel a b c v = if a = 0 ∨ a = 0x80000000 then c else b := by
  by_cases hz : a = 0 ∨ a = 0x80000000
  · rw [if_pos hz]
    have hzero : ∃ s, ofF32 a = .fin 0 s := by
      rcases hz with rfl | rfl
      · exact ⟨false, ofF32_signedZero false⟩
      · exact ⟨true, ofF32_signedZero true⟩
    obtain ⟨s, hs⟩ := hzero
    simp [evalOp, hs, XVal.isNan, XVal.nonzero, XVal.isFin]
  · rw [if_neg hz, evalOp]
    refine if_pos ?_
    cases ha : ofF32 a with
    | nan s => rfl
    | inf s => rfl
    | fin p s =>
      have hp : p ≠ 0 := fun hp => hz (by rw [eq_zero_of_fin ha hp]; cases s <;> simp)
      simp [XVal.nonzero, hp]

theorem minOp_spec {a b : BitVec 32} (ha : (ofF32 a).isNan = false) (hb : (ofF32 b).isNan = false) :
    (minOp a b = a ∨ minOp a b = b) ∧ ordLt (ofF32 a) (ofF32 (minOp a b)) = false ∧
      ordLt (ofF32 b) (ofF32 (minOp a b)) = false := by
  simp only [minOp, ha, hb, Bool.or_self, Bool.false_eq_true, if_false]
  split
  · next h => exact ⟨.inr rfl, ordLt_asymm h, ordLt_irrefl _⟩
  · next h => exact ⟨.inl rfl, ordLt_irrefl _, by simpa using h⟩

theorem maxOp_spec {a b : BitVec 32} (ha : (ofF32 a).isNan = false) (hb : (ofF32 b).isNan = false) :
    (maxOp a b = a ∨ maxOp a b = b) ∧ ordLt (ofF32 (maxOp a b)) (ofF32 a) = false ∧
      ordLt (ofF32 (maxOp a b)) (ofF32 b) = false := by
  simp only [maxOp, ha, hb, Bool.or_self, Bool.false_eq_true, if_false]
  split
  · next h => exact ⟨.inr rfl, ordLt_asymm h, ordLt_irrefl _⟩
  · next h => exact ⟨.inl rfl, ordLt_irrefl _, by simpa using h⟩

/-- A 24-bit integer in units of 2^-24 is a number of binary32. -/
theorem exists_magnitude_eq {n : Nat} (hn : n < 2 ^ 24) : ∃ c ≤ f32.maxCode, f32.magnitude c = (n : ℚ) / 2 ^ 24 := by
  rcases Nat.eq_zero_or_pos n with rfl | hpos
  · exact ⟨0, Nat.zero_le _, by rw [f32.magnitude_zero]; simp⟩
  · have hlog : n.log2 < 24 := (Nat.log2_lt hpos.ne').2 hn
    obtain ⟨j, hj⟩ : ∃ j, 23 = n.log2 + j := ⟨23 - n.log2, by omega⟩
    have hlow : 2 ^ 23 ≤ n * 2 ^ j := by
      rw [hj, pow_add]; exact Nat.mul_le_mul_right _ (Nat.log2_self_le hpos.ne')
    have hhigh : n * 2 ^ j < 2 ^ 24 := by
      rw [show 24 = n.log2 + 1 + j by omega, pow_add]
      exact Nat.mul_lt_mul_of_pos_right Nat.lt_log2_self (Nat.two_pow_pos j)
    refine ⟨n * 2 ^ j + (125 - j) * 2 ^ f32.mBits, ?_, ?_⟩
    · have he : (125 - j) * 2 ^ f32.mBits ≤ 125 * 2 ^ 23 := Nat.mul_le_mul_right _ (Nat.sub_le _ _)
      have hmax : f32.maxCode = 2139095039 := rfl
      omega
    · rw [f32.magnitude_binade (.inr hlow) hhigh.le]
      have hulp : f32.ulp (125 - j) * 2 ^ j = 1 / 2 ^ 24 := by
        have hexp : 1 - f32.bias - f32.mBits + ((125 - j : Nat) : Int) + j = -24 := by simp [f32]; omega
        rw [FloatFmt.ulp, ← zpow_natCast, ← zpow_add₀ two_ne_zero, hexp]
        norm_num
      push_cast
      rw [mul_assoc, mul_comm ((2 : ℚ) ^ j), hulp]
      ring

/-- RND is the 24-bit word in units of 2^-24, exactly. -/
theorem ofF32_rnd (rel : Nat) (a b c : BitVec 32) (v : BitVec 24) :
    ofF32 (evalOp 0x15 rel a b c v) = .fin ((v.toNat : ℚ) / 2 ^ 24) false := by
  have hword : evalOp 0x15 rel a b c v = toF32 (.fin ((v.toNat : ℚ) / 2 ^ 24) false) := by
    have hunit : (2 : ℚ) ^ (-24 : Int) = 1 / 2 ^ 24 := by norm_num
    have hsign : ¬ ((v.toNat : Int) < 0) := by omega
    have hval : xval ((v.toNat : ℚ) / 2 ^ 24) false = .fin ((v.toNat : ℚ) / 2 ^ 24) false := by
      simp [xval, div_nonneg]
    rw [← hval, div_eq_mul_one_div]
    simp [evalOp, xint, XVal.mul, pow2_eq_zpow, hunit, hsign]
  obtain ⟨c, hc, hmag⟩ := exists_magnitude_eq v.isLt
  rw [hword, ← hmag]
  by_cases hzero : c = 0
  · rw [hzero, f32.magnitude_zero, toF32_zero, ofF32_signedZero]
  · have habs : |f32.magnitude c| = f32.magnitude c := abs_of_nonneg (magnitude_nonneg f32 c)
    rw [toF32_fin (magnitude_pos hzero).ne', f32.roundCode_magnitude (by decide) hzero habs, min_eq_left (by omega),
      ofF32_f32Word false hc]
    rfl

/-! ### Programs (R244) -/

section
variable (p : BitVec 1024) (srcs : List (BitVec 32)) (rnd : Nat → Nat → BitVec 24)

/-- What micro-op j writes, the temporaries being those given. -/
def opResult (j : Nat) (temps : List (BitVec 32)) : BitVec 32 :=
  evalOp (uOp (pOp p j)) (uMod (pOp p j)) (selWord p temps srcs (uSel (pOp p j) 0)) (selWord p temps srcs (uSel (pOp p j) 1))
    (selWord p temps srcs (uSel (pOp p j) 2)) (rnd j (uMod (pOp p j)))

/-- The temporaries after the first j micro-ops of a program. -/
def tempsAfter : Nat → List (BitVec 32)
  | 0 => List.replicate 8 0
  | j + 1 => (tempsAfter j).set (uDst (pOp p j)) (opResult p srcs rnd j (tempsAfter j))

theorem runOps_tempsAfter (n j : Nat) (last : BitVec 32) :
    runOps p srcs rnd (n + 1) j (tempsAfter p srcs rnd j) last = opResult p srcs rnd (j + n) (tempsAfter p srcs rnd (j + n)) := by
  induction n generalizing j last with
  | zero => rfl
  | succ n ih =>
    rw [show j + (n + 1) = (j + 1) + n by omega]
    exact ih (j + 1) (opResult p srcs rnd j (tempsAfter p srcs rnd j))

theorem runProgram_eq (h : 0 < pLen p) :
    runProgram p srcs rnd = opResult p srcs rnd (pLen p - 1) (tempsAfter p srcs rnd (pLen p - 1)) := by
  obtain ⟨n, hn⟩ := Nat.exists_eq_succ_of_ne_zero h.ne'
  rw [runProgram, hn]
  exact (runOps_tempsAfter p srcs rnd n 0 0).trans (by simp)

end

/-- Settles O59: each operation's exact result goes through one rounding, the roots through values that round as they do. -/
theorem microOpsRoundOnce : Obligations.MicroOpsRoundOnce := by
  unfold Obligations.MicroOpsRoundOnce
  refine ⟨fun rel a b c v => ⟨?_, ?_, ?_, ?_, ?_, ?_, ?_, ?_, ?_, ?_, ?_, ?_, ?_, ?_, ?_, ?_⟩, fun p srcs rnd h => ?_⟩
  · intro p q s t ha hb
    exact ⟨rounds32_add rel v ha hb, rounds32_sub rel v ha hb, rounds32_mul rel v ha hb, rounds32_div rel v ha hb,
      fun x u hc => rounds32_fma rel v ha hb hc, cmp_of_fin rel v ha hb⟩
  · intro p s ha
    obtain ⟨hnear, heven⟩ := roundInt_rne_near p
    exact ⟨rounds32_rcp rel v ha, rounds32_sqrt rel v ha, rounds32_rsq rel v ha, rounds32_floor rel v ha,
      ⟨_, hnear, heven, rounds32_rint rel v ha⟩, rounds32_exp2 rel v ha, rounds32_log2 rel v ha, roots_of_neg rel v ha⟩
  · exact fun op n hop hcmp hsel hnan => evalOp_nan rel v hop hcmp hsel hnan
  · exact cmp_of_isNan rel c v
  · exact sel_eq rel a b c v
  · exact fun ha => ⟨keepNan_of_not ha _, keepNan_of_not ha _, keepNan_of_not ha _⟩
  · intro ha hb
    obtain ⟨hmin, hmin_a, hmin_b⟩ := minOp_spec ha hb
    obtain ⟨hmax, hmax_a, hmax_b⟩ := maxOp_spec ha hb
    exact ⟨hmin, hmin_a, hmin_b, hmax, hmax_a, hmax_b, rfl⟩
  · exact ofF32_rnd rel a b c v
  · rintro rfl; exact zero_edges rel v (ofF32_signedZero false) rfl
  · rintro rfl; exact zero_edges rel v (ofF32_signedZero true) rfl
  · rintro rfl; exact ⟨rfl, rfl, rfl, rfl, rfl, rfl, rfl⟩
  · rintro rfl; exact ⟨rfl, rfl, rfl, rfl, rfl, rfl, rfl⟩
  · intro p s q t ha hp hb hq
    exact (div_zero_word rel v ha hb hq).trans (if_neg hp)
  · intro s t x y ha hx hb hy
    exact (div_zero_word rel v ha hb hy).trans (if_pos hx)
  · intro s t ha hb
    rw [eq_of_inf ha, eq_of_inf hb]
    cases s <;> cases t <;> exact ⟨rfl, rfl, rfl⟩
  · intro s q t ha hb hq
    exact inf_mul_zero_word rel v hb hq ha
  · exact ⟨tempsAfter p srcs rnd, fun j => opResult p srcs rnd j (tempsAfter p srcs rnd j), rfl, runProgram_eq p srcs rnd h,
      fun j _ => ⟨rfl, rfl⟩⟩

end Sys2Proof.Machine
end

section
/-!
PROOFS. Folds of a REDUCE: the exact accumulator and its record, the extremes, and the pairwise order (R248, R249, R250, R253).
-/

namespace Sys2Proof.Machine

/-! ### The exact accumulator (R249, R253) -/

/-- The sum of the inputs' accumulators, before it is brought back into 320 bits. -/
def accSum (ins : List (Nat × XVal)) : Acc := ins.foldl (fun (a : Acc) x => a.add (accOf x.2)) {}

theorem Acc.add_assoc (a b c : Acc) : (a.add b).add c = a.add (b.add c) := by
  simp [Acc.add, Int.add_assoc, Bool.or_assoc, Bool.and_assoc, Nat.add_assoc]

theorem Acc.empty_add (a : Acc) : Acc.add {} a = a := by simp [Acc.add]

theorem Acc.add_empty (a : Acc) : a.add {} = a := by simp [Acc.add]

theorem foldl_add_accOf (a : Acc) (ins : List (Nat × XVal)) :
    ins.foldl (fun (a : Acc) x => a.add (accOf x.2)) a = a.add (accSum ins) := by
  induction ins generalizing a with
  | nil => exact a.add_empty.symm
  | cons x xs ih => rw [accSum, List.foldl_cons, List.foldl_cons, ih, ih, Acc.empty_add, Acc.add_assoc]

theorem accSum_nil : accSum [] = {} := rfl

theorem accSum_cons (x : Nat × XVal) (xs : List (Nat × XVal)) : accSum (x :: xs) = (accOf x.2).add (accSum xs) := by
  rw [accSum, List.foldl_cons, foldl_add_accOf, Acc.empty_add]

theorem accSum_append (xs ys : List (Nat × XVal)) : accSum (xs ++ ys) = (accSum xs).add (accSum ys) := by
  rw [accSum, List.foldl_append]
  exact foldl_add_accOf (accSum xs) ys

theorem accSum_nan (ins : List (Nat × XVal)) : (accSum ins).nan = ins.any (fun x => x.2.isNan) := by
  induction ins with
  | nil => rfl
  | cons x xs ih =>
    rw [accSum_cons, List.any_cons, ← ih]
    obtain ⟨j, v⟩ := x
    cases v <;> rfl

theorem accSum_pinf (ins : List (Nat × XVal)) : (accSum ins).pinf = true ↔ XVal.inf false ∈ ins.map Prod.snd := by
  induction ins with
  | nil => simp [accSum_nil]
  | cons x xs ih =>
    obtain ⟨j, v⟩ := x
    rw [accSum_cons, List.map_cons, List.mem_cons, ← ih]
    cases v <;> simp [accOf, Acc.add]

theorem accSum_ninf (ins : List (Nat × XVal)) : (accSum ins).ninf = true ↔ XVal.inf true ∈ ins.map Prod.snd := by
  induction ins with
  | nil => simp [accSum_nil]
  | cons x xs ih =>
    obtain ⟨j, v⟩ := x
    rw [accSum_cons, List.map_cons, List.mem_cons, ← ih]
    cases v <;> simp [accOf, Acc.add]

theorem accSum_satur (ins : List (Nat × XVal)) : (accSum ins).satur = false := by
  induction ins with
  | nil => rfl
  | cons x xs ih =>
    obtain ⟨j, v⟩ := x
    rw [accSum_cons, Acc.add, ih]
    cases v <;> rfl

theorem accSum_nact (ins : List (Nat × XVal)) : (accSum ins).nact = ins.length := by
  induction ins with
  | nil => rfl
  | cons x xs ih =>
    obtain ⟨j, v⟩ := x
    rw [accSum_cons, Acc.add, ih, List.length_cons, Nat.add_comm]
    cases v <;> rfl

theorem accSum_nzero (ins : List (Nat × XVal)) : (accSum ins).nzero = decide (∀ x ∈ ins, x.2 = .fin 0 true) := by
  induction ins with
  | nil => rfl
  | cons x xs ih =>
    obtain ⟨j, v⟩ := x
    rw [accSum_cons, Acc.add, ih, Bool.eq_iff_iff]
    cases v <;> simp [accOf]

/-- Numbers that are multiples of 2^-149 are added exactly. -/
theorem accSum_sum {ins : List (Nat × XVal)} (hunit : ∀ x ∈ ins, ∃ z : Int, x.2.rat = z * (2 : ℚ) ^ (-149 : Int))
    (hfin : ∀ x ∈ ins, x.2.isFin = true) :
    ((accSum ins).sum : ℚ) = (ins.map (fun x => x.2.rat)).sum * 2 ^ 149 := by
  induction ins with
  | nil => simp [accSum_nil]
  | cons x xs ih =>
    obtain ⟨z, hz⟩ := hunit x (by simp)
    have hx := hfin x (by simp)
    have hhead : ((accOf x.2).sum : ℚ) = x.2.rat * 2 ^ 149 := by
      have hpow : (2 : ℚ) ^ (-149 : Int) * 2 ^ (149 : Int) = 1 := by rw [← zpow_add₀ two_ne_zero]; rfl
      obtain ⟨j, v⟩ := x
      cases v with
      | nan s => simp [XVal.isFin] at hx
      | inf s => simp [XVal.isFin] at hx
      | fin q s =>
        obtain rfl : q = _ := hz
        have hscaled : (z : ℚ) * 2 ^ (-149 : Int) * pow2 149 = z := by rw [pow2_eq_zpow, mul_assoc, hpow, mul_one]
        simp only [accOf, hscaled, Rat.floor_intCast, XVal.rat]
        rw [mul_assoc, ← zpow_natCast, Nat.cast_ofNat, hpow, mul_one]
    rw [accSum_cons, Acc.add, List.map_cons, List.sum_cons, add_mul, Int.cast_add, hhead,
      ih (fun y hy => hunit y (by simp [hy])) (fun y hy => hfin y (by simp [hy]))]

/-- What an exact reduction of some input gives. -/
theorem foldInputs_exactSum (m : Nat) {ins : List (Nat × XVal)} (h : ins ≠ []) :
    (foldInputs 0 true m ins).empty = false ∧ (foldInputs 0 true m ins).v = (accSum ins).settle.value ∧
      (foldInputs 0 true m ins).acc = (accSum ins).settle := by
  have hne : ins.isEmpty = false := by simpa using h
  simp [foldInputs, hne, accSum]

theorem Acc.settle_flags (a : Acc) : a.settle.nan = a.nan ∧ a.settle.pinf = a.pinf ∧ a.settle.ninf = a.ninf ∧
    a.settle.nzero = a.nzero ∧ a.settle.nact = a.nact := by
  unfold Acc.settle
  split
  · simp
  · split <;> simp

theorem Acc.value_of_nan {a : Acc} (h : a.nan = true ∨ (a.pinf = true ∧ a.ninf = true)) : a.value = .nan false := by
  rw [Acc.value, if_pos (by simpa using h)]

theorem Acc.value_of_inf {a : Acc} {s : Bool} (hnan : a.nan = false) (hinf : (if s then a.ninf else a.pinf) = true)
    (hother : (if s then a.pinf else a.ninf) = false) : a.value = .inf s := by
  cases s <;> simp_all [Acc.value]

/-- The exact sum's value where no input was a NaN or an infinity. -/
theorem value_settle_of_fin {a : Acc} {total : ℚ} (hnan : a.nan = false) (hp : a.pinf = false) (hn : a.ninf = false)
    (hs : a.satur = false) (hsum : (a.sum : ℚ) = total * 2 ^ 149) :
    (total ≠ 0 → |total| < 2 ^ 170 → a.settle.value = .fin total (decide (total < 0)) ∧ a.settle.satur = false) ∧
    (total = 0 → a.settle.value = .fin 0 (a.nzero && decide (0 < a.nact))) ∧
    (2 ^ 170 ≤ |total| → a.settle.value = .inf (decide (total < 0)) ∧ a.settle.satur = true) := by
  have hunit : (0 : ℚ) < 2 ^ 149 := by positivity
  have hbound : (2 : ℚ) ^ 170 * 2 ^ 149 = ((2 ^ 319 : Int) : ℚ) := by rw [← pow_add, Int.cast_pow, Int.cast_ofNat]
  have hbig : (2 : Int) ^ 319 ≤ a.sum ↔ 2 ^ 170 ≤ total := by
    rw [← mul_le_mul_iff_of_pos_right hunit, ← hsum, hbound, Int.cast_le]
  have hlow : a.sum ≤ -(2 : Int) ^ 319 ↔ total ≤ -2 ^ 170 := by
    rw [← mul_le_mul_iff_of_pos_right hunit, ← hsum, neg_mul, hbound, ← Int.cast_neg, Int.cast_le]
  have hsettle : |total| < 2 ^ 170 → a.settle = a := by
    intro h
    obtain ⟨h1, h2⟩ := abs_lt.1 h
    rw [Acc.settle, if_neg (by rw [hbig]; exact not_le.2 h2), if_neg (by rw [hlow]; exact not_le.2 h1)]
  have hzero : a.sum = 0 ↔ total = 0 := by
    rw [← Int.cast_eq_zero (α := ℚ), hsum, mul_eq_zero_iff_right hunit.ne']
  refine ⟨fun hne hlt => ?_, fun h0 => ?_, fun hle => ?_⟩
  · rw [hsettle hlt]
    refine ⟨?_, hs⟩
    have hval : (a.sum : ℚ) * pow2 (-149) = total := by
      rw [hsum, pow2_eq_zpow, mul_assoc, ← zpow_natCast, ← zpow_add₀ two_ne_zero]; simp
    simp [Acc.value, hnan, hp, hn, hs, hzero, hne, hval, xval]
  · rw [hsettle (by rw [h0]; simp)]
    simp [Acc.value, hnan, hp, hn, hs, hzero, h0]
  · rcases le_abs.1 hle with h | h
    · have hpos : (0 : ℚ) < total := lt_of_lt_of_le (by positivity) h
      have hlargest : ¬ ((2 : Int) ^ 319 - 1 < 0) := not_lt.2 (sub_nonneg.2 (one_le_pow₀ one_le_two))
      rw [Acc.settle, if_pos (hbig.2 h)]
      simp only [Acc.value, hnan, hp, hn, hpos.not_gt, hlargest]
      simp
    · have hpos : (0 : ℚ) < 2 ^ 170 := by positivity
      have hneg : total < 0 := by linarith
      have hleast : -(2 : Int) ^ 319 < 0 := neg_lt_zero.2 (pow_pos two_pos 319)
      rw [Acc.settle, if_neg (by rw [hbig]; linarith), if_pos (hlow.2 (by linarith))]
      simp only [Acc.value, hnan, hp, hn, hneg, hleast]
      simp

/-- An exact SUM without a NaN and with an infinity of one sign is that infinity (R249). -/
theorem exactSum_inf (m : Nat) {ins : List (Nat × XVal)} (hne : ins ≠ []) (hnan : ¬ ∃ x ∈ ins, x.2.isNan = true) (s : Bool)
    (hs : XVal.inf s ∈ ins.map Prod.snd) (hother : XVal.inf (!s) ∉ ins.map Prod.snd) :
    (foldInputs 0 true m ins).v = .inf s := by
  obtain ⟨-, hv, -⟩ := foldInputs_exactSum m hne
  obtain ⟨hsnan, hspinf, hsninf, -⟩ := Acc.settle_flags (accSum ins)
  have hnone : (accSum ins).nan = false := by
    rw [accSum_nan, ← Bool.not_eq_true, List.any_eq_true]
    exact hnan
  rw [hv]
  cases s
  · exact Acc.value_of_inf (hsnan.trans hnone) (hspinf.trans ((accSum_pinf ins).2 hs))
      (hsninf.trans (by rw [← Bool.not_eq_true, accSum_ninf]; exact hother))
  · exact Acc.value_of_inf (hsnan.trans hnone) (hsninf.trans ((accSum_ninf ins).2 hs))
      (hspinf.trans (by rw [← Bool.not_eq_true, accSum_pinf]; exact hother))

/-- It is NaN with any NaN, and with infinities of both signs (R249). -/
theorem exactSum_nan (m : Nat) {ins : List (Nat × XVal)} (hne : ins ≠ []) (h : (∃ x ∈ ins, x.2.isNan = true) ∨
    (XVal.inf false ∈ ins.map Prod.snd ∧ XVal.inf true ∈ ins.map Prod.snd)) : (foldInputs 0 true m ins).v = .nan false := by
  obtain ⟨-, hv, -⟩ := foldInputs_exactSum m hne
  obtain ⟨hsnan, hspinf, hsninf, -⟩ := Acc.settle_flags (accSum ins)
  rw [hv]
  refine Acc.value_of_nan (h.imp (fun h => ?_) (fun ⟨hp, hn⟩ => ⟨?_, ?_⟩))
  · rw [hsnan, accSum_nan, List.any_eq_true]
    exact h
  · rw [hspinf, accSum_pinf]
    exact hp
  · rw [hsninf, accSum_ninf]
    exact hn

/-- Of numbers it is their sum, and from 2^170 on an infinity (R249, R253). -/
theorem exactSum_fin (m : Nat) {ins : List (Nat × XVal)} (hne : ins ≠ [])
    (hunit : ∀ x ∈ ins, ∃ z : Int, x.2.rat = z * (2 : ℚ) ^ (-149 : Int)) (hfin : ∀ x ∈ ins, x.2.isFin = true) :
    let f := foldInputs 0 true m ins
    let total : ℚ := (ins.map (fun x => x.2.rat)).sum
    (total ≠ 0 → |total| < 2 ^ 170 → f.v = .fin total (decide (total < 0)) ∧ f.acc.satur = false) ∧
    (total = 0 → f.v = .fin 0 (decide (∀ x ∈ ins, x.2 = .fin 0 true))) ∧
    (2 ^ 170 ≤ |total| → f.v = .inf (decide (total < 0)) ∧ f.acc.satur = true) := by
  intro f total
  obtain ⟨-, hv, hacc⟩ := foldInputs_exactSum m hne
  have hinf : ∀ s, XVal.inf s ∉ ins.map Prod.snd := fun s hs => by
    obtain ⟨x, hx, hxs⟩ := List.mem_map.1 hs
    have := hfin x hx
    rw [hxs] at this
    cases this
  have hnan : (accSum ins).nan = false := by
    rw [accSum_nan, List.any_eq_false]
    intro x hx hxn
    obtain ⟨s, hs⟩ := exists_nan hxn
    have := hfin x hx
    rw [hs] at this
    cases this
  have hsum := accSum_sum hunit hfin
  have hspec := value_settle_of_fin hnan (by rw [← Bool.not_eq_true, accSum_pinf]; exact hinf false)
    (by rw [← Bool.not_eq_true, accSum_ninf]; exact hinf true) (accSum_satur ins) hsum
  have hact : decide (0 < ins.length) = true := by simpa [List.length_pos_iff] using hne
  rw [accSum_nzero, accSum_nact, hact, Bool.and_true, ← hv, ← hacc] at hspec
  exact hspec

/-- A number from -h to below h, from its residue modulo w = 2 h. -/
theorem signed_of_emod {h : Nat} {w z : Int} (hw : w = 2 * h) (hlow : -(h : Int) ≤ z) (hhigh : z < h) :
    (if h ≤ (z % w).toNat then ((z % w).toNat : Int) - w else ((z % w).toNat : Int)) = z := by
  rcases le_or_gt 0 z with hz | hz
  · rw [Int.emod_eq_of_lt hz (by omega)]
    split <;> omega
  · rw [← Int.add_emod_right, Int.emod_eq_of_lt (by omega) (by omega)]
    split <;> omega

/-- The flag word of an accumulator's record. -/
def recordFlags (a : Acc) : Nat :=
  (bit a.nan).toNat + 2 * (bit a.pinf).toNat + 4 * (bit a.ninf).toNat + 8 * (bit (a.nzero && decide (0 < a.nact))).toNat
    + 16 * (bit (decide (a.nact = 0))).toNat + 32 * (bit a.satur).toNat

/-- It gives each flag back. -/
theorem bits_recordFlags {a : Acc} (hact : 0 < a.nact) :
    let w : BitVec 32 := wordOf 32 (recordFlags a)
    bitsAt w 6 26 = 0 ∧ bitAt w 0 = a.nan ∧ bitAt w 1 = a.pinf ∧ bitAt w 2 = a.ninf ∧ bitAt w 3 = a.nzero ∧
      bitAt w 4 = false ∧ bitAt w 5 = a.satur := by
  have hone : decide (0 < a.nact) = true := decide_eq_true hact
  have hnone : decide (a.nact = 0) = false := decide_eq_false hact.ne'
  simp only [recordFlags, hone, hnone, Bool.and_true]
  generalize a.nan = nan, a.pinf = pinf, a.ninf = ninf, a.nzero = nzero, a.satur = satur
  revert nan pinf ninf nzero satur
  decide

theorem wordLE_leBytes (n : Nat) : wordLE 32 (leBytes 4 n) = wordOf 32 n := by
  rw [wordLE, leNat_leBytes]
  exact BitVec.eq_of_toNat_eq (by simp [wordOf])

/-- The 320 bits of a record hold the sum as a signed number. -/
theorem sum_of_record {z : Int} (hlow : -(2 : Int) ^ 319 ≤ z) (hhigh : z < 2 ^ 319) :
    leNat (leBytes 40 (z % 2 ^ 320).toNat) = (z % 2 ^ 320).toNat ∧
      (if 2 ^ 319 ≤ (z % 2 ^ 320).toNat then ((z % 2 ^ 320).toNat : Int) - 2 ^ 320 else ((z % 2 ^ 320).toNat : Int)) = z := by
  have hbytes : 256 ^ 40 = 2 ^ 320 := by rw [show 256 = 2 ^ 8 from rfl, ← pow_mul]
  have hbelow : (z % 2 ^ 320).toNat < 2 ^ 320 := by
    zify
    rw [Int.toNat_of_nonneg (Int.emod_nonneg _ (by positivity))]
    exact Int.emod_lt_of_pos _ (by positivity)
  have hhalf : ((2 ^ 319 : Nat) : Int) = 2 ^ 319 := Nat.cast_pow 2 319
  refine ⟨by rw [leNat_leBytes, hbytes, Nat.mod_eq_of_lt hbelow], signed_of_emod ?_ ?_ ?_⟩
  · rw [hhalf]; exact pow_succ' 2 319
  · rwa [hhalf]
  · rwa [hhalf]

/-- The three parts of a record. -/
theorem bytes_parts (a : Acc) : a.bytes.take 40 = leBytes 40 (a.sum % 2 ^ 320).toNat ∧
    (a.bytes.drop 40).take 4 = leBytes 4 (recordFlags a) ∧ a.bytes.drop 44 = leBytes 4 (satOf 32 a.nact).toNat := by
  have hparts : a.bytes = leBytes 40 (a.sum % 2 ^ 320).toNat ++ (leBytes 4 (recordFlags a) ++ leBytes 4 (satOf 32 a.nact).toNat) :=
    List.append_assoc _ _ _
  rw [hparts]
  refine ⟨List.take_left' (length_leBytes _ _), ?_, ?_⟩
  · rw [List.drop_left' (length_leBytes _ _), List.take_left' (length_leBytes _ _)]
  · rw [← List.append_assoc, List.drop_left' (by rw [List.length_append, length_leBytes, length_leBytes])]

/-- A record reads back as the accumulator it was written from (R253). -/
theorem accRead_bytes {a : Acc} (hact : 0 < a.nact) (hnact : a.nact < 2 ^ 32) (hlow : -(2 : Int) ^ 319 ≤ a.sum)
    (hhigh : a.sum < 2 ^ 319) : accRead a.bytes = some a := by
  have hcount : leNat (leBytes 4 (satOf 32 a.nact).toNat) = a.nact := by
    rw [leNat_leBytes, satOf, if_pos hnact]
    simp only [wordOf, BitVec.toNat_ofNat]
    omega
  obtain ⟨hfirst, hflags, hlast⟩ := bytes_parts a
  obtain ⟨hnat, hsum⟩ := sum_of_record hlow hhigh
  obtain ⟨hreserved, hnan, hpinf, hninf, hnzero, hempty, hsatur⟩ := bits_recordFlags hact
  rw [accRead, hfirst, hflags, hlast, wordLE_leBytes, hnat, hcount, hreserved, hnan, hpinf, hninf, hnzero, hempty, hsatur, hsum]
  rfl

theorem Acc.settle_eq_self {a : Acc} (h : a.settle.satur = false) : a.settle = a := by
  unfold Acc.settle at h ⊢
  split at h
  · cases h
  · split at h
    · cases h
    · rw [if_neg ‹_›, if_neg ‹_›]

theorem acc_foldInputs (m : Nat) {l : List (Nat × XVal)} (h : (foldInputs 0 true m l).acc.satur = false) :
    (foldInputs 0 true m l).acc = accSum l := by
  by_cases hl : l = []
  · subst hl; rfl
  · obtain ⟨-, -, hacc⟩ := foldInputs_exactSum m hl
    rw [hacc] at h ⊢
    exact Acc.settle_eq_self h

theorem foldl_add_accSum (a : Acc) (parts : List (List (Nat × XVal))) :
    (parts.map accSum).foldl Acc.add a = a.add (accSum parts.flatten) := by
  induction parts generalizing a with
  | nil => exact a.add_empty.symm
  | cons l parts ih => rw [List.map_cons, List.foldl_cons, ih, List.flatten_cons, accSum_append, Acc.add_assoc]

/-- Records that did not saturate fold to the value of all their inputs together (R253). -/
theorem foldRecords_exactSum (m : Nat) (parts : List (List (Nat × XVal)))
    (h : ∀ l ∈ parts, (foldInputs 0 true m l).acc.satur = false) :
    (foldRecords (parts.map (fun l => (foldInputs 0 true m l).acc))).v = (foldInputs 0 true m parts.flatten).v := by
  rw [List.map_congr_left (fun l hl => acc_foldInputs m (h l hl))]
  obtain ⟨-, -, -, -, hnact⟩ := Acc.settle_flags (accSum parts.flatten)
  rw [accSum_nact] at hnact
  simp only [foldRecords, foldl_add_accSum, Acc.empty_add, hnact, List.length_eq_zero_iff]
  by_cases hnil : parts.flatten = []
  · rw [if_pos hnil, hnil]
    rfl
  · rw [if_neg hnil, (foldInputs_exactSum m hnil).2.1]

/-! ### The extremes (R248) -/

/-- The order has no gap: what is not below b, b not being below c, is not below c. -/
theorem ordLt_of_not {a b c : XVal} (hb : b.isNan = false) (hab : ordLt a b = false) (hbc : ordLt b c = false) :
    ordLt a c = false := by
  cases b with
  | nan s => simp [XVal.isNan] at hb
  | inf t =>
    cases a <;> cases c <;> simp_all [ordLt]
  | fin q t =>
    cases a <;> cases c <;> simp_all [ordLt]
    case fin.fin.fin p s r u =>
      refine ⟨hbc.1.trans hab.1, fun hpr hs => ?_⟩
      have hpq : p = q := le_antisymm (hpr ▸ hbc.1) hab.1
      exact hbc.2 (hpq ▸ hpr) (hab.2 hpq hs)

/-- What `bestOf` asks of an order. -/
structure TotalOrder (lt : XVal → XVal → Bool) : Prop where
  irrefl : ∀ a, lt a a = false
  asymm : ∀ {a b}, lt a b = true → lt b a = false
  of_not : ∀ {a b c : XVal}, b.isNan = false → lt a b = false → lt b c = false → lt a c = false

theorem totalOrder_ordLt : TotalOrder ordLt := ⟨ordLt_irrefl, ordLt_asymm, ordLt_of_not⟩

theorem TotalOrder.swap {lt : XVal → XVal → Bool} (h : TotalOrder lt) : TotalOrder (fun x y => lt y x) :=
  ⟨h.irrefl, h.asymm, fun hb hab hbc => h.of_not hb hbc hab⟩

/-- Of the inputs seen, the first in index order among the best; none where all are NaN. -/
def IsBest (lt : XVal → XVal → Bool) (seen : List (Nat × XVal)) : Option (Nat × XVal) → Prop
  | none => ∀ y ∈ seen, y.2.isNan = true
  | some x => x ∈ seen ∧ x.2.isNan = false ∧
      ∀ y ∈ seen, y.2.isNan = false → lt x.2 y.2 = false ∧ (lt y.2 x.2 = false → x.1 ≤ y.1)

/-- One more input keeps the best one or takes its place. -/
theorem IsBest.snoc {lt : XVal → XVal → Bool} (hlt : TotalOrder lt) {seen : List (Nat × XVal)} {x y : Nat × XVal}
    (h : IsBest lt seen (some y)) (hx : x.2.isNan = false) :
    IsBest lt (seen ++ [x]) (if lt y.2 x.2 || (!lt x.2 y.2 && decide (x.1 < y.1)) then some x else some y) := by
  obtain ⟨hmem, hy, hbest⟩ := h
  split
  · next htake =>
    have hxy : lt x.2 y.2 = false := by
      cases hyx : lt y.2 x.2 with
      | true => exact hlt.asymm hyx
      | false => simp_all
    refine ⟨by simp, hx, fun z hz hzn => ?_⟩
    rcases List.mem_append.1 hz with hz | hz
    · obtain ⟨hyz, hfirst⟩ := hbest z hz hzn
      refine ⟨hlt.of_not hy hxy hyz, fun hzx => ?_⟩
      have hyx : lt y.2 x.2 = false := hlt.of_not hzn hyz hzx
      have hindex : x.1 < y.1 := by simpa [hyx, hxy] using htake
      exact hindex.le.trans (hfirst (hlt.of_not hx hzx hxy))
    · obtain rfl : z = x := by simpa using hz
      exact ⟨hlt.irrefl _, fun _ => le_rfl⟩
  · next hkeep =>
    have hyx : lt y.2 x.2 = false := by simp_all
    refine ⟨by simp [hmem], hy, fun z hz hzn => ?_⟩
    rcases List.mem_append.1 hz with hz | hz
    · exact hbest z hz hzn
    · obtain rfl : z = x := by simpa using hz
      exact ⟨hyx, fun hxy => by simpa [hyx, hxy] using hkeep⟩

section
variable (lt : XVal → XVal → Bool) {x : Nat × XVal} (xs : List (Nat × XVal))

theorem bestOf_nan (h : x.2.isNan = true) (b : Option (Nat × XVal)) : bestOf lt (x :: xs) b = bestOf lt xs b := by
  cases b <;> simp [bestOf, h]

theorem bestOf_first (h : x.2.isNan = false) : bestOf lt (x :: xs) none = bestOf lt xs (some x) := by simp [bestOf, h]

theorem bestOf_next (h : x.2.isNan = false) (y : Nat × XVal) : bestOf lt (x :: xs) (some y) =
    bestOf lt xs (if lt y.2 x.2 || (!lt x.2 y.2 && decide (x.1 < y.1)) then some x else some y) := by
  simp only [bestOf, h, Bool.false_eq_true, if_false]

end

theorem isBest_bestOf {lt : XVal → XVal → Bool} (hlt : TotalOrder lt) {seen : List (Nat × XVal)} {b : Option (Nat × XVal)}
    (h : IsBest lt seen b) (ins : List (Nat × XVal)) : IsBest lt (seen ++ ins) (bestOf lt ins b) := by
  induction ins generalizing seen b with
  | nil => simpa [bestOf] using h
  | cons x xs ih =>
    have hmem : ∀ {y}, y ∈ seen ++ [x] → y ∈ seen ∨ y = x := by simp
    rw [List.append_cons]
    cases hx : x.2.isNan with
    | true =>
      rw [bestOf_nan lt xs hx]
      refine ih ?_
      cases b with
      | none => exact fun y hy => (hmem hy).elim (h y) (fun hyx => hyx ▸ hx)
      | some y =>
        obtain ⟨hy, hyn, hbest⟩ := h
        refine ⟨by simp [hy], hyn, fun z hz hzn => (hmem hz).elim (fun hz => hbest z hz hzn) (fun hzx => ?_)⟩
        rw [hzx, hx] at hzn
        cases hzn
    | false =>
      cases b with
      | none =>
        rw [bestOf_first lt xs hx]
        refine ih ⟨by simp, hx, fun z hz hzn => (hmem hz).elim (fun hz => ?_) (fun hzx => ?_)⟩
        · rw [h z hz] at hzn
          cases hzn
        · subst hzx
          exact ⟨hlt.irrefl _, fun _ => le_rfl⟩
      | some y =>
        rw [bestOf_next lt xs hx]
        exact ih (h.snoc hlt hx)

theorem isBest_all {lt : XVal → XVal → Bool} (hlt : TotalOrder lt) (ins : List (Nat × XVal)) :
    IsBest lt ins (bestOf lt ins none) := isBest_bestOf hlt (seen := []) (fun y hy => by simp at hy) ins

/-- With no NaN among the inputs, the best of them. -/
theorem exists_bestOf {lt : XVal → XVal → Bool} (hlt : TotalOrder lt) {ins : List (Nat × XVal)}
    (h : ∃ x ∈ ins, x.2.isNan = false) : ∃ x ∈ ins, bestOf lt ins none = some x ∧ x.2.isNan = false ∧
      ∀ y ∈ ins, y.2.isNan = false → lt x.2 y.2 = false ∧ (lt y.2 x.2 = false → x.1 ≤ y.1) := by
  have hbest := isBest_all hlt ins
  cases hb : bestOf lt ins none with
  | none =>
    obtain ⟨x, hx, hxn⟩ := h
    rw [hb] at hbest
    simp [hbest x hx] at hxn
  | some x =>
    rw [hb] at hbest
    obtain ⟨hmem, hrest⟩ := hbest
    exact ⟨x, hmem, rfl, hrest⟩

/-- Best of inputs none of which is a NaN: one of them that no other beats. -/
theorem getD_bestOf {lt : XVal → XVal → Bool} (hlt : TotalOrder lt) {ins : List (Nat × XVal)} (hne : ins ≠ [])
    (h : ∀ x ∈ ins, x.2.isNan = false) (d : XVal) : ((bestOf lt ins none).map Prod.snd).getD d ∈ ins.map Prod.snd ∧
      ∀ x ∈ ins, lt (((bestOf lt ins none).map Prod.snd).getD d) x.2 = false := by
  obtain ⟨x, hx⟩ := List.exists_mem_of_ne_nil ins hne
  obtain ⟨y, hy, heq, -, hbest⟩ := exists_bestOf hlt ⟨x, hx, h x hx⟩
  rw [heq]
  exact ⟨List.mem_map_of_mem hy, fun z hz => (hbest z hz (h z hz)).1⟩

theorem bestOf_all_nan {lt : XVal → XVal → Bool} (hlt : TotalOrder lt) {ins : List (Nat × XVal)}
    (h : ∀ x ∈ ins, x.2.isNan = true) : bestOf lt ins none = none := by
  have hbest := isBest_all hlt ins
  cases hb : bestOf lt ins none with
  | none => rfl
  | some x =>
    rw [hb] at hbest
    obtain ⟨hmem, hx, -⟩ := hbest
    rw [h x hmem] at hx
    cases hx

theorem isNan_abs (x : XVal) : x.abs.isNan = x.isNan := by cases x <;> rfl

section
variable (exact : Bool) (m : Nat) {ins : List (Nat × XVal)} (hne : ins ≠ [])
include hne

/-- An extreme with a NaN among the inputs is NaN (R248). -/
theorem extremes_of_nan (h : ∃ x ∈ ins, x.2.isNan = true) : (foldInputs 2 exact m ins).v = .nan false ∧
    (foldInputs 3 exact m ins).v = .nan false ∧ (foldInputs 4 exact m ins).v = .nan false := by
  have hany : ins.any (fun x => x.2.isNan) = true := List.any_eq_true.2 h
  simp [foldInputs, hne, hany]

theorem extremes_eq (h : ∀ x ∈ ins, x.2.isNan = false) :
    (foldInputs 2 exact m ins).v = ((bestOf ordLt ins none).map Prod.snd).getD (.inf true) ∧
    (foldInputs 3 exact m ins).v = ((bestOf (fun x y => ordLt y x) ins none).map Prod.snd).getD (.inf false) ∧
    (foldInputs 4 exact m ins).v =
      ((bestOf ordLt (ins.map (fun x => (x.1, x.2.abs))) none).map Prod.snd).getD (.fin 0 false) := by
  have hany : ins.any (fun x => x.2.isNan) = false := by simpa using h
  simp [foldInputs, hne, hany, identityVal]

/-- MAX, MIN and MAXABS are extremes of the inputs (R248). -/
theorem extremes_of_not_nan (h : ∀ x ∈ ins, x.2.isNan = false) :
    ((foldInputs 2 exact m ins).v ∈ ins.map Prod.snd ∧ ∀ x ∈ ins, ordLt (foldInputs 2 exact m ins).v x.2 = false) ∧
    ((foldInputs 3 exact m ins).v ∈ ins.map Prod.snd ∧ ∀ x ∈ ins, ordLt x.2 (foldInputs 3 exact m ins).v = false) ∧
    ((foldInputs 4 exact m ins).v ∈ ins.map (fun x => x.2.abs) ∧
      ∀ x ∈ ins, ordLt (foldInputs 4 exact m ins).v x.2.abs = false) := by
  obtain ⟨hmax, hmin, habs⟩ := extremes_eq exact m hne h
  rw [hmax, hmin, habs]
  refine ⟨getD_bestOf totalOrder_ordLt hne h _, getD_bestOf totalOrder_ordLt.swap hne h _, ?_⟩
  obtain ⟨hmem, hbest⟩ := getD_bestOf totalOrder_ordLt (ins := ins.map (fun x => (x.1, x.2.abs))) (by simpa using hne)
    (List.forall_mem_map.2 (fun x hx => (isNan_abs x.2).trans (h x hx))) (.fin 0 false)
  exact ⟨by rwa [List.map_map] at hmem, List.forall_mem_map.1 hbest⟩

theorem indices_of_nan (h : ∀ x ∈ ins, x.2.isNan = true) :
    (foldInputs 5 exact m ins).word = 0xFFFFFFFF ∧ (foldInputs 6 exact m ins).word = 0xFFFFFFFF := by
  simp [foldInputs, hne, bestOf_all_nan totalOrder_ordLt h, bestOf_all_nan totalOrder_ordLt.swap h, identityWord]

/-- ARGMAX and ARGMIN give the lowest index of an extreme (R248). -/
theorem indices_of_not_nan (h : ∃ x ∈ ins, x.2.isNan = false) :
    (∃ x ∈ ins, (foldInputs 5 exact m ins).word = wordOf 32 x.1 ∧ (foldInputs 5 exact m ins).v = x.2 ∧ x.2.isNan = false ∧
      ∀ y ∈ ins, y.2.isNan = false → ordLt x.2 y.2 = false ∧ (ordLt y.2 x.2 = false → x.1 ≤ y.1)) ∧
    (∃ x ∈ ins, (foldInputs 6 exact m ins).word = wordOf 32 x.1 ∧ (foldInputs 6 exact m ins).v = x.2 ∧ x.2.isNan = false ∧
      ∀ y ∈ ins, y.2.isNan = false → ordLt y.2 x.2 = false ∧ (ordLt x.2 y.2 = false → x.1 ≤ y.1)) := by
  obtain ⟨x, hx, hmax, hxbest⟩ := exists_bestOf totalOrder_ordLt h
  obtain ⟨y, hy, hmin, hybest⟩ := exists_bestOf totalOrder_ordLt.swap h
  exact ⟨⟨x, hx, by simp [foldInputs, hne, hmax], by simp [foldInputs, hne, hmax], hxbest⟩,
    ⟨y, hy, by simp [foldInputs, hne, hmin], by simp [foldInputs, hne, hmin], hybest⟩⟩

/-- COUNT counts the inputs that are not zero (R248). -/
theorem count_eq : (foldInputs 7 exact m ins).word =
    wordOf 32 (ins.countP (fun x => decide (x.2 ≠ .fin 0 false) && decide (x.2 ≠ .fin 0 true))) := by
  simp only [foldInputs, List.isEmpty_iff, hne, if_false, List.countP_eq_length_filter]
  congr 2
  refine List.filter_congr (fun x _ => ?_)
  obtain ⟨j, v⟩ := x
  cases v with
  | nan s => simp
  | inf s => simp
  | fin q s => cases s <;> simp

end

/-- A reduction without an input gives its identity (R248). -/
theorem foldInputs_nil (rop m : Nat) (exact : Bool) : (foldInputs rop exact m []).empty = true ∧
    (foldInputs rop exact m []).v = identityVal rop ∧ (foldInputs rop exact m []).word = identityWord rop := ⟨rfl, rfl, rfl⟩

/-! ### The pairwise order (R250) -/

/-- Two neighbours of a level: their operation, or the one beside a HOLE. -/
def foldPair (prod : Bool) : Option Part → Option Part → Option Part
  | none, y => y
  | x, none => x
  | some x, some y => some (foldOp prod x y)

theorem foldLevel_cons_cons (prod : Bool) (a b : Option Part) (l : List (Option Part)) :
    foldLevel prod (a :: b :: l) = foldPair prod a b :: foldLevel prod l := rfl

/-- A level pairs places 2 j and 2 j + 1; a last one alone goes up as it is. -/
theorem foldLevel_eq (prod : Bool) (l : List (Option Part)) : foldLevel prod l =
    (List.range ((l.length + 1) / 2)).map (fun j => foldPair prod (l[2 * j]?).join (l[2 * j + 1]?).join) := by
  induction l using List.twoStepInduction with
  | nil => rfl
  | singleton a => cases a <;> simp [foldLevel, foldPair]
  | cons_cons a b l ih =>
    have hlen : ((a :: b :: l).length + 1) / 2 = (l.length + 1) / 2 + 1 := by simp; omega
    rw [foldLevel_cons_cons, ih, hlen, List.range_succ_eq_map, List.map_cons, List.map_map]
    rfl

theorem foldTree_singleton (prod : Bool) (n : Nat) (x : Option Part) : foldTree prod n [x] = x := by
  induction n with
  | zero => rfl
  | succ n ih => exact ih

end Sys2Proof.Machine
end

section
/-!
PROOFS. REDUCE: a WHOLE reduction of plain elements takes its inputs in, writes its result and forms its summary (R248, R251, R260).
-/

namespace Sys2Proof.Machine

/-! ### Inputs taken in (R244, R248) -/

/-- A REDUCE that has taken inputs in, with what it noted and counted of them. -/
def Issued.taken (i : Issued) (l : List (Nat × XVal)) (nan inf : Bool) (c : Counts) : Issued :=
  { i with inputs := i.inputs ++ l, sawNan := nan, sawInf := inf, counts := c }

/-- The input that element e of a plain source gives. -/
def inputOf (s : State) (i : Issued) (e : Nat × Nat) : Nat × XVal := (i.len * e.1 + e.2, (sourceElem s i [] 1 e.1 e.2).v)

section
variable {s : State} {b : Nat} {i : Issued} (hop : i.op = .reduce) (hprog : bPv i.body = false)
  (hrecords : i.fromRecords = false) (hmask : i.field 5 = 0)
include hop hprog hrecords hmask

/-- Without a program and a mask the elements' own values are the inputs. -/
theorem takeInputs_eq (es : List (Nat × Nat)) (p : Nat) (acc : Issued) : ∃ nan inf c,
    takeInputs s b i [] es p acc = acc.taken (es.map (inputOf s i)) nan inf c := by
  induction es generalizing p acc with
  | nil => exact ⟨acc.sawNan, acc.sawInf, acc.counts, by simp [takeInputs, Issued.taken]⟩
  | cons e es ih =>
    have hactive : activeAt s (i.field 5) e.1 e.2 = true := by rw [hmask]; rfl
    have hout : (elemOut s b i [] p e.1 e.2).v = (sourceElem s i [] 1 e.1 e.2).v := by
      simp [elemOut, hop, hprog, Op.isShuffle]
    rw [takeInputs, hrecords, hactive]
    simp only [Bool.not_true, Bool.or_self, Bool.false_eq_true, if_false, hout]
    obtain ⟨nan, inf, c, h⟩ := ih (p + 1) _
    refine ⟨nan, inf, c, h.trans ?_⟩
    simp [Issued.taken, inputOf]

/-- Groups within the grant are taken in one after the other. -/
theorem reduceGroups_eq (gs : List (List (Nat × Nat))) (hgrant : ∀ g ∈ gs, groupDenied s i g = false) (p : Nat) (acc : Issued) :
    ∃ nan inf c, reduceGroups s b i [] gs p acc = (acc.taken (gs.flatten.map (inputOf s i)) nan inf c, false) := by
  induction gs generalizing p acc with
  | nil => exact ⟨acc.sawNan, acc.sawInf, acc.counts, by simp [reduceGroups, Issued.taken]⟩
  | cons g gs ih =>
    obtain ⟨nan, inf, c, hg⟩ := takeInputs_eq hop hprog hrecords hmask (s := s) (b := b) g p acc
    obtain ⟨nan', inf', c', hgs⟩ := ih (fun g' hg' => hgrant g' (List.mem_cons_of_mem _ hg')) (p + g.length)
      (acc.taken (g.map (inputOf s i)) nan inf c)
    refine ⟨nan', inf', c', ?_⟩
    rw [reduceGroups, hgrant g List.mem_cons_self, if_neg Bool.false_ne_true, hg, hgs]
    simp [Issued.taken]

end

/-- The lane groups of an instruction without tiles are its elements in order. -/
theorem flatten_laneGroup (i : Issued) (n : Nat) : ((List.range n).map (fun j => (i.laneGroup j).2)).flatten =
    (List.range (min i.elements (128 * n))).map i.elementAt := by
  induction n with
  | zero => simp
  | succ n ih =>
    have hsplit : min i.elements (128 * (n + 1)) =
        min i.elements (128 * n) + (min i.elements (128 * n + 128) - 128 * n) := by omega
    rw [List.range_succ, List.map_append, List.flatten_append, ih, hsplit, List.range_add, List.map_append, List.map_map]
    rcases Nat.lt_or_ge (128 * n) i.elements with h | h
    · rw [min_eq_right h.le]
      simp [Issued.laneGroup]
    · have hnone : min i.elements (128 * n + 128) - 128 * n = 0 := by omega
      simp [Issued.laneGroup, hnone]

/-! ### The end of a WHOLE reduction (R250, R251, R260) -/

/-- A WHOLE reduction of plain elements to a plain value, without program, mask and tiles, that goes on. -/
structure WholeJob (i : Issued) : Prop where
  cls : i.op = .reduce
  whole : bShape i.body = false
  programless : bPv i.body = false
  value : i.rop < 5
  source : isPlain (i.field 1) = true
  sourceElements : fFmt (i.field 1) ≠ 0
  dest : isPlain (i.field 4) = true
  destElements : fFmt (i.field 4) ≠ 0
  unmasked : i.field 5 = 0
  untiled : i.tiled = false
  space : i.space = 0
  some : 0 < i.elements
  outs : i.outs = []
  going : i.failed = none
  unstopped : i.stopAs = none

/-- Memory with the result f of a WHOLE reduction written, rounded once into the destination's format. -/
def resultMem (m : Memory) (i : Issued) (f : Folded) : Memory :=
  let bits := plainBits (fFmt (i.field 4))
  writeBytes m (addrKey (plainAddr (i.field 4) bits 0 0))
    (leBytes (bits / 8) (encodeElem (plainDesc (fFmt (i.field 4))) 0 [] (reduceRound i) f.v false).1)

section
variable {i : Issued} (job : WholeJob i)
include job

theorem WholeJob.taken (l : List (Nat × XVal)) (nan inf : Bool) (c : Counts) : WholeJob (i.taken l nan inf c) := { job with }

theorem WholeJob.len_ne : i.len ≠ 0 := by
  intro h
  have := job.some
  simp [Issued.elements, h] at this

theorem WholeJob.not_fromRecords : i.fromRecords = false := by
  simp [Issued.fromRecords, job.sourceElements]

theorem WholeJob.not_wordOp : i.wordOp = false := by
  simp [Issued.wordOp, job.value]

theorem WholeJob.dest_ne : i.field 4 ≠ 0 := by
  intro h
  have := job.dest
  rw [h] at this
  cases this

/-- The fold of the inputs is the one result. -/
theorem reduceFolds_whole (t : State) : reduceFolds t i = [(0, foldInputs i.rop i.exact i.elements i.inputs)] := by
  simp [reduceFolds, job.whole, job.not_fromRecords]

/-- The result of some input goes to the first place of the destination. -/
theorem writeFolds_whole (t : State) {f : Folded} (hfull : f.empty = false) :
    (writeFolds t i [(0, f)] (t, [])).1 = { t with mem := resultMem t.mem i f } := by
  simp [writeFolds, resultMem, job.not_wordOp, hfull, job.destElements]

theorem reduceValue_whole (f : Folded) : reduceValue i f = wordOf 64 (f32.encode (reduceRound i) false false f.v false).1 := by
  have hcount : i.rop ≠ 7 := by have := job.value; omega
  simp [reduceValue, job.whole, job.not_wordOp, hcount]

theorem reduceKind_whole : reduceKind i = 1 := by
  have hcount : i.rop ≠ 7 := by have := job.value; omega
  simp [reduceKind, job.whole, job.not_wordOp, hcount]

end

theorem foldInputs_empty (rop m : Nat) (exact : Bool) {ins : List (Nat × XVal)} (h : ins ≠ []) :
    (foldInputs rop exact m ins).empty = false := by
  have hne : ins.isEmpty = false := by simpa using h
  unfold foldInputs
  simp only [hne, Bool.false_eq_true, if_false]
  generalize foldTree (decide (rop = 1)) 22 _ = tree, bestOf ordLt ins none = most,
    bestOf (fun x y => ordLt y x) ins none = least
  split
  case h_1 | h_2 =>
    split
    · rfl
    · cases tree <;> rfl
  case h_6 => cases most <;> rfl
  case h_7 => cases least <;> rfl
  all_goals rfl

/-- What a REDUCE leaves in its instruction at its end. -/
structure Reduced (i j : Issued) (pos : Nat) (f : Folded) : Prop where
  queue : j.queue = i.queue
  slot : j.slot = i.slot
  outs : j.outs = []
  len : j.len = i.len
  pos : j.pos = pos
  unstopped : j.stopAs = none
  summary : ∃ y, j.summary = some y ∧ y.kind = 1 ∧ y.value = wordOf 64 (f32.encode (reduceRound i) false false f.v false).1

/-- A WHOLE reduction that has its inputs writes its result and forms its summary. -/
theorem reduceEnd_whole {t : State} {i : Issued} (job : WholeJob i) (hgrant : reduceDestOk t i = true) (hins : i.inputs ≠ [])
    (pos : Nat) {f : Folded} (hf : foldInputs i.rop i.exact i.elements i.inputs = f) :
    ∃ j, reduceEnd t i pos = ({ t with mem := resultMem t.mem i f }, j) ∧ Reduced i j pos f := by
  have hfull : f.empty = false := hf ▸ foldInputs_empty i.rop i.elements i.exact hins
  have hwrite := writeFolds_whole job t hfull
  have hstream := isStream_of_isPlain job.dest
  unfold reduceEnd
  simp only [job.not_fromRecords, hgrant, Bool.false_and, Bool.false_eq_true, if_false, Bool.true_or, if_true, job.going,
    Option.isSome_none, reduceFolds_whole job, hf, job.dest_ne, job.len_ne, decide_false, Bool.or_self, hstream, List.headD_cons,
    reduceKind_whole job, reduceValue_whole job, hwrite]
  generalize plainSums _ _ = sums, sumFlags _ _ _ _ _ = flags
  exact ⟨_, rfl, rfl, rfl, job.outs, rfl, rfl, job.unstopped, _, rfl, rfl, rfl⟩

/-! ### The work of a WHOLE reduction (R248, R251) -/

/-- The inputs of a WHOLE reduction of plain elements, in processing order. -/
def wholeInputs (s : State) (i : Issued) : List (Nat × XVal) := (List.range i.elements).map (fun p => inputOf s i (i.elementAt p))

theorem stepReads_untiled {i : Issued} (h : i.tiled = false) (t j : Nat) : i.stepReads t j = [] := by
  simp only [Issued.tiled, List.any_cons, List.any_nil, Bool.or_false, Bool.or_eq_false_iff] at h
  obtain ⟨h1, h2, h3, -⟩ := h
  simp [Issued.stepReads, h1, h2, h3]

section
variable {s : State} {b : Nat} {i : Issued} (job : WholeJob i)
  (hgrant : ∀ g ∈ i.laneGroups 0 i.elements, groupDenied s i g.1 = false)
include job hgrant

/-- All lane groups are taken in. -/
theorem reduceGroups_whole : ∃ nan inf c, reduceGroups s b i [] ((i.laneGroups 0 i.elements).map Prod.snd) 0 i =
    (i.taken (wholeInputs s i) nan inf c, false) := by
  have hsame : ∀ j, (i.laneGroup j).2 = (i.laneGroup j).1 := fun j => by
    rw [Issued.laneGroup, show min i.elements (128 * j + 128) - 128 * j = min 128 (i.elements - 128 * j) by omega]
  have hgroups : ∀ g ∈ (i.laneGroups 0 i.elements).map Prod.snd, groupDenied s i g = false := by
    rw [laneGroups_eq job.space] at hgrant ⊢
    simp only [List.mem_map, forall_exists_index, and_imp] at hgrant ⊢
    rintro g _ j hj rfl rfl
    rw [hsame j]
    exact hgrant _ j hj rfl
  obtain ⟨nan, inf, c, h⟩ := reduceGroups_eq job.cls job.programless job.not_fromRecords job.unmasked (b := b) _ hgroups 0 i
  refine ⟨nan, inf, c, h.trans ?_⟩
  have hall : min i.elements (128 * ceilDiv i.elements 128) = i.elements := by unfold ceilDiv; omega
  rw [laneGroups_eq job.space, List.map_map]
  have hflat := flatten_laneGroup i (ceilDiv i.elements 128)
  rw [hall] at hflat
  simp only [Function.comp_def, hflat, List.map_map, wholeInputs]

variable (hinputs : i.inputs = []) (hdest : reduceDestOk s i = true)
include hinputs hdest

/-- One progress unit takes all inputs in and ends the work. -/
theorem reduceUnit_whole {f : Folded} (hf : foldInputs i.rop i.exact i.elements (wholeInputs s i) = f) : ∃ t j,
    reduceUnit s b i = (t, j) ∧ t.mem = resultMem s.mem i f ∧ (t.unit b).issued = (s.unit b).issued ∧
      Reduced i j (max 1 (tilesOf i.len)) f := by
  obtain ⟨nan, inf, c, hgroups⟩ := reduceGroups_whole (b := b) job hgrant
  obtain ⟨hmem, hissued⟩ := passDraws_spec (b := b) (i := i) s (ceilDiv i.elements 128)
  have hgranted : reduceDestOk (passDraws s b i (ceilDiv i.elements 128)) (i.taken (wholeInputs s i) nan inf c) = true := by
    unfold passDraws
    split <;> exact hdest
  have htaken : (i.taken (wholeInputs s i) nan inf c).inputs = wholeInputs s i := by simp [Issued.taken, hinputs]
  have hsome : wholeInputs s i ≠ [] := by simpa [wholeInputs] using job.some.ne'
  have hfold : foldInputs i.rop i.exact i.elements (i.taken (wholeInputs s i) nan inf c).inputs = f := by rwa [htaken]
  obtain ⟨j, hend, hj⟩ := reduceEnd_whole (job.taken (wholeInputs s i) nan inf c) hgranted (by rwa [htaken])
    (max 1 (tilesOf i.len)) hfold
  refine ⟨{ passDraws s b i (ceilDiv i.elements 128) with
    mem := resultMem (passDraws s b i (ceilDiv i.elements 128)).mem i f }, j, ?_, ?_, hissued, { hj with }⟩
  · rw [reduceUnit, if_neg (not_not.2 job.outs), if_neg job.len_ne, job.untiled, Bool.false_and, if_neg Bool.false_ne_true]
    dsimp only
    rw [hgroups]
    exact hend
  · rw [hmem]

/-- The work done by one step, its instruction ended. -/
theorem reduceRun_whole (hpos : i.pos = 0) {f : Folded} (hf : foldInputs i.rop i.exact i.elements (wholeInputs s i) = f) :
    ∃ t j, reduceRun b 1 s i = (t, { j with finished := some j.endStatus }) ∧ t.mem = resultMem s.mem i f ∧
      (t.unit b).issued = (s.unit b).issued ∧ Reduced i j (max 1 (tilesOf i.len)) f := by
  obtain ⟨t, j, hunit, hmem, hissued, hj⟩ := reduceUnit_whole (b := b) job hgrant hinputs hdest hf
  have hopen : i.reduceDone = false := by simp [Issued.reduceDone, hpos]
  have hready : reduceWaits s i = false := by simp [reduceWaits, job.outs, stepReads_untiled job.untiled]
  have hdone : j.reduceDone = true := by simp [Issued.reduceDone, hj.outs, hj.len, hj.pos]
  refine ⟨{ t with freeCtr := t.freeCtr + 32 }, j, ?_, hmem, hissued, hj⟩
  rw [reduceRun, hopen, hready, hunit]
  simp [hdone, hj.unstopped]

end

/-- A WHOLE reduction carried out by its work command: its result stands in memory and in the summary. -/
theorem exec_reduceWhole {s : State} {b : Bib} {q : BitVec 14} {i : Issued} (h : Works s b q i) (job : WholeJob i)
    (hpos : i.pos = 0) (hinputs : i.inputs = []) (hgrant : ∀ g ∈ i.laneGroups 0 i.elements, groupDenied s i g.1 = false)
    (hdest : reduceDestOk s i = true) {f : Folded} (hf : foldInputs i.rop i.exact i.elements (wholeInputs s i) = f) :
    ∃ t j, exec (.reduce b q 1) s = .next t ∧ placed t b i = some j ∧ j.finished = some j.endStatus ∧
      t.mem = resultMem s.mem i f ∧
      ∃ y, j.summary = some y ∧ y.kind = 1 ∧ y.value = wordOf 64 (f32.encode (reduceRound i) false false f.v false).1 := by
  obtain ⟨t, j, hrun, hmem, hissued, hj⟩ := reduceRun_whole (b := b.toNat) job hgrant hinputs hdest hpos hf
  have hne : (reduceRun b.toNat 1 s i).2 ≠ i := by
    intro heq
    have hended := congrArg Issued.finished heq
    rw [hrun, unfinished_of_works h] at hended
    cases hended
  have hplaced : (placed t b i).isSome = true := by
    unfold placed
    rw [hissued]
    exact placed_of_works h
  have hexec : exec (.reduce b q 1) s = live s (workOn s b.toNat q.toNat .reduce (reduceRun b.toNat 1)) := rfl
  refine ⟨setIssued t b.toNat { j with finished := some j.endStatus }, { j with finished := some j.endStatus }, ?_,
    placed_setIssued (j := { j with finished := some j.endStatus }) hj.queue hj.slot hplaced, rfl, hmem, hj.summary⟩
  rw [hexec, live_of_running _ h.running, workOn_of_works h job.cls _ hne, hrun]

/-- The inputs as memory holds them. -/
theorem wholeInputs_eq (s : State) {i : Issued} (job : WholeJob i) : wholeInputs s i =
    (List.range i.elements).map (fun p => (p, (codeVal (plainDesc (fFmt (i.field 1))) 0 []
      (plainCode s 0 (plainAddr (i.field 1) (plainBits (fFmt (i.field 1))) (p / i.len) (p % i.len))
        (plainBits (fFmt (i.field 1))))).1)) := by
  refine List.map_congr_left (fun p _ => ?_)
  rw [elementAt_untiled job.untiled, inputOf, sourceElem_plain job.source job.space, Nat.div_add_mod]

/-- Settles O60: the folds by induction over their inputs, the instruction by its one progress unit. -/
theorem reductionsFoldAsTheirRulesSay : Obligations.ReductionsFoldAsTheirRulesSay := by
  unfold Obligations.ReductionsFoldAsTheirRulesSay
  refine ⟨?_, ?_, ?_, ?_, ?_, ?_, ?_⟩
  · intro m ins hne f has total hunit
    exact ⟨(foldInputs_exactSum m hne).1, exactSum_nan m hne, exactSum_inf m hne, exactSum_fin m hne hunit⟩
  · intro exact m ins hne
    exact ⟨extremes_of_nan exact m hne, extremes_of_not_nan exact m hne, indices_of_nan exact m hne,
      indices_of_not_nan exact m hne, count_eq exact m hne⟩
  · intro rop m exact
    obtain ⟨hempty, hv, hword⟩ := foldInputs_nil rop m exact
    refine ⟨hempty, fun hlt h5 h6 => ?_, fun h => ?_, fun h => ?_⟩
    · rw [hv]
      obtain rfl | rfl | rfl | rfl | rfl : rop = 0 ∨ rop = 1 ∨ rop = 2 ∨ rop = 3 ∨ rop = 4 := by omega
      all_goals rfl
    · rw [hword]
      rcases h with rfl | rfl <;> rfl
    · rw [hword, h]
      rfl
  · intro prod l
    exact ⟨(foldLevel_eq prod l).trans (List.map_congr_left (fun j _ => rfl)), foldTree_singleton prod, fun _ _ _ => rfl⟩
  · exact fun a => accRead_bytes
  · exact foldRecords_exactSum
  · intro s b q i h hcls hwhole hprog hvalue hsrc hsrcf hdst hdstf hmask htiled hspace hpos hsome houts hinputs hfailed hstop
      hgrant hdest
    have job : WholeJob i := ⟨hcls, hwhole, hprog, hvalue, hsrc, hsrcf, hdst, hdstf, hmask, htiled, hspace, hsome, houts, hfailed,
      hstop⟩
    exact exec_reduceWhole h job hpos hinputs hgrant hdest (by rw [wholeInputs_eq s job])

end Sys2Proof.Machine
end
